-- ==== Sys2Proof/Word.lean ====
section
/-! DEFINITION. The word types of the IS-RM2300 and their plainest arithmetic (R2, R3, R168): bytes,
32-bit registers, 64-bit words, and the two views of a list of bytes as a little-endian number. -/

namespace Sys2Proof

/-- One byte. -/
abbrev Byte := BitVec 8

/-- A 32-bit register word (R23, R184). -/
abbrev Word := BitVec 32

/-- A 64-bit word: an instruction word, a register pair, an address (R66, R184). -/
abbrev DWord := BitVec 64

/-- The number a list of bytes stands for, least significant byte first (R2). -/
def leNat : List Byte → Nat
  | [] => 0
  | b :: bs => b.toNat + 256 * leNat bs

/-- The `n` low bytes of a number, least significant byte first (R2). -/
def leBytes : Nat → Nat → List Byte
  | 0, _ => []
  | n + 1, v => BitVec.ofNat 8 v :: leBytes n (v / 256)

/-- The 64-bit word of a register pair, low word first (R184). -/
def joinPair (lo hi : Word) : DWord := hi ++ lo

/-- Bit `i` of a natural number. -/
def natBit (v i : Nat) : Bool := v / 2 ^ i % 2 == 1

/-- Bits `[hi:lo]` of a natural number, both ends included (R2). -/
def natBits (v hi lo : Nat) : Nat := v / 2 ^ lo % 2 ^ (hi + 1 - lo)

/-- The signed value of the low `n` bits of a natural number. -/
def natSigned (n v : Nat) : Int :=
  let r := v % 2 ^ n
  if 2 * r < 2 ^ n then (r : Int) else (r : Int) - (2 : Int) ^ n

/-- The low `n` bits of an integer, as a natural number. -/
def intLow (n : Nat) (v : Int) : Nat := (v % (2 : Int) ^ n).toNat

/-- Rounds `n` up to a multiple of `k`. -/
def roundUp (n k : Nat) : Nat := (n + k - 1) / k * k

end Sys2Proof
end

