-- ==== Sys2Proof/Syntax.lean ====
section
/-! DEFINITION. The syntax of the IS-RM2300: operand types, and `Instr`, one constructor for each row
of spec/opcode_table.json (179 core instructions of R192, 27 port-program instructions of R341 and 87
events). An event's operands are what the spec leaves to the outside or to timing. -/

namespace Sys2Proof

/-! ## Operand types of the core instructions -/

/-- The guard field pair GP, GN of every instruction word (R179). -/
structure Guard where
  p   : BitVec 3
  neg : Bool
  deriving DecidableEq, Repr

/-- A 7-bit register field: g0 to g111 are 0 to 111, h0 to h15 are 112 to 127 (R184). -/
abbrev Reg := BitVec 7

/-- The operand types of M[21:18] (R189). Codes 6, 14 and 15 are reserved. -/
inductive ElemTy where
  | i32 | n32 | i64 | n64 | f32 | bf16 | bf16x2 | i8x4 | n8x4 | i16x2 | n16x2 | f8e4x4 | f8e5x4
  deriving DecidableEq, Repr

/-- The rounding modes of M[17:16] (R98). -/
inductive Rnd where
  | rne | rtz | rdn | rup
  deriving DecidableEq, Repr

/-- The scopes of R117. -/
inductive Scope where
  | blk | core | die | pkg | sys
  deriving DecidableEq, Repr

/-- The values of the SPACE field (R190). -/
inductive Space where
  | glob | w | a | c | stack | win
  deriving DecidableEq, Repr

/-- The values of the SIZE field (R190). -/
inductive Size where
  | b8 | b16 | b32 | b64 | b128
  deriving DecidableEq, Repr

/-- The fields of a format R word of classes 0x0 to 0x2 (R180, R189): the type, the rounding, the
saturation bit IMM16[15], the registers, and IMM16[14:0]. A field that a row does not use is 0. -/
structure Alu where
  ty  : ElemTy
  rnd : Rnd
  sat : Bool
  d   : Reg
  a   : Reg
  b   : Reg
  c   : Reg
  imm : BitVec 15
  deriving DecidableEq, Repr

/-- The fields of a format I word (R180). -/
structure Imm where
  d   : Reg
  a   : Reg
  m4  : BitVec 4
  imm : BitVec 32
  deriving DecidableEq, Repr

/-- The operands of the predicate operations (R210): three predicate fields and the negation bit. -/
structure PredOps where
  d   : BitVec 3
  a   : BitVec 3
  b   : BitVec 3
  neg : Bool
  deriving DecidableEq, Repr

/-- One selector of `mbr` (R181): a predicate and its negation. -/
structure Sel where
  p   : BitVec 3
  neg : Bool
  deriving DecidableEq, Repr

/-- The four selectors and the four target offsets of `mbr` (R181). -/
structure MbrOps where
  s0 : Sel
  s1 : Sel
  s2 : Sel
  s3 : Sel
  o0 : BitVec 16
  o1 : BitVec 16
  o2 : BitVec 16
  o3 : BitVec 16
  deriving DecidableEq, Repr

/-- The source lane of `shfl.idx` (R237): a register or a constant lane. -/
inductive LaneSrc where
  | reg  (r : Reg)
  | lane (l : BitVec 5)
  deriving DecidableEq, Repr

/-- The fields of a shuffle or quad exchange (R237). -/
structure Shfl where
  d : Reg
  a : Reg
  b : Reg
  q : BitVec 3
  deriving DecidableEq, Repr

/-- The fields of a lane reduction or scan (R237). -/
structure LaneRed where
  ty  : ElemTy
  rnd : Rnd
  d   : Reg
  a   : Reg
  b   : Reg
  deriving DecidableEq, Repr

/-- The fields of a format M word (R180, R190). `d` is the result or the data. -/
structure Mem where
  space : Space
  size  : Size
  d     : Reg
  a     : Reg
  b     : Reg
  ack   : Bool
  nt    : Bool
  scope : Scope
  sx    : Bool
  imm   : BitVec 16
  deriving DecidableEq, Repr

/-- The completion fields of class 0x9 (R277), with the handle field D. -/
structure Compl where
  d     : Reg
  scope : Scope
  ben   : Bool
  bar   : BitVec 4
  fen   : Bool
  flag  : BitVec 3
  deriving DecidableEq, Repr

/-- The element formats a chain reads and writes (R288). -/
inductive ChainFmt where
  | f32 | bf16 | f8e4 | f8e5
  deriving DecidableEq, Repr

/-- The fields of `chain` (R288): completion, the source, destination and count registers, which side
is a tile, the formats, and the two words of links (R182). -/
structure ChainOps where
  compl   : Compl
  a       : Reg
  b       : Reg
  c       : Reg
  srcTile : Bool
  dstTile : Bool
  sf      : ChainFmt
  df      : ChainFmt
  w2      : DWord
  w3      : DWord
  deriving DecidableEq, Repr

/-- The kind of product `mma.coop` computes (R295). -/
inductive CoopKind where
  | mma | bs | np
  deriving DecidableEq, Repr

/-! ## Operand types of the events -/

/-- A thread of a block: a vector thread by its index, or the control thread (R38, R319). -/
inductive Who where
  | vec (tid : Nat)
  | ctl
  deriving DecidableEq, Repr

/-- What the background activity of the stack cache does with a line (R90). -/
inductive SpillMode where
  | spillDrop   -- write the line back and drop it
  | spillKeep   -- write the line back and keep a copy
  | fill        -- take a copy of the line
  deriving DecidableEq, Repr

/-- The header of R328 with its data. Every field has the header's width; reserved bits are carried
in `resv` so that the check of R329 can be made. -/
structure Packet where
  type  : BitVec 4
  ver   : BitVec 4
  last  : Bool
  bf    : Bool
  wrd   : Bool
  coll  : BitVec 16
  dctx  : BitVec 6
  chunk : Word
  srank : BitVec 20
  spkg  : BitVec 20
  slot  : BitVec 12
  round : BitVec 16
  heat  : BitVec 48
  resv  : Bool          -- some reserved bit of the header is set
  data  : List Byte
  deriving DecidableEq, Repr

/-- What a deferred write does to its unit (R154, R157, R163): a store or a reduce operation, with the rule it carries. -/
inductive DKind where
  | store (rule : BitVec 4)
  | redAdd (rule : BitVec 4) | redMin (rule : BitVec 4) | redMax (rule : BitVec 4) | redOr (rule : BitVec 4)
  deriving DecidableEq, Repr

/-- A deferred write on its way (R153, R158, R432). `win` is the source's window handle, 0xFFFF for a
local deferred write, which names no window: `direct` tells it from one through window 0xFFFF. `sctx` is the source
context, which its own package alone knows. -/
structure DWrite where
  spkg : BitVec 20
  sctx : Option (BitVec 6)
  direct : Bool
  seq  : Word
  heat : BitVec 48
  win  : BitVec 16
  dctx : BitVec 6
  key  : Word
  addr : Nat
  kind : DKind
  data : List Byte
  deriving DecidableEq, Repr

/-- A snapshot read request (R159). `req` names the waiting load at the source. -/
structure SnapReq where
  spkg : BitVec 20
  req  : Nat
  dctx : BitVec 6
  key  : Word
  addr : Nat
  size : Nat
  deriving DecidableEq, Repr

/-- A snapshot read reply (R159, R164, R420): the cause, the bytes, and the largest heat stamp. -/
structure SnapRsp where
  req   : Nat
  cause : Byte
  data  : List Byte
  stamp : BitVec 48
  deriving DecidableEq, Repr

/-- One report of a heat (R404, R431): cause, reporting package, sequence, window, target address. -/
structure Report where
  cause : Byte
  pkg   : BitVec 20
  seq   : Nat
  win   : BitVec 16
  addr  : DWord
  deriving DecidableEq, Repr

/-- A window frozen or thawed (R165): one of this package's entries, or a registration that arrives
from another package. -/
inductive Freeze where
  | own (ctx : Nat) (handle : BitVec 16)
  | inbound (pkg : BitVec 20) (sctx : BitVec 6) (handle : BitVec 16) (ctx : Nat) (base limit : Nat)
  deriving DecidableEq, Repr

/-- A monitor: one of the 32 of a hearth die, or one of the 16 of the Anvil (R365). -/
inductive MonId where
  | die (d m : Nat)
  | anvil (m : Nat)
  deriving DecidableEq, Repr

/-- The device registers without a row of their own (R4, R107, R360, R361). -/
inductive DevReg where
  | frbase (n : Nat) | frlim (n : Nat) | frstr (n : Nat) | frscl (n : Nat)
  | pwrslew | stagr
  | shape (die : Nat)
  deriving DecidableEq, Repr

/-- A window-table entry (R155). -/
structure Window where
  base   : BitVec 48
  limit  : BitVec 48
  key    : Word
  stamp  : BitVec 48
  budget : BitVec 16
  peer   : BitVec 20
  pctx   : BitVec 6
  kind   : BitVec 3
  rule   : BitVec 4
  frz    : Bool
  resv   : Bool         -- some reserved bit of the entry is set
  deriving DecidableEq, Repr

/-- An overlay-table entry (R305). -/
structure OvlEntry where
  addr   : Nat
  slots  : Nat
  auto   : Bool
  shared : Bool
  resv   : Bool         -- some reserved bit of the entry is set
  digest : List Byte
  deriving DecidableEq, Repr

/-- A collective record (R331). -/
structure CollRec where
  ctype  : Nat
  opf    : Byte
  prog   : Nat
  cbar   : Byte
  nrank  : Nat
  myrank : Nat
  nbytes : Nat
  memb   : Nat
  dst    : Nat
  cdone  : Nat
  inbase : Nat
  bbytes : Nat
  root   : Nat
  resv   : Bool         -- some reserved bit of the record is set
  deriving DecidableEq, Repr

/-- The control structures whose base and size a context record holds (R10). -/
inductive CtlStruct where
  | queue (q : Nat)     -- 2^n records of 256 bytes
  | windows             -- 2^n entries of 32 bytes
  | overlays            -- 16 KiB
  | collectives         -- 64 bytes an entry
  deriving DecidableEq, Repr

/-- A runtime write to a context record or to an entry of one of its tables (R10, R155, R305, R331,
R354, R358, R398, R403, R404, R441). -/
inductive CtxField where
  | assign (fn : Option Nat)
  | qos (v : BitVec 8)
  | nq (v : BitVec 5)
  | dbaddr (v : DWord)
  | hrule (v : BitVec 4)
  | log (base : DWord) (n : BitVec 5)
  | hslots (v : BitVec 7)
  | ikey (v : Word)
  | mapWindows (va : Option DWord)       -- the window table as a program may see it (R156)
  | ptroot (v : DWord)
  | parkbase (v : DWord)
  | qstat (v : DWord)
  | wdog (v : BitVec 4)
  | ctmo (v : BitVec 4)
  | skewMs (v : Nat)
  | brken (v : Bool)
  | region (st : CtlStruct) (base : Nat) (n : Nat)
  | window (handle : BitVec 16) (w : Window)
  | overlay (id : Byte) (e : OvlEntry)
  | collective (id : BitVec 16) (r : CollRec)
  | ring (q slot : Nat) (bytes : List Byte)
  deriving DecidableEq, Repr

/-- What the power controller estimated for a die over an interval (R362): the rise its demand would
cause in the package current, in tenths of an ampere, and whether the permitted current has risen. -/
structure PowerEst where
  rise : Nat
  back : Bool
  deriving DecidableEq, Repr

/-- A request to bind a port program (R327). -/
structure BindReq where
  ctx     : Nat
  prog    : Nat
  engine  : Nat
  words   : List Word
  entries : List (Nat × Nat)     -- thread number and entry word
  slotBase : Nat
  slotN    : Nat
  ctrBase  : Nat
  ctrN     : Nat
  oqBase   : Nat
  oqN      : Nat
  deriving DecidableEq, Repr

/-- What the signed image sets at boot (R350), with the image body and its signature. -/
structure Image where
  body      : List Byte
  signature : List Byte
  pkgId     : BitVec 20
  regions   : List Nat           -- partition of the Anvil SRAM stack, in MiB: heat buffers, slots, directory, control
  ctlBase   : Nat                -- context records, page-table roots and firmware images: their part of the control region
  ctlBytes  : Nat
  nearMax   : Nat                -- in 64 KiB units, 0 to 8,192
  spillBase : Nat                -- in far memory
  spillSize : Nat
  certPkg   : BitVec 20          -- the id certificate (R353): package id, SHA3-256 digest of the key, signature
  certKey   : List Byte
  certSig   : List Byte
  certPod   : List Byte          -- the public half of the pod key that signed it
  accepted  : List (List Byte)   -- accepted firmware digests
  podKeys   : List (List Byte)   -- pod public keys of the accepted list
  deriving DecidableEq, Repr

/-- A heat domain as the runtime forms it: its members, and those of them that are suspended (R151, R437, R444; log entry
139). -/
structure DomainForm where
  members : List (BitVec 20)
  susp    : List (BitVec 20)
  deriving DecidableEq, Repr

/-- The release of a heat of a context, with the `%heat` and the suspended members of its domain (R437; log entry 139). -/
structure HeatRelease where
  ctx  : Nat
  heat : BitVec 48
  susp : List (BitVec 20)
  deriving DecidableEq, Repr

/-- The abort of a heat of a context: the members that are late, and the reports that come up the tree with it (R435; log entry
139). -/
structure HeatAbort where
  ctx     : Nat
  late    : List (BitVec 20)
  reports : List Report
  deriving DecidableEq, Repr

/-- What a peer presents in the join exchange (R351, R352). -/
structure JoinMsg where
  pkg    : BitVec 20
  digest : List Byte
  encap  : List Byte             -- ML-KEM-768 ciphertext
  nonce  : BitVec 256
  deriving DecidableEq, Repr

/-- A peer's attestation: report, its signature, the certificate (R351, R353). -/
structure AttestMsg where
  pkg     : BitVec 20
  digest  : List Byte
  config  : List Byte
  nonce   : BitVec 256
  key     : List Byte            -- identity public key that signed the report
  sig     : List Byte
  certPkg : BitVec 20
  certKey : List Byte            -- SHA3-256 digest of the certified key
  certSig : List Byte
  podKey  : List Byte
  deriving DecidableEq, Repr

/-- How a transport delivers a packet (R330, R348). -/
inductive Delivery where
  | reliableOrdered | reliableUnordered | unreliable
  deriving DecidableEq, Repr

/-- A received frame (R349): its packet number, the ciphertext and tag. -/
structure Frame where
  pn    : Nat
  bytes : List Byte
  deriving DecidableEq, Repr

/-! ## The instructions -/

/-- The steps of the part: one constructor for each row of spec/opcode_table.json. -/
inductive Instr where
  -- class 0x0 (R204 to R212)
  | add (g : Guard) (o : Alu) | sub (g : Guard) (o : Alu) | mul (g : Guard) (o : Alu)
  | mulhi (g : Guard) (o : Alu) | mad (g : Guard) (o : Alu) | madw (g : Guard) (o : Alu)
  | min (g : Guard) (o : Alu) | max (g : Guard) (o : Alu) | abs (g : Guard) (o : Alu)
  | neg (g : Guard) (o : Alu) | and (g : Guard) (o : Alu) | or (g : Guard) (o : Alu)
  | xor (g : Guard) (o : Alu) | not (g : Guard) (o : Alu) | shl (g : Guard) (o : Alu)
  | shr (g : Guard) (o : Alu) | sar (g : Guard) (o : Alu) | rol (g : Guard) (o : Alu)
  | bfx (g : Guard) (o : Alu) | bfi (g : Guard) (o : Alu) | popc (g : Guard) (o : Alu)
  | clz (g : Guard) (o : Alu) | brev (g : Guard) (o : Alu) | sel (g : Guard) (o : Alu)
  | setp (g : Guard) (o : Alu) | mov (g : Guard) (o : Alu) | lea (g : Guard) (o : Alu)
  | div (g : Guard) (o : Alu) | rem (g : Guard) (o : Alu) | sadd (g : Guard) (o : Alu)
  | ssub (g : Guard) (o : Alu)
  | addi (g : Guard) (o : Imm) | andi (g : Guard) (o : Imm) | ori (g : Guard) (o : Imm)
  | xori (g : Guard) (o : Imm) | movi (g : Guard) (o : Imm) | movhi (g : Guard) (o : Imm)
  | setpi (g : Guard) (o : Imm)
  | pand (g : Guard) (o : PredOps) | por (g : Guard) (o : PredOps) | pxor (g : Guard) (o : PredOps)
  | pnot (g : Guard) (d a : BitVec 3)
  | movs (g : Guard) (d : Reg) (n : BitVec 6) | wrs (g : Guard) (a : Reg) (n : BitVec 6)
  -- class 0x1 (R213 to R218)
  | fadd (g : Guard) (o : Alu) | fsub (g : Guard) (o : Alu) | fmul (g : Guard) (o : Alu)
  | ffma (g : Guard) (o : Alu) | fmin (g : Guard) (o : Alu) | fmax (g : Guard) (o : Alu)
  | fabs (g : Guard) (o : Alu) | fneg (g : Guard) (o : Alu) | fsetp (g : Guard) (o : Alu)
  | frcp (g : Guard) (o : Alu) | frsq (g : Guard) (o : Alu) | fsqrt (g : Guard) (o : Alu)
  | fex2 (g : Guard) (o : Alu) | flg2 (g : Guard) (o : Alu) | fsin (g : Guard) (o : Alu)
  | fcos (g : Guard) (o : Alu) | ftanh (g : Guard) (o : Alu) | fdiv (g : Guard) (o : Alu)
  | fclass (g : Guard) (o : Alu) | fround (g : Guard) (o : Alu) | fscale (g : Guard) (o : Alu)
  -- class 0x2 (R219 to R226)
  | cvt (g : Guard) (o : Alu) | pkBf16 (g : Guard) (o : Alu) | upkBf16 (g : Guard) (o : Alu)
  | pkF8 (g : Guard) (o : Alu) | upkF8 (g : Guard) (o : Alu) | npiEnc (g : Guard) (o : Alu)
  | npiDec (g : Guard) (o : Alu) | bscale (g : Guard) (o : Alu) | bquant (g : Guard) (o : Alu)
  | bdot (g : Guard) (o : Alu)
  -- class 0x3 (R227 to R236)
  | bra (g : Guard) (off : BitVec 32) | mbr (g : Guard) (o : MbrOps) | call (g : Guard) (off : BitVec 32)
  | callo (g : Guard) (ovl ent : BitVec 8) | calli (g : Guard) (a : Reg) | ret (g : Guard)
  | exit (g : Guard) | yield (g : Guard) | nop (g : Guard) | bri (g : Guard) (a : Reg)
  | brk (g : Guard) (n : BitVec 5)
  -- class 0x4 (R237 to R246)
  | voteAll (g : Guard) (d a : BitVec 3) (b : Reg) | voteAny (g : Guard) (d a : BitVec 3) (b : Reg)
  | voteBal (g : Guard) (d : Reg) (a : BitVec 3) (b : Reg)
  | shflIdx (g : Guard) (o : Shfl) (src : LaneSrc) | shflUp (g : Guard) (o : Shfl) (n : BitVec 5)
  | shflDn (g : Guard) (o : Shfl) (n : BitVec 5) | shflXor (g : Guard) (o : Shfl) (n : BitVec 5)
  | qxH (g : Guard) (o : Shfl) | qxV (g : Guard) (o : Shfl) | qxD (g : Guard) (o : Shfl)
  | lredAdd (g : Guard) (o : LaneRed) | lredMax (g : Guard) (o : LaneRed)
  | lredMin (g : Guard) (o : LaneRed) | lscanAdd (g : Guard) (o : LaneRed)
  | matchLanes (g : Guard) (d a b : Reg)
  -- classes 0x5 and 0x6 (R247 to R255)
  | ld (g : Guard) (o : Mem) | ldAcq (g : Guard) (o : Mem) | ldNc (g : Guard) (o : Mem)
  | pf (g : Guard) (o : Mem) | pop (g : Guard) (o : Mem)
  | st (g : Guard) (o : Mem) | stRel (g : Guard) (o : Mem) | push (g : Guard) (o : Mem)
  -- class 0x7 (R256 to R260)
  | atomAdd (g : Guard) (o : Mem) | atomMin (g : Guard) (o : Mem) | atomMax (g : Guard) (o : Mem)
  | atomAnd (g : Guard) (o : Mem) | atomOr (g : Guard) (o : Mem) | atomXor (g : Guard) (o : Mem)
  | atomXchg (g : Guard) (o : Mem) | atomCas (g : Guard) (o : Mem) | atomInc (g : Guard) (o : Mem)
  | redAdd (g : Guard) (o : Mem) | redMin (g : Guard) (o : Mem) | redMax (g : Guard) (o : Mem)
  | redOr (g : Guard) (o : Mem)
  | nmcas (g : Guard) (o : Mem) | nmenq (g : Guard) (o : Mem) | nmchase (g : Guard) (o : Mem)
  -- class 0x8 (R261 to R272)
  | fence (g : Guard) (scope : Scope)
  | barInit (g : Guard) (n : BitVec 4) (a : Reg) | barArr (g : Guard) (d : Reg) (n : BitVec 4)
  | barExp (g : Guard) (n : BitVec 4) (a : Reg) | barWait (g : Guard) (d : BitVec 3) (n : BitVec 4) (a : Reg)
  | waitany (g : Guard) (d a b : Reg) | barTst (g : Guard) (d c : BitVec 3) (n : BitVec 4) (a : Reg)
  | heatArr (g : Guard) (d : Reg) | heatWait (g : Guard) (d : BitVec 3) (a : Reg)
  | fwait (g : Guard) (mask : BitVec 12)
  | aalloc (g : Guard) (d : Reg) (c : BitVec 3) (a : Reg) | afree (g : Guard) (a : Reg)
  -- class 0x9 (R277 to R290)
  | cpy (g : Guard) (k : Compl) (a : Reg) | cpyRed (g : Guard) (k : Compl) (a : Reg)
  | cpyBc (g : Guard) (k : Compl) (a : Reg) | chain (g : Guard) (o : ChainOps)
  | cpyT (g : Guard) (k : Compl) (a : Reg) | cpyD (g : Guard) (k : Compl) (a : Reg) (keep : Bool)
  -- class 0xA (R291 to R304)
  | tbind (g : Guard) (a b c : Reg) (view rdy : Bool) | tgive (g : Guard) (a : Reg)
  | ttake (g : Guard) (a : Reg) | tstat (g : Guard) (d a : Reg) | tfree (g : Guard) (a : Reg)
  | mma (g : Guard) (a b c : Reg) | mmaBs (g : Guard) (a b c : Reg)
  | mmaNp (g : Guard) (a b c : Reg) (scl : Bool)
  | mmaCoop (g : Guard) (a b c : Reg) (scl : Bool) (kind : CoopKind) (p : BitVec 2) (l : BitVec 5)
  | mzero (g : Guard) (a : Reg) | mdrain (g : Guard) (a b : Reg) | csel (g : Guard) (a b : Reg)
  | mseq (g : Guard) (d : Reg) (wait : Bool)
  -- class 0xB (R274 to R276)
  | hwait (g : Guard) (mask : BitVec 16) | htest (g : Guard) (d : BitVec 3) (a : BitVec 4)
  | hcancel (g : Guard) (a : BitVec 4) | hpass (g : Guard) (d a : BitVec 4)
  | hget (g : Guard) (d : Reg) (a : BitVec 4)
  -- class 0xC (R305 to R313)
  | ovld (g : Guard) (d : BitVec 4) (a : Reg) | ovpin (g : Guard) (d : BitVec 3) (a : Reg)
  | ovunpin (g : Guard) (a : Reg) | ovevict (g : Guard) (d : BitVec 3) (a : Reg)
  | ovq (g : Guard) (d a : Reg)
  -- class 0xD (R314 to R323)
  | trap (g : Guard) (n : BitVec 5) | rdsr (g : Guard) (d : Reg) (n : BitVec 8)
  | wrsr (g : Guard) (a : Reg) (n : BitVec 8) | eret (g : Guard)
  | park (g : Guard) (d : BitVec 3) (a : Reg) | resume (g : Guard) (d : BitVec 3) (a : Reg)
  | kill (g : Guard) (d : BitVec 3) (a : Reg)
  | frsave (g : Guard) (a : Reg) | frload (g : Guard) (a : Reg) | bsave (g : Guard) (a : Reg)
  | brest (g : Guard) (a : Reg) | logpush (g : Guard) (a : Reg)
  | tlbinv (g : Guard) (a : Reg) (mode : BitVec 2)
  -- port programs (R341)
  | mcfNop | mcfMatch (d t : BitVec 4) | mcfLookup (d a w : BitVec 4) | mcfLookupM (d a b : BitVec 4)
  | mcfHold (a : BitVec 4) | mcfComb (d a b op : BitVec 4) | mcfWait (a b : BitVec 4)
  | mcfFwd (d a b : BitVec 4) (keep : Bool) | mcfRepl (d a b : BitVec 4) (keep : Bool) (n : BitVec 6)
  | mcfEmit (d a : BitVec 4) (f : Bool) | mcfBarup (a b : BitVec 4) | mcfGrant (d a b : BitVec 4)
  | mcfNack (a b : BitVec 4) | mcfCnt (d a b : BitVec 4) (set : Bool) | mcfJmp (i : BitVec 14)
  | mcfJz (a : BitVec 4) (i : BitVec 14) | mcfJnz (a : BitVec 4) (i : BitVec 14)
  | mcfSet (d : BitVec 4) (i : BitVec 18) | mcfSetHi (d : BitVec 4) (i : BitVec 14)
  | mcfAdd (d a b : BitVec 4) (i : BitVec 13) | mcfAddImm (d a : BitVec 4) (i : BitVec 13)
  | mcfLd (d a : BitVec 4) (w : BitVec 6) | mcfSt (d a : BitVec 4) (w : BitVec 6)
  | mcfOrder (a : BitVec 4) | mcfDrain (d a b : BitVec 4) | mcfLog (a : BitVec 4) (cause : BitVec 8)
  | mcfEnd
  -- events: execution
  | blockHeaderEntry (blk : Nat) (win : Option Nat) (addr : Word)
  | issueSlot (core lg : Nat) | controlCoreIssue (core : Nat)
  | rejoinHoldTimeout (blk win : Nat) (j : Word) (out : Option Word)
  | rendezvousTimeout (blk win : Nat) (pc : Word)
  | handlerEntry (blk : Nat) | runtimeResume (blk : Nat) (who : Who) | runtimeKill (blk : Nat) (who : Who)
  | blockKill (blk : Nat) (cause : Byte) | watchdogTimeout (blk : Nat) (who : Who)
  | preemptContext (ctx : Nat) | preemptionComplete (ctx : Nat) | contextResume (ctx : Nat)
  -- events: launches
  | blockRetire (blk : Nat) | doorbellWrite (ctx q : Nat) (tail : Word) | launchAccept (ctx q : Nat)
  | batchForm | resourceAdvertise (die : Nat) | blockPlace (die : Nat) | launchComplete (seq : Nat)
  | aallocStallFail (core : Nat)
  -- events: memory
  | pageWalk (ctx page : Nat) | homeSliceAccess (req : Nat) (keep : Bool)
  | directoryInvalidate (req die : Nat) | storeAck (req : Nat) | loadReturn (req : Nat)
  | replicaCommit (req : Nat) | replicaUpdate (req : Nat) | ackLostTimeout (req : Nat)
  | lineThaw (line : Nat) | replicaLockTimeout (req : Nat)
  | stackCacheSpill (blk line : Nat) (mode : SpillMode)
  -- events: engines
  | copyComplete (cmd stop : Nat) | chainComplete (cmd stop : Nat) | matrixStepComplete (core : Nat)
  | coopTimeout (blk : Nat) | nmAgentExecute (cmd : Nat) | overlayLoadComplete (core copy : Nat)
  -- events: device registers, monitors, power
  | frctlWrite (n : Nat) (v : DWord) | frctlErrClear (n : Nat) | moncfgWrite (m : MonId) (v : Word)
  | monitorClear (m : MonId) | monitorLevelSample (m : MonId) | registerWrite (r : DevReg) (v : Nat)
  | contextRecordWrite (ctx : Nat) (f : CtxField) | powerControlInterval (est : List PowerEst)
  | shapingWindowBoundary
  -- events: heats
  | dwriteSend (id : Nat) | dwriteAccept (w : DWrite) | snapshotRead (r : SnapReq)
  | snapshotResponse (r : SnapRsp) | packageArrive (ctx : Nat) | activityReport (ctx : Nat) (pkg : BitVec 20)
  | quenchArrivalReport (ctx : Nat) (pkg : BitVec 20) (torn : List (Option (BitVec 16))) (reports : List Report)
  | quenchApply (ctx : Nat) (torn : List (BitVec 20 × Option (BitVec 16)))
  | quenchDone (ctx : Nat) (pkg : BitVec 20) (reports : List Report)
  | quenchRelease (r : HeatRelease)
  | quenchSkewTimeout (a : HeatAbort)
  | readmissionRequest (ctx : Nat) (pkg : BitVec 20) | windowFreeze (f : Freeze) | windowThaw (f : Freeze)
  -- events: port engines and collectives
  | programBind (b : BindReq) | programUnbind (ctx prog : Nat) | packetReceive (p : Packet)
  | grantReceive (p : Packet) | nackReceive (p : Packet)
  | rowAck (ctx : Nat) (coll : BitVec 16) (round : BitVec 16) (rank token : Nat)
  | roundComplete (ctx : Nat) (coll : BitVec 16) | collectiveTimeout (ctx : Nat) (coll : BitVec 16)
  -- events: resets
  | packageReset (img : Image) | contextReset (ctx : Nat) | hearthDieReset (die : Nat)
  | dieRejoin (die : Nat) | dieFailTimeout (die : Nat)
  -- events: links
  | portEnable (p : Nat) | trainingComplete (p : Nat) | trainingTimeout (p : Nat)
  | joinExchange (p : Nat) (m : JoinMsg) | attestationReport (p : Nat) (m : AttestMsg)
  | linkLoss (p : Nat) | portClear (p : Nat) | frameReceive (p : Nat) (f : Frame)
  | noPathTimeout (pkg : BitVec 20) | keyRefresh (p : Nat) | keyStarved (p : Nat)
  -- events: domains and translations
  | heatDomainForm (ctx : Nat) (d : DomainForm) | tlbinvRemovalComplete (id : Nat)
  deriving DecidableEq, Repr

end Sys2Proof
end

