-- ==== Sys2Proof/Config.lean ====
section
/-! DEFINITION. The constants of the package (R8 to R25, R56, R71, R91, R324), the limits that R450 lists, the
free values the spec leaves open, and the cryptographic functions it names without stating them. A free
value is an opaque constant with no body: nothing can evaluate it, so what holds of the model holds for
every choice. -/

namespace Sys2Proof.Config

/-! ## Constants of the part -/

/-- Hearth dies (R8). -/
def dies : Nat := 8
/-- Cores of a die (R8). -/
def coresPerDie : Nat := 20
/-- Cores of the package (R17). -/
def cores : Nat := 160
/-- Resident-thread slots of a core (R24). -/
def threadSlots : Nat := 2048
/-- Resident-block slots of a core (R56). -/
def blockSlots : Nat := 16
/-- Windows a lane group holds (R25). -/
def windowsPerGroup : Nat := 16
/-- Registers of a core (R21). -/
def coreRegs : Nat := 131072
/-- Units of 4 KiB of W, and of A and of C (R21). -/
def wUnits : Nat := 512
/-- Units of 4 KiB of A (R21). -/
def aUnits : Nat := 256
/-- Units of 4 KiB of C (R21). -/
def cUnits : Nat := 256
/-- Barrier objects of a core (R21). -/
def coreBars : Nat := 32
/-- Tile entries of a core (R21). -/
def coreTiles : Nat := 256
/-- Slots of the instruction store (R91). -/
def storeSlots : Nat := 64
/-- Rejoin records of a core (R36). -/
def rejoinRecords : Nat := 256
/-- Open rendezvous instances of a window (R238). -/
def openInstances : Nat := 8
/-- Lines of 128 bytes that the near tier of a die holds: 768 MiB (R8, R21). -/
def nearLines : Nat := 768 * 8192
/-- Lines that the L1 of a core holds: 384 KiB (R21). -/
def l1Lines : Nat := 3072
/-- Lines that the stack cache of a core holds: 64 KiB (R21, R90). -/
def stackLines : Nat := 512
/-- Outstanding memory requests of a core (R71). -/
def requests : Nat := 1024
/-- Entries of a core's and of a die's translation buffer (R70). -/
def coreTlb : Nat := 256
/-- Entries of a die's shared translation buffer (R70). -/
def dieTlb : Nat := 4096
/-- Misses that a die holds waiting for walks (R70). -/
def walkQueue : Nat := 4096
/-- Matrix operations a block may have queued or running (R298). -/
def matrixOps : Nat := 4
/-- Port engines (R324). -/
def engines : Nat := 72
/-- Packets of an inbound queue (R324). -/
def inbound : Nat := 512
/-- Entries of an order queue (R324). -/
def orderQueue : Nat := 8192
/-- Bytes of the heat buffers (R9). -/
def heatBuffer : Nat := 384 * 1048576
/-- Bytes of the control region (R9). -/
def controlRegion : Nat := 24 * 1048576
/-- The regions of the Anvil SRAM stack in MiB: heat buffers, port slots, directory, control (R9). -/
def stackRegions : List Nat := [384, 72, 32, 24]
/-- Bytes of the control region that the signed image may take for its own structures (R10). -/
def imageShare : Nat := 8 * 1048576
/-- Bytes of the directory (R9). -/
def directory : Nat := 32 * 1048576
/-- Bytes of the spill area at most (R160). -/
def spillMax : Nat := 16 * 2 ^ 30
/-- Words of the program store of a port engine (R9, R324). -/
def programStore : Nat := 16384
/-- Application cores of the host complex (R8). -/
def appCores : Nat := 8
/-- Management cores of the host complex (R8). -/
def mgmtCores : Nat := 2
/-- Page-table walkers of the Anvil (R8, R70). -/
def pageWalkers : Nat := 64
/-- One past the last physical address (R68). -/
def farBytes : Nat := 2 ^ 40
/-- Contexts (R52). -/
def contexts : Nat := 64

/-! ## Time: ticks of 0.125 ns (R3) -/

/-- Ticks of a core cycle, 0.625 ns. -/
def coreTicks : Nat := 5
/-- Ticks of an Anvil cycle, 0.5 ns. -/
def anvilTicks : Nat := 4
/-- Ticks of a millisecond. -/
def msTicks : Nat := 8000000

/-- Core cycles a rejoin hold lasts (R35). -/
def holdCycles : Nat := 4096
/-- Wait count at which a candidate is aged (R45). -/
def aged : Nat := 2048
/-- Core cycles a rendezvous, or a cooperative wait, lasts (R240, R299). -/
def rendezvousCycles : Nat := 65536
/-- Anvil cycles a lost acknowledgement or lock takes to be found (R426, R428). -/
def ackCycles : Nat := 2 ^ 20
/-- Ticks of 100 ns (R362). -/
def powerTicks : Nat := 800
/-- Ticks of 250 ns (R360). -/
def staggerTicks : Nat := 2000

/-! ## Free values -/

/-- Which of the things that may move next moves, when nothing outside says (R450; DESIGN CHOICE,
log entry 2). -/
opaque choose : Nat → Nat
/-- Which of several free places is taken (R56, R57, R64, R307; DESIGN CHOICE, log entry 3). -/
opaque pick : Nat → Nat
/-- Bytes that the directory takes for the record of a line (R9; the spec gives the region's size alone). -/
opaque dirRecord : Nat
/-- A 32-bit value the spec does not state (DESIGN CHOICE, log entry 3). -/
opaque freeWord : Nat → Word

/-! ## Functions of the boot image, the identity and the links (R350 to R353, R349)

The spec names the algorithms and states none of them; each is a free function (DESIGN CHOICE, log
entry 14). -/

/-- The ML-DSA-44 public key held in ROM (R350). -/
opaque romKey : List Byte
/-- ML-DSA-44 verification: public key, message, signature (R350, R351, R353). -/
opaque sigVerifies : List Byte → List Byte → List Byte → Bool
/-- The response of this part's PUF (R350, step 2). -/
opaque pufResponse : List Byte
/-- The identity key pair, public and private, that an image body and a PUF response yield, if any (R350, step 2). -/
opaque idPair : List Byte → List Byte → Option (List Byte × List Byte)
/-- An ML-DSA-44 signature: private key, message (R351). -/
opaque sign : List Byte → List Byte → List Byte
/-- The configuration digest of an image body (R351). -/
opaque configDigest : List Byte → List Byte
/-- An ML-KEM-768 encapsulation that this package sends (R351). -/
opaque encap : Nat → List Byte
/-- Whether an ML-KEM-768 encapsulation succeeds, and the key it yields (R351). -/
opaque kemKey : List Byte → Option Nat
/-- The nonce a port presents (R351). -/
opaque nonce : Nat → BitVec 256
/-- What a frame carries under a key and a packet number, when it decrypts and authenticates (R349): how the transport
delivers it, and the transport's payload. -/
opaque frameOpen : Nat → Nat → List Byte → Option (Delivery × List Byte)
/-- The latency of the quench tree to a package, in ticks (R162, step 5; DESIGN CHOICE, log entry 14). -/
opaque treeLatency : Nat → Nat

end Sys2Proof.Config
end

