-- ==== Sys2Proof/Machine/State.lean ====
section
/-! DEFINITION. The state of the package: every piece of state the spec gives the machine, as plain data, and
the state right after a package reset (R5, R350). -/

namespace Sys2Proof.Machine

/-- A cause code (R395). -/
abbrev Cause := Byte

/-! ## Threads -/

/-- A future handle (R273). `op` names the operation in flight while the handle is pending. -/
structure Handle where
  pending : Bool
  op      : Nat
  word    : Word
  result  : DWord
  deriving DecidableEq, Repr

/-- What a tile must be before an instruction issues (R80, R298). -/
inductive TileCond where
  | writable    -- EMPTY; or READY, owner E, no engine user
  | readable    -- READY, owner E
  | drainable   -- READY, owner E, no engine user
  | bindable    -- EMPTY, or READY with owner T; no engine user
  | ready       -- READY
  | takable     -- READY with owner T; or READY, owner E, no engine user
  | operand     -- READY, owner E; or EMPTY with a view
  deriving DecidableEq, Repr

/-- What a thread waits for (R33): the thread is not eligible until it holds. -/
inductive Wait where
  | none
  | over (j : Nat)                     -- the wait at the word has ended; j is what `waitany` chose (R265 to R267)
  | header (flags : BitVec 12)         -- WAIT flags at a header (R173)
  | flags (mask : BitVec 12)           -- `fwait` (R267)
  | flagRoom (fs : List Nat)           -- a counted operation that would overflow a flag (R174)
  | handles (mask : BitVec 16)         -- a handle that is pending (R185, R275)
  | results (regs : List (Who × Nat))  -- g registers of the bundle whose load has not returned (R200)
  | bar (n : Nat) (ph : Bool)          -- `bar.wait` (R265)
  | anyOf (ga gb : Word)               -- `waitany` (R266)
  | tiles (cs : List (Nat × TileCond)) -- tile states (R80)
  | rendezvous                         -- a rendezvous the thread has arrived at (R238)
  | rdvSlot                            -- a free rendezvous instance (R238)
  | heatOver (h : Nat)                 -- `%heat` above h (R268, R269)
  | aalloc                             -- a request for accumulator space (R271)
  | ovpin (ovl : BitVec 8)             -- an overlay that is LOADING (R311)
  | overlay (ovl : BitVec 8)           -- an AUTO load (R232)
  | coop                               -- the other participants of `mma.coop` (R299)
  | matrixIdle                         -- `mseq.wait` (R303)
  | matrixRoom                         -- fewer than four matrix operations (R298)
  | tlbinv (id : Nat)                  -- a translation removal (R323)
  | walk (va : DWord) (wr rd : Bool)   -- a page-table walk for an access (R70)
  | again (entry : Bool)               -- an access that goes on as part of its issue; `entry`: its miss holds an entry
  | faulted                            -- the rest of the issue at which it faulted: its group then parks (R42, R418)
  | order (scope : Scope)              -- earlier accesses performed (R133)
  | source (upto : Nat) (scope : Scope) -- the writes that its core sent before a point performed (R134)
  | acquired                           -- an acquire that has not bound its value (R130)
  | bound                              -- loads that have not bound their values (R123)
  deriving DecidableEq, Repr

/-- A thread: a vector thread, a helper lane, or the control thread (R23, R27, R38). -/
structure Thread where
  live     : Bool                      -- neither exited nor killed
  helper   : Bool                      -- R27
  slot     : Nat                       -- resident-thread slot, or resident-block slot (R50)
  pc       : Word
  hdr      : Word                      -- header of the current basic block
  entering : Bool                      -- stands before the header at `pc`
  start    : Option (BitVec 8 × BitVec 8)  -- overlay and entry still to be found (R57, R388, R413)
  rej      : Option Word               -- rejoin point (R30)
  held     : Bool                      -- R35
  yielded  : Bool                      -- yield mark (R235)
  regs     : Vector Word 112
  preds    : Vector Bool 7             -- q0 to q6; q7 is true (R186)
  handles  : Vector Handle 16
  stklim   : DWord                     -- `%stklim` (R50)
  anyq     : BitVec 5                  -- `%anyq` (R266)
  hmode    : Bool                      -- handler mode (R314)
  hcause   : Byte                      -- `%hcause` (R315)
  hpc      : Word                      -- `%hpc`
  hpcHw    : Bool                      -- `%hpc` is hardware-set (R318)
  hrec     : DWord                     -- `%hrec`
  retHdr   : Word                      -- basic block and rejoin held at handler entry (R318)
  retRej   : Option Word
  repark   : Bool                      -- parks at its next `eret` (R320)
  parked   : Bool                      -- R42
  parkHand : Bool                      -- parked in handler mode
  keptPc   : Word                      -- the PC at which it parked (R398)
  keptCause : Byte                     -- the cause of its park
  taken    : Bool                      -- TAKEN of its park record (R398)
  recAt    : DWord                     -- where its latest park record lies, across a save and restore (R320, R402); 0: none
  wait     : Wait
  since    : Nat                       -- tick at which the wait began
  arrived  : Option Nat                -- heat whose quench it arrived at (R268)
  badStart : Option Cause              -- parks with this cause when it starts: SEXT was not read (R57)
  badRegs  : List Nat                  -- registers with an uncorrectable error (R430)
  badPreds : List Nat                  -- predicates with an uncorrectable error (R430)
  issue    : Nat                       -- the issue whose access it waits to make (R42, R250)
  restored : Bool                      -- was saved as parked: its event may be delivered again (R402)
  fences   : List (Scope × Nat)        -- each scope's latest fence, and the accesses before it (R129, R134)
  deriving DecidableEq, Repr

/-! ## Blocks -/

/-- The launch record (R48), without SEQ. -/
structure LaunchRec where
  ovl : BitVec 8
  vent : BitVec 8
  cent : BitVec 8
  hovl : BitVec 8
  gdim : Word
  bdim : Nat
  gang : Nat
  greg : Nat
  wq : Nat
  aq : Nat
  cq : Nat
  nbar : Nat
  isq : Nat
  ntile : Nat
  stk : Nat
  stkbase : DWord
  prio : Nat
  heatF : Bool
  cond : Bool
  csense : Bool
  irq : Bool
  collF : Bool
  ser : Bool
  chdl : BitVec 16
  npred : Nat
  predaddr : DWord
  succ : DWord
  nsucc : Nat
  done : DWord
  sext : DWord
  resv : Bool                          -- some reserved field is not 0
  sinit : List Word
  deriving DecidableEq, Repr

/-- A barrier object (R263). -/
structure Bar where
  err : Bool
  ph  : Bool
  exp : Nat
  arr : Nat
  tx  : Int
  deriving DecidableEq, Repr

/-- The typed buffers (R76). -/
inductive Buf where
  | w | a | c
  deriving DecidableEq, Repr

/-- The states of a tile (R79). -/
inductive TileSt where
  | empty | filling | ready | draining
  deriving DecidableEq, Repr

/-- A layout word (R86), read. -/
structure Layout where
  fmt  : Nat
  buf  : Buf
  base : Nat
  s0   : Nat
  s1   : Nat
  s2   : Nat
  perm : Nat
  deriving DecidableEq, Repr

/-- A view record (R286). -/
structure View where
  addr : DWord
  e0   : Nat
  e1   : Nat
  e2   : Nat
  gfmt : Nat
  sat  : Bool
  frs  : Bool
  frn  : Nat
  gs1  : Int
  gs2  : Int
  pstr : Nat
  deriving DecidableEq, Repr

/-- A tile entry (R79). An unbound tile is EMPTY with owner T. `users` are the engine operations that use
it. -/
structure Tile where
  bound  : Bool
  lay    : Layout
  size   : Nat                         -- bytes
  view   : Option View
  st     : TileSt
  ownerE : Bool
  users  : Nat
  epoch  : Nat                         -- counts `tfree`, which cancels engine operations (R82)
  deriving DecidableEq, Repr

/-- A candidate of the frontier: one frontier entry and one window (R30, R32, R45). -/
structure Cand where
  pri  : Nat
  hdr  : Word
  rej  : Option Word
  win  : Nat
  wcnt : Nat
  deriving DecidableEq, Repr

/-- A rejoin record (R34, R35). Masks are over the lanes of the window. -/
structure Rejoin where
  j     : Word
  out   : Option Word
  memb  : BitVec 32
  ent   : BitVec 32
  since : Nat                          -- tick of the first hold; meaningful once `ent` is not empty
  win   : Nat
  freed : Bool                         -- released by the bound of R35; kept for its outer rejoin point alone
  deriving DecidableEq, Repr

/-- A thread's arrival at a rendezvous (R238), with what it read there (R246). -/
structure Arrival where
  who   : Who
  lane  : Nat
  guard : Bool
  mask  : BitVec 32
  val   : Word
  pred  : Bool
  src   : Nat
  since : Nat
  deriving DecidableEq, Repr

/-- An open rendezvous instance (R238): its window (none for the control thread), its code address and
its instruction. -/
structure Rdv where
  win  : Option Nat
  pc   : Word
  ins  : Instr
  arrs : List Arrival
  deriving DecidableEq, Repr

/-- A waiting request of `aalloc` (R271). -/
structure AReq where
  who   : Who
  units : Nat
  d     : Reg
  c     : BitVec 3
  order : Nat
  deriving DecidableEq, Repr

/-- A line of the stack cache that belongs to a block (R90). -/
structure StkLine where
  line  : Nat                          -- virtual address / 128
  bytes : List Byte
  dirty : Bool
  used  : Nat                          -- when it was used last: the stack cache holds the most recently used lines
  bad   : List Nat                     -- its 16-byte sectors with an uncorrectable error (R430)
  deriving DecidableEq, Repr

/-- What a thread parks with: its cause, the PC at which it resumes and whether it enters a header there, the
word at the faulting position, and the record's ADDR and DETAIL (R398, R408). -/
structure Parked where
  who    : Who
  cause  : Cause
  pc     : Word
  enter  : Bool := false
  word   : DWord
  addr   : Option DWord := none
  detail : Nat := 0
  deriving DecidableEq, Repr

/-- A park event that has not been delivered (R388, R399). -/
structure ParkEvent where
  who   : Who
  cause : Cause
  hrec  : DWord
  order : Nat
  deriving DecidableEq, Repr

/-- A participant of `mma.coop` that has issued it and waits (R299). -/
structure CoopWait where
  gb    : Word
  s0    : Nat
  cfg   : Nat                          -- M and IMM16
  p     : Nat
  l     : Nat
  since : Nat
  deriving DecidableEq, Repr

/-- A resident block (R23, R57). -/
structure Block where
  id      : Nat
  ctx     : Nat
  seq     : Nat
  bid     : Nat
  core    : Nat
  bslot   : Nat
  lr      : LaunchRec
  threads : List Thread                -- vector threads and helper lanes, by index
  ctl     : Option Thread
  sregs   : Vector Word 64
  bars    : List Bar
  flags   : Vector (BitVec 16) 12
  tiles   : List Tile
  wBase   : Nat                        -- units of 4 KiB
  aBase   : Nat
  cBase   : Nat
  regions : List (Nat × Nat)           -- accumulator regions: first unit, units
  cands   : List Cand
  rejoins : List Rejoin
  falls   : List (Nat × List Nat)      -- flags of ended matrix operations, which fall after the core's earlier writes (R134)
  rdvs    : List Rdv
  areqs   : List AReq
  stack   : List StkLine
  mCause  : Byte                       -- `mseq` (R303)
  mStop   : Bool
  mWd     : Nat
  mStep   : Nat
  mFault  : Option (Cause × Nat)       -- recorded sequencer fault and its tile (R298, R425)
  hsave   : DWord                      -- `%hsave` (R315)
  parks   : List ParkEvent
  faulted : List (Nat × Parked)        -- threads that have faulted at an issue that is not over: its number, and the fault (R42)
  hovlDue : Bool                       -- the oldest event found HOVL not resident and waits for its load (R413)
  killed  : Option Cause
  aliasIn : List (Nat × Nat)           -- collectives and rounds it made an alias store in (R338)
  coop    : Option CoopWait
  launchF : Bool                       -- the restore entry is still to be taken (R63)
  barSaved : Bool                      -- its barrier objects are in memory: updates are held (R339)
  saving  : Bool                       -- a thread has taken PREEMPT: the block is saved when it ends (R62)
  deriving DecidableEq, Repr

/-! ## Cores and dies -/

/-- A context's reference to a copy of an overlay (R307, R313): whether its eviction has been requested and
is deferred (EVICTING), and whether one waits for the load to end (R311). -/
structure OvlRef where
  ctx      : Nat
  ovl      : BitVec 8
  evicting : Bool
  atEnd    : Bool
  deriving DecidableEq, Repr

/-- A copy of an overlay on a core (R306, R307, R313), LOADING or verified. -/
structure OvlCopy where
  id      : Nat
  loading : Bool
  refs    : List OvlRef
  addr    : Nat                        -- where its image was read from
  nslots  : Nat
  mask    : DWord                      -- slots of the instruction store it holds (R310)
  words   : List DWord
  digest  : List Byte
  shared  : Bool
  pins    : List ((Nat × BitVec 8) × Nat)  -- block and overlay, and the tokens held
  hints   : List (Nat × BitVec 8)      -- blocks that hold a HINT pin, and the overlay it is on (R176)
  seq     : Nat                        -- launch whose reservation it was loaded under
  order   : Nat
  loader  : Option (Nat × Who)         -- the thread whose accesses before `order` its load follows (R137)
  bad     : List Nat                   -- words of the store with an uncorrectable error (R430)
  reload  : Bool                       -- such a word has been fetched: the image is read again (R430)
  deriving DecidableEq, Repr

/-- A cached translation: context, page number (64 KiB), the leaf entry, and whether it is a 32 MiB leaf. -/
structure TlbEnt where
  ctx  : Nat
  page : Nat
  pte  : DWord
  big  : Bool
  deriving DecidableEq, Repr

/-- The matrix operations (R298). -/
inductive MatKind where
  | mma | bs | np (scl : Bool) | coop (k : CoopKind) (scl : Bool) (p l : Nat) | zero
  | drain | csel
  deriving DecidableEq, Repr

/-- A matrix operation queued or running (R298). Tiles are local indices with the epoch they had. -/
structure MatOp where
  id    : Nat
  blk   : Nat
  kind  : MatKind
  ga    : Word
  gb    : Word
  gc    : Word
  step  : Nat
  steps : Nat
  used  : List (Nat × Nat)             -- tiles it uses, and their epochs
  flags : List Nat                     -- flags it is counted on
  begun : Bool
  since : Nat                          -- tick from which its next step may start (R361)
  halts : Bool                         -- stops at its next step boundary (R304)
  group : Nat                          -- the first operation of its `mma.coop` (R299); its own name otherwise
  fail  : Option (Cause × Nat)         -- why it stops before its next step, and the tile (R425)
  logs  : List (Cause × Nat)           -- arithmetic causes met, with their element counts (R116)
  seen  : List (Cause × Nat)           -- of them, those of the output tile it is in, with the elements (R115)
  hdr   : Word
  deriving DecidableEq, Repr

/-- A core (R21). -/
structure Core where
  wmem   : List Host.Cell
  amem   : List Host.Cell
  cmem   : List Host.Cell
  copies : List OvlCopy
  seq    : List MatOp
  tlb    : List TlbEnt
  issued : Vector Nat 5                -- core cycle + 1 of the last issue of each lane group and the control core
  robin  : Nat                         -- round robin of the control core (R39)
  wbad   : List Nat                    -- bad 16-byte sectors of W, A and C (R430)
  abad   : List Nat
  cbad   : List Nat
  deriving DecidableEq, Repr

/-- Free resources of a core, as a die advertises them (R55, R56). -/
structure CoreRes where
  blocks : Nat
  nslots : Nat
  wins   : List Nat
  regs   : Nat
  wFree  : List Nat                    -- free units
  aFree  : List Nat
  cFree  : List Nat
  bars   : Nat
  tiles  : Nat
  launches : List (Nat × Nat × Nat)    -- launches held: context, seq, ISQ slots
  deriving DecidableEq, Repr

/-- A monitor (R365). -/
structure Mon where
  cfg : Word
  min : Word
  max : Word
  h   : Vector Word 16
  own : List Nat                       -- samples of the latest cycle that has any, which a clear keeps (R366)
  at_ : Nat                            -- that cycle
  sampled : Nat                        -- one more than the period in which its level was sampled last; 0: none
  deriving DecidableEq, Repr

/-- The condition of a hearth die (R359, R443). -/
inductive DieSt where
  | up | resetting (since : Nat) | failed
  deriving DecidableEq, Repr

/-- A hearth die. -/
structure Die where
  st     : DieSt
  adv    : List CoreRes
  sent   : List (Nat × Nat)            -- launch and blocks sent since the last advertisement
  queue  : List (Nat × List Nat)       -- batches: launch and blocks not yet placed
  tlb    : List TlbEnt
  shape  : Vector (BitVec 5) 16        -- SHAPEd (R361)
  level  : Nat
  next   : Nat                         -- level from the next window on
  nextAt : Nat                         -- tick at which the controller chose it: the window after it has it (R361)
  mons   : Vector Mon 32
  nearOver : List Nat                  -- ticks of NEAR-OVER fills in the last microsecond (R73, R365)
  deriving DecidableEq, Repr

/-! ## Memory -/

/-- A deferred write that has not left the package (R153, R268). A heat-bound block's write belongs to `heat`; any other
belongs to the heat in which it leaves. -/
structure Outbound where
  id    : Nat
  seq   : Nat                          -- the launch and the `%bid` of its block, which a restored block keeps (R153)
  bid   : Nat
  who   : Who
  bound : Bool
  heat  : Nat
  peer  : Nat                          -- destination package
  budget : Option Nat                  -- BUDGET of its window in bytes, as read at issue (R156); none: a local write
  w     : DWrite
  deriving DecidableEq, Repr

/-- What an access does (R248, R257, R159). -/
inductive ReqKind where
  | load (d : Reg) (size : Nat) (sx acq nc : Bool)
  | store (data : List Byte) (ack : Bool) (rel : Option Scope)
  | atomic (op : Nat) (ret : Bool) (d : Reg) (size : Nat) (v c : Nat) (ack : Bool)
  | snap (d : Reg) (size : Nat) (sx acq : Bool) (win : BitVec 16) (peer : BitVec 20) (pctx : BitVec 6) (key : Word)
  | clean (size : Nat)                 -- invalidations that an engine's write still awaits (R126)
  | own (d : Reg) (ws : List Word)     -- a load of a buffer or of the stack: what it writes to its registers
  | buf (k : Buf) (p : Nat) (data : List Byte) (rel : Bool)  -- a store to a buffer, at an offset of the core's (R249)
  | stk (pa : Nat) (data : List Byte)  -- a store to the stack
  | lock                               -- the lock of a REPLICATE line that an engine or an agent is to write (R135, R428)
  | defer (o : Outbound)               -- a deferred write on its way to the Anvil (R152)
  deriving DecidableEq, Repr

/-- How far an access has come. -/
inductive ReqSt where
  | issued
  | home (dies : List Nat) (since : Nat)   -- placed at its home; dies whose acknowledgement is awaited
  | locked (since : Nat)                   -- a REPLICATE commit that holds its lock (R135)
  | done                                   -- visible, and every acknowledgement in
  | aborted (cause : Cause) (die : Nat)    -- R426, R428
  deriving DecidableEq, Repr

/-- A memory access in flight. -/
structure Req where
  id    : Nat
  core  : Nat
  blk   : Nat
  who   : Who
  ctx   : Nat
  issue : Nat                          -- the issue it belongs to (R250)
  pc    : Word
  hdr   : Word
  word  : DWord
  va    : DWord
  pa    : Nat
  pte   : DWord
  kind  : ReqKind
  st    : ReqSt
  value : Option (List Byte)           -- what a load or an atomic has bound
  bad   : Option Cause                 -- why its value cannot be returned
  since : Nat
  returned : Bool
  nt    : Bool                         -- NT: no line of it is kept in an L1 or a remote near tier (R252)
  fences : List (Scope × Nat)          -- releases it makes: scopes, and the accesses of its source before them (R134)
  deriving DecidableEq, Repr

/-- A line in the near tier of a die: a copy of a line homed elsewhere, or one of its own far memory (R15, R16, R72). -/
structure NearCopy where
  die   : Nat
  line  : Nat
  bytes : List Byte
  deriving DecidableEq, Repr

/-- A line in the L1 of a core (R15, R72). -/
structure L1Line where
  core  : Nat
  line  : Nat
  bytes : List Byte
  deriving DecidableEq, Repr

/-- A write that the hardware makes by itself, such as a park record or a log record, while its line cannot be reached (R426,
R443). -/
structure Posted where
  id    : Nat
  ctx   : Nat
  pa    : Nat
  bytes : List Byte
  deriving DecidableEq, Repr

/-- A line frozen by a lost acknowledgement (R426). -/
structure Frozen where
  line : Nat
  die  : Nat
  deriving DecidableEq, Repr

/-! ## Engines -/

/-- An element place of a copy: an address, or a tile (R280). -/
inductive Side where
  | addr (a : DWord) (strides : List Int) (pstr : Nat)
  | phys (a : DWord) (strides : List Int)      -- a scale region (R286)
  | tile (i epoch : Nat)
  deriving DecidableEq, Repr

/-- The engine commands (R137). -/
inductive CmdKind where
  | copy (src dst : Side) (ext : List Nat) (sfmt dfmt rop : Nat) (sat : Bool) (bc : Option (List (Nat × Nat)))
  | badCopy (cause : Cause) (bytes : Nat) (src dst : Side)  -- refused before any element moves (R285); what it was to write (R423)
  | fill (tile epoch : Nat) (auto : Bool) (df total : Nat)  -- the format and the number of the elements it is to write (R423)
  | drain (tile epoch : Nat) (keep : Bool) (df total : Nat)
  | chain (o : ChainOps) (src dst : DWord) (se de n : Nat) (ys : List Word)
  | nmcas (mask : Word) (cmp new : List Word)
  | nmenq (node : DWord)
  | nmchase (key ctl : Word)
  | ovld (ovl : BitVec 8) (copy : Option Nat) (slots : Nat)
  deriving DecidableEq, Repr

/-- A write of an engine command to one word of global memory: its place, the bits of the word that stay, and the bits it
puts there. -/
structure EngPart where
  va   : DWord
  pte  : DWord
  pa   : Nat
  size : Nat
  keep : Nat
  val  : Nat
  deriving DecidableEq, Repr

/-- How far an engine command has come. -/
structure Progress where
  n     : Nat                          -- elements done; of an `nmchase`, hops
  fail  : Option Cause                 -- the failure at which its elements end
  logs  : List (Cause × Nat)           -- arithmetic causes met, with their element counts
  pend  : List (Nat × List EngPart)    -- elements whose writes are not visible yet: they are unordered (R138)
  vals  : List Nat                     -- `cpy.bc`: the elements read
  taken : List (Nat × Nat)             -- `cpy.bc`: the blocks whose tile is being filled, and its epoch (R283)
  at_   : Option Nat                   -- `nmchase`: the pointer it has reached
  gate  : Option Nat                   -- its elements are over: the accesses of its source before its completion (R134)
  top   : Nat                          -- one past the last element whose writes have become visible (R285, R424)
  deriving DecidableEq, Repr

/-- An engine command in flight. -/
structure Cmd where
  id    : Nat
  blk   : Nat
  who   : Who
  ctx   : Nat
  core  : Nat
  kind  : CmdKind
  va    : DWord
  hdl   : Option Nat
  flags : List Nat                     -- flags that fall at completion
  bar   : Option Nat
  scope : Scope
  stop  : Bool                         -- a stop has been requested (R276)
  upto  : Nat                          -- accesses issued before it: it follows them (R137)
  tid   : Nat
  hdr   : Word
  since : Nat
  run   : Progress
  deriving DecidableEq, Repr

/-- A translation removal in progress (R323). -/
structure TlbInv where
  id   : Nat
  blk  : Nat
  who  : Who
  ctx  : Nat
  mode : Nat
  va   : DWord
  deriving DecidableEq, Repr

/-! ## Contexts -/

/-- A launch queue (R52). Records are counted from 0; slot = count mod 2^n. -/
structure Queue where
  base : Nat
  n    : Nat
  ring : List (Nat × List Byte)
  tail : Nat
  acc  : Nat                           -- records accepted
  spent : List (Nat × Nat)             -- slots whose record was accepted and not written since, with its count
  deriving DecidableEq, Repr

/-- The pre-emption of a context (R62), or its reset while its blocks end (R359). -/
inductive Preempt where
  | running | stopping | stopped | resetting
  deriving DecidableEq, Repr

/-- A block that pre-emption saved (R62, R63, R339). -/
structure Saved where
  seq     : Nat
  bid     : Nat
  hsave   : DWord
  records : List (Who × DWord)         -- where the park records of its threads lie (R402)
  aliasIn : List (Nat × Nat)
  deriving DecidableEq, Repr

/-- A range that a frozen window of a package's context registers (R165); one that is thawed stays until the next heat. -/
structure FrozenRange where
  pkg    : BitVec 20
  sctx   : BitVec 6
  handle : BitVec 16
  base   : Nat
  limit  : Nat
  thawed : Bool
  deriving DecidableEq, Repr

/-- A context record (R354, R358, R10) with the counts and marks the hardware keeps beside it. -/
structure Context where
  fn      : Option Nat
  qos     : BitVec 8
  nq      : Nat
  dbaddr  : DWord
  hrule   : BitVec 4
  logbase : DWord
  logn    : Nat
  hslots  : Nat
  ikey    : Word
  ptroot  : DWord
  parkbase : DWord
  qstat   : DWord
  wdog    : Nat
  ctmo    : Nat
  brken   : Bool
  log     : Word                       -- `%log` (R116)
  logFail : Bool
  qstatFail : Bool
  parkFail : Bool
  pseq    : Nat                        -- PSEQ of the last park (R398)
  queues  : List Queue
  winBase : Nat
  winN    : Option Nat
  windows : List (Nat × Window)
  winMap  : Option DWord               -- where the runtime has mapped the window table for the program to read (R156)
  ovlBase : Option Nat
  overlays : List (Nat × OvlEntry)
  collBase : Nat
  collN   : Nat
  colls   : List (Nat × CollRec)
  vt      : Rat                        -- virtual time (R54)
  inAct   : Bool                       -- was a member of act (R54)
  pre     : Preempt
  saved   : List Saved                 -- saved blocks (R63)
  heldBars : List (Nat × Nat × Nat × Int × Bool)  -- launch, `%bid`, barrier, bytes, error (R339)
  -- heat domain (R151)
  heat    : BitVec 48
  members : List (BitVec 20)
  susp    : List (BitVec 20)
  closed  : Bool                       -- arrived: the heat is closed here (R161)
  arrivals : List (BitVec 20)          -- members whose arrival the root has seen
  actRep  : Bool                       -- activity reported for the heat
  active  : Bool                       -- something happened here since the release (R449)
  applied : Bool                       -- apply sent, or done here
  dones   : List (BitVec 20)
  tq      : Option Nat                 -- T_q
  void    : Bool
  skewMs  : Nat
  skewAt  : Option Nat                 -- start of the skew (R166)
  readmit : List (BitVec 20)
  selfSusp : Bool
  seqNo   : Nat                        -- source sequence (R153)
  budgets : List (Nat × Nat)           -- window and bytes used in the heat
  torn    : List (Nat × BitVec 20 × Option (BitVec 16))  -- heat, package, window; none for the whole package (R432)
  reports : List (Nat × Report)        -- heat and report
  portBad : Bool                       -- a port down or key-starved in the heat has been reported (R438)
  qcause  : Byte                       -- CAUSE of the latest quench (R269)
  outbound : List Outbound             -- deferred writes that have not left
  inFlight : List Outbound             -- deferred writes that have left and are not accepted or discarded
  buffer  : List DWrite                -- heat-buffer records
  stamps  : List (Nat × BitVec 48)     -- 2 MiB region and its stamp (R164)
  frozen  : List FrozenRange             -- registered ranges (R165)
  deriving DecidableEq, Repr

/-- An accepted launch (R48, R52 to R61). -/
structure Launch where
  seq    : Nat
  ctx    : Nat
  q      : Nat
  idx    : Nat                         -- record count in its queue
  addr   : Nat                         -- address of the record
  lr     : LaunchRec
  npred  : Nat
  handed : Nat                         -- blocks handed out
  back   : List Nat                    -- blocks given back by a pre-emption (R62)
  ended  : Nat                         -- blocks retired
  status : Cause                       -- status so far
  skip   : Option Cause                -- completes without blocks, with this status
  judged : Bool                        -- the predicate has been read (R60)
  gone   : Bool                        -- has left the head of its queue
  deriving DecidableEq, Repr

/-! ## Port engines and collectives -/

/-- The forms of a slot (R326). -/
inductive Form where
  | f | b | w
  deriving DecidableEq, Repr

/-- A slot of a port engine (R326). -/
structure Slot where
  full  : Bool
  form  : Form
  bytes : List Byte                    -- 256 bytes
  len   : Nat
  deriving DecidableEq, Repr

/-- A port thread (R325). -/
structure PThread where
  n      : Nat
  pc     : Nat
  entry  : Nat
  v      : Vector Word 16
  cp     : Option Packet
  stopped : Bool
  bound  : Option (Nat × Nat)          -- collective and round of the packet bound last (R341)
  half   : Bool                        -- a `wait` whose first slot has been FULL
  deriving DecidableEq, Repr

/-- An order queue entry (R324). A REQ that a drain has taken stays, to be counted, until its round is drained (R382). -/
structure OqEnt where
  pkt   : Packet
  taken : Bool
  deriving DecidableEq, Repr

/-- A value that waits for its place in the canonical tree (R336, R337). -/
structure TreeEnt where
  coll  : Nat
  round : Nat
  chunk : Nat
  rank  : Nat
  form  : Form
  bytes : List Byte
  deriving DecidableEq, Repr

/-- A row granted to a source's token in a round (R346). -/
structure RowGrant where
  coll  : Nat
  round : Nat
  rank  : Nat
  token : Nat
  row   : Nat
  deriving DecidableEq, Repr

/-- The acknowledgement of a row, as a destination returns it to the source (R346, step 5). -/
structure RowAck where
  dst   : BitVec 20
  ctx   : Nat
  coll  : Nat
  round : Nat
  rank  : Nat                          -- of the destination
  token : Nat
  deriving DecidableEq, Repr

/-- A bound program (R327). -/
structure Binding where
  ctx     : Nat
  prog    : Nat
  engine  : Nat
  words   : List Word
  threads : List PThread
  slotBase : Nat
  slots   : List Slot
  ctrBase : Nat
  ctrs    : List Word
  oqBase  : Nat
  oqs     : List (List OqEnt)
  rounds  : List (Nat × Nat)           -- current round of each collective
  tree    : List TreeEnt               -- firmware: operands of tree nodes (R336)
  fqueue  : List OqEnt                 -- firmware: REQs and EOLs of a dispatch (R346)
  fgrants : List RowGrant              -- rows granted whose acknowledgement is not sent yet (R346)
  capDue  : List (Nat × Nat)           -- collectives, and rounds, whose capacity table cannot be reached yet (R346, R443)
  deriving DecidableEq, Repr

/-- The progress of a round of a collective at this package (R335, R338, R384, R441). -/
structure Round where
  ctx     : Nat
  coll    : Nat
  round   : Nat
  begun   : Option Nat                 -- tick of the first chunk or packet
  fail    : Cause                      -- first failure recorded
  barup   : Option Cause               -- status of `barup`
  upAt    : Nat                        -- tick of the `barup`
  granted : Nat
  refused : Nat
  stamp   : BitVec 48                  -- largest HEAT received (R335)
  emits   : List (Nat × Nat)           -- addresses and lengths written
  drained : Bool                       -- firmware: the requests of the round have been answered
  ended   : Bool                       -- ended by its time limit or by a reset (R359, R441)
  deriving DecidableEq, Repr

/-- A contribution that is being collected (R333). -/
structure Contrib where
  ctx    : Nat
  coll   : Nat
  round  : Nat
  bytes  : List (Nat × Byte)           -- offset and byte
  misuse : Bool                        -- 0x0B is due: a byte stored twice, or a store at a package that is not ROOT
  launched : List Nat                  -- chunks launched; for DISPATCH, destinations whose list was sent
  stamps : List (Nat × BitVec 48)      -- heat stamps of chunks read from memory (R328)
  deriving DecidableEq, Repr

/-- An alias store that waits at its die-side engine (R333). -/
structure AliasWait where
  blk  : Option Nat                    -- none for a launch-bound contribution
  who  : Who
  upto : Nat                           -- accesses of its thread issued before it: it follows them (R137)
  core : Nat
  ctx  : Nat
  coll : Nat
  off  : Nat
  data : List Byte
  stamp : Option (BitVec 48)
  deriving DecidableEq, Repr

/-- A request of the source side of a dispatch (R345, R346). -/
structure DReq where
  ctx   : Nat
  coll  : Nat
  round : Nat
  rank  : Nat
  token : Nat
  rowa  : DWord
  nacks : DWord
  row   : Option Nat                   -- granted, its row sent and not acknowledged
  deriving DecidableEq, Repr

/-! ## Ports, links, monitors of the Anvil -/

/-- The states of an Ethernet port (R351). -/
inductive PortSt where
  | down | training (since : Nat) | joining | attesting | up | refused
  deriving DecidableEq, Repr

/-- An Ethernet port (R351, R352, R439). -/
structure Port where
  st     : PortSt
  peer   : Option (BitVec 20)
  idKey  : List Byte                   -- the peer's identity key, once attested
  digest : List Byte                   -- the peer's firmware digest
  key    : Nat                         -- secure association key
  pn     : Nat                         -- next packet number
  nonce  : BitVec 256                  -- the nonce it presented
  peerNonce : BitVec 256               -- the nonce the peer presented
  starved : Bool
  refreshing : Bool                    -- a key refresh has begun and the peer has not answered (R439)
  newKey : Option Nat                  -- installed, waiting for the first frame under it (R439)
  replays : List Nat                   -- ticks of replays in the last microsecond (R349, R365)
  deriving DecidableEq, Repr

/-- A format range (R107). -/
structure FmtRange where
  base : BitVec 25
  lim  : BitVec 25
  str  : BitVec 25
  scl  : BitVec 39
  err  : Bool
  en   : Bool
  planes : Bool
  fmt  : BitVec 5
  deriving DecidableEq, Repr

/-- Why a port was refused (R352, R353). -/
inductive Refused where
  | duplicate | digest | report | key | certificate
  deriving DecidableEq, Repr

/-- A context event on MSI-X vector 16 (R356, R400): what it names is in `info`. -/
structure CtxEvent where
  ctx   : Nat
  cause : Cause
  info  : Nat
  more  : Nat
  deriving DecidableEq, Repr

/-- A packet the package sent, with its destination (R328). -/
structure OutPkt where
  dst : BitVec 20
  pkt : Packet
  deriving DecidableEq, Repr

/-- The boot sequence (R350). -/
inductive Boot where
  | pending | recovery | done
  deriving DecidableEq, Repr

/-- What holds the issue slot: a bundle of vector threads, a control thread, or a port thread. -/
inductive Issue where
  | bundle (blk : Nat) (tids : List Nat)
  | control (blk : Nat)
  | port (binding thread : Nat)
  deriving DecidableEq, Repr

/-- What moves next: an event, a port engine, time, or a write of the host to a function's BAR0 (R354). -/
inductive Task where
  | event (i : Instr)
  | port (engine : Nat)
  | wait (ticks : Nat)
  | hostWrite (fn offset : Nat) (v : Word)
  deriving DecidableEq, Repr

/-- The state of the package. -/
structure State where
  tick    : Nat                        -- 0.125 ns since the package reset (R3)
  boot    : Boot
  cur     : Option Issue               -- the model's own: what issues next
  agenda  : List Task                  -- the model's own: what moves next
  fresh   : Nat                        -- the model's own: which free value comes next
  nextId  : Nat                        -- the model's own: names for blocks, accesses and commands
  pkg     : BitVec 20                  -- R19
  digest  : List Byte                  -- its firmware digest and configuration digest (R351)
  config  : List Byte
  idKey   : List Byte                  -- its identity key pair (R350): public, and private to the management cores
  idSecret : List Byte
  certPkg : BitVec 20                  -- its id certificate (R353)
  certKey : List Byte
  certSig : List Byte
  certPod : List Byte
  ctlBase : Nat                        -- the part of the control region that the image set (R10)
  ctlBytes : Nat
  nearMax : Nat
  spillBase : Nat                      -- the spill area (R160)
  spill   : Nat
  accepted : List (List Byte)
  podKeys : List (List Byte)
  hostLink : Bool                      -- the host link is connected (R8, R14)
  msixTab : Vector (Vector Word 68) 64 -- MSI-X tables of the functions (R354)
  msixPend : Vector (BitVec 17) 64     -- their pending bits
  mem     : List Host.Cell             -- far memory, by physical address
  bad     : List Nat                   -- bad 16-byte sectors (R430)
  near    : List NearCopy
  l1      : List L1Line                -- most recently filled first
  nearHome : List (Nat × Nat)          -- NEAR lines pinned in a near tier: die and line (R73, R74)
  reqs    : List Req
  frozenLines : List Frozen
  posted  : List Posted                -- oldest first
  cmds    : List Cmd
  invs    : List TlbInv
  cores   : Vector Core 160
  dies    : Vector Die 8
  ctxs    : Vector Context 64
  blocks  : List Block
  seq     : BitVec 48                  -- the SEQ counter (R52)
  launches : List Launch
  lastBatch : Nat                      -- tick of the last batch (R54)
  bindings : List Binding
  inq     : Vector (List Packet) 72    -- inbound queues (R324)
  robin   : Vector Nat 72              -- round robin of each engine (R325)
  rounds  : List Round
  contribs : List Contrib
  aliasWaits : List AliasWait
  dreqs   : List DReq
  ports   : Vector Port 64
  pathLost : Option Nat                -- tick at which the last port left UP (R438)
  pathTold : List (BitVec 20)          -- packages whose loss has been reported
  fr      : Vector FmtRange 32
  slew    : BitVec 7                   -- PWRSLEW (R360)
  powered : Nat                        -- one more than the interval in which the power controller moved last; 0: none
  stagB   : Bool                       -- STAGR
  delta   : BitVec 9
  groups  : BitVec 8
  amons   : Vector Mon 16              -- monitors of the Anvil
  -- outputs
  due     : List (Nat × CtxEvent)      -- events that name a park record whose write has not been made yet (R398)
  events  : List CtxEvent
  msix    : List (Nat × Nat)           -- function and vector
  outbox  : List OutPkt
  answers : List SnapRsp
  portEvents : List (Nat × Refused)
  joinOut : List (Nat × JoinMsg)       -- what this package presents on its ports (R351, R353)
  attestOut : List (Nat × AttestMsg)
  rowAcks : List RowAck                -- row acknowledgements it returns (R346)
  deriving DecidableEq, Repr

/-! ## Why a step can stop -/

/-- Faults of the model. The part itself never stops (R395): every fault of the spec parks threads, and
the step answers a next state. -/
inductive Fault where
  /-- Raised by nothing the spec describes: an access outside the 1 TiB far tier, which R66 to R69 cannot
  form. Safe: the model stops where the hardware has no such address. -/
  | noSuchAddress (pa : Nat)
  deriving DecidableEq, Repr

/-- Refusals of the model. -/
inductive Refusal where
  /-- Raised by an arm of `exec` whose instruction has no meaning yet. Safe: no claim holds of it. -/
  | notModelled (mnemonic : String)
  deriving DecidableEq, Repr

/-! ## Reset -/

/-- A handle that is complete with word 0 (R186). -/
def Handle.clear : Handle := { pending := false, op := 0, word := 0, result := 0 }

/-- A monitor at reset (R365). -/
def Mon.reset : Mon := { cfg := 0, min := 0xFFFFFFFF, max := 0, h := Vector.replicate 16 0, own := [], at_ := 0, sampled := 0 }

/-- A command that has done nothing yet. -/
def Progress.start : Progress :=
  { n := 0, fail := none, logs := [], pend := [], vals := [], taken := [], at_ := none, gate := none, top := 0 }

/-- A core at reset: no block, no overlay, no translation. -/
def Core.reset : Core :=
  { wmem := [], amem := [], cmem := [], copies := [], seq := [], tlb := [], issued := Vector.replicate 5 0,
    robin := 0, wbad := [], abad := [], cbad := [] }

/-- The reset value of the shaping table: entry L is 16 - L (R361). -/
def shapeReset : Vector (BitVec 5) 16 := #v[16, 15, 14, 13, 12, 11, 10, 9, 8, 7, 6, 5, 4, 3, 2, 1]

/-- A die at reset. -/
def Die.reset : Die :=
  { st := .up, adv := [], sent := [], queue := [], tlb := [], shape := shapeReset, level := 0, next := 0, nextAt := 0,
    mons := Vector.replicate 32 Mon.reset, nearOver := [] }

/-- A context at package reset: weight 0 (R357), `%heat` 0 in a domain of its own (R151), HRULE 0
(R154), a skew limit of 10 ms (R166). Every other field: DESIGN CHOICE, log entry 6. -/
def Context.reset (pkg : BitVec 20) : Context :=
  { fn := none, qos := 0, nq := 0, dbaddr := 0, hrule := 0, logbase := 0, logn := 4, hslots := 0, ikey := 0,
    ptroot := 0, parkbase := 0, qstat := 0, wdog := 0, ctmo := 0, brken := false, log := 0,
    logFail := false, qstatFail := false, parkFail := false, pseq := 0, queues := [], winBase := 0,
    winN := none, windows := [], winMap := none, ovlBase := none, overlays := [], collBase := 0, collN := 0, colls := [],
    vt := 0, inAct := false, pre := .running, saved := [], heldBars := [], heat := 0, members := [pkg],
    susp := [], closed := false, arrivals := [], actRep := false, active := false, applied := false,
    dones := [], tq := none, void := false, skewMs := 10, skewAt := none, readmit := [], selfSusp := false,
    seqNo := 0, budgets := [], torn := [], reports := [], portBad := false, qcause := 0, outbound := [],
    inFlight := [], buffer := [], stamps := [], frozen := [] }

/-- A port at reset: DOWN (DESIGN CHOICE, log entry 9). -/
def Port.reset : Port :=
  { st := .down, peer := none, idKey := [], digest := [], key := 0, pn := 1, nonce := 0, peerNonce := 0, starved := false,
    refreshing := false, newKey := none, replays := [] }

/-- The MSI-X table of a function at reset: every vector masked, as PCI Express has it (PRESUMED, log entry 113). -/
def msixReset : Vector Word 68 := Vector.ofFn fun i => if i.val % 4 = 3 then 1 else 0

/-- A format range at reset (R107). -/
def FmtRange.reset : FmtRange :=
  { base := 0, lim := 0, str := 0, scl := 0, err := false, en := false, planes := false, fmt := 0 }

/-- The package right after a package reset: every core stopped until the boot sequence has run (R350),
SLEW 100 (R360), the shaping tables at 16 - L (R361), the monitors clear (R365), every weight 0 (R357), the
format ranges 0 (R107). Values the spec does not give: DESIGN CHOICE, log entries 1 to 9. -/
def State.reset : State :=
  { tick := 0, boot := .pending, cur := none, agenda := [], fresh := 0, nextId := 0, pkg := 0, digest := [],
    config := [], idKey := [], idSecret := [], certPkg := 0, certKey := [], certSig := [], certPod := [], ctlBase := 0,
    ctlBytes := 0, nearMax := 0, spillBase := 0, spill := 0, accepted := [], podKeys := [], hostLink := true,
    msixTab := Vector.replicate 64 msixReset, msixPend := Vector.replicate 64 0, mem := [], bad := [], near := [], l1 := [],
    nearHome := [], reqs := [], frozenLines := [], posted := [], cmds := [], invs := [], cores := Vector.replicate 160 Core.reset,
    dies := Vector.replicate 8 Die.reset, ctxs := Vector.replicate 64 (Context.reset 0), blocks := [],
    seq := 0, launches := [], lastBatch := 0, bindings := [], inq := Vector.replicate 72 [],
    robin := Vector.replicate 72 0, rounds := [], contribs := [], aliasWaits := [], dreqs := [],
    ports := Vector.replicate 64 Port.reset, pathLost := none, pathTold := [], fr := Vector.replicate 32 FmtRange.reset, slew := 100,
    powered := 0,
    stagB := false, delta := 0, groups := 0, amons := Vector.replicate 16 Mon.reset, due := [], events := [], msix := [],
    outbox := [], answers := [], portEvents := [], joinOut := [], attestOut := [], rowAcks := [] }

end Sys2Proof.Machine
end

