-- ==== Sys2Proof/Machine/Float.lean ====
section
/-! DEFINITION. Floating-point numbers: formats (R96), values, one rounding under a mode (R97 to R100), the
arithmetic of R213 to R218 and the correctly rounded functions of R213, R214 and R290. Every operation
forms its exact value and rounds it once. -/

namespace Sys2Proof.Machine

/-! ## Formats (R96) -/

/-- The floating-point formats. -/
inductive FFmt where
  | f32 | bf16 | e4m3 | e5m2
  deriving DecidableEq, Repr

/-- Bits of the fraction. -/
def FFmt.frac : FFmt → Nat
  | .f32 => 23 | .bf16 => 7 | .e4m3 => 3 | .e5m2 => 2

/-- Bits of the format. -/
def FFmt.width : FFmt → Nat
  | .f32 => 32 | .bf16 => 16 | .e4m3 => 8 | .e5m2 => 8

/-- Exponent of the smallest normal number. -/
def FFmt.emin : FFmt → Int
  | .f32 => -126 | .bf16 => -126 | .e4m3 => -6 | .e5m2 => -14

/-- The code of the largest finite magnitude. -/
def FFmt.maxCode : FFmt → Nat
  | .f32 => 0x7F7FFFFF | .bf16 => 0x7F7F | .e4m3 => 0x7E | .e5m2 => 0x7B

/-- The code of +infinity; E4M3 has none. -/
def FFmt.infCode : FFmt → Option Nat
  | .f32 => some 0x7F800000 | .bf16 => some 0x7F80 | .e4m3 => none | .e5m2 => some 0x7C

/-- The canonical NaN (R96, R97). -/
def FFmt.nan : FFmt → Nat
  | .f32 => 0x7FC00000 | .bf16 => 0x7FC0 | .e4m3 => 0x7F | .e5m2 => 0x7E

/-- The sign bit of a code. -/
def FFmt.sign (f : FFmt) (neg : Bool) : Nat := if neg then 2 ^ (f.width - 1) else 0

/-! ## Values -/

/-- A value: NaN, an infinity, or the number m * 2^e with a sign (a zero keeps its sign). -/
inductive FVal where
  | nan
  | inf (neg : Bool)
  | num (neg : Bool) (m : Nat) (e : Int)
  deriving DecidableEq, Repr

/-- The value of a code (R96). -/
def fval (f : FFmt) (code : Nat) : FVal :=
  let neg := natBit code (f.width - 1)
  let mag := code % 2 ^ (f.width - 1)
  if f.maxCode < mag then (if f.infCode = some mag then .inf neg else .nan)
  else
    let ex := mag / 2 ^ f.frac
    let fr := mag % 2 ^ f.frac
    if ex = 0 then .num neg fr (f.emin - f.frac)
    else .num neg (2 ^ f.frac + fr) (f.emin - f.frac + (ex - 1))

/-- A result and the arithmetic cause it raises (R114). -/
structure FRes where
  bits  : Nat
  cause : Option Cause
  deriving DecidableEq, Repr

/-- A result that raises nothing. -/
def FRes.plain (b : Nat) : FRes := ⟨b, none⟩

/-! ## Rounding (R98, R99) -/

/-- Whether rounding adds one: `c` compares the remainder with a half. -/
def roundsUp (r : Rnd) (neg : Bool) (odd inexact : Bool) (c : Ordering) : Bool :=
  match r with
  | .rne => c == .gt || (c == .eq && odd)
  | .rtz => false
  | .rdn => neg && inexact
  | .rup => !neg && inexact

/-- The magnitude num / den, rounded to an integer under a mode. -/
def roundInt (r : Rnd) (neg : Bool) (num den : Nat) : Nat :=
  let n := num / den
  let rem := num % den
  if roundsUp r neg (n % 2 == 1) (rem != 0) (compare (2 * rem) den) then n + 1 else n

/-- The largest k with 2^k not above num / den; both are positive. -/
def log2Rat (num den : Nat) : Int :=
  let k : Int := (Nat.log2 num : Int) - Nat.log2 den
  let up := if 0 ≤ k then den * 2 ^ k.toNat ≤ num else den ≤ num * 2 ^ (-k).toNat
  if up then k else k - 1

/-- The code of the positive magnitude num / den, rounded with the exponent range unbounded above. -/
def roundMag (f : FFmt) (r : Rnd) (neg : Bool) (num den : Nat) : Nat :=
  let k := log2Rat num den
  let e := if k < f.emin then f.emin else k
  let q : Int := e - f.frac
  let n := if 0 ≤ q then roundInt r neg num (den * 2 ^ q.toNat) else roundInt r neg (num * 2 ^ (-q).toNat) den
  (q - (f.emin - f.frac)).toNat * 2 ^ f.frac + n

/-- The result of a magnitude beyond the largest finite one (R99). -/
def overflow (f : FFmt) (r : Rnd) (sat neg : Bool) : FRes :=
  if sat then ⟨f.sign neg + f.maxCode, some 0x44⟩
  else
    match f.infCode with
    | none => ⟨f.nan, some 0x42⟩
    | some i =>
      let toInf := match r with
        | .rne => true
        | .rtz => false
        | .rdn => neg
        | .rup => !neg
      ⟨f.sign neg + (if toInf then i else f.maxCode), some 0x42⟩

/-- Rounds a magnitude num / den with a sign into a format (R99); a zero keeps its sign. -/
def roundRat (f : FFmt) (r : Rnd) (sat neg : Bool) (num den : Nat) : FRes :=
  if num = 0 then .plain (f.sign neg)
  else
    let c := roundMag f r neg num den
    if c ≤ f.maxCode then .plain (f.sign neg + c) else overflow f r sat neg

/-- An exponent kept where every format has overflowed or underflowed long before. -/
def clampExp (e : Int) : Int := if e < -4000 then -4000 else if 4000 < e then 4000 else e

/-- Rounds m * 2^e. -/
def roundDy (f : FFmt) (r : Rnd) (sat neg : Bool) (m : Nat) (e : Int) : FRes :=
  let e := clampExp e
  if 0 ≤ e then roundRat f r sat neg (m * 2 ^ e.toNat) 1 else roundRat f r sat neg m (2 ^ (-e).toNat)

/-- The conversion of a value to a format (R99). -/
def convert (f : FFmt) (r : Rnd) (sat : Bool) : FVal → FRes
  | .nan => .plain f.nan
  | .inf neg =>
    match f.infCode with
    | some i => if sat then ⟨f.sign neg + f.maxCode, some 0x44⟩ else .plain (f.sign neg + i)
    | none => if sat then ⟨f.sign neg + f.maxCode, some 0x44⟩ else ⟨f.nan, some 0x42⟩
  | .num neg m e => roundDy f r sat neg m e

/-- The conversion of a value to an integer in a range (R100). -/
def toInteger (r : Rnd) (lo hi : Int) : FVal → Int × Option Cause
  | .nan => (0, some 0x40)
  | .inf neg => (if neg then lo else hi, some 0x44)
  | .num neg m e =>
    let e := clampExp e
    let n := if 0 ≤ e then m * 2 ^ e.toNat else roundInt r neg m (2 ^ (-e).toNat)
    let v : Int := if neg then -(n : Int) else n
    if v < lo then (lo, some 0x44) else if hi < v then (hi, some 0x44) else (v, none)

/-- The conversion of an integer to a format, with one rounding (R100). -/
def fromInteger (f : FFmt) (r : Rnd) (sat : Bool) (v : Int) : FRes := roundDy f r sat (v < 0) v.natAbs 0

/-! ## Exact sums and products -/

/-- The signed integer of a sign and a magnitude. -/
def signed (neg : Bool) (m : Nat) : Int := if neg then -(m : Int) else m

/-- The exact product; NaN for 0 times an infinity. -/
def fmulExact : FVal → FVal → FVal
  | .nan, _ => .nan
  | _, .nan => .nan
  | .inf a, .inf b => .inf (a != b)
  | .inf a, .num b m _ => if m = 0 then .nan else .inf (a != b)
  | .num a m _, .inf b => if m = 0 then .nan else .inf (a != b)
  | .num a m e, .num b n k => .num (a != b) (m * n) (e + k)

/-- The exact sum; NaN for infinities of opposite sign. A zero sum of opposite signs takes the sign that
the mode gives (R214). -/
def faddExact (r : Rnd) : FVal → FVal → FVal
  | .nan, _ => .nan
  | _, .nan => .nan
  | .inf a, .inf b => if a = b then .inf a else .nan
  | .inf a, .num _ _ _ => .inf a
  | .num _ _ _, .inf b => .inf b
  | .num a m e, .num b n k =>
    let lo := if e ≤ k then e else k
    let v := signed a (m * 2 ^ (e - lo).toNat) + signed b (n * 2 ^ (k - lo).toNat)
    if v = 0 then .num (if a = b then a else r == .rdn) 0 lo else .num (v < 0) v.natAbs lo

/-- The negated value. -/
def fnegVal : FVal → FVal
  | .nan => .nan
  | .inf a => .inf (!a)
  | .num a m e => .num (!a) m e

/-- Whether a value is NaN. -/
def FVal.isNan : FVal → Bool
  | .nan => true
  | _ => false

/-- Rounds the exact value of an operation; a NaN made from operands that are not NaN logs 0x40 (R114). -/
def finish (f : FFmt) (r : Rnd) (anyNan : Bool) (v : FVal) : FRes :=
  if v.isNan then ⟨f.nan, if anyNan then none else some 0x40⟩ else convert f r false v

/-- Addition (R214). -/
def fadd (f : FFmt) (r : Rnd) (a b : FVal) : FRes := finish f r (a.isNan || b.isNan) (faddExact r a b)

/-- Subtraction (R214). -/
def fsub (f : FFmt) (r : Rnd) (a b : FVal) : FRes := fadd f r a (fnegVal b)

/-- Multiplication (R214). -/
def fmul (f : FFmt) (r : Rnd) (a b : FVal) : FRes := finish f r (a.isNan || b.isNan) (fmulExact a b)

/-- a * b + c with one rounding (R213, R214). -/
def ffma (f : FFmt) (r : Rnd) (a b c : FVal) : FRes :=
  finish f r (a.isNan || b.isNan || c.isNan) (faddExact r (fmulExact a b) c)

/-- Rounds the quotient of m * 2^e by n * 2^k. -/
def roundQuot (f : FFmt) (r : Rnd) (sat neg : Bool) (m n : Nat) (x : Int) : FRes :=
  let x := clampExp x
  if 0 ≤ x then roundRat f r sat neg (m * 2 ^ x.toNat) n else roundRat f r sat neg m (n * 2 ^ (-x).toNat)

/-- Division (R214), also the exact quotient of R225 (with SAT). -/
def fdivSat (f : FFmt) (r : Rnd) (sat : Bool) : FVal → FVal → FRes
  | .nan, _ => .plain f.nan
  | _, .nan => .plain f.nan
  | .inf _, .inf _ => ⟨f.nan, some 0x40⟩
  | .inf a, .num b _ _ => convert f r sat (.inf (a != b))
  | .num a _ _, .inf b => .plain (f.sign (a != b))
  | .num a m e, .num b n k =>
    if n = 0 then
      if m = 0 then ⟨f.nan, some 0x40⟩ else ⟨(convert f r sat (.inf (a != b))).bits, some 0x41⟩
    else roundQuot f r sat (a != b) m n (e - k)

/-- Division (R214). -/
def fdiv (f : FFmt) (r : Rnd) (a b : FVal) : FRes := fdivSat f r false a b

/-! ## Order (R113, R216) -/

/-- Compares two values that are not NaN, with -0 equal to +0. -/
def fcompare : FVal → FVal → Ordering
  | .inf a, .inf b => if a = b then .eq else if a then .lt else .gt
  | .inf a, _ => if a then .lt else .gt
  | _, .inf b => if b then .gt else .lt
  | .num a m e, .num b n k =>
    let lo := if e ≤ k then e else k
    compare (signed a (m * 2 ^ (e - lo).toNat)) (signed b (n * 2 ^ (k - lo).toNat))
  | _, _ => .eq

/-- The sign of a value. -/
def FVal.neg : FVal → Bool
  | .nan => false
  | .inf a => a
  | .num a _ _ => a

/-- Whether the first value is the larger under R113, where -0 is below +0. -/
def fabove (a b : FVal) : Bool :=
  match fcompare a b with
  | .gt => true
  | .lt => false
  | .eq => !a.neg && b.neg

/-- Maximum, or minimum, of two codes of one format (R113, R215). -/
def fmaxmin (f : FFmt) (mx : Bool) (a b : Nat) : Nat :=
  let x := fval f a
  let y := fval f b
  if x.isNan || y.isNan then f.nan
  else if fabove x y == mx then a % 2 ^ f.width else b % 2 ^ f.width

/-- `fabs` of a code (R215). -/
def fabsCode (f : FFmt) (a : Nat) : Nat := if (fval f a).isNan then f.nan else a % 2 ^ (f.width - 1)

/-- `fneg` of a code (R215). -/
def fnegCode (f : FFmt) (a : Nat) : Nat :=
  if (fval f a).isNan then f.nan
  else if natBit a (f.width - 1) then a % 2 ^ (f.width - 1) else a % 2 ^ (f.width - 1) + 2 ^ (f.width - 1)

/-- The condition codes of `fsetp` (R216). -/
def fcond (cc : Nat) (a b : FVal) : Bool :=
  let n := a.isNan || b.isNan
  let o := fcompare a b
  match cc with
  | 0 => !n && o == .eq
  | 1 => n || o != .eq
  | 2 => !n && o == .lt
  | 3 => !n && o != .gt
  | 4 => !n && o == .gt
  | 5 => !n && o != .lt
  | 6 => !n
  | _ => n

/-- The class mask of a code (R217). -/
def fclassMask (f : FFmt) (a : Nat) : Nat :=
  match fval f a with
  | .nan => if natBit a (f.frac - 1) then 512 else 256
  | .inf neg => if neg then 1 else 128
  | .num neg m _ =>
    if m = 0 then (if neg then 8 else 16)
    else if m < 2 ^ f.frac then (if neg then 4 else 32)
    else (if neg then 2 else 64)

/-- `fround` (R218): to an integral value, with no record. -/
def fround (f : FFmt) (r : Rnd) : FVal → FRes
  | .nan => .plain f.nan
  | .inf neg => convert f r false (.inf neg)
  | .num neg m e =>
    let e := clampExp e
    let n := if 0 ≤ e then m * 2 ^ e.toNat else roundInt r neg m (2 ^ (-e).toNat)
    .plain (roundDy f r false neg n 0).bits

/-- `fscale` (R218). -/
def fscale (f : FFmt) (r : Rnd) (k : Int) : FVal → FRes
  | .num neg m e => roundDy f r false neg m (e + k)
  | v => finish f r true v

/-! ## Fixed-point series

Values are integers over 2^prec. The results of the functions are irrational but in the cases R214 lists and
those handled exactly below, so an approximation this close, marked inexact, rounds as the exact value
does. -/

/-- Bits of the fixed point. -/
def prec : Nat := 640

/-- One in fixed point. -/
def fixOne : Nat := 2 ^ prec

/-- The product of two fixed-point numbers. -/
def fixMul (a b : Nat) : Nat := a * b / fixOne

/-- The sum of atanh: z + z^3/3 + ..., for a fixed-point z at most 1/3. -/
def fixAtanh (z : Nat) : Nat :=
  let z2 := fixMul z z
  ((List.range 210).foldl (fun (st : Nat × Nat) i => (st.1 + st.2 / (2 * i + 1), fixMul st.2 z2)) (0, z)).1

/-- arctan (1 / n): the alternating sum of 1 / ((2 i + 1) n^(2 i + 1)). -/
def fixAtanInv (n terms : Nat) : Int :=
  ((List.range terms).foldl (fun (st : Int × Nat) i =>
    (if i % 2 = 0 then st.1 + (st.2 / (2 * i + 1) : Nat) else st.1 - (st.2 / (2 * i + 1) : Nat), st.2 / (n * n)))
    (0, fixOne / n)).1

/-- ln 2. -/
def fixLn2 : Nat := 2 * fixAtanh (fixOne / 3)

/-- pi, by Machin's formula. -/
def fixPi : Nat := (16 * fixAtanInv 5 145 - 4 * fixAtanInv 239 45).toNat

/-- e^t for a fixed-point t below 2. -/
def fixExp (t : Nat) : Nat :=
  ((List.range 150).foldl (fun (st : Nat × Nat) i => (st.1 + st.2, fixMul st.2 t / (i + 1))) (0, fixOne)).1

/-- sin t and cos t for a fixed-point t below 1. -/
def fixSinCos (t : Nat) : Nat × Nat :=
  let t2 := fixMul t t
  let series (first : Nat) (odd : Nat) : Nat :=
    ((List.range 70).foldl (fun (st : Int × Nat) i =>
      (if i % 2 = 0 then st.1 + (st.2 : Int) else st.1 - (st.2 : Int),
       fixMul st.2 t2 / ((2 * i + 1 + odd) * (2 * i + 2 + odd)))) (0, first)).1.toNat
  (series t 1, series fixOne 0)

/-- Rounds an inexact magnitude v / 2^prec. -/
def roundFix (f : FFmt) (r : Rnd) (neg : Bool) (v : Nat) (e : Int) : FRes :=
  roundDy f r false neg (2 * v + 1) (e - prec - 1)

/-- The fixed-point form of m * 2^e. -/
def toFix (m : Nat) (e : Int) : Nat :=
  let k := clampExp (e + prec)
  if 0 ≤ k then m * 2 ^ k.toNat else m / 2 ^ (-k).toNat

/-- Whether m * 2^e is an integer, and which. -/
def asInteger (m : Nat) (e : Int) : Option Nat :=
  let e := clampExp e
  if 0 ≤ e then some (m * 2 ^ e.toNat) else if m % 2 ^ (-e).toNat = 0 then some (m / 2 ^ (-e).toNat) else none

/-- 2^a (R214): exact for an integer a. -/
def fex2 (f : FFmt) (r : Rnd) : FVal → FRes
  | .nan => .plain f.nan
  | .inf neg => if neg then .plain 0 else convert f r false (.inf false)
  | .num neg m e =>
    if m = 0 then roundDy f r false false 1 0
    else if 12 < log2Rat (if 0 ≤ e then m * 2 ^ (clampExp e).toNat else m) (2 ^ (-e).toNat) then
      roundDy f r false false 1 (if neg then -4000 else 4000)
    else
      match asInteger m e with
      | some n => roundDy f r false false 1 (signed neg n)
      | none =>
        let x := toFix m e
        let n := x / fixOne
        let fr := x % fixOne
        if neg then roundFix f r false (fixExp (fixMul (fixOne - fr) fixLn2)) (-(n : Int) - 1)
        else roundFix f r false (fixExp (fixMul fr fixLn2)) n

/-- log2 of m * 2^e (R214): exact for a power of two. -/
def flg2 (f : FFmt) (r : Rnd) : FVal → FRes
  | .nan => .plain f.nan
  | .inf neg => if neg then ⟨f.nan, some 0x40⟩ else convert f r false (.inf false)
  | .num neg m e =>
    if m = 0 then ⟨(convert f r false (.inf true)).bits, some 0x41⟩
    else if neg then ⟨f.nan, some 0x40⟩
    else
      let k := Nat.log2 m
      let n : Int := e + k
      if m = 2 ^ k then roundDy f r false (n < 0) n.natAbs 0
      else
        let z := (m - 2 ^ k) * fixOne / (m + 2 ^ k)
        let l : Int := (2 * fixAtanh z * fixOne / fixLn2 : Nat) + n * fixOne
        roundFix f r (l < 0) l.natAbs 0


/-- The bits added to the fixed point so that the reduction of a large argument stays accurate. -/
def bigPi : Nat :=
  let one := 2 ^ (prec + 160)
  let at_ (n terms : Nat) : Int :=
    ((List.range terms).foldl (fun (st : Int × Nat) i =>
      (if i % 2 = 0 then st.1 + (st.2 / (2 * i + 1) : Nat) else st.1 - (st.2 / (2 * i + 1) : Nat),
       st.2 / (n * n))) (0, one / n)).1
  (16 * at_ 5 180 - 4 * at_ 239 55).toNat

/-- The quadrant and the remainder modulo pi/2 of m * 2^e, in fixed point. -/
def reduce (m : Nat) (e : Int) : Nat × Nat :=
  let x := toFix m e * 2 ^ 160
  let h := bigPi / 2
  (x / h % 4, x % h / 2 ^ 160)

/-- sin, or cos, of a remainder below pi/2: above pi/4 through the other function. -/
def sinCosQ (t : Nat) : Nat × Nat :=
  let q := fixPi / 4
  if t ≤ q then fixSinCos t
  else
    let u := fixPi / 2 - t
    let r := fixSinCos u
    (r.2, r.1)

/-- sin a, a in radians (R214). -/
def fsin (f : FFmt) (r : Rnd) : FVal → FRes
  | .nan => .plain f.nan
  | .inf _ => ⟨f.nan, some 0x40⟩
  | .num neg m e =>
    if m = 0 then .plain (f.sign neg)
    else
      let (q, t) := reduce m e
      let sc := sinCosQ t
      let v := if q % 2 = 0 then sc.1 else sc.2
      roundFix f r (neg != (2 ≤ q : Bool)) v 0

/-- cos a, a in radians (R214). -/
def fcos (f : FFmt) (r : Rnd) : FVal → FRes
  | .nan => .plain f.nan
  | .inf _ => ⟨f.nan, some 0x40⟩
  | .num _ m e =>
    if m = 0 then roundDy f r false false 1 0
    else
      let (q, t) := reduce m e
      let sc := sinCosQ t
      let v := if q % 2 = 0 then sc.2 else sc.1
      roundFix f r (q == 1 || q == 2) v 0

/-- e^-x in fixed point for x in fixed point below 256. -/
def fixExpNeg (x : Nat) : Nat :=
  let n := x * fixOne / fixLn2 / fixOne + 1
  let t := n * fixLn2 - x
  fixExp t / 2 ^ n

/-- tanh a (R214). -/
def ftanh (f : FFmt) (r : Rnd) : FVal → FRes
  | .nan => .plain f.nan
  | .inf neg => roundDy f r false neg 1 0
  | .num neg m e =>
    if m = 0 then .plain (f.sign neg)
    else if toFix m e / fixOne ≥ 128 || 8 < e then roundFix f r neg (fixOne - 2 ^ 250) 0
    else
      let x := toFix m e
      if x < fixOne / 2 ^ 40 then
        -- x - x^3/3 + 2 x^5/15 - ...: the next term lies below the fixed point's last bits for the rounding
        let x3 := fixMul (fixMul x x) x
        let x5 := fixMul (fixMul x3 x) x
        roundFix f r neg (x - x3 / 3 + 2 * x5 / 15) 0
      else
        let y := fixExpNeg (2 * x)
        roundFix f r neg ((fixOne - y) * fixOne / (fixOne + y)) 0

/-- 1 / (1 + e^-x), rounded to nearest even (R290). -/
def fsigm : FVal → FRes
  | .nan => .plain FFmt.f32.nan
  | .inf neg => if neg then .plain 0 else roundDy .f32 .rne false false 1 0
  | .num neg m e =>
    if m = 0 then roundDy .f32 .rne false false 1 (-1)
    else if toFix m e / fixOne ≥ 200 || 8 < e then
      if neg then roundFix .f32 .rne false 0 0 else roundFix .f32 .rne false (fixOne - 2 ^ 300) 0
    else
      let y := fixExpNeg (toFix m e)
      let v := fixOne * fixOne / (fixOne + y)
      roundFix .f32 .rne false (if neg then fixMul v y else v) 0

/-- The integer square root, by bits from the highest. -/
def isqrt (n : Nat) : Nat :=
  let k := Nat.log2 n / 2 + 1
  (List.range k).foldl (fun r i =>
    let c := r + 2 ^ (k - 1 - i)
    if c * c ≤ n then c else r) 0

/-- Rounds the square root of num / den; `g` is how many bits below 1 the root is taken to. -/
def roundSqrt (f : FFmt) (r : Rnd) (num den : Nat) : FRes :=
  let g : Nat := 400
  let n := num * 2 ^ (2 * g) / den
  let s := isqrt n
  let exact_ := s * s * den == num * 2 ^ (2 * g)
  if exact_ then roundDy f r false false s (-(g : Int)) else roundDy f r false false (2 * s + 1) (-(g : Int) - 1)

/-- The numerator and denominator of m * 2^e. -/
def ratOf (m : Nat) (e : Int) : Nat × Nat :=
  let e := clampExp e
  if 0 ≤ e then (m * 2 ^ e.toNat, 1) else (m, 2 ^ (-e).toNat)

/-- The square root (R214). -/
def fsqrt (f : FFmt) (r : Rnd) : FVal → FRes
  | .nan => .plain f.nan
  | .inf neg => if neg then ⟨f.nan, some 0x40⟩ else convert f r false (.inf false)
  | .num neg m e =>
    if m = 0 then .plain (f.sign neg)
    else if neg then ⟨f.nan, some 0x40⟩
    else let (n, d) := ratOf m e; roundSqrt f r n d

/-- 1 / sqrt a (R214). -/
def frsq (f : FFmt) (r : Rnd) : FVal → FRes
  | .nan => .plain f.nan
  | .inf neg => if neg then ⟨f.nan, some 0x40⟩ else .plain 0
  | .num neg m e =>
    if m = 0 then ⟨(convert f r false (.inf neg)).bits, some 0x41⟩
    else if neg then ⟨f.nan, some 0x40⟩
    else let (n, d) := ratOf m e; roundSqrt f r d n

/-- 1 / a (R214). -/
def frcp (f : FFmt) (r : Rnd) (a : FVal) : FRes := fdiv f r (.num false 1 0) a

end Sys2Proof.Machine
end

