-- ==== Sys2Proof/Machine/Base.lean ====
section
/-! DEFINITION. The named operations over the plain parts of the state: memory cells in canonical form, the
registers of a thread, blocks and threads by name, contexts, cores and dies by number, and time. -/

namespace Sys2Proof.Machine

/-! ## Memory cells: addresses strictly rising, no entry that reads as an unlisted address does -/

/-- The byte at an address; an address that is not listed reads 0 (R77; for far memory a design choice). -/
def memGet : List Host.Cell → Nat → Byte
  | [], _ => 0
  | (k, b) :: m, a => if a < k then 0 else if a = k then b else memGet m a

/-- Writes one byte and keeps the canonical form. -/
def memSet : List Host.Cell → Nat → Byte → List Host.Cell
  | [], a, v => if v = 0 then [] else [(a, v)]
  | (k, b) :: m, a, v =>
    if a < k then (if v = 0 then (k, b) :: m else (a, v) :: (k, b) :: m)
    else if a = k then (if v = 0 then m else (a, v) :: m)
    else (k, b) :: memSet m a v

/-- The canonical form, above a bound on the first address. -/
def memWfFrom : Nat → List Host.Cell → Bool
  | _, [] => true
  | lo, (k, b) :: m => lo ≤ k && b != 0 && memWfFrom (k + 1) m

/-- The canonical form of memory: addresses strictly rising, no byte 0 listed. -/
def Memory.wf (m : List Host.Cell) : Bool := memWfFrom 0 m

/-- Reads `n` bytes from an address up. -/
def memRead (m : List Host.Cell) (a : Nat) : Nat → List Byte
  | 0 => []
  | n + 1 => memGet m a :: memRead m (a + 1) n

/-- Writes bytes from an address up. -/
def memWrite (m : List Host.Cell) (a : Nat) : List Byte → List Host.Cell
  | [] => m
  | b :: bs => memWrite (memSet m a b) (a + 1) bs

/-- Clears a range of cells to 0. -/
def memClear (m : List Host.Cell) (a n : Nat) : List Host.Cell := m.filter fun c => c.1 < a || a + n ≤ c.1

/-! ## Vectors by number -/

/-- The element of a vector at a number, or a default beyond its end. -/
def vget {α : Type} {n : Nat} (v : Vector α n) (i : Nat) (d : α) : α := if h : i < n then v[i] else d

/-- Changes one element; a number beyond the end changes nothing. -/
def vmod {α : Type} {n : Nat} (v : Vector α n) (i : Nat) (f : α → α) : Vector α n :=
  if h : i < n then v.set i (f v[i]) else v

/-- Writes one element; a number beyond the end writes nothing. -/
def vset {α : Type} {n : Nat} (v : Vector α n) (i : Nat) (x : α) : Vector α n :=
  if h : i < n then v.set i x else v

/-- Changes one element of a list. -/
def lmod {α : Type} (l : List α) (i : Nat) (f : α → α) : List α := l.modify i f

/-- Puts an element into a sorted list, after its equals. -/
def insertBy {α : Type} (le : α → α → Bool) (x : α) : List α → List α
  | [] => [x]
  | y :: ys => if le y x then y :: insertBy le x ys else x :: y :: ys

/-- Sorts a list, keeping the order of equal elements. -/
def sortBy {α : Type} (le : α → α → Bool) (l : List α) : List α := l.foldl (fun acc x => insertBy le x acc) []

/-! ## Time (R3) -/

/-- The core-cycle count from package reset, which `%clk` reads (R187, R361). -/
def State.cycle (s : State) : Nat := s.tick / Config.coreTicks

/-! ## Contexts, cores and dies by number -/

/-- A context. -/
def State.ctx (s : State) (c : Nat) : Context := vget s.ctxs c (Context.reset 0)

/-- Changes a context. -/
def State.modCtx (s : State) (c : Nat) (f : Context → Context) : State := { s with ctxs := vmod s.ctxs c f }

/-- A core. -/
def State.core (s : State) (c : Nat) : Core := vget s.cores c Core.reset

/-- Changes a core. -/
def State.modCore (s : State) (c : Nat) (f : Core → Core) : State := { s with cores := vmod s.cores c f }

/-- A hearth die. -/
def State.die (s : State) (d : Nat) : Die := vget s.dies d Die.reset

/-- Changes a die. -/
def State.modDie (s : State) (d : Nat) (f : Die → Die) : State := { s with dies := vmod s.dies d f }

/-- The die of a core (R17). -/
def dieOf (core : Nat) : Nat := core / Config.coresPerDie

/-- Takes a name for a block, an access or a command. -/
def State.take (s : State) : Nat × State := (s.nextId, { s with nextId := s.nextId + 1 })

/-- Takes a free word. -/
def State.free (s : State) : Word × State := (Config.freeWord s.fresh, { s with fresh := s.fresh + 1 })

/-- Takes a free choice below `n`. -/
def State.pick (s : State) (n : Nat) : Nat × State :=
  (Config.pick s.fresh % n, { s with fresh := s.fresh + 1 })

/-! ## Blocks and threads -/

/-- A resident block by its name. -/
def State.block (s : State) (id : Nat) : Option Block := s.blocks.find? (·.id == id)

/-- Changes a resident block. -/
def State.modBlock (s : State) (id : Nat) (f : Block → Block) : State :=
  { s with blocks := s.blocks.map fun b => if b.id == id then f b else b }

/-- A thread of a block. -/
def Block.thread (b : Block) : Who → Option Thread
  | .vec t => b.threads[t]?
  | .ctl => b.ctl

/-- Changes a thread of a block. -/
def Block.modThread (b : Block) (w : Who) (f : Thread → Thread) : Block :=
  match w with
  | .vec t => { b with threads := lmod b.threads t f }
  | .ctl => { b with ctl := b.ctl.map f }

/-- A thread by its block and its name. -/
def State.thread (s : State) (blk : Nat) (w : Who) : Option Thread := (s.block blk).bind (·.thread w)

/-- Changes a thread. -/
def State.modThread (s : State) (blk : Nat) (w : Who) (f : Thread → Thread) : State :=
  s.modBlock blk fun b => b.modThread w f

/-- The threads of a block by name, vector threads first. -/
def Block.whos (b : Block) : List Who :=
  (List.range b.threads.length).map Who.vec ++ (if b.ctl.isSome then [.ctl] else [])

/-- The lane of a thread in its window (R26); a control thread is lane 0 (R40). -/
def laneOf : Who → Nat
  | .vec t => t % 32
  | .ctl => 0

/-- The window of a thread; none for a control thread (R24). -/
def winOf : Who → Option Nat
  | .vec t => some (t / 32)
  | .ctl => none

/-- `%tid` of a thread (R24, R38). -/
def tidOf : Who → Word
  | .vec t => BitVec.ofNat 32 t
  | .ctl => 0xFFFFFFFF

/-- A thread as placement makes it (R186): registers and predicates 0, handles complete with word 0. -/
def Thread.fresh (slot : Nat) : Thread :=
  { live := true, helper := false, slot := slot, pc := 0, hdr := 0, entering := false, start := none, rej := none,
    held := false, yielded := false, regs := Vector.replicate 112 0, preds := Vector.replicate 7 false,
    handles := Vector.replicate 16 Handle.clear, stklim := 0, anyq := 0, hmode := false, hcause := 0, hpc := 0,
    hpcHw := false, hrec := 0, retHdr := 0, retRej := none, repark := false, parked := false, parkHand := false,
    keptPc := 0, keptCause := 0, taken := false, recAt := 0, wait := .none, since := 0, arrived := none, badStart := none,
    badRegs := [], badPreds := [], issue := 0, restored := false, fences := [] }

/-! ## Registers of a thread -/

/-- A g register; a number above 111 names none. -/
def Thread.g (t : Thread) (r : Nat) : Word := vget t.regs r 0

/-- Writes a g register; the new value replaces one that was lost (R430). -/
def Thread.setG (t : Thread) (r : Nat) (v : Word) : Thread :=
  { t with regs := vset t.regs r v, badRegs := t.badRegs.filter (· != r) }

/-- A 32-bit source: a g register, or the completion word of an h register (R184, R185). -/
def Thread.src (t : Thread) (r : Reg) : Word :=
  if r.toNat < 112 then t.g r.toNat else (vget t.handles (r.toNat - 112) Handle.clear).word

/-- A register pair, low word first (R184). -/
def Thread.pair (t : Thread) (r : Nat) : DWord := joinPair (t.g r) (t.g (r + 1))

/-- Writes a register pair. -/
def Thread.setPair (t : Thread) (r : Nat) (v : DWord) : Thread :=
  (t.setG r (v.extractLsb' 0 32)).setG (r + 1) (v.extractLsb' 32 32)

/-- A predicate; q7 is true (R186). -/
def Thread.q (t : Thread) (n : BitVec 3) : Bool := vget t.preds n.toNat true

/-- Writes a predicate; a write to q7 is ignored (R186). The new value replaces one that was lost (R430). -/
def Thread.setQ (t : Thread) (n : BitVec 3) (v : Bool) : Thread :=
  { t with preds := vset t.preds n.toNat v, badPreds := if n = 7 then t.badPreds else t.badPreds.filter (· != n.toNat) }

/-- A handle. -/
def Thread.h (t : Thread) (n : Nat) : Handle := vget t.handles n Handle.clear

/-- Writes a handle. -/
def Thread.setH (t : Thread) (n : Nat) (v : Handle) : Thread := { t with handles := vset t.handles n v }

/-- Completes a handle at once with the word 0 (R28). -/
def Thread.clearH (t : Thread) (n : Nat) : Thread := t.setH n Handle.clear

/-- Writes `n` words from a register up. -/
def Thread.setGs (t : Thread) (r : Nat) : List Word → Thread
  | [] => t
  | v :: vs => (t.setG r v).setGs (r + 1) vs

/-- Reads `n` words from a register up. -/
def Thread.gs (t : Thread) (r : Nat) : Nat → List Word
  | 0 => []
  | n + 1 => t.g r :: t.gs (r + 1) n

/-- Whether the guard is true for a thread (R179). -/
def Thread.guard (t : Thread) (g : Guard) : Bool := t.q g.p != g.neg

/-- A thread that is live, not parked and not waiting at anything but what `ready` clears. -/
def Thread.running (t : Thread) : Bool := t.live && !t.parked

/-- Whether some port carries traffic. -/
def State.hasPath (s : State) : Bool := s.ports.toList.any fun p => p.st == .up

/-- Whether something of a package can arrive here: of another package, through a port that is UP (R351). -/
def State.pathFrom (s : State) (p : BitVec 20) : Bool := p == s.pkg || s.hasPath

/-- The application cores that run: none before the boot sequence has completed (R350). -/
def State.appCores (s : State) : Nat := if s.boot == .done then Config.appCores else 0

/-- What the runtime does: nothing while the application cores, on which it runs, are stopped (R350, step 4). -/
def State.byRuntime (s : State) (r : Host.Outcome State Fault Refusal) : Host.Outcome State Fault Refusal :=
  if s.appCores = 0 then .next s else r

/-! ## Overlays: code addresses (R168) -/

/-- The overlay id of a code address. -/
def codeOvl (a : Word) : BitVec 8 := a.extractLsb' 24 8

/-- The byte offset of a code address. -/
def codeOff (a : Word) : Nat := a.toNat % 65536

/-- The code address of an offset of an overlay. -/
def codeAddr (ovl : BitVec 8) (off : Nat) : Word := ovl ++ ((0 : BitVec 8) ++ BitVec.ofNat 16 off)

/-- A header address plus an offset in 64-bit words, modulo 2^16 within the same overlay (R175, R180). -/
def codeStep (a : Word) (words : Int) : Word :=
  codeAddr (codeOvl a) (intLow 16 ((codeOff a : Int) + 8 * words))

end Sys2Proof.Machine
end

