-- ==== Sys2Proof/Machine/Legal.lean ====
section
/-! DEFINITION. Which instructions are legal from the word alone: the shape rules of R184, R186, R189,
R190, R191 and R201 and each row of the illegal-use table of R407. A word that breaks one of them raises
illegal encoding (0x01), R193. What depends on the thread (its register set R49, NBAR R188) is checked at
issue, in Machine/Issue.lean. -/

namespace Sys2Proof.Machine

/-! ## Shapes of register fields (R184, R201) -/

/-- A g register of 32 bits: the only shape an h register does not fit as a destination (R184, R200). -/
def legalG (r : Reg) : Bool := r.toNat < 112

/-- An even g register: a 64-bit operand (R184). -/
def legalPair (r : Reg) : Bool := r.toNat < 112 && r.toNat % 2 == 0

/-- A g register whose number is a multiple of 4: a 128-bit operand or a quad (R184, R201). -/
def legalQuad (r : Reg) : Bool := r.toNat < 112 && r.toNat % 4 == 0

/-- A g register whose number is a multiple of 8: an octet (R201). -/
def legalOctet (r : Reg) : Bool := r.toNat < 112 && r.toNat % 8 == 0

/-- A predicate named in a 7-bit field, with bits [6:3] zero (R186). -/
def legalPred (r : Reg) : Bool := r.toNat < 8

/-- An h register (R184). -/
def legalH (r : Reg) : Bool := 112 ≤ r.toNat

/-- An unused register field holds 0 (R180). -/
def unused (r : Reg) : Bool := r == 0

/-- A type whose operands are register pairs (R201). -/
def tyWide (t : ElemTy) : Bool := t == .i64 || t == .n64

/-- A source of the type's shape; a 32-bit source may be an h register (R184, R201). -/
def legalSrc (t : ElemTy) (r : Reg) : Bool := if tyWide t then legalPair r else true

/-- A destination of the type's shape (R200, R201). -/
def legalDst (t : ElemTy) (r : Reg) : Bool := if tyWide t then legalPair r else legalG r

/-! ## Type lists of the rows (R204, R213, R219) -/

/-- Types 0 to 3. -/
def tyInt (t : ElemTy) : Bool := t == .i32 || t == .n32 || t == .i64 || t == .n64

/-- Types 0 to 3 and 8 to 11. -/
def tyIntPacked (t : ElemTy) : Bool :=
  tyInt t || t == .i8x4 || t == .n8x4 || t == .i16x2 || t == .n16x2

/-- Types 0, 2, 8 and 10. -/
def tySigned (t : ElemTy) : Bool := t == .i32 || t == .i64 || t == .i8x4 || t == .i16x2

/-- Types 0 and 2. -/
def tyMove (t : ElemTy) : Bool := t == .i32 || t == .i64

/-- Types 0 and 1. -/
def tyInt32 (t : ElemTy) : Bool := t == .i32 || t == .n32

/-- Types 4 and 5. -/
def tyFloat1 (t : ElemTy) : Bool := t == .f32 || t == .bf16

/-- Types 4, 5 and 7. -/
def tyFloat (t : ElemTy) : Bool := tyFloat1 t || t == .bf16x2

/-- Types 12 and 13. -/
def tyF8 (t : ElemTy) : Bool := t == .f8e4x4 || t == .f8e5x4

/-- Types 8, 12 and 13. -/
def tyBlock (t : ElemTy) : Bool := t == .i8x4 || tyF8 t

/-- Types 0, 1 and 4. -/
def tyLane (t : ElemTy) : Bool := tyInt32 t || t == .f32

/-- Element width in bits of a type (R189). -/
def tyBits : ElemTy → Nat
  | .i32 | .n32 | .f32 => 32
  | .i64 | .n64 => 64
  | .bf16 | .bf16x2 | .i16x2 | .n16x2 => 16
  | .i8x4 | .n8x4 | .f8e4x4 | .f8e5x4 => 8

/-- The source type of `cvt`, IMM16[3:0], types 0 to 5 (R219). -/
def cvtSrc (imm : BitVec 15) : Option ElemTy :=
  match imm.toNat with
  | 0 => some .i32 | 1 => some .n32 | 2 => some .i64 | 3 => some .n64
  | 4 => some .f32 | 5 => some .bf16 | _ => none

/-- The pairings of `cvt` in which the conversion can be inexact, so that a rounding is legal (R220). -/
def cvtRounds (dst src : ElemTy) : Bool :=
  (tyFloat1 dst && tyInt src) || (tyInt dst && tyFloat1 src) || (dst == .bf16 && src == .f32)

/-! ## Rows of classes 0x0 to 0x2 -/

/-- No rounding and no saturation bit (R189, R202). -/
def plain (o : Alu) : Bool := o.rnd == .rne && !o.sat

/-- Two sources of the type, a destination of the type, nothing else (R204). -/
def legal3 (ok : ElemTy → Bool) (o : Alu) : Bool :=
  ok o.ty && plain o && legalDst o.ty o.d && legalSrc o.ty o.a && legalSrc o.ty o.b &&
  unused o.c && o.imm == 0

/-- One source and one destination of the type (R204). -/
def legal2 (ok : ElemTy → Bool) (o : Alu) : Bool :=
  ok o.ty && plain o && legalDst o.ty o.d && legalSrc o.ty o.a && unused o.b && unused o.c && o.imm == 0

/-- `abs` and `neg`, which take SAT (R204). -/
def legalAbs (o : Alu) : Bool :=
  tySigned o.ty && o.rnd == .rne && legalDst o.ty o.d && legalSrc o.ty o.a && unused o.b && unused o.c &&
  o.imm == 0

/-- Shifts: the count is a 32-bit register whatever the type (R204). -/
def legalShift (o : Alu) : Bool :=
  tyInt o.ty && plain o && legalDst o.ty o.d && legalSrc o.ty o.a && unused o.c && o.imm == 0

/-- POS of `bfx` and `bfi` (R206). -/
def bfPos (imm : BitVec 15) : Nat := imm.toNat % 64

/-- LEN of `bfx` and `bfi` (R206). -/
def bfLen (imm : BitVec 15) : Nat := imm.toNat / 64 % 64 + 1

/-- `bfx`, and `bfi` when `useB` (R206). -/
def legalBf (useB : Bool) (o : Alu) : Bool :=
  tyInt o.ty && plain o && legalDst o.ty o.d && legalSrc o.ty o.a &&
  (if useB then legalSrc o.ty o.b else unused o.b) && unused o.c &&
  o.imm.toNat < 4096 && bfPos o.imm + bfLen o.imm ≤ tyBits o.ty

/-- `popc` and `clz`, whose result is a 32-bit register (R204). -/
def legalCount (o : Alu) : Bool :=
  tyInt o.ty && plain o && legalG o.d && legalSrc o.ty o.a && unused o.b && unused o.c && o.imm == 0

/-- `setp` and `fsetp`: two predicates, a condition code below `ncc` (R207, R216). -/
def legalSetp (ok : ElemTy → Bool) (ncc : Nat) (o : Alu) : Bool :=
  ok o.ty && plain o && legalPred o.d && legalPred o.c && legalSrc o.ty o.a && legalSrc o.ty o.b &&
  o.imm.toNat < ncc

/-- A floating-point row with `n` sources (R213). -/
def legalFloat (n : Nat) (rounds : Bool) (o : Alu) : Bool :=
  tyFloat o.ty && (rounds || o.rnd == .rne) && !o.sat && legalG o.d &&
  (2 ≤ n || unused o.b) && (3 ≤ n || unused o.c) && o.imm == 0

/-- `cvt` (R219, R220). -/
def legalCvt (o : Alu) : Bool :=
  match cvtSrc o.imm with
  | none => false
  | some t =>
    (tyInt o.ty || tyFloat1 o.ty) && (o.rnd == .rne || cvtRounds o.ty t) && legalDst o.ty o.d &&
    legalSrc t o.a && unused o.b && unused o.c

/-- BFMT of `bdot` (R219). -/
def bdotFmt (imm : BitVec 15) : Nat := imm.toNat % 4

/-- IACC of `bdot` (R219). -/
def bdotIacc (imm : BitVec 15) : Bool := imm.toNat / 4 % 2 == 1

/-- `bdot` (R219, R226). -/
def legalBdot (o : Alu) : Bool :=
  tyBlock o.ty && plain o && legalG o.d && legalOctet o.a && legalOctet o.b && o.imm.toNat < 8 &&
  bdotFmt o.imm ≠ 3 && (!bdotIacc o.imm || (o.ty == .i8x4 && bdotFmt o.imm == 0 && unused o.c))

/-! ## Format I (R209) -/

/-- OP 20 to 23: M4 selects 32-bit or 64-bit operands. -/
def legalImm (o : Imm) : Bool :=
  match o.m4.toNat with
  | 0 => legalG o.d
  | 1 => legalPair o.d && legalPair o.a
  | _ => false

/-- `movi`. -/
def legalMovi (o : Imm) : Bool :=
  unused o.a && (match o.m4.toNat with
    | 0 => legalG o.d
    | 1 => legalPair o.d
    | _ => false)

/-! ## Format M (R190, R191, R247, R256, R259) -/

/-- The register that holds the result or the data, by SIZE (R184, R191). -/
def legalData : Size → Reg → Bool
  | .b8, r | .b16, r | .b32, r => legalG r
  | .b64, r => legalPair r
  | .b128, r => legalQuad r

/-- The address fields by SPACE (R191). -/
def legalAddr (o : Mem) : Bool :=
  match o.space with
  | .glob | .w | .a | .c => legalPair o.a
  | .stack => unused o.a && o.b.toNat == 127
  | .win => legalPair o.a && o.b.toNat != 127

/-- SX is set only on a load or `pop` of SIZE 0 or 1 (R190). -/
def legalSx (o : Mem) : Bool := !o.sx || o.size == .b8 || o.size == .b16

/-- `ld` and `ld.acq`. -/
def legalLoad (o : Mem) : Bool := legalData o.size o.d && legalAddr o && legalSx o

/-- `st` and `st.rel`. -/
def legalStore (o : Mem) : Bool := legalData o.size o.d && legalAddr o && !o.sx

/-- `push` and `pop`. -/
def legalStackOp (o : Mem) : Bool := o.space == .stack && legalAddr o && o.imm == 0 && legalData o.size o.d

/-- `atom.*` (R256). -/
def legalAtom (cas : Bool) (o : Mem) : Bool :=
  o.space == .glob && legalAddr o && !o.sx && !o.nt &&
  (match o.size with
   | .b32 => if cas then legalPair o.d else legalG o.d
   | .b64 => if cas then legalQuad o.d else legalPair o.d
   | _ => false)

/-- `red.*` (R256). -/
def legalRed (o : Mem) : Bool :=
  legalAddr o && !o.sx && !o.nt &&
  ((o.space == .glob && ((o.size == .b32 && legalG o.d) || (o.size == .b64 && legalPair o.d))) ||
   (o.space == .win && o.size == .b32 && legalG o.d))

/-- The memory-side agent operations; `last` is the last operand register above A (R259). -/
def legalAgent (size : Size) (last : Nat) (o : Mem) : Bool :=
  o.space == .glob && legalAddr o && !o.sx && !o.nt && o.size == size && legalH o.d && o.a.toNat + last < 112

/-! ## Classes 0x4 and 0x9 (R237, R277, R289) -/

/-- A shuffle or quad exchange. -/
def legalShfl (o : Shfl) : Bool := legalG o.d

/-- `lred` and `lscan`. -/
def legalLane (rounds : Bool) (o : LaneRed) : Bool :=
  tyLane o.ty && (o.rnd == .rne || (rounds && o.ty == .f32)) && legalG o.d

/-- The completion fields (R277). -/
def legalCompl (k : Compl) : Bool :=
  (unused k.d || legalH k.d) && (k.ben || k.bar == 0) && (k.fen || k.flag == 0)

/-- One link of a chain: an end link, or an operation with its operand (R182, R289). -/
def legalLink (l : BitVec 16) : Bool :=
  let v := l.toNat
  let op := natBits v 15 10
  let kind := natBits v 9 8
  let val := natBits v 7 0
  if 1 ≤ op && op ≤ 7 then kind == 2 || (kind == 1 && val < 112) || (kind == 3 && val < 64)
  else 8 ≤ op && op ≤ 0x11 && kind == 0 && val == 0

/-- A list of links: operations, then end links only (R182). -/
def legalLinks : List (BitVec 16) → Bool
  | [] => true
  | l :: ls => if l == 0 then ls.all (· == 0) else legalLink l && legalLinks ls

/-- The eight links of the two continuation words, link 0 first (R182). -/
def chainLinks (w2 w3 : DWord) : List (BitVec 16) :=
  [w2.extractLsb' 0 16, w2.extractLsb' 16 16, w2.extractLsb' 32 16, w2.extractLsb' 48 16,
   w3.extractLsb' 0 16, w3.extractLsb' 16 16, w3.extractLsb' 32 16, w3.extractLsb' 48 16]

/-- `chain` (R288). -/
def legalChain (o : ChainOps) : Bool :=
  legalCompl o.compl && legalPair o.a && legalPair o.b && legalLinks (chainLinks o.w2 o.w3)

/-! ## Special registers (R187, R315) -/

/-- Access to a special register. -/
inductive SrAccess where
  | ro | rw | priv
  deriving DecidableEq, Repr

/-- The listed special registers: whether 64 bits wide, and the access. -/
def srInfo (n : Nat) : Option (Bool × SrAccess) :=
  match n with
  | 0x00 | 0x01 | 0x02 | 0x03 | 0x04 | 0x05 | 0x06 | 0x07 | 0x08 | 0x09 | 0x0A | 0x0B | 0x0C =>
    some (false, .ro)
  | 0x0D => some (false, .rw)
  | 0x10 | 0x11 => some (true, .ro)
  | 0x12 => some (true, .priv)
  | 0x13 => some (false, .priv)
  | 0x20 => some (false, .ro)
  | 0x21 | 0x22 => some (false, .priv)
  | 0x24 => some (true, .ro)
  | 0x26 => some (true, .priv)
  | _ => none

/-- `rdsr` of a listed register, even D for 64 bits (R187, R316). -/
def legalRdsr (d : Reg) (n : BitVec 8) : Bool :=
  match srInfo n.toNat with
  | some (wide, _) => if wide then legalPair d else legalG d
  | none => false

/-- `wrsr` of a writable register, even A for 64 bits (R187, R316). -/
def legalWrsr (a : Reg) (n : BitVec 8) : Bool :=
  match srInfo n.toNat with
  | some (wide, acc) => acc != .ro && (!wide || legalPair a)
  | none => false

/-! ## Every instruction -/

/-- Whether an instruction is legal from the word alone (R407). Port-program words carry no such check
(what R343 forbids stops the thread when the word is executed), and an event has no word. -/
def legal : Instr → Bool
  -- class 0x0 (R204)
  | .add _ o | .sub _ o | .mul _ o | .min _ o | .max _ o | .sadd _ o | .ssub _ o => legal3 tyIntPacked o
  | .mulhi _ o | .and _ o | .or _ o | .xor _ o | .div _ o | .rem _ o => legal3 tyInt o
  | .mad _ o =>
    tyInt o.ty && plain o && legalDst o.ty o.d && legalSrc o.ty o.a && legalSrc o.ty o.b &&
    legalSrc o.ty o.c && o.imm == 0
  | .madw _ o => tyInt32 o.ty && plain o && legalPair o.d && legalPair o.c && o.imm == 0
  | .abs _ o | .neg _ o => legalAbs o
  | .not _ o | .brev _ o => legal2 tyInt o
  | .shl _ o | .shr _ o | .sar _ o | .rol _ o => legalShift o
  | .bfx _ o => legalBf false o
  | .bfi _ o => legalBf true o
  | .popc _ o | .clz _ o => legalCount o
  | .sel _ o =>
    tyMove o.ty && plain o && legalDst o.ty o.d && legalSrc o.ty o.a && legalSrc o.ty o.b &&
    legalPred o.c && o.imm == 0
  | .setp _ o => legalSetp tyInt 6 o
  | .mov _ o => legal2 tyMove o
  | .lea _ o => tyInt32 o.ty && plain o && legalPair o.d && legalPair o.a && unused o.c && o.imm.toNat ≤ 4
  -- format I (R209)
  | .addi _ o | .andi _ o | .ori _ o | .xori _ o => legalImm o
  | .movi _ o => legalMovi o
  | .movhi _ o => legalPair o.d && unused o.a && o.m4 == 0
  | .setpi _ o => legalPred o.d && o.m4.toNat % 8 < 6
  -- predicates and uniform registers (R210, R211): every field is in its own width
  | .pand _ _ | .por _ _ | .pxor _ _ | .pnot _ _ _ => true
  | .movs _ d _ => legalG d
  | .wrs _ _ _ => true
  -- class 0x1 (R213)
  | .fadd _ o | .fsub _ o | .fmul _ o | .fdiv _ o => legalFloat 2 true o
  | .ffma _ o => legalFloat 3 true o
  | .fmin _ o | .fmax _ o => legalFloat 2 false o
  | .fabs _ o | .fneg _ o => legalFloat 1 false o
  | .fsetp _ o => legalSetp tyFloat1 8 o
  | .frcp _ o | .frsq _ o | .fsqrt _ o | .fex2 _ o | .flg2 _ o | .fsin _ o | .fcos _ o | .ftanh _ o
  | .fround _ o => legalFloat 1 true o
  | .fclass _ o => tyFloat1 o.ty && plain o && legalG o.d && unused o.b && unused o.c && o.imm == 0
  | .fscale _ o => legalFloat 2 true o
  -- class 0x2 (R219)
  | .cvt _ o => legalCvt o
  | .pkBf16 _ o => o.ty == .f32 && legalG o.d && unused o.c && o.imm == 0
  | .upkBf16 _ o => o.ty == .bf16x2 && plain o && legalPair o.d && unused o.b && unused o.c && o.imm == 0
  | .pkF8 _ o => tyF8 o.ty && legalG o.d && legalQuad o.a && unused o.b && unused o.c && o.imm == 0
  | .upkF8 _ o => tyF8 o.ty && plain o && legalQuad o.d && unused o.b && unused o.c && o.imm == 0
  | .npiEnc _ o =>
    o.ty == .i8x4 && plain o && legalOctet o.d && legalOctet o.a && unused o.b && unused o.c && o.imm == 0
  | .npiDec _ o =>
    o.ty == .i8x4 && plain o && legalOctet o.d && legalOctet o.a && unused o.b && unused o.c &&
    2 ≤ o.imm.toNat && o.imm.toNat ≤ 8
  | .bscale _ o => tyBlock o.ty && plain o && legalG o.d && unused o.b && unused o.c && o.imm == 0
  | .bquant _ o => tyBlock o.ty && legalG o.d && legalQuad o.a && unused o.c && o.imm == 0
  | .bdot _ o => legalBdot o
  -- class 0x3 (R227)
  | .bra _ _ | .mbr _ _ | .call _ _ | .callo _ _ _ | .calli _ _ | .ret _ | .exit _ | .yield _ | .nop _
  | .bri _ _ | .brk _ _ => true
  -- class 0x4 (R237)
  | .voteAll _ _ _ _ | .voteAny _ _ _ _ => true
  | .voteBal _ d _ _ => legalG d
  | .shflIdx _ o src => legalShfl o && (match src with
      | .reg r => legalG r
      | .lane _ => true)
  | .shflUp _ o _ | .shflDn _ o _ | .shflXor _ o _ | .qxH _ o | .qxV _ o | .qxD _ o => legalShfl o
  | .lredAdd _ o | .lscanAdd _ o => legalLane true o
  | .lredMax _ o | .lredMin _ o => legalLane false o
  | .matchLanes _ d _ _ => legalG d
  -- classes 0x5 and 0x6 (R247)
  | .ld _ o | .ldAcq _ o => legalLoad o
  | .ldNc _ o => legalLoad o && o.space == .glob
  | .pf _ o => unused o.d && legalAddr o && !o.sx
  | .pop _ o => legalStackOp o && legalSx o && !o.nt
  | .st _ o | .stRel _ o => legalStore o
  | .push _ o => legalStackOp o && !o.sx
  -- class 0x7 (R256, R259)
  | .atomAdd _ o | .atomMin _ o | .atomMax _ o | .atomAnd _ o | .atomOr _ o | .atomXor _ o
  | .atomXchg _ o | .atomInc _ o => legalAtom false o
  | .atomCas _ o => legalAtom true o
  | .redAdd _ o | .redMin _ o | .redMax _ o | .redOr _ o => legalRed o
  | .nmcas _ o => legalAgent .b128 10 o
  | .nmenq _ o | .nmchase _ o => legalAgent .b64 3 o
  -- class 0x8 (R261, R262)
  | .fence _ _ | .barInit _ _ _ | .barExp _ _ _ | .barWait _ _ _ _ | .barTst _ _ _ _ _ | .fwait _ _
  | .afree _ _ => true
  | .barArr _ d _ => legalG d
  | .waitany _ d _ _ => legalG d
  | .heatArr _ d => legalPair d
  | .heatWait _ _ a => legalPair a
  | .aalloc _ d _ _ => legalG d
  -- class 0x9 (R277, R278)
  | .cpy _ k a | .cpyRed _ k a | .cpyBc _ k a => legalCompl k && legalPair a
  | .chain _ o => legalChain o
  | .cpyT _ k _ | .cpyD _ k _ _ => legalCompl k
  -- class 0xA (R291, R295)
  | .tbind _ a _ c view _ => legalPair a && a.toNat + 2 < 112 && (if view then legalPair c else unused c)
  | .tgive _ _ | .ttake _ _ | .tfree _ _ => true
  | .tstat _ d _ => legalG d
  | .mma _ _ _ _ | .mmaBs _ _ _ _ | .mmaNp _ _ _ _ _ | .mmaCoop _ _ _ _ _ _ _ _ | .mzero _ _
  | .mdrain _ _ _ | .csel _ _ _ => true
  | .mseq _ d _ => legalG d
  -- class 0xB (R274)
  | .hwait _ _ | .htest _ _ _ | .hcancel _ _ | .hpass _ _ _ => true
  | .hget _ d _ => legalPair d
  -- class 0xC (R309)
  | .ovld _ _ _ | .ovpin _ _ _ | .ovunpin _ _ | .ovevict _ _ _ => true
  | .ovq _ d _ => legalG d
  -- class 0xD (R314 to R323)
  | .trap _ _ | .eret _ | .park _ _ _ | .resume _ _ _ | .kill _ _ _ | .logpush _ _ => true
  | .rdsr _ d n => legalRdsr d n
  | .wrsr _ a n => legalWrsr a n
  | .frsave _ a | .frload _ a | .bsave _ a | .brest _ a => legalPair a
  | .tlbinv _ a mode => legalPair a && mode.toNat != 3
  -- port programs
  | .mcfMatch d _ | .mcfDrain d _ _ => d.toNat ≤ 12
  | .mcfFwd _ _ b _ | .mcfRepl _ _ b _ _ | .mcfNack _ b => b.toNat ≤ 12
  | .mcfEmit _ a _ => a.toNat % 2 = 0
  | .mcfComb _ _ _ op => op.toNat < 8 || op.toNat == 0xA || op.toNat == 0xB
  | .mcfNop | .mcfLookup _ _ _ | .mcfLookupM _ _ _ | .mcfHold _ | .mcfWait _ _ | .mcfBarup _ _
  | .mcfGrant _ _ _ | .mcfCnt _ _ _ _ | .mcfJmp _ | .mcfJz _ _ | .mcfJnz _ _
  | .mcfSet _ _ | .mcfSetHi _ _ | .mcfAdd _ _ _ _ | .mcfAddImm _ _ _ | .mcfLd _ _ _ | .mcfSt _ _ _
  | .mcfOrder _ | .mcfLog _ _ | .mcfEnd => true
  -- events
  | .blockHeaderEntry _ _ _ | .issueSlot _ _ | .controlCoreIssue _ | .rejoinHoldTimeout _ _ _ _
  | .rendezvousTimeout _ _ _ | .handlerEntry _ | .runtimeResume _ _ | .runtimeKill _ _ | .blockKill _ _
  | .watchdogTimeout _ _ | .preemptContext _ | .preemptionComplete _ | .contextResume _ | .blockRetire _
  | .doorbellWrite _ _ _ | .launchAccept _ _ | .batchForm | .resourceAdvertise _ | .blockPlace _
  | .launchComplete _ | .aallocStallFail _ | .pageWalk _ _ | .homeSliceAccess _ _
  | .directoryInvalidate _ _ | .storeAck _ | .loadReturn _ | .replicaCommit _ | .replicaUpdate _
  | .ackLostTimeout _ | .lineThaw _ | .replicaLockTimeout _ | .stackCacheSpill _ _ _
  | .copyComplete _ _ | .chainComplete _ _ | .matrixStepComplete _ | .coopTimeout _ | .nmAgentExecute _
  | .overlayLoadComplete _ _ | .frctlWrite _ _ | .frctlErrClear _ | .moncfgWrite _ _ | .monitorClear _
  | .monitorLevelSample _ | .registerWrite _ _ | .contextRecordWrite _ _ | .powerControlInterval _
  | .shapingWindowBoundary | .dwriteSend _ | .dwriteAccept _ | .snapshotRead _ | .snapshotResponse _
  | .packageArrive _ | .activityReport _ _ | .quenchArrivalReport _ _ _ _ | .quenchApply _ _
  | .quenchDone _ _ _ | .quenchRelease _ | .quenchSkewTimeout _ | .readmissionRequest _ _
  | .windowFreeze _ | .windowThaw _ | .programBind _ | .programUnbind _ _ | .packetReceive _
  | .grantReceive _ | .nackReceive _ | .rowAck _ _ _ _ _ | .roundComplete _ _ | .collectiveTimeout _ _
  | .packageReset _ | .contextReset _ | .hearthDieReset _ | .dieRejoin _ | .dieFailTimeout _
  | .portEnable _ | .trainingComplete _ | .trainingTimeout _ | .joinExchange _ _ | .attestationReport _ _
  | .linkLoss _ | .portClear _ | .frameReceive _ _ | .noPathTimeout _ | .keyRefresh _ | .keyStarved _
  | .heatDomainForm _ _ | .tlbinvRemovalComplete _ => true

end Sys2Proof.Machine
end

