-- ==== Sys2Proof/Machine/Operands.lean ====
section
/-! DEFINITION. Operand forms: the elements of a typed register operand (R95, R201), the registers each
instruction names (R49, R184, R200), the address a format M instruction forms (R191), and condition codes
(R207). -/

namespace Sys2Proof.Machine

/-! ## Typed operands (R201) -/

/-- Bits of an operand of a type. -/
def tyWidth (t : ElemTy) : Nat := if tyWide t then 64 else if t == .bf16 then 16 else 32

/-- Elements of a type (R189). -/
def tyCount (t : ElemTy) : Nat := tyWidth t / tyBits t

/-- Reads an operand of a type as a number. -/
def Thread.readT (t : Thread) (ty : ElemTy) (r : Reg) : Nat :=
  if tyWide ty then (t.pair r.toNat).toNat
  else if ty == .bf16 then (t.src r).toNat % 65536
  else (t.src r).toNat

/-- Writes an operand of a type; a bf16 write clears the upper half (R201). -/
def Thread.writeT (t : Thread) (ty : ElemTy) (r : Reg) (v : Nat) : Thread :=
  if tyWide ty then t.setPair r.toNat (BitVec.ofNat 64 v)
  else if ty == .bf16 then t.setG r.toNat (BitVec.ofNat 32 (v % 65536))
  else t.setG r.toNat (BitVec.ofNat 32 v)

/-- The elements of a number, `n` bits each, least significant first (R95). -/
def splitElems (n : Nat) : Nat → Nat → List Nat
  | 0, _ => []
  | k + 1, v => v % 2 ^ n :: splitElems n k (v / 2 ^ n)

/-- The number of a list of elements of `n` bits. -/
def joinElems (n : Nat) : List Nat → Nat
  | [] => 0
  | v :: vs => v % 2 ^ n + 2 ^ n * joinElems n vs

/-- The elements of an operand. -/
def Thread.elems (t : Thread) (ty : ElemTy) (r : Reg) : List Nat :=
  splitElems (tyBits ty) (tyCount ty) (t.readT ty r)

/-- Writes the elements of an operand. -/
def Thread.setElems (t : Thread) (ty : ElemTy) (r : Reg) (l : List Nat) : Thread :=
  t.writeT ty r (joinElems (tyBits ty) l)

/-- Whether the type is signed (R204). -/
def tyIsSigned (t : ElemTy) : Bool := t == .i32 || t == .i64 || t == .i8x4 || t == .i16x2

/-- The exact integer of an element: signed or unsigned by the type. -/
def elemInt (t : ElemTy) (v : Nat) : Int := if tyIsSigned t then natSigned (tyBits t) v else v % 2 ^ tyBits t

/-- The least value of an integer type. -/
def tyMin (t : ElemTy) : Int := if tyIsSigned t then -(2 : Int) ^ (tyBits t - 1) else 0

/-- The greatest value of an integer type. -/
def tyMax (t : ElemTy) : Int := if tyIsSigned t then (2 : Int) ^ (tyBits t - 1) - 1 else (2 : Int) ^ tyBits t - 1

/-- Clamps to the range of a type; whether it changed the value (R101). -/
def clampTy (t : ElemTy) (v : Int) : Int × Bool :=
  if v < tyMin t then (tyMin t, true) else if tyMax t < v then (tyMax t, true) else (v, false)

/-! ## Condition codes (R207) -/

/-- The integer condition codes: eq, ne, lt, le, gt, ge. -/
def icond (cc : Nat) (a b : Int) : Bool :=
  match cc with
  | 0 => a == b
  | 1 => a != b
  | 2 => a < b
  | 3 => a ≤ b
  | 4 => b < a
  | _ => b ≤ a

/-! ## Addresses of format M (R191) -/

/-- The index register, 0 when B is 127. -/
def Thread.index (t : Thread) (b : Reg) : Int := if b.toNat = 127 then 0 else (t.src b).toInt

/-- The address of SPACE 0 to 3 (R191). -/
def Thread.memAddr (t : Thread) (o : Mem) : DWord :=
  BitVec.ofInt 64 ((t.pair o.a.toNat).toNat + t.index o.b + o.imm.toInt)

/-- The offset into a window (R191). -/
def Thread.winAddr (t : Thread) (o : Mem) : DWord := BitVec.ofInt 64 ((t.pair o.a.toNat).toNat + o.imm.toInt)

/-- The stack pointer of SPACE 4 (R89). -/
def Thread.stackPtr (t : Thread) (o : Mem) : Word := BitVec.ofInt 32 ((t.g 111).toNat + o.imm.toInt)

/-- The offset of a stack pointer above the stack limit (R89). -/
def Thread.stackOff (t : Thread) (x : Word) : Nat := (x - t.stklim.extractLsb' 0 32).toNat

/-- The global address of a stack pointer (R89). -/
def Thread.stackAddr (t : Thread) (x : Word) : DWord := t.stklim + BitVec.ofNat 64 (t.stackOff x)

/-- Bytes of an access. -/
def sizeBytes : Size → Nat
  | .b8 => 1 | .b16 => 2 | .b32 => 4 | .b64 => 8 | .b128 => 16

/-- Registers that hold an access of a size. -/
def sizeRegs : Size → Nat
  | .b8 | .b16 | .b32 => 1
  | .b64 => 2
  | .b128 => 4

/-! ## The registers an instruction names (R49, R185, R200)

Numbers 0 to 111 are g registers and 112 to 127 h registers. An h register stands here when the
instruction waits for it: a source (R185), or the destination of an operation that it starts. -/

/-- `n` registers from one up. -/
def run (r : Reg) (n : Nat) : List Nat := (List.range n).map (r.toNat + ·)

/-- An operand of a type. -/
def runT (t : ElemTy) (r : Reg) : List Nat := run r (if tyWide t then 2 else 1)

/-- The registers of a memory operand's address. -/
def memNames (o : Mem) : List Nat :=
  match o.space with
  | .stack => [111]
  | .win => run o.a 2 ++ [o.b.toNat]
  | _ => run o.a 2 ++ (if o.b.toNat = 127 then [] else [o.b.toNat])

/-- The registers of a load or a store. -/
def accessNames (o : Mem) : List Nat := memNames o ++ run o.d (sizeRegs o.size)

/-- A handle register that may be absent (R277). -/
def hdlName (d : Reg) : List Nat := if d.toNat < 112 then [] else [d.toNat]

/-- The g registers that the links of a chain read (R289). -/
def linkNames (o : ChainOps) : List Nat :=
  ((chainLinks o.w2 o.w3).filter fun l => l != 0 && l.extractLsb' 8 2 == 1).map fun l => (l.extractLsb' 0 8).toNat

/-- The registers each core instruction names; a port-program word or an event names none. -/
def names : Instr → List Nat
  | .add _ o | .sub _ o | .mul _ o | .mulhi _ o | .min _ o | .max _ o | .and _ o | .or _ o | .xor _ o
  | .div _ o | .rem _ o | .sadd _ o | .ssub _ o | .bfi _ o => runT o.ty o.d ++ runT o.ty o.a ++ runT o.ty o.b
  | .mad _ o => runT o.ty o.d ++ runT o.ty o.a ++ runT o.ty o.b ++ runT o.ty o.c
  | .madw _ o => run o.d 2 ++ run o.a 1 ++ run o.b 1 ++ run o.c 2
  | .abs _ o | .neg _ o | .not _ o | .bfx _ o | .brev _ o | .mov _ o => runT o.ty o.d ++ runT o.ty o.a
  | .shl _ o | .shr _ o | .sar _ o | .rol _ o => runT o.ty o.d ++ runT o.ty o.a ++ run o.b 1
  | .popc _ o | .clz _ o => run o.d 1 ++ runT o.ty o.a
  | .sel _ o => runT o.ty o.d ++ runT o.ty o.a ++ runT o.ty o.b
  | .setp _ o => runT o.ty o.a ++ runT o.ty o.b
  | .lea _ o => run o.d 2 ++ run o.a 2 ++ run o.b 1
  | .addi _ o | .andi _ o | .ori _ o | .xori _ o =>
    let n := if o.m4 = 1 then 2 else 1
    run o.d n ++ run o.a n
  | .movi _ o => run o.d (if o.m4 = 1 then 2 else 1)
  | .movhi _ o => run o.d 2
  | .setpi _ o => run o.a 1
  | .pand _ _ | .por _ _ | .pxor _ _ | .pnot _ _ _ => []
  | .movs _ d _ => run d 1
  | .wrs _ a _ => run a 1
  | .fadd _ o | .fsub _ o | .fmul _ o | .fmin _ o | .fmax _ o | .fdiv _ o | .fscale _ o =>
    run o.d 1 ++ run o.a 1 ++ run o.b 1
  | .ffma _ o => run o.d 1 ++ run o.a 1 ++ run o.b 1 ++ run o.c 1
  | .fabs _ o | .fneg _ o | .frcp _ o | .frsq _ o | .fsqrt _ o | .fex2 _ o | .flg2 _ o | .fsin _ o
  | .fcos _ o | .ftanh _ o | .fclass _ o | .fround _ o => run o.d 1 ++ run o.a 1
  | .fsetp _ o => run o.a 1 ++ run o.b 1
  | .cvt _ o => runT o.ty o.d ++ (match cvtSrc o.imm with
      | some t => runT t o.a
      | none => [])
  | .pkBf16 _ o => run o.d 1 ++ run o.a 1 ++ run o.b 1
  | .upkBf16 _ o => run o.d 2 ++ run o.a 1
  | .pkF8 _ o => run o.d 1 ++ run o.a 4
  | .upkF8 _ o => run o.d 4 ++ run o.a 1
  | .npiEnc _ o | .npiDec _ o => run o.d 8 ++ run o.a 8
  | .bscale _ o => run o.d 1 ++ run o.a 1
  | .bquant _ o => run o.d 1 ++ run o.a 4 ++ run o.b 1
  | .bdot _ o => run o.d 1 ++ run o.a 8 ++ run o.b 8 ++ (if bdotIacc o.imm then [] else run o.c 1)
  | .bra _ _ | .mbr _ _ | .exit _ | .yield _ | .nop _ | .brk _ _ => []
  | .call _ _ | .callo _ _ _ | .ret _ => [111]
  | .calli _ a => run a 1 ++ [111]
  | .bri _ a => run a 1
  | .voteAll _ _ _ b | .voteAny _ _ _ b => run b 1
  | .voteBal _ d _ b => run d 1 ++ run b 1
  | .shflIdx _ o src => run o.d 1 ++ run o.a 1 ++ run o.b 1 ++ (match src with
      | .reg r => run r 1
      | .lane _ => [])
  | .shflUp _ o _ | .shflDn _ o _ | .shflXor _ o _ | .qxH _ o | .qxV _ o | .qxD _ o =>
    run o.d 1 ++ run o.a 1 ++ run o.b 1
  | .lredAdd _ o | .lredMax _ o | .lredMin _ o | .lscanAdd _ o => run o.d 1 ++ run o.a 1 ++ run o.b 1
  | .matchLanes _ d a b => run d 1 ++ run a 1 ++ run b 1
  | .ld _ o | .ldAcq _ o | .ldNc _ o | .st _ o | .stRel _ o => accessNames o
  | .pf _ o => memNames o
  | .pop _ o | .push _ o => accessNames o
  | .atomAdd _ o | .atomMin _ o | .atomMax _ o | .atomAnd _ o | .atomOr _ o | .atomXor _ o
  | .atomXchg _ o | .atomInc _ o | .redAdd _ o | .redMin _ o | .redMax _ o | .redOr _ o => accessNames o
  | .atomCas _ o => memNames o ++ run o.d (2 * sizeRegs o.size)
  | .nmcas _ o => memNames o ++ [o.d.toNat] ++ (run o.a 11).drop 2
  | .nmenq _ o | .nmchase _ o => memNames o ++ [o.d.toNat] ++ (run o.a 4).drop 2
  | .fence _ _ => []
  | .barInit _ _ a | .barExp _ _ a => run a 1
  | .barArr _ d _ => run d 1
  | .barWait _ _ _ a | .barTst _ _ _ _ a => run a 1
  | .waitany _ d a b => run d 1 ++ run a 1 ++ run b 1
  | .heatArr _ d => run d 2
  | .heatWait _ _ a => run a 2
  | .fwait _ _ => []
  | .aalloc _ d _ a => run d 1 ++ run a 1
  | .afree _ a => run a 1
  | .cpy _ k a | .cpyRed _ k a | .cpyBc _ k a => hdlName k.d ++ run a 2
  | .cpyT _ k a | .cpyD _ k a _ => hdlName k.d ++ run a 1
  | .chain _ o =>
    hdlName o.compl.d ++ run o.a (if o.srcTile then 1 else 2) ++ run o.b (if o.dstTile then 1 else 2) ++
    run o.c 1 ++ linkNames o
  | .tbind _ a b c view _ => run a 3 ++ run b 1 ++ (if view then run c 2 else [])
  | .tgive _ a | .ttake _ a | .tfree _ a => run a 1
  | .tstat _ d a => run d 1 ++ run a 1
  | .mma _ a b c | .mmaBs _ a b c | .mmaNp _ a b c _ | .mmaCoop _ a b c _ _ _ _ =>
    run a 1 ++ run b 1 ++ run c 1
  | .mzero _ a => run a 1
  | .mdrain _ a b | .csel _ a b => run a 1 ++ run b 1
  | .mseq _ d _ => run d 1
  | .hwait _ _ | .htest _ _ _ | .hcancel _ _ | .hpass _ _ _ => []
  | .hget _ d a => run d 2 ++ [112 + a.toNat]
  | .ovld _ d a => [112 + d.toNat] ++ run a 1
  | .ovpin _ _ a | .ovunpin _ a | .ovevict _ _ a => run a 1
  | .ovq _ d a => run d 1 ++ run a 1
  | .trap _ _ | .eret _ => []
  | .rdsr _ d n => run d (if (srInfo n.toNat).any (·.1) then 2 else 1)
  | .wrsr _ a n => run a (if (srInfo n.toNat).any (·.1) then 2 else 1)
  | .park _ _ a | .resume _ _ a | .kill _ _ a => run a 1
  | .frsave _ a | .frload _ a | .bsave _ a | .brest _ a => run a 2
  | .logpush _ a => run a 1
  | .tlbinv _ a _ => run a 2
  | .mcfNop | .mcfMatch _ _ | .mcfLookup _ _ _ | .mcfLookupM _ _ _ | .mcfHold _ | .mcfComb _ _ _ _
  | .mcfWait _ _ | .mcfFwd _ _ _ _ | .mcfRepl _ _ _ _ _ | .mcfEmit _ _ _ | .mcfBarup _ _
  | .mcfGrant _ _ _ | .mcfNack _ _ | .mcfCnt _ _ _ _ | .mcfJmp _ | .mcfJz _ _ | .mcfJnz _ _
  | .mcfSet _ _ | .mcfSetHi _ _ | .mcfAdd _ _ _ _ | .mcfAddImm _ _ _ | .mcfLd _ _ _ | .mcfSt _ _ _
  | .mcfOrder _ | .mcfDrain _ _ _ | .mcfLog _ _ | .mcfEnd
  | .blockHeaderEntry _ _ _ | .issueSlot _ _ | .controlCoreIssue _ | .rejoinHoldTimeout _ _ _ _
  | .rendezvousTimeout _ _ _ | .handlerEntry _ | .runtimeResume _ _ | .runtimeKill _ _ | .blockKill _ _
  | .watchdogTimeout _ _ | .preemptContext _ | .preemptionComplete _ | .contextResume _ | .blockRetire _
  | .doorbellWrite _ _ _ | .launchAccept _ _ | .batchForm | .resourceAdvertise _ | .blockPlace _
  | .launchComplete _ | .aallocStallFail _ | .pageWalk _ _ | .homeSliceAccess _ _
  | .directoryInvalidate _ _ | .storeAck _ | .loadReturn _ | .replicaCommit _ | .replicaUpdate _
  | .ackLostTimeout _ | .lineThaw _ | .replicaLockTimeout _ | .stackCacheSpill _ _ _
  | .copyComplete _ _ | .chainComplete _ _ | .matrixStepComplete _ | .coopTimeout _ | .nmAgentExecute _
  | .overlayLoadComplete _ _ | .frctlWrite _ _ | .frctlErrClear _ | .moncfgWrite _ _ | .monitorClear _
  | .monitorLevelSample _ | .registerWrite _ _ | .contextRecordWrite _ _ | .powerControlInterval _
  | .shapingWindowBoundary | .dwriteSend _ | .dwriteAccept _ | .snapshotRead _ | .snapshotResponse _
  | .packageArrive _ | .activityReport _ _ | .quenchArrivalReport _ _ _ _ | .quenchApply _ _
  | .quenchDone _ _ _ | .quenchRelease _ | .quenchSkewTimeout _ | .readmissionRequest _ _
  | .windowFreeze _ | .windowThaw _ | .programBind _ | .programUnbind _ _ | .packetReceive _
  | .grantReceive _ | .nackReceive _ | .rowAck _ _ _ _ _ | .roundComplete _ _ | .collectiveTimeout _ _
  | .packageReset _ | .contextReset _ | .hearthDieReset _ | .dieRejoin _ | .dieFailTimeout _
  | .portEnable _ | .trainingComplete _ | .trainingTimeout _ | .joinExchange _ _ | .attestationReport _ _
  | .linkLoss _ | .portClear _ | .frameReceive _ _ | .noPathTimeout _ | .keyRefresh _ | .keyStarved _
  | .heatDomainForm _ _ | .tlbinvRemovalComplete _ => []

/-- The registers a guard-true thread reads: those it names, without a destination that is only written (R223, R430). -/
def reads : Instr → List Nat
  | .add _ o | .sub _ o | .mul _ o | .mulhi _ o | .min _ o | .max _ o | .and _ o | .or _ o | .xor _ o
  | .div _ o | .rem _ o | .sadd _ o | .ssub _ o | .bfi _ o | .sel _ o => runT o.ty o.a ++ runT o.ty o.b
  | .mad _ o => runT o.ty o.a ++ runT o.ty o.b ++ runT o.ty o.c
  | .madw _ o => run o.a 1 ++ run o.b 1 ++ run o.c 2
  | .abs _ o | .neg _ o | .not _ o | .bfx _ o | .brev _ o | .mov _ o | .popc _ o | .clz _ o => runT o.ty o.a
  | .shl _ o | .shr _ o | .sar _ o | .rol _ o => runT o.ty o.a ++ run o.b 1
  | .lea _ o => run o.a 2 ++ run o.b 1
  | .addi _ o | .andi _ o | .ori _ o | .xori _ o => run o.a (if o.m4 = 1 then 2 else 1)
  | .movi _ _ | .movhi _ _ | .movs _ _ _ | .rdsr _ _ _ | .barArr _ _ _ | .heatArr _ _ | .mseq _ _ _ => []
  | .fadd _ o | .fsub _ o | .fmul _ o | .fmin _ o | .fmax _ o | .fdiv _ o | .fscale _ o | .pkBf16 _ o =>
    run o.a 1 ++ run o.b 1
  | .ffma _ o => run o.a 1 ++ run o.b 1 ++ run o.c 1
  | .fabs _ o | .fneg _ o | .frcp _ o | .frsq _ o | .fsqrt _ o | .fex2 _ o | .flg2 _ o | .fsin _ o
  | .fcos _ o | .ftanh _ o | .fclass _ o | .fround _ o | .upkBf16 _ o | .upkF8 _ o | .bscale _ o => run o.a 1
  | .cvt _ o => match cvtSrc o.imm with
    | some t => runT t o.a
    | none => []
  | .pkF8 _ o => run o.a 4
  | .npiEnc _ o => run o.a 8
  | .npiDec _ o => run o.a (o.imm.toNat % 16)
  | .bquant _ o => run o.a 4 ++ run o.b 1
  | .bdot _ o => run o.d 1 ++ run o.a 8 ++ run o.b 8 ++ (if bdotIacc o.imm then [] else run o.c 1)
  | .voteBal _ _ _ b => run b 1
  | .shflIdx _ o src => run o.a 1 ++ run o.b 1 ++ (match src with
      | .reg r => run r 1
      | .lane _ => [])
  | .shflUp _ o _ | .shflDn _ o _ | .shflXor _ o _ | .qxH _ o | .qxV _ o | .qxD _ o => run o.a 1 ++ run o.b 1
  | .lredAdd _ o | .lredMax _ o | .lredMin _ o | .lscanAdd _ o => run o.a 1 ++ run o.b 1
  | .matchLanes _ _ a b | .waitany _ _ a b => run a 1 ++ run b 1
  | .ld _ o | .ldAcq _ o | .ldNc _ o | .pop _ o => memNames o
  | .aalloc _ _ _ a | .tstat _ _ a | .ovq _ _ a => run a 1
  | .hget _ _ a => [112 + a.toNat]
  | i => names i

/-- The predicates a guard-true thread reads beside its guard (R208, R216, R229, R241). -/
def readPreds : Instr → List Nat
  | .sel _ o => [o.c.toNat % 8]
  | .pand _ o | .por _ o | .pxor _ o => [o.a.toNat, o.b.toNat]
  | .pnot _ _ a => [a.toNat]
  | .mbr _ o => [o.s0.p.toNat, o.s1.p.toNat, o.s2.p.toNat, o.s3.p.toNat]
  | .voteAll _ _ a _ | .voteAny _ _ a _ | .voteBal _ _ a _ => [a.toNat]
  | _ => []

end Sys2Proof.Machine
end

