-- ==== Sys2Proof/Machine/Combine.lean ====
section
/-! DEFINITION. The combinations of two 32-bit elements that conflict rules (R157), `red` operations (R163), reduce copies
(R282) and `comb` (R342) share. -/

namespace Sys2Proof.Machine

/-- A combined element and the cause it logs. -/
abbrev Combined := Nat × Option Cause

/-- FP32 addition under RNE (R97). -/
def addF32 (a b : Nat) : Combined :=
  let r := fadd .f32 .rne (fval .f32 a) (fval .f32 b)
  (r.bits, r.cause)

/-- BF16 addition, exact and rounded once (R282). -/
def addBf16 (a b : Nat) : Combined :=
  let r := fadd .bf16 .rne (fval .bf16 a) (fval .bf16 b)
  (r.bits, r.cause)

/-- Wrapping addition. -/
def addW (a b : Nat) : Combined := ((a + b) % 2 ^ 32, none)

/-- Saturating addition of I32, which logs 0x43 (R101). -/
def addS (a b : Nat) : Combined :=
  let r := clampTy .i32 (natSigned 32 a + natSigned 32 b)
  (intLow 32 r.1, if r.2 then some 0x43 else none)

/-- Maximum or minimum of FP32 (R113). -/
def selF32 (mx : Bool) (a b : Nat) : Combined := (fmaxmin .f32 mx a b, none)

/-- Signed maximum or minimum. -/
def selI32 (mx : Bool) (a b : Nat) : Combined :=
  ((if (natSigned 32 b < natSigned 32 a) == mx then a else b), none)

/-- Bitwise `or`. -/
def orW (a b : Nat) : Combined := (Nat.lor a b, none)

/-- Bitwise `and`. -/
def andW (a b : Nat) : Combined := (Nat.land a b, none)

/-- comb(v, d) of a conflict rule (R157). -/
def ruleComb (rule : Nat) (v d : Nat) : Combined :=
  match rule with
  | 2 => addF32 v d
  | 3 => addW v d
  | 4 => addS v d
  | 5 => selF32 true v d
  | 6 => selF32 false v d
  | 7 => selI32 true v d
  | 8 => selI32 false v d
  | _ => (d, none)

/-- The combination of a deferred `red` (R163, R257). -/
def redComb (k : DKind) (v d : Nat) : Combined :=
  match k with
  | .store _ => (d, none)
  | .redAdd _ => addW v d
  | .redMin _ => selI32 false v d
  | .redMax _ => selI32 true v d
  | .redOr _ => orW v d

/-- Reads a list of bytes as elements of `n` bytes. -/
def byteElems (n : Nat) : Nat → List Byte → List Nat
  | 0, _ => []
  | k + 1, bs => leNat (bs.take n) :: byteElems n k (bs.drop n)

/-- The bytes of elements of `n` bytes. -/
def elemBytes (n : Nat) (l : List Nat) : List Byte := l.flatMap (leBytes n)

end Sys2Proof.Machine
end

