-- ==== Sys2Proof/Machine/Monitor.lean ====
section
/-! DEFINITION. Monitors: their configuration fields (R365) and their samples (R366); the shaping level of a die (R361). -/

namespace Sys2Proof.Machine

/-- Ticks of a shaping window: 16 core cycles, from the package reset on (R361). -/
def shapingWindow : Nat := 16 * Config.coreTicks

/-- The level of a die: the one that the controller chose before this window. -/
def Die.levelAt (d : Die) (now : Nat) : Nat :=
  if d.nextAt / shapingWindow < now / shapingWindow then d.next else d.level

/-- EN: the monitor counts. -/
def Mon.en (m : Mon) : Bool := m.cfg.getLsbD 31
/-- LOG: log₂ buckets. -/
def Mon.logB (m : Mon) : Bool := m.cfg.getLsbD 30
/-- SHIFT: the width of a linear bucket. -/
def Mon.shift (m : Mon) : Nat := (m.cfg.extractLsb' 24 5).toNat
/-- ARG: the source argument. -/
def Mon.arg (m : Mon) : Nat := (m.cfg.extractLsb' 12 12).toNat
/-- SRC: the source code. -/
def Mon.src (m : Mon) : Nat := (m.cfg.extractLsb' 0 12).toNat

/-- The bucket of a sample (R366). -/
def Mon.bucket (m : Mon) (v : Nat) : Nat :=
  if m.logB then (if v = 0 then 0 else if 2 ^ 14 ≤ v then 15 else Nat.log2 v + 1)
  else Nat.min 15 (v / 2 ^ m.shift)

/-- A counter rises by one and saturates. -/
def bump (x : Word) : Word := if x = 0xFFFFFFFF then x else x + 1

/-- One sample: MIN, MAX and one bucket (R366). -/
def Mon.count (m : Mon) (v : Nat) : Mon :=
  let w := Nat.min v 0xFFFFFFFF
  { m with min := BitVec.ofNat 32 (Nat.min m.min.toNat w), max := BitVec.ofNat 32 (Nat.max m.max.toNat w),
           h := vmod m.h (m.bucket v) bump }

/-- A sample of a monitor in a cycle. -/
def Mon.sample (m : Mon) (cycle v : Nat) : Mon :=
  if m.en then { m.count v with own := if m.at_ == cycle then m.own ++ [v] else [v], at_ := cycle } else m

/-- Clears the counters of a monitor: the samples of the clear's own cycle are counted after it (R366). -/
def Mon.clear (m : Mon) (cycle : Nat) : Mon :=
  let z := { m with min := Mon.reset.min, max := Mon.reset.max, h := Mon.reset.h }
  if m.at_ == cycle then m.own.foldl Mon.count z else z

/-- Whether a source takes an argument (R365). -/
def srcHasArg (src : Nat) : Bool := src == 1 || src == 3 || src == 5 || src == 0x101 || src == 0x103

/-- Whether a monitor counts a source. -/
def Mon.counts (m : Mon) (src arg : Nat) : Bool := m.src == src && (!srcHasArg src || m.arg == arg)

/-- A sample of a die's source. -/
def State.sampleDie (s : State) (die src arg v : Nat) : State :=
  let cycle := s.tick / Config.coreTicks
  s.modDie die fun d => { d with mons := d.mons.map fun m => if m.counts src arg then m.sample cycle v else m }

/-- A sample of a source of the Anvil. -/
def State.sampleAnvil (s : State) (src arg v : Nat) : State :=
  let cycle := s.tick / Config.anvilTicks
  { s with amons := s.amons.map fun m => if m.counts src arg then m.sample cycle v else m }

/-- The latency of a wait on a core that began at a tick, in core cycles. -/
def State.sampleWait (s : State) (core src since : Nat) : State :=
  s.sampleDie (dieOf core) src (core % Config.coresPerDie) ((s.tick - since) / Config.coreTicks)

/-- Ticks of a microsecond. -/
def usTicks : Nat := 8000

/-- Adds an event of now to those of the last microsecond. -/
def addRecent (now : Nat) (l : List Nat) : List Nat := now :: l.filter fun t => now < t + usTicks

/-- The events of the last microsecond. -/
def countRecent (now : Nat) (l : List Nat) : Nat := (l.filter fun t => now < t + usTicks).length

end Sys2Proof.Machine
end

