-- ==== Sys2Proof/Machine/Translate.lean ====
section
/-! DEFINITION. Virtual addresses, page tables and translation buffers (R66 to R70), home dies (R68), format
ranges and their decoding (R102, R104, R107 to R110), and the reads and writes that engines and the
hardware itself make through them. -/

namespace Sys2Proof.Machine

/-! ## Page-table entries (R67) -/

/-- The attribute bits of an entry. -/
def pteHeat (e : DWord) : Bool := e.extractLsb' 15 1 == 1
/-- REPL: a replica in every die's near tier. -/
def pteRepl (e : DWord) : Bool := e.extractLsb' 14 1 == 1
/-- NEAR: pinned in the home near tier. -/
def pteNear (e : DWord) : Bool := e.extractLsb' 13 1 == 1
/-- LEAF: a 32 MiB leaf at level 1. -/
def pteLeaf (e : DWord) : Bool := e.extractLsb' 12 1 == 1
/-- ILV: 4 KiB interleave. -/
def pteIlv (e : DWord) : Bool := e.extractLsb' 11 1 == 1
/-- W: writes allowed. -/
def pteW (e : DWord) : Bool := e.extractLsb' 2 1 == 1
/-- R: reads allowed. -/
def pteR (e : DWord) : Bool := e.extractLsb' 1 1 == 1
/-- V: entry valid. -/
def pteV (e : DWord) : Bool := e.extractLsb' 0 1 == 1
/-- PA[39:16] of the page or the next table. -/
def pteFrame (e : DWord) : Nat := (e.extractLsb' 16 24).toNat
/-- The reserved bits are 0. -/
def pteClean (e : DWord) : Bool := e.extractLsb' 40 24 == 0 && e.extractLsb' 3 8 == 0
/-- A non-leaf entry has no bit but FRAME and V set (R67). -/
def pteNode (e : DWord) : Bool := pteClean e && e.extractLsb' 1 15 == 0

/-! ## Far memory (R68)

A byte of far memory is named by its place: its home die × 2^37 + its byte within that die. -/

/-- The home die of a physical address, and the byte within that die's 128 GiB, for both values of ILV. -/
def farByte (ilv : Bool) (pa : Nat) : Nat × Nat :=
  if ilv then (natBits pa 14 12, natBits pa 39 15 * 4096 + pa % 4096) else (natBits pa 39 37, pa % 2 ^ 37)

/-- The place of a byte in far memory. -/
def farPlace (ilv : Bool) (pa : Nat) : Nat := (farByte ilv pa).1 * 2 ^ 37 + (farByte ilv pa).2

/-- The place of a virtual address in far memory, under its leaf entry (R66 to R68). -/
def physOf (pte : DWord) (big : Bool) (va : DWord) : Nat :=
  farPlace (pteIlv pte) (pteFrame pte * 65536 + (if big then va.toNat % 2 ^ 25 else va.toNat % 65536))

/-- The die whose far memory holds a place. -/
def homeDie (pa : Nat) : Nat := pa / 2 ^ 37

/-! ## Format ranges (R102, R104, R107 to R110) -/

/-- First byte of a range. -/
def FmtRange.lo (r : FmtRange) : Nat := r.base.toNat * 32768
/-- First byte beyond a range. -/
def FmtRange.hi (r : FmtRange) : Nat := r.lim.toNat * 32768
/-- Bytes of a plane. -/
def FmtRange.plane (r : FmtRange) : Nat := r.str.toNat * 32768

/-- The enabled range that holds a physical address. -/
def State.rangeAt (s : State) (pa : Nat) : Option FmtRange :=
  s.fr.toList.find? fun r => r.en && r.lo ≤ pa && pa < r.hi

/-- Whether some bytes of far memory meet an enabled format range. -/
def State.inRange (s : State) (pa n : Nat) : Bool := s.fr.toList.any fun r => r.en && r.lo < pa + n && pa < r.hi

/-- v_k of a weight: its top `k` bits, read as a signed number, at the midpoint (R104). -/
def npiValue (k : Nat) (t : Nat) : Int :=
  natSigned k t * 2 ^ (8 - k) + (if k < 8 then 2 ^ (7 - k) else 0)

/-- The byte that an enabled range delivers for an address inside it (R109). -/
def rangeByte (m : List Host.Cell) (r : FmtRange) (pa : Nat) : Byte :=
  let k := r.fmt.toNat - 16
  let i := pa - r.lo
  if r.planes then (if i / r.plane < k then memGet m pa else 0)
  else
    let bit (p : Nat) : Nat := (memGet m (r.lo + p * r.plane + i / 8)).toNat / 2 ^ (i % 8) % 2
    BitVec.ofInt 8 (npiValue k ((List.range k).foldl (fun t p => 2 * t + bit p) 0))

/-- The byte a load of physical memory returns, decoded inside an enabled range (R109). -/
def State.physByte (s : State) (pa : Nat) : Byte :=
  match s.rangeAt pa with
  | some r => rangeByte s.mem r pa
  | none => memGet s.mem pa

/-- The bytes loads of physical memory return. -/
def State.physRead (s : State) (pa : Nat) : Nat → List Byte
  | 0 => []
  | n + 1 => s.physByte pa :: s.physRead (pa + 1) n

/-- The 64-bit word of far memory at a place. -/
def State.physWord (s : State) (pa : Nat) : DWord := BitVec.ofNat 64 (leNat (s.physRead pa 8))

/-! ## The walk (R66, R69) -/

/-- What a walk finds: the leaf entry and whether it is a 32 MiB leaf, or the cause (R69). -/
inductive Walked where
  | leaf (pte : DWord) (big : Bool)
  | fail (c : Cause)
  deriving DecidableEq, Repr


/-- A leaf entry, read at a level (R67, R69). -/
def checkLeaf (e : DWord) (big : Bool) : Walked :=
  if !pteClean e || (big && pteFrame e % 512 != 0) || (!big && pteLeaf e) then .fail 0x09
  else if pteHeat e && pteRepl e then .fail 0x17
  else .leaf e big

/-- Whether a page meets the spill area, which no context can address (R160): of an interleaved page, an eighth lies on
each die (R68). -/
def State.spillMeets (s : State) (pte : DWord) (big : Bool) : Bool :=
  let pa := pteFrame pte * 65536
  let n := if big then 2 ^ 25 else 65536
  let hit (a k : Nat) : Bool := a < s.spillBase + s.spill && s.spillBase < a + k
  s.spill != 0 && (if pteIlv pte then (List.range Config.dies).any fun d => hit (d * 2 ^ 37 + pa / 8) (n / 8) else hit pa n)

/-- What a walk finds at a leaf entry: one whose page meets the spill area is refused like an access that the entry does not
allow (DESIGN CHOICE, log entry 111). -/
def State.leafAt (s : State) (e : DWord) (big : Bool) : Walked :=
  match checkLeaf e big with
  | .leaf pte big => if s.spillMeets pte big then .fail 0x09 else .leaf pte big
  | .fail c => .fail c

/-- The walk of a context's page table (R66, R69). PTROOT is the physical address of the level-0 table, which lies in far
memory like every other table (DESIGN CHOICE, log entry 104). -/
def State.walk (s : State) (c : Nat) (va : DWord) : Walked :=
  let v := va.toNat
  if v / 2 ^ 48 ≠ 0 then .fail 0x08
  else
    let e0 := s.physWord ((s.ctx c).ptroot.toNat + 8 * natBits v 47 38)
    if !pteV e0 then .fail 0x08
    else if !pteNode e0 then .fail 0x09
    else
      let e1 := s.physWord (pteFrame e0 * 65536 + 8 * natBits v 37 25)
      if !pteV e1 then .fail 0x08
      else if pteLeaf e1 then s.leafAt e1 true
      else if !pteNode e1 then .fail 0x09
      else
        let e2 := s.physWord (pteFrame e1 * 65536 + 8 * natBits v 24 16)
        if !pteV e2 then .fail 0x08 else s.leafAt e2 false


/-- Whether the leaf entry of an address is one of level 1: the walk meets LEAF = 1 there. -/
def State.bigLeaf (s : State) (c : Nat) (va : DWord) : Bool :=
  let v := va.toNat
  let e0 := s.physWord ((s.ctx c).ptroot.toNat + 8 * natBits v 47 38)
  let e1 := s.physWord (pteFrame e0 * 65536 + 8 * natBits v 37 25)
  pteV e0 && pteNode e0 && pteV e1 && pteLeaf e1

/-! ## Translation buffers (R70) -/

/-- The page number a translation is kept under. -/
def pageOf (va : DWord) : Nat := va.toNat / 65536

/-- Whether an entry covers a page of a context. -/
def TlbEnt.covers (e : TlbEnt) (c page : Nat) : Bool :=
  e.ctx == c && (if e.big then e.page / 512 == page / 512 else e.page == page)

/-- Whether an entry allows an access (R69, R70). -/
def permits (pte : DWord) (wr : Bool) (rd : Bool) : Bool := (!rd || pteR pte) && (!wr || pteW pte)

/-- The cached translation of a core: its own buffer, then its die's. -/
def State.tlbFind (s : State) (core c page : Nat) : Option TlbEnt :=
  ((s.core core).tlb.find? (·.covers c page)).or ((s.die (dieOf core)).tlb.find? (·.covers c page))

/-- Adds an entry to a buffer. A full one drops the entry that was installed first: the spec does not say which (DESIGN
CHOICE, log entry 125). -/
def tlbAdd (size : Nat) (l : List TlbEnt) (e : TlbEnt) : List TlbEnt :=
  (e :: l.filter fun x => !x.covers e.ctx e.page).take size

/-- Installs a translation in a core's buffer and its die's. -/
def State.tlbInstall (s : State) (core : Nat) (e : TlbEnt) : State :=
  (s.modCore core fun c => { c with tlb := tlbAdd Config.coreTlb c.tlb e }).modDie (dieOf core) fun d =>
    { d with tlb := tlbAdd Config.dieTlb d.tlb e }

/-- Drops the translations of a page that refuse an access (R70). -/
def State.tlbDrop (s : State) (core c page : Nat) : State :=
  (s.modCore core fun k => { k with tlb := k.tlb.filter fun x => !x.covers c page }).modDie (dieOf core)
    fun d => { d with tlb := d.tlb.filter fun x => !x.covers c page }

/-- The translation that a core has for an access of its engines or of its stack cache: the cached one while it permits the
access, else what the table gives (R69, R70). -/
def State.leafFor (s : State) (core c : Nat) (va : DWord) (wr rd : Bool) : Walked :=
  match s.tlbFind core c (pageOf va) with
  | some e => if permits e.pte wr rd then .leaf e.pte e.big else s.walk c va
  | none => s.walk c va

/-- The buffers after such an access: a translation that refused it is dropped, and one that a walk found and that permits
it is installed. -/
def State.tlbKeep (s : State) (core c : Nat) (va : DWord) (wr rd : Bool) : State :=
  if (s.tlbFind core c (pageOf va)).any fun e => permits e.pte wr rd then s
  else
    let s := s.tlbDrop core c (pageOf va)
    match s.walk c va with
    | .leaf pte big =>
      if permits pte wr rd then s.tlbInstall core { ctx := c, page := pageOf va, pte := pte, big := big } else s
    | .fail _ => s

/-- Removes translations from every buffer (R323). -/
def State.tlbRemove (s : State) (p : TlbEnt → Bool) : State :=
  { s with
    cores := s.cores.map fun k => { k with tlb := k.tlb.filter fun x => !p x }
    dies := s.dies.map fun d => { d with tlb := d.tlb.filter fun x => !p x } }

/-! ## Uncorrectable errors (R430) -/

/-- The bytes that an enabled range reads from far memory to deliver the byte at a place (R109). -/
def rangeReads (r : FmtRange) (pa : Nat) : List Nat :=
  let k := r.fmt.toNat - 16
  let i := pa - r.lo
  if r.planes then (if i / r.plane < k then [pa] else []) else (List.range k).map fun p => r.lo + p * r.plane + i / 8

/-- The bytes of far memory that a read of one byte reads. -/
def State.physReads (s : State) (pa : Nat) : List Nat :=
  match s.rangeAt pa with
  | some r => rangeReads r pa
  | none => [pa]

/-- Whether a read meets a bad sector: one that holds a byte it reads. -/
def State.physBad (s : State) (pa n : Nat) : Bool :=
  !s.bad.isEmpty && (List.range n).any fun i => (s.physReads (pa + i)).any fun a => s.bad.contains (a / 16)

/-- The bad sectors left after a write: one that it covers whole is cleared (R430). -/
def clearBad (bad : List Nat) (pa n : Nat) : List Nat := bad.filter fun k => !(pa ≤ k * 16 && k * 16 + 16 ≤ pa + n)

/-- The bad sectors of a buffer left when a range is cleared (R77, R430). -/
def clearSectors (bad : List Nat) (unit units : Nat) : List Nat := clearBad bad (unit * 4096) (units * 4096)

/-! ## Writes at the home -/

/-- The line of a physical address: 128 bytes (R72). -/
def lineOf (pa : Nat) : Nat := pa / 128

/-- Whether some bytes touch a line. -/
def touches (pa n line : Nat) : Bool := lineOf pa ≤ line && line ≤ lineOf (pa + n - 1)

/-- Makes a write visible at its home: the L1 lines of the home die, and what its near tier held of the line, give way to
the new value (R13, R15). -/
def State.physWrite (s : State) (pa : Nat) (bs : List Byte) : State :=
  { s with
    mem := memWrite s.mem pa bs
    bad := clearBad s.bad pa bs.length
    near := s.near.filter fun (k : NearCopy) => !(k.die == homeDie pa && touches pa bs.length k.line)
    l1 := s.l1.filter fun (k : L1Line) => !touches pa bs.length k.line }

/-- Drops the near-tier copies of the lines that a write touches. -/
def State.dropCopies (s : State) (pa n : Nat) : State :=
  { s with near := s.near.filter fun (k : NearCopy) => !touches pa n k.line }

/-! ## The caches of far memory (R15, R16, R72, R73) -/

/-- What the near tier of a die holds of a line. -/
def State.nearCopy (s : State) (die line : Nat) : Option NearCopy :=
  s.near.find? fun k => k.die == die && k.line == line

/-- What the L1 of a core holds of a line. -/
def State.l1Line (s : State) (core line : Nat) : Option L1Line := s.l1.find? fun k => k.core == core && k.line == line

/-- The bytes within one line as its home delivers them, from its near tier or its far memory, and whether a bad sector
is met. -/
def State.homeRead (s : State) (pa n : Nat) : List Byte × Bool :=
  match s.nearCopy (homeDie pa) (lineOf pa) with
  | some k => ((k.bytes.drop (pa % 128)).take n, false)
  | none => (s.physRead pa n, s.physBad pa n)

/-- The bytes within one line as a core reads them: from its L1, from the near tier of its die, else from the home. -/
def State.cachedRead (s : State) (core pa n : Nat) : List Byte × Bool :=
  match s.l1Line core (lineOf pa), s.nearCopy (dieOf core) (lineOf pa) with
  | some k, _ => ((k.bytes.drop (pa % 128)).take n, false)
  | none, some k => ((k.bytes.drop (pa % 128)).take n, false)
  | none, none => s.homeRead pa n

/-- Whether a write of a line waits for acknowledgements, or a commit holds its lock. -/
def State.lineMoving (s : State) (pa : Nat) : Bool :=
  s.reqs.any fun r => lineOf r.pa == lineOf pa && (match r.st with
    | .home _ _ | .locked _ => true
    | .issued | .done | .aborted _ _ => false)

/-- Whether a write on a line has not yet become visible, a commit holds its lock, or the line is frozen: a write of it
waits. -/
def State.lineBusy (s : State) (pa : Nat) : Bool :=
  (s.frozenLines.any fun f => f.line == lineOf pa) || (s.posted.any fun w => touches w.pa w.bytes.length (lineOf pa)) ||
    s.reqs.any fun r =>
      lineOf r.pa == lineOf pa && (match r.st with
        | .home _ _ => (match r.kind with
            | .store _ ack _ => ack
            | .atomic _ _ _ _ _ _ ack => ack
            | .load _ _ _ _ _ | .snap _ _ _ _ _ _ _ _ | .clean _ | .own _ _ | .buf _ _ _ _ | .stk _ _ | .lock | .defer _ => false)
        | .locked _ => true
        | .issued | .done | .aborted _ _ => false)

/-- The lines of a range of far memory, each by an address in it. -/
def linesIn (pa n : Nat) : List Nat := (List.range (lineOf (pa + n - 1) + 1 - lineOf pa)).map fun i => pa + 128 * i

/-- Whether some line of a range of far memory lies on a die that has failed: nothing answers there any more (R443). -/
def State.dead (s : State) (pa n : Nat) : Bool := (linesIn pa n).any fun a => (s.die (homeDie a)).st == .failed

/-- Whether some line of a range of far memory cannot be reached for now: it is busy, or its home die is being reset (R426,
R443). -/
def State.shut (s : State) (pa n : Nat) : Bool :=
  (linesIn pa n).any fun a => match (s.die (homeDie a)).st with
    | .up => s.lineBusy a
    | .resetting _ => true
    | .failed => false

/-- Lines that the near tier of a die holds: its copies, and the pinned lines that it holds no copy of. -/
def State.nearHeld (s : State) (die : Nat) : Nat :=
  (s.near.filter fun (k : NearCopy) => k.die == die).length +
    (s.nearHome.filter fun p => p.1 == die && (s.nearCopy die p.2).isNone).length

/-- Puts a line into the near tier of a die, while it has room and the directory has room for its record (R9,
R16): which ordinary line it would replace is not architectural, and here it is the line itself. -/
def State.nearAdd (s : State) (die line : Nat) (bs : List Byte) : State :=
  let held := s.nearHeld die
  let remote := ((s.near.filter fun (k : NearCopy) => k.die != homeDie (k.line * 128)).map (·.line)).eraseDups
  let recorded := die == homeDie (line * 128) || remote.contains line ||
    (remote.length + 1) * Config.dirRecord ≤ Config.directory
  if (s.nearCopy die line).isSome || Config.nearLines ≤ held || !recorded then s
  else { s with near := s.near ++ [({ die := die, line := line, bytes := bs } : NearCopy)] }

/-- Puts a line into the L1 of a core, which drops its oldest when it is full. -/
def State.l1Add (s : State) (core line : Nat) (bs : List Byte) : State :=
  let mine := (s.l1.filter fun (k : L1Line) => k.core == core && k.line != line).take (Config.l1Lines - 1)
  { s with l1 := ({ core := core, line := line, bytes := bs } : L1Line) :: mine ++
      s.l1.filter fun (k : L1Line) => k.core != core }

/-- Pins a line in the near tier of a die. A full tier gives up an ordinary line for it (R21, R73): which one is not
architectural, and here it is the one it has held longest. -/
def State.pinAt (s : State) (die line : Nat) : State :=
  let ordinary (k : NearCopy) : Bool := k.die == die && !s.nearHome.contains (die, k.line)
  let near := if (s.nearCopy die line).isSome || s.nearHeld die < Config.nearLines then s.near else s.near.eraseP ordinary
  { s with near := near, nearHome := s.nearHome ++ [(die, line)] }

/-- Pins a NEAR line in the tiers that hold it; a fill beyond NEARMAX is counted (R73, R74). -/
def State.pinNear (s : State) (pte : DWord) (line : Nat) : State :=
  if !pteNear pte then s
  else (if pteRepl pte then List.range Config.dies else [homeDie (line * 128)]).foldl (fun s d =>
    if s.nearHome.contains (d, line) then s
    else if (((s.nearHome.filter fun p => p.1 == d).length) + 1) * 128 ≤ s.nearMax * 65536 then s.pinAt d line
    else s.modDie d fun k => { k with nearOver := addRecent s.tick k.nearOver }) s

/-- Pins the NEAR lines of a range of far memory. -/
def State.pinLines (s : State) (pte : DWord) (pa n : Nat) : State :=
  if !pteNear pte then s
  else (linesIn pa n).foldl (fun s a => s.pinNear pte (lineOf a)) s

/-! ## Accesses of engines and of the hardware -/

/-- A translation: the leaf entry and the physical address, or the cause. -/
inductive Xlat where
  | ok (pte : DWord) (pa : Nat)
  | fail (c : Cause)
  deriving DecidableEq, Repr

/-- Translates an access at once: by a walk, checking the permissions (R69). -/
def State.xlat (s : State) (c : Nat) (va : DWord) (wr : Bool) : Xlat :=
  match s.walk c va with
  | .fail e => .fail e
  | .leaf pte big => if permits pte wr (!wr) then .ok pte (physOf pte big va) else .fail 0x09

/-- Translates an access of a core's stack cache or engines. -/
def State.coreXlat (s : State) (core c : Nat) (va : DWord) (wr : Bool) : Xlat :=
  match s.leafFor core c va wr (!wr) with
  | .fail e => .fail e
  | .leaf pte big => if permits pte wr (!wr) then .ok pte (physOf pte big va) else .fail 0x09

/-- The cause that refuses a write of an engine, or none: a HEAT page (R75), an enabled range (R110). -/
def State.writeRefused (s : State) (pte : DWord) (pa n : Nat) : Option Cause :=
  if pteHeat pte then some 0x17 else if s.inRange pa n then some 0x09 else none

/-- The cause that refuses a read: an enabled range reached through an interleaved page (R110). Whether such an access lies in
the range by its physical address or by the place in far memory to which the interleave takes it, the spec leaves open; the
place decides here, as it does for every access (DESIGN CHOICE, log entry 134). -/
def State.readRefused (s : State) (pte : DWord) (pa n : Nat) : Option Cause :=
  if pteIlv pte && s.inRange pa n then some 0x09 else none

/-- What a translated read of the hardware finds; on a die that has failed, an uncorrectable error (R443). -/
def State.readAt (s : State) (x : Xlat) (n : Nat) : Except Cause (List Byte) :=
  match x with
  | .fail e => .error e
  | .ok pte pa =>
    match s.readRefused pte pa n with
    | some e => .error e
    | none => if s.dead pa n || s.physBad pa n then .error 0x13 else .ok (s.physRead pa n)

/-- Reads `n` bytes of a context's memory within one 4 KiB chunk. -/
def State.vread (s : State) (c : Nat) (va : DWord) (n : Nat) : Except Cause (List Byte) := s.readAt (s.xlat c va false) n

/-- Reads as a core's engines do, with the translations that the core holds (R70). -/
def State.coreRead (s : State) (core c : Nat) (va : DWord) (n : Nat) : Except Cause (List Byte) :=
  s.readAt (s.coreXlat core c va false) n

/-- Whether a translated access of `n` bytes waits at a line that cannot be reached (R426, R443). -/
def Xlat.waits (x : Xlat) (s : State) (n : Nat) : Bool :=
  match x with
  | .ok _ pa => s.shut pa n
  | .fail _ => false

/-- The near tier after a translated access: it holds the NEAR lines of the range (R73). -/
def Xlat.pins (x : Xlat) (s : State) (n : Nat) : State :=
  match x with
  | .ok pte pa => s.pinLines pte pa n
  | .fail _ => s

/-- A core after a read of its engines: the translation stays, and NEAR lines are pinned (R70, R73). -/
def State.coreKeep (s : State) (core c : Nat) (va : DWord) (n : Nat) : State :=
  (s.coreXlat core c va false).pins (s.tlbKeep core c va false true) n

/-- Reads `n` pieces of 16 bytes that may cross pages, as a core's engines do. -/
def State.coreSpan (s : State) (core c va : Nat) : Nat → Except Cause (List Byte)
  | 0 => .ok []
  | n + 1 =>
    let k := Nat.min 16 (4096 - va % 4096)
    match s.coreRead core c (BitVec.ofNat 64 va) k,
        if k < 16 then s.coreRead core c (BitVec.ofNat 64 (va + k)) (16 - k) else .ok [] with
    | .ok a, .ok b => match s.coreSpan core c (va + 16) n with
      | .ok l => .ok (a ++ b ++ l)
      | .error e => .error e
    | .error e, _ => .error e
    | _, .error e => .error e

/-- A core after such a read, page by page. -/
def State.coreKeepSpan (s : State) (core c va n : Nat) : State :=
  (List.range (n / 256 + 1)).foldl (fun s i =>
    let a := Nat.max va (4096 * (va / 4096 + i))
    let z := Nat.min (va + 16 * n) (4096 * (va / 4096 + i + 1))
    if a < z then s.coreKeep core c (BitVec.ofNat 64 a) (z - a) else s) s

/-- Whether a span of at most 4 KiB has a line that cannot be reached. -/
def State.spanShut (s : State) (c va n : Nat) : Bool :=
  let k := Nat.min n (4096 - va % 4096)
  (s.xlat c (BitVec.ofNat 64 va) false).waits s k ||
    (k < n && (s.xlat c (BitVec.ofNat 64 (va + k)) false).waits s (n - k))

/-- The near tier after a read or a write of a span of at most 4 KiB. -/
def State.spanKeep (s : State) (c va n : Nat) : State :=
  let k := Nat.min n (4096 - va % 4096)
  let s := (s.xlat c (BitVec.ofNat 64 va) false).pins s k
  if k < n then (s.xlat c (BitVec.ofNat 64 (va + k)) false).pins s (n - k) else s

/-- Reads at most 4 KiB that may cross from one 4 KiB chunk into the next, which may lie in another page or on another
die (R66, R68). -/
def State.vreadAcross (s : State) (c va n : Nat) : Except Cause (List Byte) :=
  let k := 4096 - va % 4096
  if n ≤ k then s.vread c (BitVec.ofNat 64 va) n
  else match s.vread c (BitVec.ofNat 64 va) k, s.vread c (BitVec.ofNat 64 (va + k)) (n - k) with
    | .ok a, .ok b => .ok (a ++ b)
    | .error e, _ => .error e
    | _, .error e => .error e

/-- The home die of the byte at a virtual address; 0 when it is not mapped. -/
def State.dieAt (s : State) (c : Nat) (va : DWord) : Nat :=
  match s.walk c va with
  | .leaf pte big => homeDie (physOf pte big va)
  | .fail _ => 0

/-- Where a read of `n` pieces of 16 bytes is first refused, and why. -/
def State.spanRefused (s : State) (c va n : Nat) : Option (DWord × Cause) :=
  (List.range n).findSome? fun i =>
    match s.vreadAcross c (va + 16 * i) 16 with
    | .ok _ => none
    | .error e => some (BitVec.ofNat 64 (va + 16 * i), e)

/-- Whether some line of an area cannot be reached. -/
def State.areaShut (s : State) (c va n : Nat) : Bool :=
  (List.range (n / 4096 + 1)).any fun i => s.spanShut c (va + 4096 * i) (Nat.min 4096 (n - 4096 * i))

/-- The near tier after a read or a write of an area. -/
def State.areaKeep (s : State) (c va n : Nat) : State :=
  (List.range (n / 4096 + 1)).foldl (fun s i => s.spanKeep c (va + 4096 * i) (Nat.min 4096 (n - 4096 * i))) s

/-- Reads a span that may cross pages, 16 bytes at a time. -/
def State.vreadSpan (s : State) (c : Nat) (va : Nat) : Nat → Except Cause (List Byte)
  | 0 => .ok []
  | n + 1 =>
    match s.vreadAcross c va 16 with
    | .error e => .error e
    | .ok bs =>
      match s.vreadSpan c (va + 16) n with
      | .error e => .error e
      | .ok rest => .ok (bs ++ rest)

end Sys2Proof.Machine
end

