-- ==== Sys2Proof/Machine/Doorbell.lean ====
section
/-! DEFINITION. Context events and interrupt vectors (R356, R400), launch queues as producers see them: the doorbell words
(R52, R355), which the dispatcher observes at their home slice, and the writes of far memory that it therefore watches. -/

namespace Sys2Proof.Machine

/-! ## Events of a context (R356, R400) -/

/-- The word of a function's MSI-X table at a word offset: a vector takes four, the last its control word (R354). -/
def State.msixWord (s : State) (fn w : Nat) : Word := vget (vget s.msixTab fn msixReset) w 0

/-- Whether a vector of a function is masked: bit 0 of its control word, as PCI Express has it (PRESUMED, log entry 113). -/
def State.masked (s : State) (fn vec : Nat) : Bool := (s.msixWord fn (4 * vec + 3)).getLsbD 0

/-- Raises an interrupt vector of the function a context is assigned to; an unassigned context raises it on PF 0 (R356).
The pending bit of a masked vector is set. -/
def State.raiseVector (s : State) (c vec : Nat) : State :=
  let fn := ((s.ctx c).fn).getD 0
  let bit := if s.masked fn vec then BitVec.ofNat 17 (2 ^ vec) else 0
  { s with msix := s.msix ++ [(fn, vec)], msixPend := vmod s.msixPend fn fun p => p ||| bit }

/-- A context event: it is kept for the runtime, and vector 16 is raised (R356, R400). -/
def State.ctxEvent (s : State) (c : Nat) (cause : Cause) (info more : Nat) : State :=
  ({ s with events := s.events ++ [(⟨c, cause, info, more⟩ : CtxEvent)] }).raiseVector c 16

/-! ## Queues (R52, R355) -/

/-- A queue of a context, once the runtime has placed it. -/
def Context.queue (x : Context) (q : Nat) : Option Queue := if q < x.nq then (x.queues[q]?).filter (·.n != 0) else none

/-- Changes a queue of a context. -/
def State.modQueue (s : State) (c q : Nat) (f : Queue → Queue) : State :=
  s.modCtx c fun x => { x with queues := lmod x.queues q f }

/-- The count of the record at the head of a queue: accepted records that have not left it stay ahead. -/
def State.headOf (s : State) (c q : Nat) (k : Queue) : Nat :=
  k.acc - (s.launches.filter fun l => l.ctx == c && l.q == q && !l.gone).length

/-- A tail reaches the dispatcher: one more than 2ⁿ records ahead of the head is ignored, with a context event (R355). -/
def State.ringTail (s : State) (c q : Nat) (tail : Word) : State :=
  match (s.ctx c).queue q with
  | none => s
  | some k =>
    let head := s.headOf c q k
    let ahead := (tail - BitVec.ofNat 32 head).toNat
    if 2 ^ k.n < ahead then s.ctxEvent c 0x01 q tail.toNat
    else s.modQueue c q fun k => { k with tail := head + ahead }

/-- The physical address of a context's doorbell words, when it has any. -/
def State.doorbellAt (s : State) (c : Nat) : Option Nat :=
  let a := (s.ctx c).dbaddr
  if a = 0 then none
  else match s.walk c a with
    | .leaf pte big => some (physOf pte big a)
    | .fail _ => none

/-- The dispatcher observes a write of `n` bytes: every doorbell word that it touches has a new tail. -/
def State.ring (s : State) (pa n : Nat) : State :=
  (List.range Config.contexts).foldl (fun s c =>
    match s.doorbellAt c with
    | none => s
    | some d =>
      if pa < d + 64 && d < pa + n then
        (List.range 16).foldl (fun s q =>
          if pa < d + 4 * q + 4 && d + 4 * q < pa + n then
            s.ringTail c q (BitVec.ofNat 32 (leNat (memRead s.mem (d + 4 * q) 4)))
          else s) s
      else s) s

/-- Makes a write visible at its home, whoever makes it. -/
def State.homeWrite (s : State) (pa : Nat) (bs : List Byte) : State := (s.physWrite pa bs).ring pa bs.length

/-- A write of the hardware itself at its home, visible at system scope: the copies of the lines are dropped (R125), on a
REPLICATE page every L1 line too (R135). -/
def State.landWrite (s : State) (pa : Nat) (bs : List Byte) : State := (s.homeWrite pa bs).dropCopies pa bs.length

/-- A write of the hardware itself: while a line of it cannot be reached, it waits there (R426, R443). -/
def State.postWrite (s : State) (c pa : Nat) (bs : List Byte) : State :=
  if s.shut pa bs.length then
    { s with nextId := s.nextId + 1,
             posted := s.posted ++ [({ id := s.nextId, ctx := c, pa := pa, bytes := bs } : Posted)] }
  else s.landWrite pa bs

/-- Writes bytes within one 4 KiB chunk of a context's memory. On a REPLICATE page the commit is made at one instant: what an
abort of it would mean for a write that no instruction makes, the spec does not say (DESIGN CHOICE, log entry 126). A write to
a die that has failed cannot be made, and is refused as one without permission is (DESIGN CHOICE, log entry 130). -/
def State.vwrite (s : State) (c : Nat) (va : DWord) (bs : List Byte) : Except Cause State :=
  match s.xlat c va true with
  | .fail e => .error e
  | .ok pte pa =>
    match s.writeRefused pte pa bs.length with
    | some e => .error e
    | none => if s.dead pa bs.length then .error 0x09 else .ok ((s.pinLines pte pa bs.length).postWrite c pa bs)

/-- POSTED_WRITE, a step of the model's own: the oldest write that waits and whose lines can be reached is made; one whose die
has failed is lost. Writes of one line keep their order. -/
def State.landPosted (s : State) : State :=
  let free (w : Posted) : Bool :=
    let z := { s with posted := s.posted.filter fun x => x.id < w.id }
    !z.shut w.pa w.bytes.length
  match s.posted.find? free with
  | some w =>
    let s' := { s with posted := s.posted.filter fun (x : Posted) => x.id != w.id }
    if s.dead w.pa w.bytes.length then s' else s'.landWrite w.pa w.bytes
  | none => s

/-- Whether writes of a context that were made before a point still wait. -/
def State.postedBefore (s : State) (c upto : Nat) : Bool := s.posted.any fun w => w.ctx == c && w.id < upto

/-- The byte at an address as the hardware last wrote it there, whether or not the write waits. -/
def State.lastByte (s : State) (pa : Nat) : Byte :=
  s.posted.foldl (fun b w => if w.pa ≤ pa && pa < w.pa + w.bytes.length then w.bytes.getD (pa - w.pa) b else b) (memGet s.mem pa)

/-- A context event that names a park record: it is raised once the record is visible (R398). -/
def State.recordEvent (s : State) (e : CtxEvent) : State :=
  if s.posted.any fun w => w.ctx == e.ctx then { s with due := s.due ++ [(s.nextId, e)] }
  else s.ctxEvent e.ctx e.cause e.info e.more

/-- EVENT_DUE, a step of the model's own: the oldest event whose record has become visible is raised. -/
def State.raiseDue (s : State) : State :=
  match s.due.find? fun d => !s.postedBefore d.2.ctx d.1 with
  | some d => { s with due := s.due.erase d }.ctxEvent d.2.ctx d.2.cause d.2.info d.2.more
  | none => s

/-- The code of a context event for a write of the hardware that was refused: 0x08 from a walk that finds nothing, else 0x09
(R395). -/
def refusedCause (c : Cause) : Cause := if c = 0x08 then 0x08 else 0x09

/-- Writes at most 4 KiB that may cross from one 4 KiB chunk into the next, all of it or nothing. -/
def State.vwriteAcross (s : State) (c va : Nat) (bs : List Byte) : Except Cause State :=
  let k := 4096 - va % 4096
  if bs.length ≤ k then s.vwrite c (BitVec.ofNat 64 va) bs
  else match s.vwrite c (BitVec.ofNat 64 va) (bs.take k) with
    | .ok s => s.vwrite c (BitVec.ofNat 64 (va + k)) (bs.drop k)
    | .error e => .error e

end Sys2Proof.Machine
end

