-- ==== Sys2Proof/Machine/Log.lean ====
section
/-! DEFINITION. The arithmetic log (R114 to R116, R416). -/

namespace Sys2Proof.Machine

/-- The 6 bytes of a heat number. -/
def heatBytes (h : BitVec 48) : List Byte := leBytes 6 h.toNat

/-- The 32 bytes of a log record (R115). -/
def logBytes (cause core : Byte) (count : Nat) (blk : Word) (hdr : DWord) (heat : BitVec 48) (thr : Nat)
    (rseq : Word) : List Byte :=
  [cause, core] ++ leBytes 2 (min count 0xFFFF) ++ leBytes 4 blk.toNat ++ leBytes 8 hdr.toNat ++
    heatBytes heat ++ leBytes 2 thr ++ leBytes 4 rseq.toNat ++ leBytes 4 0

/-- Forms one log record: `%log` counts it, and it is written into the ring; a write that fails discards
it, and the first such failure raises a context event (R116, R416). -/
def State.logRecord (s : State) (c : Nat) (cause core : Byte) (count : Nat) (blk : Word) (hdr : DWord)
    (thr : Nat) (heat : Option (BitVec 48) := none) : State :=
  let x := s.ctx c
  let s := s.modCtx c fun x => { x with log := x.log + 1 }
  if x.logbase = 0 then s
  else
    let at_ := x.logbase + BitVec.ofNat 64 (32 * (x.log.toNat % 2 ^ x.logn))
    match s.vwrite c at_ (logBytes cause core count blk hdr (heat.getD x.heat) thr x.log) with
    | .ok s' => s'
    | .error e =>
      if x.logFail then s
      else (s.modCtx c fun x => { x with logFail := true }).ctxEvent c (refusedCause e) x.logbase.toNat 0

/-- A log record of an engine, with no core, block or thread (R115, R396, R431). -/
def State.logEngine (s : State) (c : Nat) (cause : Cause) (count : Nat) (hdr : DWord) : State :=
  s.logRecord c cause 0xFF count 0xFFFFFFFF hdr 0xFFFF

/-- Adds up the elements that raised each cause in one issue, and its lowest thread (R116): pairs of a
cause with its thread number and element count. -/
def logTally (l : List (Cause × Nat × Nat)) : List (Cause × Nat × Nat) :=
  l.foldl (fun acc (c, t, n) =>
    if n = 0 then acc
    else if acc.any (·.1 == c) then acc.map fun e => if e.1 == c then (c, min e.2.1 t, e.2.2 + n) else e
    else acc ++ [(c, t, n)]) []

/-- The records of one issue: at most one for each cause (R116). -/
def State.logIssue (s : State) (c core : Nat) (bid : Word) (hdr : Word) (l : List (Cause × Nat × Nat)) :
    State :=
  (logTally l).foldl (fun s e =>
    s.logRecord c e.1 (BitVec.ofNat 8 core) e.2.2 bid (hdr.setWidth 64) e.2.1) s

end Sys2Proof.Machine
end

