-- ==== Sys2Proof/Machine/Anvil.lean ====
section
/-! DEFINITION. The shared parts of collectives: collective records (R331), bindings (R327), member lists, sending packets
(R328), the rounds of a collective and their first failure (R338, R440), and slots as `comb` combines them (R342). -/

namespace Sys2Proof

/-! ## Collective records (R331) and packets (R328) -/

/-- Bytes of an element of a collective. -/
def CollRec.esize (r : CollRec) : Nat := if r.opf.toNat / 16 = 1 then 2 else 4

/-- Bytes of a chunk: 64 elements. -/
def CollRec.chunk (r : CollRec) : Nat := 64 * r.esize

/-- Chunks of one rank's contribution. -/
def CollRec.chunks (r : CollRec) : Nat := (r.nbytes + r.chunk - 1) / r.chunk

/-- Whether a record is valid. -/
def CollRec.valid (r : CollRec) : Bool :=
  r.ctype ≤ 3 && (r.prog == r.ctype + 1 || (5 ≤ r.prog && r.prog ≤ 63)) && !r.resv && r.opf.toNat / 16 ≤ 3 &&
    r.cbar.toNat < 32 && 1 ≤ r.nrank && r.nrank ≤ 2 ^ 20 && r.myrank < r.nrank && r.nbytes ≤ 2 ^ 24 &&
    r.nbytes % r.esize == 0 && (r.ctype != 3 || r.prog == 4 || r.nbytes % 256 == 0)

/-- The 16 words of a record as `lookup` reads them. -/
def CollRec.word (r : CollRec) (w : Nat) : Word :=
  let lo (v : Nat) : Word := BitVec.ofNat 32 v
  let hi (v : Nat) : Word := BitVec.ofNat 32 (v / 2 ^ 32)
  match w with
  | 0 => lo (r.ctype + r.opf.toNat * 2 ^ 8 + r.prog * 2 ^ 16 + r.cbar.toNat * 2 ^ 24)
  | 1 => lo r.nrank
  | 2 => lo r.myrank
  | 3 => lo r.nbytes
  | 4 => lo r.memb
  | 5 => hi r.memb
  | 6 => lo r.dst
  | 7 => hi r.dst
  | 8 => lo r.cdone
  | 9 => hi r.cdone
  | 10 => lo r.inbase
  | 11 => hi r.inbase
  | 12 => lo r.bbytes
  | 13 => lo r.root
  | _ => 0

/-- The header of a packet with every field 0. -/
def Packet.blank : Packet :=
  { type := 0, ver := 1, last := false, bf := false, wrd := false, coll := 0, dctx := 0, chunk := 0, srank := 0,
    spkg := 0, slot := 0, round := 0, heat := 0, resv := false, data := [] }

/-- The flags of a data packet of a format (R328, R331). -/
def Packet.ofFormat (p : Packet) (fmt : Nat) : Packet := { p with bf := fmt == 1, wrd := fmt == 3 }

/-- The 32 bytes of a packet's header (R328); a set reserved bit stands in FLG[7]. -/
def Packet.header (p : Packet) : List Byte :=
  let flg := p.last.toNat + 2 * p.bf.toNat + 4 * p.wrd.toNat + 128 * p.resv.toNat
  leBytes 1 (p.type.toNat + 16 * p.ver.toNat) ++ leBytes 1 flg ++ leBytes 2 p.data.length ++
    leBytes 4 (p.coll.toNat + 65536 * p.dctx.toNat) ++ leBytes 4 p.chunk.toNat ++ leBytes 4 p.srank.toNat ++
    leBytes 4 p.spkg.toNat ++ leBytes 2 p.slot.toNat ++ leBytes 2 p.round.toNat ++ leBytes 6 p.heat.toNat ++ leBytes 2 0

/-- The bytes of a packet: its header and its data. -/
def Packet.bytes (p : Packet) : List Byte := p.header ++ p.data

/-- The packet that a transport payload holds (R328); none when it is too short for its header or for LEN bytes of data. -/
def packetOf (bs : List Byte) : Option Packet :=
  let f (at_ n : Nat) : Nat := leNat ((bs.drop at_).take n)
  let flg := f 1 1
  let len := f 2 2
  if bs.length < 32 + len then none
  else some {
    type := BitVec.ofNat 4 (f 0 1), ver := BitVec.ofNat 4 (f 0 1 / 16),
    last := flg % 2 == 1, bf := flg / 2 % 2 == 1, wrd := flg / 4 % 2 == 1,
    coll := BitVec.ofNat 16 (f 4 4), dctx := BitVec.ofNat 6 (f 4 4 / 65536), chunk := BitVec.ofNat 32 (f 8 4),
    srank := BitVec.ofNat 20 (f 12 4), spkg := BitVec.ofNat 20 (f 16 4), slot := BitVec.ofNat 12 (f 20 2),
    round := BitVec.ofNat 16 (f 22 2), heat := BitVec.ofNat 48 (f 24 6),
    resv := flg / 8 != 0 || f 4 4 / 2 ^ 22 != 0 || f 12 4 / 2 ^ 20 != 0 || f 16 4 / 2 ^ 20 != 0 || f 20 2 / 2 ^ 12 != 0 ||
      f 30 2 != 0,
    data := (bs.drop 32).take len }

/-- The form of a packet's data. -/
def Packet.form (p : Packet) : Machine.Form := if p.bf then .b else if p.wrd then .w else .f

end Sys2Proof

namespace Sys2Proof.Machine

/-! ## Records and member lists (R331) -/

/-- A valid collective record of a context. -/
def Context.coll (x : Context) (id : Nat) : Option CollRec :=
  match x.colls.lookup id with
  | some r => if r.valid && id < x.collN then some r else none
  | none => none

/-- The member word of a rank, from the member list in the context's memory. -/
def State.member (s : State) (c : Nat) (r : CollRec) (i : Nat) : Except Cause Word :=
  if r.nrank ≤ i then .error 0x1C
  else match s.vreadAcross c (r.memb + 4 * i) 4 with
    | .ok bs => .ok (BitVec.ofNat 32 (leNat bs))
    | .error e => .error e

/-- Whether some line of the member list of a collective cannot be reached (R443). -/
def State.membShut (s : State) (c : Nat) (r : CollRec) : Bool := s.areaShut c r.memb (4 * r.nrank)

/-- Whether a package is a member of a collective. -/
def State.isMember (s : State) (c : Nat) (r : CollRec) (pkg : BitVec 20) : Bool :=
  (List.range r.nrank).any fun i =>
    match s.member c r i with
    | .ok w => w.extractLsb' 0 20 == pkg
    | .error _ => false

/-! ## Bindings (R327) -/

/-- The binding of a context and a program, with its place. -/
def State.bindingOf (s : State) (c prog : Nat) : Option (Nat × Binding) :=
  (s.bindings.zipIdx.map fun p => (p.2, p.1)).find? fun p => p.2.ctx == c && p.2.prog == prog

/-- Changes a binding by its place. -/
def State.modBinding (s : State) (i : Nat) (f : Binding → Binding) : State :=
  { s with bindings := lmod s.bindings i f }

/-- The current round of a collective at a binding. -/
def Binding.roundOf (b : Binding) (coll : Nat) : Nat := (b.rounds.lookup coll).getD 0

/-- Moves a collective of a binding to a round. -/
def Binding.setRound (b : Binding) (coll n : Nat) : Binding :=
  { b with rounds := (coll, n) :: b.rounds.filter fun p => p.1 != coll }

/-! ## Sending (R328) -/

/-- Sends a packet to the package of a member word; the hardware fills VER, SRANK, SPKG and HEAT. `stamp` is the heat stamp
that GATHER data read from memory carries in place of `%heat`. -/
def State.sendAs (s : State) (c : Nat) (r : CollRec) (dst : Word) (p : Packet) (stamp : Option (BitVec 48) := none) :
    State :=
  let p := { p with ver := 1, srank := BitVec.ofNat 20 r.myrank, spkg := s.pkg, heat := stamp.getD (s.ctx c).heat }
  { s with outbox := s.outbox ++ [({ dst := dst.extractLsb' 0 20, pkt := p } : OutPkt)] }

/-- Firmware and the die-side engines send to the context of the member word. -/
def State.send (s : State) (c : Nat) (r : CollRec) (dst : Word) (p : Packet) (stamp : Option (BitVec 48) := none) :
    State :=
  s.sendAs c r dst { p with dctx := dst.extractLsb' 20 6 } stamp

/-! ## Rounds (R338, R440, R441) -/

/-- A round that has just begun. -/
def Round.start (c coll round now : Nat) (stopped misuse : Bool) : Round :=
  { ctx := c, coll := coll, round := round, begun := none,
    fail := if misuse then 0x0B else if stopped then 0x1C else 0,
    barup := if stopped then some 0x1C else none, upAt := now, granted := 0, refused := 0, stamp := 0, emits := [],
    drained := false, ended := stopped }

/-- A round of a collective. -/
def State.round (s : State) (c coll round : Nat) : Option Round :=
  s.rounds.find? fun r => r.ctx == c && r.coll == coll && r.round == round

/-- Gives a round its record, unless it has completed; a binding with a stopped thread completes it at once, whatever its
source side still awaits (R440). -/
def State.needRound (s : State) (c coll round : Nat) : State :=
  let b := ((s.ctx c).coll coll).bind fun r => s.bindingOf c r.prog
  let past : Bool := match b with
    | some p => round < p.2.roundOf coll
    | none => false
  if past || (s.round c coll round).isSome then s
  else
    let stopped : Bool := match b with
      | some p => p.2.threads.any (·.stopped)
      | none => false
    let misuse := s.contribs.any fun k => k.ctx == c && k.coll == coll && k.round == round && k.misuse
    let s := { s with rounds := s.rounds ++ [Round.start c coll round s.tick stopped misuse] }
    match b with
    | some p => if stopped then s.modBinding p.1 fun b => b.setRound coll (round + 1) else s
    | none => s

/-- Changes a round. -/
def State.modRound (s : State) (c coll round : Nat) (f : Round → Round) : State :=
  let s := s.needRound c coll round
  { s with rounds := s.rounds.map fun r => if r.ctx == c && r.coll == coll && r.round == round then f r else r }

/-- Begins a round at its first chunk or packet (R441). -/
def State.touchRound (s : State) (c coll round : Nat) : State :=
  let now := s.tick
  s.modRound c coll round fun r => { r with begun := some (r.begun.getD now) }

/-- Records a failure of a round: the first one stays. -/
def State.failRound (s : State) (c coll round : Nat) (e : Cause) : State :=
  s.modRound c coll round fun r => { r with fail := if r.fail == 0 then e else r.fail }

/-- HDR of a log record of the engine that serves a collective. -/
def State.collHdr (s : State) (c coll : Nat) : DWord :=
  match ((s.ctx c).coll coll).bind fun r => s.bindingOf c r.prog with
  | some p => BitVec.ofNat 64 (p.2.engine * 65536)
  | none => 0

/-- A read for a round that is refused fails the round; an uncorrectable error also forms a log record (R405). -/
def State.readFails (s : State) (c coll round : Nat) (e : Cause) : State :=
  (if e = 0x13 then s.logEngine c 0x13 1 (s.collHdr c coll) else s).failRound c coll round e

/-! ## The capacity table (R346, R383) -/

/-- Sets the counters of a binding that serves a DISPATCH collective from its capacity table; a table that cannot be read
sets them to 0 and fails the round. A binding sets the counters of its own share alone. -/
def State.readCapacity (s : State) (i c coll : Nat) (r : CollRec) (round : Nat) : State :=
  let s := s.modBinding i fun b => { b with capDue := b.capDue.filter fun p => p.1 != coll }
  match s.vreadSpan c r.inbase 64 with
  | .ok bs =>
    (s.areaKeep c r.inbase 1024).modBinding i fun b => { b with ctrs := (byteElems 4 b.ctrs.length bs).map (BitVec.ofNat 32) }
  | .error e => (s.modBinding i fun b => { b with ctrs := List.replicate b.ctrs.length 0 }).readFails c coll round e

/-- The counters of a round are set from its capacity table, once its lines can be reached (R443). -/
def State.loadCapacity (s : State) (i c coll : Nat) (r : CollRec) (round : Nat) : State :=
  if s.areaShut c r.inbase 1024 then
    s.modBinding i fun b => { b with capDue := (b.capDue.filter fun p => p.1 != coll) ++ [(coll, round)] }
  else s.readCapacity i c coll r round

/-! ## `barup` (R338, R382) -/

/-- Completes the round of a collective at its binding: the completion of the package follows once its writes are
acknowledged. -/
def State.barup (s : State) (i c coll : Nat) (r : CollRec) (status : Cause) : State :=
  match s.bindings[i]? with
  | none => s
  | some b =>
    let n := b.roundOf coll
    let now := s.tick
    let s := s.modRound c coll n fun x => { x with barup := some (x.barup.getD status), upAt := now }
    let s := s.modBinding i fun b => b.setRound coll (n + 1)
    if r.ctype = 3 then s.loadCapacity i c coll r (n + 1) else s

/-! ## Slots (R326, R342) -/

/-- Elements of a slot. -/
def Slot.count (x : Slot) : Nat := if x.form == .b then x.len / 2 else x.len / 4

/-- The elements of a slot as 32-bit values; form B is widened exactly. -/
def Slot.elems (x : Slot) : List Nat :=
  if x.form == .b then
    (byteElems 2 x.count x.bytes).map fun v => (convert .f32 .rne false (fval .bf16 v)).bits
  else byteElems 4 x.count x.bytes

/-- Pads bytes to the 256 of a slot. -/
def padSlot (bs : List Byte) (old : List Byte) : List Byte := (bs ++ old.drop bs.length).take 256

/-- A slot filled with data: at most the 256 bytes that it holds (of a longer `comb` result, DESIGN CHOICE, log entry
114). -/
def Slot.fill (x : Slot) (form : Form) (data : List Byte) : Slot :=
  { full := true, form := form, bytes := padSlot data x.bytes, len := Nat.min 256 data.length }

/-- The element operation of `comb` (R342). -/
def combElem (op : Nat) (x y : Nat) : Combined :=
  match op with
  | 0 | 1 => addF32 x y
  | 2 => selF32 true x y
  | 3 => selF32 false x y
  | 0xA => selI32 true x y
  | 0xB => selI32 false x y
  | 4 => addW x y
  | 5 => addS x y
  | 6 => orW x y
  | _ => andW x y

/-- Whether `comb` accepts two slots: both FULL, of equal element counts, and of forms that the operation takes. -/
def combOk (op : Nat) (l r : Slot) : Bool :=
  l.full && r.full && l.count == r.count && (op != 0 || (l.form != .b && r.form != .b)) &&
    ((op != 6 && op != 7) || (l.form == .w && r.form == .w))

/-- The elements of `comb` with the causes they log. -/
def combAll (op : Nat) (l r : Slot) : List Combined := l.elems.zipWith (combElem op) r.elems

/-- The slot that `comb` fills. -/
def combSlot (op : Nat) (l r old : Slot) : Slot :=
  old.fill (if op = 6 || op = 7 then .w else .f) (elemBytes 4 ((combAll op l r).map (·.1)))

/-- One log record for each cause of one `comb` (R116, R342). -/
def State.logComb (s : State) (c : Nat) (l : List Combined) (hdr : DWord) : State :=
  (logTally ((l.filterMap fun p => p.2.map fun e => (e, 0xFFFF, 1)))).foldl (fun s e => s.logEngine c e.1 e.2.2 hdr) s

/-- The bytes that `emit` writes of a slot (R341): with `round`, each F32 element rounded to BF16. -/
def emitBytes (x : Slot) (round : Bool) : List Byte :=
  if round then elemBytes 2 (x.elems.map fun v => (convert .bf16 .rne false (fval .f32 v)).bits)
  else x.bytes.take x.len

/-- The causes of the rounding of an `emit` (R99, R114). -/
def emitCauses (x : Slot) (round : Bool) : List Combined :=
  if round then x.elems.map fun v =>
    let r := convert .bf16 .rne false (fval .f32 v)
    (r.bits, r.cause)
  else []

/-- Whether every byte of a range has been written by the emits of a round. -/
def emitted (l : List (Nat × Nat)) (a n : Nat) : Bool :=
  (List.range n).all fun i => l.any fun e => e.1 ≤ a + i && a + i < e.1 + e.2

/-- Whether every write that the hardware has made for a context is visible at system scope (R133, R443). -/
def State.settled (s : State) (c : Nat) : Bool := s.posted.all fun w => w.ctx != c

/-- Sends the acknowledgements of the granted rows of a round whose emits are acknowledged (R346, step 5; of an emit that failed:
DESIGN CHOICE, log entry 115). -/
def State.ackRows (s : State) (c coll round : Nat) : State :=
  match (s.ctx c).coll coll, s.round c coll round with
  | some r, some x =>
    let isOver (g : RowGrant) : Bool :=
      g.coll == coll && g.round == round && s.settled c && emitted x.emits (r.dst + g.row * r.nbytes) r.nbytes
    match s.bindingOf c r.prog with
    | some (i, b) =>
      if r.ctype = 3 then
        let acks := (b.fgrants.filter isOver).filterMap fun g =>
          match s.member c r g.rank with
          | .ok w => some ({ dst := w.extractLsb' 0 20, ctx := (w.extractLsb' 20 6).toNat, coll := coll,
                             round := round % 65536, rank := r.myrank, token := g.token } : RowAck)
          | .error _ => none
        { s.modBinding i fun b => { b with fgrants := b.fgrants.filter fun g => !isOver g } with
          rowAcks := s.rowAcks ++ acks }
      else s
    | none => s
  | _, _ => s

/-- Writes result bytes of a collective in a round; a write that fails writes nothing and records its cause. Results for a die
that does not answer wait in the Anvil (R443). -/
def State.emitTo (s : State) (c coll round : Nat) (a : Nat) (bs : List Byte) : State :=
  let mark (s : State) : State :=
    (s.modRound c coll round fun r => { r with emits := r.emits ++ [(a, bs.length)] }).ackRows c coll round
  match s.vwriteAcross c a bs with
  | .ok s => mark s
  | .error e => mark (s.failRound c coll round e)

/-! ## A stopped thread (R343, R440) -/

/-- A place of a port thread: its binding, and its place there. -/
structure PSite where
  bind : Nat
  thr  : Nat
  deriving DecidableEq, Repr

/-- Changes a port thread. -/
def State.modPort (s : State) (x : PSite) (f : PThread → PThread) : State :=
  s.modBinding x.bind fun b => { b with threads := lmod b.threads x.thr f }

/-- The collectives that a binding serves. -/
def State.served (s : State) (b : Binding) : List (Nat × CollRec) :=
  (s.ctx b.ctx).colls.filter fun p => ((s.ctx b.ctx).coll p.1).any fun r => r.prog == b.prog

/-- A port thread stops: every round of the collectives its binding serves completes here with 0x1C, whatever its source side
still awaits, and the runtime learns the engine, the binding and the PC. -/
def State.stopPort (s : State) (x : PSite) : State :=
  match s.bindings[x.bind]? with
  | none => s
  | some b =>
    let pc := ((b.threads[x.thr]?).map (·.pc)).getD 0
    let s := s.modPort x fun t => { t with stopped := true, cp := none }
    let colls := (s.served b).map (·.1)
    let now := s.tick
    let mine (r : Round) : Bool := r.ctx == b.ctx && colls.contains r.coll && r.barup.isNone
    let next := (s.rounds.filter mine).map fun (r : Round) => (r.coll, r.round + 1)
    let close (r : Round) : Round :=
      if mine r then { r with barup := some 0x1C, ended := true, upAt := now, fail := if r.fail == 0 then 0x1C else r.fail } else r
    let done (q : DReq) : Bool := s.rounds.any fun r => mine r && q.ctx == r.ctx && q.coll == r.coll && q.round == r.round
    let s := { s with rounds := s.rounds.map close, dreqs := s.dreqs.filter fun q => !done q }
    let s := s.modBinding x.bind fun b => next.foldl (fun b p => b.setRound p.1 (Nat.max (b.roundOf p.1) p.2)) b
    s.ctxEvent b.ctx 0x1C (b.engine * 65536 + pc) b.prog

end Sys2Proof.Machine
end

