-- ==== Sys2Proof/Machine/Fetch.lean ====
section
/-! DEFINITION. The instruction store: overlay entries (R305), copies and their counts (R306), loads (R307,
R308), evictions (R311 to R313), the header word (R170), and the fetch of a word. -/

namespace Sys2Proof.Machine

/-! ## The overlay table (R305) -/

/-- A valid entry of a context's overlay table. -/
def Context.overlay (x : Context) (ovl : BitVec 8) : Option OvlEntry :=
  match x.overlays.lookup ovl.toNat with
  | some e => if 1 ≤ e.slots && e.slots ≤ 16 && !e.resv then some e else none
  | none => none

/-! ## Copies on a core -/

/-- The reference of a context to a copy. -/
def OvlCopy.ref (k : OvlCopy) (c : Nat) (ovl : BitVec 8) : Option OvlRef :=
  k.refs.find? fun r => r.ctx == c && r.ovl == ovl

/-- The copy that a context's overlay has on a core. -/
def State.copyOf (s : State) (core c : Nat) (ovl : BitVec 8) : Option OvlCopy :=
  (s.core core).copies.find? fun k => (k.ref c ovl).isSome

/-- The copy of a context's overlay that can be fetched from: RESIDENT or EVICTING (R306). -/
def State.residentCopy (s : State) (core c : Nat) (ovl : BitVec 8) : Option OvlCopy :=
  match s.copyOf core c ovl with
  | some k => if k.loading then none else some k
  | none => none

/-- The residency code of R306. -/
def State.ovlState (s : State) (core c : Nat) (ovl : BitVec 8) : Nat :=
  match s.copyOf core c ovl with
  | none => 0
  | some k =>
    if k.loading then 1
    else match k.ref c ovl with
      | some r => if r.evicting then 3 else 2
      | none => 0

/-- Whether the load of an overlay on a core is under way: a first load, or one that replaces a lost word (R307, R430). -/
def State.ovlDue (s : State) (core c : Nat) (ovl : BitVec 8) : Bool :=
  (s.copyOf core c ovl).any fun k => k.loading || k.reload

/-- Changes a copy of a core. -/
def State.modCopy (s : State) (core id : Nat) (f : OvlCopy → OvlCopy) : State :=
  s.modCore core fun k => { k with copies := k.copies.map fun x => if x.id == id then f x else x }

/-- Live threads of a context on a core whose PC lies in an overlay (R306). -/
def State.pcInside (s : State) (core c : Nat) (ovl : BitVec 8) : Nat :=
  (s.blocks.filter fun b => b.core == core && b.ctx == c).foldl (fun n b =>
    n + (b.threads.filter fun t => t.live && codeOvl t.pc == ovl).length +
      (if b.ctl.any fun t => t.live && codeOvl t.pc == ovl then 1 else 0)) 0

/-- Live threads of a context on a core that wait for the load of an overlay, and complete their transfer into it
when it ends (R232, R311). -/
def State.pcComing (s : State) (core c : Nat) (ovl : BitVec 8) : Nat :=
  (s.blocks.filter fun b => b.core == core && b.ctx == c).foldl (fun n b =>
    let coming (t : Thread) : Bool := t.live && t.wait == .overlay ovl && t.start.all (·.1 == ovl)
    n + (b.threads.filter coming).length + (if b.ctl.any coming then 1 else 0)) 0

/-- Threads inside a copy or about to be, over every context that refers to it (R311, R313). -/
def State.copyInside (s : State) (core : Nat) (k : OvlCopy) : Nat :=
  k.refs.foldl (fun n r => n + s.pcInside core r.ctx r.ovl + s.pcComing core r.ctx r.ovl) 0

/-- The pin count of a copy: tokens and HINT pins, over every context (R176, R306, R313). -/
def OvlCopy.pinCount (k : OvlCopy) : Nat := k.pins.foldl (fun n p => n + p.2) 0 + k.hints.length

/-- The pins that a context's blocks hold on a copy as one overlay. -/
def State.ownPins (s : State) (k : OvlCopy) (r : OvlRef) : Nat :=
  let own (p : Nat × BitVec 8) : Bool := p.2 == r.ovl && (s.block p.1).any (·.ctx == r.ctx)
  (k.pins.filter (own ·.1)).foldl (fun n p => n + p.2) 0 + (k.hints.filter own).length

/-- Whether a context has neither pins on a copy nor threads inside it (R313). -/
def State.unused (s : State) (core : Nat) (k : OvlCopy) (r : OvlRef) : Bool :=
  s.ownPins k r == 0 && s.pcInside core r.ctx r.ovl == 0 && s.pcComing core r.ctx r.ovl == 0

/-- Drops references, and the copy with its last reference (R312). -/
def dropRefs (l : List OvlCopy) (id : Nat) (p : OvlRef → Bool) : List OvlCopy :=
  (l.map fun k => if k.id == id then { k with refs := k.refs.filter fun r => !p r } else k).filter
    fun k => !k.refs.isEmpty

/-- Evicts every EVICTING overlay of a core whose counts have reached 0 (R311 to R313). -/
def State.settle (s : State) (core : Nat) : State :=
  (s.core core).copies.foldl (fun s k =>
    if k.loading then s
    else s.modCore core fun c =>
      { c with copies := dropRefs c.copies k.id fun r => r.evicting && s.unused core k r }) s

/-- A transfer into an overlay, an `ovpin` or an `ovld` cancels a deferred eviction (R311). -/
def State.cancelEvict (s : State) (core c : Nat) (ovl : BitVec 8) : State :=
  s.modCore core fun k => { k with copies := k.copies.map fun x =>
    { x with refs := x.refs.map fun r =>
        if r.ctx == c && r.ovl == ovl then { r with evicting := false, atEnd := false } else r } }

/-! ## Loads (R307, R308) -/

/-- Slots that the copies loaded under a launch's reservation occupy. -/
def slotsOf (l : List OvlCopy) (seq : Nat) : Nat := (l.filter (·.seq == seq)).foldl (fun n k => n + k.nslots) 0

/-- The copies that the load evicts, oldest first, until enough slots of the reservation are free. A copy that another
context refers to stays (R308, R312, R313). -/
def State.evictFor (s : State) (core c seq isq need : Nat) : List OvlCopy → State
  | [] => s
  | k :: ks =>
    if slotsOf (s.core core).copies seq + need ≤ isq then s
    else if !k.loading && k.pinCount == 0 && s.copyInside core k == 0 && k.refs.all (·.ctx == c) then
      (s.modCore core fun x => { x with copies := x.copies.filter (·.id != k.id) }).evictFor core c seq isq need ks
    else s.evictFor core c seq isq need ks

/-- Slot numbers that no copy holds. -/
def freeSlots (l : List OvlCopy) : List Nat :=
  (List.range Config.storeSlots).filter fun i => l.all fun k => !k.mask.getLsbD i

/-- The mask of some slots. -/
def slotMask (l : List Nat) : DWord := l.foldl (fun m i => m ||| (1#64 <<< i)) 0

/-- How a load starts. -/
inductive LoadStart where
  | now              -- the overlay is resident: the load completes at once
  | joined (id : Nat) -- a load is under way
  | failed (c : Cause)
  deriving DecidableEq, Repr

/-- Starts, joins or completes the load of an overlay on a core (R307, R308). An invalid entry fails, whatever copy
there is (R309); a copy is shared with another context's, never with another id of the same context alone. `by_` is the thread whose
earlier accesses the load follows (R137). -/
def State.startLoad (s : State) (core c : Nat) (ovl : BitVec 8) (seq isq : Nat) (by_ : Option (Nat × Who)) :
    LoadStart × State :=
  match (s.ctx c).overlay ovl with
  | none => (.failed 0x12, s)
  | some e =>
    match s.copyOf core c ovl with
    | some k => if k.loading then (.joined k.id, s) else (.now, s.cancelEvict core c ovl)
    | none =>
      let twin := (s.core core).copies.find? fun k =>
        !k.loading && k.shared && e.shared && k.digest == e.digest && k.refs.any (·.ctx != c)
      match twin with
      | some k =>
        (.now, s.modCopy core k.id fun k => { k with refs := k.refs ++ [⟨c, ovl, false, false⟩] })
      | none =>
        let old := (s.core core).copies.filter (·.seq == seq)
        let s := s.evictFor core c seq isq e.slots (sortBy (fun a b => a.order ≤ b.order) old)
        let fr := freeSlots (s.core core).copies
        if slotsOf (s.core core).copies seq + e.slots ≤ isq && e.slots ≤ fr.length then
          let (p, s) := s.pick fr.length
          let (id, s) := s.take
          let k : OvlCopy :=
            { id := id, loading := true, refs := [⟨c, ovl, false, false⟩], addr := e.addr, nslots := e.slots,
              mask := slotMask ((fr.rotateLeft p).take e.slots), words := [], digest := e.digest,
              shared := e.shared, pins := [], hints := [], seq := seq, order := id, loader := by_, bad := [], reload := false }
          (.joined id, s.modCore core fun x => { x with copies := x.copies ++ [k] })
        else (.failed 0x0F, s)

/-! ## Words and headers (R170) -/

/-- The word at a byte offset of a copy; bytes after the last word hold 0 (R169). -/
def OvlCopy.word (k : OvlCopy) (off : Nat) : DWord := k.words.getD (off / 8) 0

/-- Whether some of `n` words of a copy from an offset on were lost (R430). -/
def OvlCopy.lost (k : OvlCopy) (off n : Nat) : Bool := k.bad.any fun i => off / 8 ≤ i && i < off / 8 + n

/-- The image of a copy is to be read again, because a word of it was lost (R430). -/
def State.reloadCopy (s : State) (core id : Nat) : State := s.modCopy core id fun k => { k with reload := true }

/-- Bytes of an image. -/
def OvlCopy.size (k : OvlCopy) : Nat := k.nslots * 4096

/-- A header word (R170). -/
structure Header where
  len    : Nat
  live   : Nat
  pri    : Nat
  wait   : BitVec 12
  seta   : Nat
  setb   : Nat
  reconv : Int
  hint   : Nat
  xl     : Bool
  resv   : Bool
  deriving DecidableEq, Repr

/-- Reads a header word (R170). -/
def readHeader (w : DWord) : Header :=
  { len := (w.extractLsb' 52 8).toNat, live := (w.extractLsb' 45 7).toNat, pri := (w.extractLsb' 41 4).toNat,
    wait := w.extractLsb' 29 12, seta := (w.extractLsb' 25 4).toNat, setb := (w.extractLsb' 21 4).toNat,
    reconv := (w.extractLsb' 5 16).toInt, hint := (w.extractLsb' 2 3).toNat, xl := w.extractLsb' 1 1 == 1,
    resv := w.extractLsb' 0 1 == 1 }

/-- Whether a word has the mark of a header. -/
def isHeader (w : DWord) : Bool := w.extractLsb' 60 4 == 0xF

/-- The error of a header for a vector thread of `greg` registers, or for a control thread (R178, R397). -/
def headerError (h : Header) (greg : Option Nat) (off size : Nat) : Option Cause :=
  if 112 < h.live || 12 < h.seta || 12 < h.setb || 3 < h.hint || h.resv || greg.any fun n => n - 2 < h.live
  then some 0x01
  else if h.len = 0 || size < off + 8 * (h.len + 1) then some 0x03
  else none

/-- The flags that a counted operation of a block with this header raises (R174). -/
def Header.setFlags (h : Header) : List Nat :=
  let a := if h.seta = 0 then [] else [h.seta - 1]
  if h.setb = 0 || h.setb = h.seta then a else a ++ [h.setb - 1]

/-- The header of the basic block that a thread stands in. -/
def State.headerAt (s : State) (core c : Nat) (hdr : Word) : Header :=
  match s.residentCopy core c (codeOvl hdr) with
  | some k => readHeader (k.word (codeOff hdr))
  | none => readHeader 0

/-! ## Targets (R169, R228) -/

/-- Whether a target meets the first three conditions of R228. -/
def Context.targetOk (x : Context) (t : Word) : Bool :=
  t.extractLsb' 16 8 == 0 &&
  (match x.overlay (codeOvl t) with
   | some e => codeOff t % 8 == 0 && codeOff t < e.slots * 4096
   | none => false)

/-- The offset that entry `i` of a resident overlay holds, when the table has that entry (R169). -/
def OvlCopy.entryOff (k : OvlCopy) (i : Nat) : Option Nat :=
  let e := ((k.word 0).extractLsb' 0 8).toNat
  if e ≤ i then none
  else
    let w := k.word (8 + 4 * i)
    some (if (8 + 4 * i) % 8 = 0 then w.extractLsb' 0 32 else w.extractLsb' 32 32).toNat

/-- The header of entry `i` of a resident overlay, or none when R169 makes it no header. -/
def OvlCopy.entry (k : OvlCopy) (ovl : BitVec 8) (i : Nat) : Option Word :=
  (k.entryOff i).bind fun off => if off % 8 = 0 && off < k.size then some (codeAddr ovl off) else none

/-- Whether the head word, an entry or the header that the entry names was lost (R430). -/
def OvlCopy.entryLost (k : OvlCopy) (i : Nat) : Bool :=
  k.lost 0 1 || k.lost (8 + 4 * i) 1 || (k.entryOff i).any fun off => k.lost off 1

/-- The target that an entry names as a code address, legal or not; that of the image when the table has no such entry
(DEDUCED, log entry 102). -/
def OvlCopy.entryTarget (k : OvlCopy) (ovl : BitVec 8) (i : Nat) : Word :=
  codeAddr ovl 0 + BitVec.ofNat 32 ((k.entryOff i).getD 0)

end Sys2Proof.Machine
end

