-- ==== Sys2Proof/Machine/Flags.lean ====
section
/-! DEFINITION. Completion flags (R173, R174), barrier objects and their completion check (R263, R264), tile
states as conditions (R80), and the causes a meaning adds to the arithmetic log (R114, R116). -/

namespace Sys2Proof.Machine

/-! ## Completion flags (R174) -/

/-- A flag of a block. -/
def Block.flag (b : Block) (n : Nat) : BitVec 16 := vget b.flags n 0

/-- Whether every flag of a mask reads 0 (R173, R267). -/
def Block.flagsClear (b : Block) (m : BitVec 12) : Bool :=
  (List.range 12).all fun i => !m.getLsbD i || b.flag i == 0

/-- Whether each flag of a list can rise by one for each time it is named (R174). -/
def Block.flagRoom (b : Block) (fs : List Nat) : Bool := fs.all fun f => (b.flag f).toNat + fs.count f ≤ 65535

/-- Each flag of a list rises by one. -/
def Block.raise (b : Block) (fs : List Nat) : Block :=
  { b with flags := fs.foldl (fun v f => vmod v f (· + 1)) b.flags }


/-- Adds a flag to a list of flags that an operation counts on: a flag named twice counts twice, once by the
header and once by the operation itself (R174, R277). -/
def flagsOf (h : Header) (own : Option Nat) : List Nat := h.setFlags ++ own.toList

/-! ## Barrier objects (R263, R264) -/

/-- A barrier object at placement: EXP is BDIM. -/
def Bar.init (bdim : Nat) : Bar := { err := false, ph := false, exp := bdim, arr := 0, tx := 0 }

/-- The completion check. -/
def Bar.check (b : Bar) : Bar := if b.arr = b.exp && b.tx == 0 then { b with ph := !b.ph, arr := 0 } else b

/-- TX saturates at its bounds and sets ERR when it does. -/
def Bar.addTx (b : Bar) (d : Int) : Bar :=
  let v := b.tx + d
  if v < -2147483648 then { b with tx := -2147483648, err := true }
  else if 2147483647 < v then { b with tx := 2147483647, err := true }
  else { b with tx := v }

/-- `bar.init`. -/
def Bar.start (b : Bar) (ga : Word) : Bar :=
  let n := ga.toNat % 4096
  (if 1 ≤ n && n ≤ 1025 then { b with exp := n, arr := 0, tx := 0, err := false }
   else { b with err := true }).check

/-- `bar.arr`. -/
def Bar.arrive (b : Bar) : Bar :=
  (if b.arr = b.exp then { b with err := true } else { b with arr := b.arr + 1 }).check

/-- `bar.exp`. -/
def Bar.expect (b : Bar) (ga : Word) : Bar :=
  (if 2147483648 ≤ ga.toNat then { b with err := true } else b.addTx ga.toNat).check

/-- The update of an engine command (R138, R264). -/
def Bar.engine (b : Bar) (bytes : Nat) (bad : Bool) : Bar :=
  let c := b.addTx (-(bytes : Int))
  (if bad then { c with err := true } else c).check

/-- A barrier of a block. -/
def Block.bar (b : Block) (n : Nat) : Bar := b.bars.getD n (Bar.init b.lr.bdim)

/-! ## Waits that end the moment their condition holds (R33) -/

/-- Whether a member of `waitany`'s set is ready (R266). -/
def memberReady (b : Block) (t : Thread) (ga gb : Word) (j : Nat) : Bool :=
  ga.getLsbD j &&
    (if j < 16 then j < b.lr.nbar && (b.bar j).ph != gb.getLsbD j else !(t.h (j - 16)).pending)

/-- The order in which `waitany` tests its members (R266). -/
def anyOrder (t : Thread) : List Nat := (List.range 32).map fun i => (t.anyq.toNat + i) % 32

/-- The member that `waitany` takes: the one its wait ended with, else the first that is ready (R266). -/
def Thread.anyChoice (t : Thread) (b : Block) (ga gb : Word) : Option Nat :=
  match t.wait with
  | .over j => some j
  | _ => (anyOrder t).find? (memberReady b t ga gb)

/-- Whether the wait of a thread at its word has ended. -/
def Wait.isOver : Wait → Bool
  | .over _ => true
  | _ => false

/-- A thread of a block whose flags or barriers have changed: a wait on them ends for good in the core cycle in which its
condition holds, whatever the flag or the phase does before the thread issues again (R173, R265 to R267). -/
def Thread.woken (b : Block) (t : Thread) : Thread :=
  match t.wait with
  | .header f => if b.flagsClear f then { t with wait := .none } else t
  | .flags f => if b.flagsClear f then { t with wait := .over 0 } else t
  | .bar n ph => if (b.bar n).ph != ph then { t with wait := .over 0 } else t
  | .anyOf ga gb => match (anyOrder t).find? (memberReady b t ga gb) with
    | some j => { t with wait := .over j }
    | none => t
  | _ => t

/-- Ends the waits of a block's threads whose condition holds now. -/
def Block.wake (b : Block) : Block :=
  { b with threads := b.threads.map (Thread.woken b), ctl := b.ctl.map (Thread.woken b) }

/-- Each flag of a list falls by one. -/
def Block.lower (b : Block) (fs : List Nat) : Block :=
  Block.wake { b with flags := fs.foldl (fun v f => vmod v f (· - 1)) b.flags }

/-- Changes a barrier of a block. -/
def Block.modBar (b : Block) (n : Nat) (f : Bar → Bar) : Block := Block.wake { b with bars := lmod b.bars n f }

/-- The 64-bit image of a barrier object (R263). -/
def Bar.image (b : Bar) : DWord :=
  BitVec.ofNat 64 ((if b.err then 2 ^ 63 else 0) + (if b.ph then 2 ^ 62 else 0) + b.exp * 2 ^ 48 +
    b.arr * 2 ^ 32 + intLow 32 b.tx)

/-- Reads an image; none when a reserved bit is set or EXP is outside 1 to 1,025 (R321). -/
def Bar.ofImage (v : DWord) : Option Bar :=
  let n := v.toNat
  let e := natBits n 59 48
  if natBits n 61 60 ≠ 0 || natBits n 47 44 ≠ 0 || e = 0 || 1025 < e then none
  else some { err := natBit n 63, ph := natBit n 62, exp := e, arr := natBits n 43 32, tx := natSigned 32 n }

/-! ## Tile states (R80) -/

/-- An unbound tile (R79). -/
def Tile.unbound : Tile :=
  { bound := false, lay := { fmt := 0, buf := .w, base := 0, s0 := 0, s1 := 0, s2 := 0, perm := 0 },
    size := 0, view := none, st := .empty, ownerE := false, users := 0, epoch := 0 }

/-- A tile of a block. -/
def Block.tile (b : Block) (n : Nat) : Tile := b.tiles.getD n Tile.unbound

/-- Changes a tile of a block. -/
def Block.modTile (b : Block) (n : Nat) (f : Tile → Tile) : Block := { b with tiles := lmod b.tiles n f }

/-- Whether a tile is READY with owner E. -/
def Tile.readyE (t : Tile) : Bool := t.st == .ready && t.ownerE

/-- Whether a tile meets a condition of R80. -/
def TileCond.holds (c : TileCond) (t : Tile) : Bool :=
  match c with
  | .writable => t.st == .empty || (t.readyE && t.users == 0)
  | .readable => t.readyE
  | .drainable => t.readyE && t.users == 0
  | .bindable => (t.st == .empty || (t.st == .ready && !t.ownerE)) && t.users == 0
  | .ready => t.st == .ready
  | .takable => t.st == .ready && (!t.ownerE || t.users == 0)
  | .operand => t.readyE || (t.st == .empty && t.view.isSome)

/-- Whether every tile of a list is in the state an instruction asks for. -/
def Block.tilesReady (b : Block) (l : List (Nat × TileCond)) : Bool := l.all fun p => p.2.holds (b.tile p.1)

/-! ## Log causes of a result (R114) -/

/-- The log entries of a list of optional causes, one element each. -/
def causesOf (l : List (Option Cause)) : List (Cause × Nat) := l.filterMap fun c => c.map fun x => (x, 1)

end Sys2Proof.Machine
end

