-- ==== Sys2Proof/Machine/LaneOps.lean ====
section
/-! DEFINITION. What a cross-lane instruction computes from the arrivals of its instance (R239, R241 to R245), as
pure functions. -/

namespace Sys2Proof.Machine

/-- The arrival of a lane, when the lane is present: arrived with its guard true (R239). -/
def presentLane (arrs : List Arrival) (l : Nat) : Option Arrival := arrs.find? fun a => a.lane == l && a.guard

/-- The arrival of a lane that is in a mask and present. -/
def maskedLane (arrs : List Arrival) (m : BitVec 32) (l : Nat) : Option Arrival :=
  if m.getLsbD l then presentLane arrs l else none

/-- The lanes of a mask. -/
def lanesOf (m : BitVec 32) : List Nat := (List.range 32).filter fun l => m.getLsbD l

/-- What a completed instance gives one thread. -/
structure LaneOut where
  g      : Option (Reg × Word)
  q      : Option (BitVec 3 × Bool)
  causes : List Cause
  deriving DecidableEq, Repr

/-! ## Votes (R241) -/

/-- `vote.all`: every lane of the mask is present with its predicate true. -/
def voteAllOf (arrs : List Arrival) (m : BitVec 32) : Bool :=
  (lanesOf m).all fun l => (presentLane arrs l).any (·.pred)

/-- `vote.any`: some present lane of the mask has its predicate true. -/
def voteAnyOf (arrs : List Arrival) (m : BitVec 32) : Bool :=
  (lanesOf m).any fun l => (presentLane arrs l).any (·.pred)

/-- A word with the bits of the lanes that meet a condition. -/
def laneBits (p : Nat → Bool) : Word := (List.range 32).foldl (fun w l => if p l then w ||| (1#32 <<< l) else w) 0

/-- `vote.bal`. -/
def voteBalOf (arrs : List Arrival) (m : BitVec 32) : Word := laneBits fun l => (maskedLane arrs m l).any (·.pred)

/-- `match` (R245). -/
def matchOf (arrs : List Arrival) (m : BitVec 32) (v : Word) : Word :=
  laneBits fun l => (maskedLane arrs m l).any (·.val == v)

/-! ## Shuffles (R242) -/

/-- The value of a source lane, or none when it is outside the window, not in the mask or not present. -/
def shuffleOf (arrs : List Arrival) (m : BitVec 32) (src : Int) : Option Word :=
  if 0 ≤ src && src ≤ 31 then (maskedLane arrs m src.toNat).map (·.val) else none

/-- What a shuffle writes. -/
def shuffleOut (arrs : List Arrival) (a : Arrival) (o : Shfl) (src : Int) : LaneOut :=
  match shuffleOf arrs a.mask src with
  | some v => { g := some (o.d, v), q := some (o.q, false), causes := [] }
  | none => { g := some (o.d, 0), q := some (o.q, true), causes := [] }

/-! ## Reductions and scans (R112, R243, R244) -/

/-- The combining operations of a lane reduction. -/
inductive LaneFn where
  | add | max | min
  deriving DecidableEq, Repr

/-- A partial result of a reduction: a value, if any lane gave one, and the causes it raised. -/
structure LaneVal where
  v      : Option Word
  causes : List Cause
  deriving DecidableEq, Repr

/-- One node: the lower lane is the left operand (R243). -/
def laneNode (f : LaneFn) (ty : ElemTy) (r : Rnd) (a b : Word) : Word × Option Cause :=
  if ty == .f32 then
    match f with
    | .add =>
      let x := fadd .f32 r (fval .f32 a.toNat) (fval .f32 b.toNat)
      (BitVec.ofNat 32 x.bits, x.cause)
    | .max => (BitVec.ofNat 32 (fmaxmin .f32 true a.toNat b.toNat), none)
    | .min => (BitVec.ofNat 32 (fmaxmin .f32 false a.toNat b.toNat), none)
  else
    let le : Bool := if ty == .i32 then a.toInt ≤ b.toInt else a.toNat ≤ b.toNat
    match f with
    | .add => (a + b, none)
    | .max => (if le then b else a, none)
    | .min => (if le then a else b, none)

/-- Combines two partial results; an absent one passes its partner through. -/
def laneJoin (f : LaneFn) (ty : ElemTy) (r : Rnd) (a b : LaneVal) : LaneVal :=
  match a.v, b.v with
  | some x, some y =>
    let z := laneNode f ty r x y
    { v := some z.1, causes := a.causes ++ b.causes ++ z.2.toList }
  | none, _ => b
  | _, none => a

/-- One level of the tree: neighbours are combined in pairs. -/
def lanePairs (f : LaneFn) (ty : ElemTy) (r : Rnd) : List LaneVal → List LaneVal
  | a :: b :: l => laneJoin f ty r a b :: lanePairs f ty r l
  | l => l

/-- The leaves of a thread: its mask's present lanes. -/
def laneLeaves (arrs : List Arrival) (m : BitVec 32) : List LaneVal :=
  (List.range 32).map fun l => { v := (maskedLane arrs m l).map (·.val), causes := [] }

/-- The binary tree over 32 lanes (R112). -/
def laneTree (f : LaneFn) (ty : ElemTy) (r : Rnd) (arrs : List Arrival) (m : BitVec 32) : LaneVal :=
  let up := lanePairs f ty r
  (up (up (up (up (up (laneLeaves arrs m)))))).headD { v := none, causes := [] }

/-- One step of the scan at a distance: lane i takes x(i - d) + x(i) (R244). -/
def scanStep (ty : ElemTy) (r : Rnd) (d : Nat) (x : List LaneVal) : List LaneVal :=
  x.take d ++ (x.zip (x.drop d)).map fun p => laneJoin .add ty r p.1 p.2

/-- The inclusive scan at every lane (R244). -/
def laneScan (ty : ElemTy) (r : Rnd) (arrs : List Arrival) (m : BitVec 32) : List LaneVal :=
  [1, 2, 4, 8, 16].foldl (fun x d => scanStep ty r d x) (laneLeaves arrs m)

/-- What a reduction or scan writes. -/
def laneOutOf (d : Reg) (v : LaneVal) : LaneOut :=
  { g := some (d, v.v.getD 0), q := none, causes := v.causes.eraseDups }

/-! ## The results of an instance -/

/-- The destinations of a cross-lane instruction for one guard-true arrival, computed over its own mask. -/
def laneResult (i : Instr) (arrs : List Arrival) (a : Arrival) : LaneOut :=
  let m := a.mask
  match i with
  | .voteAll _ d _ _ => { g := none, q := some (d, voteAllOf arrs m), causes := [] }
  | .voteAny _ d _ _ => { g := none, q := some (d, voteAnyOf arrs m), causes := [] }
  | .voteBal _ d _ _ => { g := some (d, voteBalOf arrs m), q := none, causes := [] }
  | .shflIdx _ o _ => shuffleOut arrs a o a.src
  | .shflUp _ o n => shuffleOut arrs a o ((a.lane : Int) - n.toNat)
  | .shflDn _ o n => shuffleOut arrs a o ((a.lane : Int) + n.toNat)
  | .shflXor _ o n => shuffleOut arrs a o (a.lane ^^^ n.toNat : Nat)
  | .qxH _ o => shuffleOut arrs a o (a.lane ^^^ 1 : Nat)
  | .qxV _ o => shuffleOut arrs a o (a.lane ^^^ 2 : Nat)
  | .qxD _ o => shuffleOut arrs a o (a.lane ^^^ 3 : Nat)
  | .lredAdd _ o => laneOutOf o.d (laneTree .add o.ty o.rnd arrs m)
  | .lredMax _ o => laneOutOf o.d (laneTree .max o.ty o.rnd arrs m)
  | .lredMin _ o => laneOutOf o.d (laneTree .min o.ty o.rnd arrs m)
  | .lscanAdd _ o =>
    laneOutOf o.d ((laneScan o.ty o.rnd arrs m).getD a.lane { v := none, causes := [] })
  | .matchLanes _ d _ _ => { g := some (d, matchOf arrs m a.val), q := none, causes := [] }
  | _ => { g := none, q := none, causes := [] }

/-- Writes what an instance gives a thread. -/
def Thread.putLane (t : Thread) (o : LaneOut) : Thread :=
  let t := match o.g with
    | some (r, v) => t.setG r.toNat v
    | none => t
  match o.q with
  | some (n, v) => t.setQ n v
  | none => t

end Sys2Proof.Machine
end

