-- ==== Sys2Proof/Machine/Ops.lean ====
section
/-! DEFINITION. The shared operations on threads: what ends a wait (R33), taking an exception (R42, R398, R399,
R400), handler entry and the start of a thread at an entry (R57, R388, R413), the end of a thread (R37, R234), rejoin
records (R35), moving past an instruction (R171), and the completion of a rendezvous (R238). -/

namespace Sys2Proof.Machine

/-! ## Words and blocks -/

/-- The word at a code address of a context on a core; 0 when its overlay is not resident. -/
def State.wordAt (s : State) (core c : Nat) (a : Word) : DWord :=
  match s.residentCopy core c (codeOvl a) with
  | some k => k.word (codeOff a)
  | none => 0

/-- Whether a code address names a header inside a resident image (R171, R228). -/
def State.headerWord (s : State) (core c : Nat) (a : Word) : Bool :=
  match s.residentCopy core c (codeOvl a) with
  | some k => codeOff a < k.size && isHeader (k.word (codeOff a))
  | none => false

/-- Whether a block has a live control thread. -/
def Block.ctlLive (b : Block) : Bool := b.ctl.any (·.live)

/-- Whether a thread of a block is live. -/
def Block.liveWho (b : Block) (w : Who) : Bool := (b.thread w).any (·.live)

/-- The launch of a block. -/
def State.launch (s : State) (seq : Nat) : Option Launch := s.launches.find? (·.seq == seq)

/-- Changes a launch. -/
def State.modLaunch (s : State) (seq : Nat) (f : Launch → Launch) : State :=
  { s with launches := s.launches.map fun l => if l.seq == seq then f l else l }

/-! ## What a thread waits for (R33) -/

/-- Whether an access has been performed towards a scope (R129, R133). -/
def Req.performed (r : Req) (sc : Scope) : Bool :=
  let far : Bool := sc == .pkg || sc == .sys
  let bound : Bool := r.value.isSome || r.bad.isSome
  let stored (ack : Bool) : Bool :=
    match r.st with
    | .issued => false
    | .home _ _ => !ack && !far && !pteRepl r.pte
    | .locked _ => false
    | .done => !ack && !far && !pteRepl r.pte
    | .aborted _ _ => true
  match r.kind with
  | .load _ _ _ _ nc => nc || bound
  | .snap _ _ _ _ _ _ _ _ => bound
  | .store _ ack _ => stored ack
  | .atomic _ _ _ _ _ _ ack => stored ack && bound
  | .clean _ => !far
  | .buf _ _ _ _ => r.st != .issued
  | .stk _ _ => r.st != .issued
  | .lock => false
  | .own _ _ | .defer _ => true

/-- Whether the load part of a request has bound its value (R123). -/
def Req.bound (r : Req) : Bool :=
  match r.kind with
  | .load _ _ _ _ _ | .snap _ _ _ _ _ _ _ _ | .atomic _ _ _ _ _ _ _ => r.value.isSome || r.bad.isSome
  | .store _ _ _ | .clean _ | .own _ _ | .buf _ _ _ _ | .stk _ _ | .lock | .defer _ => true

/-- Whether an access reads, and later binds what it read. -/
def Req.reads (r : Req) : Bool :=
  match r.kind with
  | .load _ _ _ _ _ | .atomic _ _ _ _ _ _ _ | .snap _ _ _ _ _ _ _ _ => true
  | .store _ _ _ | .clean _ | .own _ _ | .buf _ _ _ _ | .stk _ _ | .lock | .defer _ => false

/-- Whether an access sends a write to a home slice (R134): a store, an atomic, or the write of an engine. -/
def Req.sends (r : Req) : Bool :=
  match r.kind with
  | .store _ _ _ | .atomic _ _ _ _ _ _ _ | .clean _ | .lock => true
  | .load _ _ _ _ _ | .snap _ _ _ _ _ _ _ _ | .own _ _ | .buf _ _ _ _ | .stk _ _ | .defer _ => false

/-- Whether an access is a thread's own, not the invalidations of an engine's write or its lock. -/
def Req.ofThread (r : Req) : Bool :=
  match r.kind with
  | .clean _ | .lock => false
  | _ => true

/-- Whether a request is a lock that a command has asked for. -/
def Req.lockOf (r : Req) (cmd : Nat) : Bool := r.issue == cmd && r.kind == .lock

/-- The locks of commands that are over are given up. -/
def State.dropLocks (s : State) : State :=
  { s with reqs := s.reqs.filter fun (r : Req) => r.kind != .lock || s.cmds.any fun (c : Cmd) => c.id == r.issue }

/-- Whether an access is lost at a release of a scope: its line is frozen and the release would wait for it (0x14), or
its commit was aborted (0x15) (R426, R428). -/
def State.lostAt (s : State) (sc : Scope) (r : Req) : Bool :=
  match r.st with
  | .aborted _ _ => true
  | .home dies _ => !r.performed sc && s.frozenLines.any fun f => f.line == lineOf r.pa && dies.contains f.die
  | .issued | .locked _ | .done => false

/-- Whether every write that a core's source sent before a point has been performed towards a scope, or is lost (R134). -/
def State.sourceDone (s : State) (core upto : Nat) (sc : Scope) : Bool :=
  s.reqs.all fun e => e.core != core || upto ≤ e.id || !e.sends || e.performed sc || s.lostAt sc e

/-- The accesses of a thread that are in flight. -/
def State.reqsOf (s : State) (blk : Nat) (w : Who) : List Req := s.reqs.filter fun r => r.blk == blk && r.who == w && r.ofThread

/-- Whether a request is an acquire. -/
def Req.acquire (r : Req) : Bool :=
  match r.kind with
  | .load _ _ _ a _ => a
  | .snap _ _ _ a _ _ _ _ => a
  | _ => false

/-- The g registers a request writes when it returns. -/
def Req.dests (r : Req) : List Nat :=
  let regs (d : Reg) (n : Nat) : List Nat := run d (if n = 16 then 4 else if n = 8 then 2 else 1)
  match r.kind with
  | .load d n _ _ _ => regs d n
  | .snap d n _ _ _ _ _ _ => regs d n
  | .atomic _ true d n _ _ _ => regs d n
  | .own d ws => run d ws.length
  | _ => []

/-- Whether a request still has a value to return to its thread, or an uncorrectable error to report. -/
def Req.owesValue (r : Req) : Bool :=
  !r.returned && (match r.kind with
    | .load _ _ _ _ _ | .snap _ _ _ _ _ _ _ _ | .own _ _ => true
    | .atomic _ ret _ _ _ _ _ => ret || r.bad.isSome
    | .store _ _ _ | .clean _ | .buf _ _ _ _ | .stk _ _ | .lock | .defer _ => false)

/-- Changes a request. -/
def State.modReq (s : State) (id : Nat) (f : Req → Req) : State :=
  { s with reqs := s.reqs.map fun r => if r.id == id then f r else r }

/-- Ends the value part of a request: a load is over, an atomic keeps its entry until its acknowledgement. -/
def State.endValue (s : State) (r : Req) : State :=
  match r.kind with
  | .atomic _ _ _ _ _ _ _ => s.modReq r.id fun r => { r with returned := true }
  | .load _ _ _ _ _ | .store _ _ _ | .snap _ _ _ _ _ _ _ _ | .clean _ | .own _ _ | .buf _ _ _ _ | .stk _ _ | .lock | .defer _ =>
    { s with reqs := s.reqs.filter fun (e : Req) => e.id != r.id }

/-- The g registers of a thread that await a value (R200, R248). -/
def State.awaited (s : State) (blk : Nat) (w : Who) : List Nat :=
  (s.reqsOf blk w).flatMap fun r => if r.returned then [] else r.dests

/-- The resident block of a launch with a `%bid`. -/
def State.mate (s : State) (b : Block) (bid : Nat) : Option Block :=
  s.blocks.find? fun k => k.ctx == b.ctx && k.seq == b.seq && k.bid == bid

/-- The `%bid` of participant `i` of a cooperative operation (R299). -/
def Block.partBid (b : Block) (l i : Nat) : Nat := b.bid / b.lr.gang * b.lr.gang + l + i

/-- Whether every participant of a block's `mma.coop` has issued it (R299). -/
def State.coopFull (s : State) (b : Block) : Bool :=
  match b.coop with
  | none => false
  | some c => (List.range c.p).all fun i => (s.mate b (b.partBid c.l i)).any (·.coop.isSome)

/-- Whether a thread takes PREEMPT at a header (R47): its context is being pre-empted and it is not in a handler. -/
def State.preempted (s : State) (c : Nat) (t : Thread) : Bool := (s.ctx c).pre == .stopping && !t.hmode

/-- Whether the condition a thread waits for holds. -/
def State.ready (s : State) (b : Block) (w : Who) (t : Thread) : Bool :=
  match t.wait with
  | .none | .over _ => true
  | .header f => b.flagsClear f
  | .flags f => b.flagsClear f
  | .flagRoom fs => b.flagRoom fs
  | .handles m => (List.range 16).all fun i => !m.getLsbD i || !(t.h i).pending
  | .results rs => rs.all fun p => !(s.awaited b.id p.1).contains p.2
  | .bar n ph => (b.bar n).ph != ph
  | .anyOf ga gb => (List.range 32).any (memberReady b t ga gb)
  | .tiles cs => b.tilesReady cs
  | .rendezvous => false
  | .rdvSlot => b.rdvs.any (fun r => r.win == winOf w && r.pc == t.pc) ||
      (b.rdvs.filter fun r => r.win == winOf w).length < Config.openInstances
  | .heatOver h => h < (s.ctx b.ctx).heat.toNat
  | .aalloc => false
  | .ovpin ovl => s.ovlState b.core b.ctx ovl != 1
  | .overlay ovl => !s.ovlDue b.core b.ctx ovl
  | .coop => s.coopFull b
  | .matrixIdle => (s.core b.core).seq.all fun m => m.blk != b.id
  | .matrixRoom => ((s.core b.core).seq.filter fun m => m.blk == b.id).length < Config.matrixOps && !s.preempted b.ctx t
  | .tlbinv _ => false
  | .walk _ _ _ => false
  | .again _ => true
  | .faulted => false
  | .source upto sc => s.sourceDone b.core upto sc
  | .order sc => ((s.reqsOf b.id w).all fun r => r.performed sc) || (s.reqsOf b.id w).any (s.lostAt sc)
  | .acquired => (s.reqsOf b.id w).all fun r => !r.acquire || r.performed .blk
  | .bound => (s.reqsOf b.id w).all Req.bound

/-- Whether a thread is eligible (R33). -/
def State.eligible (s : State) (b : Block) (w : Who) (t : Thread) : Bool :=
  t.live && !t.parked && (!t.held || t.hmode) && !t.entering && t.start.isNone && s.ready b w t

/-- Makes a thread wait from now on. A thread that waits again for a rendezvous instance waits on from its own
arrival (R240). -/
def State.await (s : State) (blk : Nat) (w : Who) (x : Wait) : State :=
  s.modThread blk w fun t =>
    { t with wait := x, since := if t.wait == .rdvSlot && x == .rdvSlot then t.since else s.tick }

/-- Whether a thread waits in the middle of an issue, which goes on under its number (R42, R250). -/
def Wait.inIssue : Wait → Bool
  | .walk _ _ _ | .again _ | .order _ | .source _ _ | .acquired | .bound => true
  | .none | .over _ | .results _ | .matrixRoom | .tlbinv _ | .header _ | .flags _ | .flagRoom _ | .handles _ | .bar _ _
  | .anyOf _ _ | .tiles _ | .rendezvous | .rdvSlot | .heatOver _ | .aalloc | .ovpin _ | .overlay _ | .coop | .matrixIdle
  | .faulted => false

/-- The number of the issue to which a thread's word belongs: that in whose middle it waited, else the new one. -/
def Thread.issueNo (t : Thread) (new : Nat) : Nat :=
  match t.wait with
  | .again _ | .source _ _ => t.issue
  | _ => new

/-- Makes a thread of an issue wait from now on. -/
def State.awaitIn (s : State) (blk iss : Nat) (w : Who) (x : Wait) : State :=
  (s.await blk w x).modThread blk w fun t => { t with issue := iss }

/-- The PC at which a thread resumes: a thread that waits at a header enters it again. -/
def Thread.resumePc (t : Thread) : Word :=
  match t.wait with
  | .header _ => t.hdr
  | _ => t.pc

/-- `%hpc` of a thread that takes PREEMPT (R47, R388): a held thread takes it at J. -/
def Thread.trapPc (t : Thread) : Word := if t.held && !t.entering then t.hdr else t.resumePc

/-- Whether a thread takes PREEMPT at once at its waiting instruction (R62, step 2; R265, R266, R269, R271, R275,
R299): it waits on a flag, a handle, a barrier, a tile, a rendezvous, accumulator space, the quench or a load, or for room in
the queue of the matrix engine (log entry 128). -/
def Wait.traps : Wait → Bool
  | .none | .over _ | .results _ | .tlbinv _ | .walk _ _ _ | .again _ | .faulted | .order _ | .source _ _ | .acquired | .bound => false
  | .header _ | .flags _ | .flagRoom _ | .handles _ | .bar _ _ | .anyOf _ _ | .tiles _ | .rendezvous | .rdvSlot
  | .heatOver _ | .aalloc | .ovpin _ | .overlay _ | .coop | .matrixIdle | .matrixRoom => true

/-- Whether the resume PC of a thread is a header it is to enter. -/
def Thread.atHeader (t : Thread) : Bool :=
  t.entering || (match t.wait with
    | .header _ => true
    | _ => false)

/-! ## Frontier candidates (R30, R45) -/

/-- Whether a thread stands in a candidate's basic block. -/
def Thread.standsIn (t : Thread) (tid : Nat) (k : Cand) : Bool :=
  t.live && (!t.entering || t.parked) && t.hdr == k.hdr && t.rej == k.rej && tid / 32 == k.win

/-- Whether a thread in handler mode returns to a candidate's basic block, so that `frsave` records it (R47). -/
def Thread.returnsTo (t : Thread) (tid : Nat) (k : Cand) : Bool :=
  t.live && t.hmode && t.retHdr == k.hdr && t.retRej == k.rej && tid / 32 == k.win

/-- Removes the candidates that no live thread stands in or returns to. -/
def Block.sweep (b : Block) : Block :=
  { b with cands := b.cands.filter fun k =>
      b.threads.zipIdx.any fun p => p.1.standsIn p.2 k || p.1.returnsTo p.2 k }

/-- The frontier entry that a thread stands in at a header (R30). -/
def Block.addCand (b : Block) (win : Nat) (hdr : Word) (rej : Option Word) (pri : Nat) : Block :=
  if b.cands.any fun k => k.hdr == hdr && k.rej == rej && k.win == win then b
  else
    let p := match b.cands.find? fun k => k.hdr == hdr && k.rej == rej with
      | some k => k.pri
      | none => pri
    { b with cands := b.cands ++ [({ pri := p, hdr := hdr, rej := rej, win := win, wcnt := 0 } : Cand)] }

/-! ## Rejoin records (R35, R37) -/

/-- The vector threads of a window by lane, with a lane mask. -/
def inLanes (tid win : Nat) (m : BitVec 32) : Bool := tid / 32 == win && m.getLsbD (tid % 32)

/-- Whether some record still holds a thread: it has entered J there, and another member has not. -/
def holding (l : List Rejoin) (tid : Nat) : Bool :=
  l.any fun r => !r.freed && r.memb &&& ~~~r.ent != 0 && inLanes tid r.win r.ent

/-- Ends the hold of every thread that some records released and no other record holds. -/
def Block.unhold (b : Block) (ended : List Rejoin) : Block :=
  { b with threads := b.threads.mapIdx fun i t =>
      if t.held && (ended.any fun r => inLanes i r.win r.ent) && !holding b.rejoins i then { t with held := false }
      else t }

/-- Releases and frees every record whose members have all entered J, and forgets the freed ones that no
thread needs. -/
def Block.release (b : Block) : Block :=
  Block.unhold { b with rejoins := b.rejoins.filter fun r => r.memb &&& ~~~r.ent != 0 }
    (b.rejoins.filter fun r => !r.freed && r.memb &&& ~~~r.ent == 0)

/-- Releases the held members of a record when the bound of R35 has passed. -/
def Block.releaseOver (b : Block) (win : Nat) (j : Word) (out : Option Word) : Block :=
  let spent (r : Rejoin) : Bool := !r.freed && r.win == win && r.j == j && r.out == out
  Block.unhold { b with rejoins := b.rejoins.map fun r => if spent r then { r with freed := true } else r }
    (b.rejoins.filter spent)

/-- Removes a lane from every rejoin record of its window. -/
def Block.leaveRejoins (b : Block) (tid : Nat) : Block :=
  { b with rejoins := b.rejoins.map fun r =>
      if r.win == tid / 32 then
        { r with memb := r.memb &&& ~~~(1#32 <<< (tid % 32)), ent := r.ent &&& ~~~(1#32 <<< (tid % 32)) }
      else r }

/-- Withdraws what a thread waits for as registered work: its arrival at a rendezvous, its request for accumulator
space, its part in a cooperative wait (R62, R238, R271, R299). -/
def Block.withdraw (b : Block) (w : Who) : Block :=
  { b with
    rdvs := (b.rdvs.map fun r => { r with arrs := r.arrs.filter (·.who != w) }).filter fun r => !r.arrs.isEmpty
    areqs := b.areqs.filter (·.who != w)
    faulted := b.faulted.filter (·.2.who != w)
    coop := if w == .ctl then none else b.coop }

/-! ## Taking an exception: parks (R42, R397 to R400) -/

/-- The index of a thread's stack and park record (R50, R398). -/
def Block.index (b : Block) (w : Who) (t : Thread) : Nat :=
  match w with
  | .vec _ => b.core * 2048 + t.slot
  | .ctl => 327680 + b.core * 16 + t.slot

/-- The address of a thread's park record (R398). -/
def State.parkAddr (s : State) (b : Block) (w : Who) (t : Thread) : DWord :=
  (s.ctx b.ctx).parkbase + BitVec.ofNat 64 (64 * b.index w t)

/-- Where the park record of a thread lies: a thread that was saved keeps the record it parked with (R320, R402; DEDUCED,
log entry 101). -/
def State.recordAt (s : State) (b : Block) (w : Who) (t : Thread) : DWord :=
  if t.recAt = 0 then s.parkAddr b w t else t.recAt

/-- KIND of a park record. -/
def parkKind (w : Who) (hand helper addr taken : Bool) : Nat :=
  (if w == .ctl then 1 else 0) + (if hand then 2 else 0) + (if helper then 4 else 0) + (if addr then 8 else 0) +
    (if taken then 16 else 0)

/-- The 64 bytes of a park record (R398). -/
def parkBytes (s : State) (b : Block) (t : Thread) (x : Parked) (mask : Word) (taken : Bool) (pseq : Nat) :
    List Byte :=
  [x.cause, BitVec.ofNat 8 (parkKind x.who t.hmode t.helper x.addr.isSome taken),
    BitVec.ofNat 8 (dieOf b.core), BitVec.ofNat 8 b.core] ++
  leBytes 4 b.bid ++ leBytes 4 (tidOf x.who).toNat ++ leBytes 4 x.pc.toNat ++ leBytes 8 x.word.toNat ++
  leBytes 8 (x.addr.getD 0).toNat ++ heatBytes (s.ctx b.ctx).heat ++ leBytes 2 b.ctx ++ leBytes 4 mask.toNat ++
  leBytes 2 (match winOf x.who with
    | some n => n
    | none => 0xFFFF) ++
  leBytes 2 0 ++ leBytes 4 x.detail ++ leBytes 4 0 ++ leBytes 8 pseq

/-- Writes into a context's park area; a write that cannot be made is lost, and the first such failure raises a
context event (R398). -/
def State.parkWrite (s : State) (c : Nat) (a : DWord) (bs : List Byte) : State :=
  if (s.ctx c).parkbase = 0 then s
  else match s.vwrite c a bs with
    | .ok s' => s'
    | .error e =>
      if (s.ctx c).parkFail then s
      else (s.modCtx c fun x => { x with parkFail := true }).ctxEvent c (refusedCause e) (s.ctx c).parkbase.toNat 0

/-- Sets TAKEN in a thread's park record, whose other bits of KIND stay as they were written (R398, R399). -/
def State.setTaken (s : State) (blk : Nat) (w : Who) : State :=
  match s.block blk with
  | none => s
  | some b =>
    match b.thread w with
    | none => s
    | some t =>
      let a := s.recordAt b w t + 1
      let old := match s.xlat b.ctx a true with
        | .ok _ pa => s.lastByte pa
        | .fail _ => 0
      (s.modThread blk w fun t => { t with taken := true }).parkWrite b.ctx a [old ||| 16]

/-- The park count of a block's context rises: once for a fault group (R398, R448). -/
def State.countPark (s : State) (blk : Nat) : State :=
  match s.block blk with
  | none => s
  | some b => s.modCtx b.ctx fun k => { k with pseq := k.pseq + 1 }

/-- Parks one thread of a fault group that has been counted, and writes its record. -/
def State.parkOne (s : State) (blk : Nat) (mask : Word) (taken : Bool) (x : Parked) : State :=
  match s.block blk with
  | none => s
  | some b =>
    match b.thread x.who with
    | none => s
    | some t =>
      let s := s.modBlock blk fun b => (b.withdraw x.who).modThread x.who fun t =>
        { t with parked := true, parkHand := t.hmode, keptPc := x.pc, keptCause := x.cause, taken := taken, recAt := s.parkAddr b x.who t,
                 entering := x.enter, pc := x.pc, wait := .none, badStart := none, restored := false }
      s.parkWrite b.ctx (s.parkAddr b x.who t) (parkBytes s b t x mask taken (s.ctx b.ctx).pseq)

/-- Whether the event of a park goes to the runtime (R400). -/
def Block.toRuntime (b : Block) (w : Who) : Bool :=
  w == .ctl || !b.ctlLive || (b.thread w).any (·.hmode)

/-- The event of a park goes to the runtime: TAKEN is set, and the context event is raised. `more` is the status of a failed
load of HOVL (R400, R413). -/
def State.tellRuntime (s : State) (b : Block) (w : Who) (cause : Cause) (hrec : DWord) (more : Nat) : State :=
  (s.setTaken b.id w).recordEvent ⟨b.ctx, cause, hrec.toNat, more⟩

/-- The event of a park waits for the control thread's handler. -/
def State.queueEvent (s : State) (blk : Nat) (w : Who) (cause : Cause) (hrec : DWord) : State :=
  let order := s.nextId
  { s with nextId := order + 1 }.modBlock blk fun b =>
    { b with parks := b.parks ++ [({ who := w, cause := cause, hrec := hrec, order := order } : ParkEvent)] }

/-- Drops the oldest pending event of a block. -/
def State.dropEvent (s : State) (blk : Nat) : State :=
  s.modBlock blk fun b => { b with parks := b.parks.drop 1, hovlDue := false }

/-- The event of a fault group, named by its lowest thread: to the control thread's handler, or to the runtime as a
context event (R399, R400). -/
def State.parkEvent (s : State) (blk : Nat) (x : Parked) : State :=
  match s.block blk with
  | none => s
  | some b =>
    match b.thread x.who with
    | none => s
    | some t =>
      let hrec := s.recordAt b x.who t
      if b.toRuntime x.who then s.tellRuntime b x.who x.cause hrec 0 else s.queueEvent blk x.who x.cause hrec

/-- The lanes of a fault group (R398). -/
def groupMask (l : List Parked) : Word := l.foldl (fun m x => m ||| (1#32 <<< laneOf x.who)) 0

/-- The threads of a fault group park, and the record of each is written. -/
def State.parkAll (s : State) (blk : Nat) (l : List Parked) : State :=
  l.foldl (fun s p => s.parkOne blk (groupMask l) false p) (s.countPark blk)

/-- Takes an exception: a fault group of threads of one block, in ascending `%tid`, parks; each thread's record
is written, and one event is delivered (R42, R398, R399). -/
def State.parkGroup (s : State) (blk : Nat) (l : List Parked) : State :=
  match l with
  | [] => s
  | x :: _ => (s.parkAll blk l).parkEvent blk x

/-- A fault group whose event goes to the runtime, whatever stands in its block (R57, R413). -/
def State.parkForRuntime (s : State) (blk : Nat) (l : List Parked) : State :=
  match l with
  | [] => s
  | x :: _ =>
    let s := s.parkAll blk l
    match s.block blk with
    | none => s
    | some b =>
      match b.thread x.who with
      | none => s
      | some t => s.tellRuntime b x.who x.cause (s.recordAt b x.who t) 0

/-- A thread that `park` stops: no event, TAKEN = 1 (R319). -/
def State.parkQuiet (s : State) (blk : Nat) (x : Parked) : State := (s.countPark blk).parkOne blk (groupMask [x]) true x

/-! ## The start of a thread at an entry of an overlay (R57, R63, R388, R413) -/

/-- Sets a thread before a header. -/
def Thread.enterAt (t : Thread) (a : Word) : Thread :=
  { t with pc := a, entering := true, start := none, wait := .none }

/-- The park of threads that cannot start: at the header's place when the image did not load (R413), with 0x02
when the entry names no header (R169). -/
def startPark (ovl : BitVec 8) (ent : Nat) (cause : Cause) (w : Who) : Parked :=
  { who := w, cause := cause, pc := codeAddr ovl 0, word := BitVec.ofNat 64 ent,
    detail := ovl.toNat }

/-- The die that holds the line of a block's SEXT (R398). -/
def State.sextDie (s : State) (blk : Nat) : Nat :=
  match s.block blk with
  | none => 0
  | some b => s.dieAt b.ctx b.lr.sext

/-- The other overlay whose load threads await before they start at an entry: a block starts with OVL and HOVL resident
(R57); a handler's entry awaits HOVL alone. -/
def Block.awaitsToo (b : Block) (ovl : BitVec 8) (ent : Nat) : Option (BitVec 8) :=
  if b.lr.ovl == b.lr.hovl then none
  else if ovl == b.lr.ovl then some b.lr.hovl
  else if ovl == b.lr.hovl && ent == 1 then some b.lr.ovl
  else none

/-- Starts threads of a block at an entry of an overlay that is resident; an entry that names no header is refused with
0x02 (R169), with the PC and WORD of a start that failed and, as ADDR, the address the entry names, or that of the image
when it names none (DEDUCED, log entry 102). -/
def State.enterEntry (s : State) (blk : Nat) (k : OvlCopy) (ovl : BitVec 8) (ent : Nat) (ws : List Who) : State :=
  match k.entry ovl ent with
  | some a =>
    if isHeader (k.word (codeOff a)) then
      let s' := ws.foldl (fun s w => s.modThread blk w fun t => t.enterAt a) s
      match ws.head?.bind fun w => (s.thread blk w).bind (·.badStart) with
      | none => s'
      | some c => s'.parkForRuntime blk (ws.map fun w =>
          { who := w, cause := c, pc := a, enter := true, word := k.word (codeOff a),
            addr := (s.block blk).map (·.lr.sext), detail := if c = 0x13 then s.sextDie blk else 0 })
    else s.parkGroup blk (ws.map fun w =>
      { startPark ovl ent 0x02 w with addr := some (a.setWidth 64), detail := 0 })
  | none => s.parkGroup blk (ws.map fun w =>
      { startPark ovl ent 0x02 w with addr := some ((k.entryTarget ovl ent).setWidth 64), detail := 0 })

/-- Threads stay before their start at an entry of an overlay, while the load of some overlay is under way. -/
def State.startLater (s : State) (blk : Nat) (ovl : BitVec 8) (ent : Nat) (ws : List Who) (due : BitVec 8) : State :=
  ws.foldl (fun s w => s.modThread blk w fun t => { t with start := some (ovl, BitVec.ofNat 8 ent), wait := .overlay due }) s

/-- Starts threads of a block at an entry of a resident overlay, once the other overlay they await is not loading. A load of
it that failed is not awaited again (R413). An entry that was lost is loaded again first (R430). -/
def State.startResident (s : State) (blk : Nat) (k : OvlCopy) (ovl : BitVec 8) (ent : Nat) (ws : List Who) : State :=
  match s.block blk with
  | none => s
  | some b =>
    if k.entryLost ent then (s.reloadCopy b.core k.id).startLater blk ovl ent ws ovl
    else match b.awaitsToo ovl ent with
    | some o => if s.ovlDue b.core b.ctx o then s.startLater blk ovl ent ws o else s.enterEntry blk k ovl ent ws
    | none => s.enterEntry blk k ovl ent ws

/-- Starts threads of a block at an entry of an overlay, loading it as an AUTO load when it is not resident (R57,
R388, R413). -/
def State.startAt (s : State) (blk : Nat) (ovl : BitVec 8) (ent : Nat) (ws : List Who) : State :=
  match s.block blk with
  | none => s
  | some b =>
    if ws.isEmpty then s
    else
      let s := ws.foldl (fun s w => s.modThread blk w fun t =>
        { t with start := some (ovl, BitVec.ofNat 8 ent), pc := codeAddr ovl 0, entering := false,
                 wait := .overlay ovl, since := s.tick }) s
      match s.residentCopy b.core b.ctx ovl with
      | some k => (s.cancelEvict b.core b.ctx ovl).startResident blk k ovl ent ws
      | none =>
        match s.startLoad b.core b.ctx ovl b.seq b.lr.isq (ws.head?.map fun w => (blk, w)) with
        | (.failed c, s) => s.parkForRuntime blk (ws.map (startPark ovl ent c))
        | (.joined _, s) => s
        | (.now, s) =>
          match s.residentCopy b.core b.ctx ovl with
          | some k => s.startResident blk k ovl ent ws
          | none => s

/-! ## Handler entry (R388) -/

/-- Puts a thread into handler mode (R314, R315): the cause, the PC at which `eret` resumes, the record, and the
basic block and rejoin to which `eret` returns (R318). -/
def Thread.intoHandler (t : Thread) (cause : Cause) (pc : Word) (hrec : DWord) : Thread :=
  { t with hmode := true, hcause := cause, hpc := pc, hpcHw := true, hrec := hrec, retHdr := t.hdr, retRej := t.rej,
           wait := .none, parked := false, parkHand := false }

/-- Whether the park record of a thread can be read now, or is known not to be readable at all. -/
def State.recordOpen (s : State) (b : Block) (w : Who) (t : Thread) : Bool :=
  (s.ctx b.ctx).parkbase = 0 || !s.spanShut b.ctx (s.recordAt b w t).toNat 64

/-- The resume PC of a park: from its record when it can be read, else the kept PC (R398, R399). -/
def State.recordPc (s : State) (b : Block) (w : Who) (t : Thread) : Word :=
  if (s.ctx b.ctx).parkbase = 0 then t.keptPc
  else match s.vread b.ctx (s.recordAt b w t + 12) 4 with
    | .ok bs => BitVec.ofNat 32 (leNat bs)
    | .error _ => t.keptPc

/-! ## The end of a thread (R29, R37, R234) -/

/-- Ends a thread: it leaves its rejoin records, its rendezvous and its frontier entry. -/
def Block.endThread (b : Block) (w : Who) : Block :=
  let b := (b.withdraw w).modThread w fun t =>
    { t with live := false, parked := false, held := false, entering := false, start := none, wait := .none }
  match w with
  | .vec t => b.leaveRejoins t
  | .ctl => b

/-- Removes the helper lanes of a quad whose last launched thread is gone (R29). -/
def Block.endHelpers (b : Block) (tid : Nat) : Block :=
  let quad := (List.range 4).map (4 * (tid / 4) + ·)
  if quad.any fun i => (b.threads[i]?).any fun t => t.live && !t.helper then b
  else quad.foldl (fun b i => if b.liveWho (.vec i) then b.endThread (.vec i) else b) b

/-- The end of a thread with what follows for its block. -/
def Block.finish (b : Block) (w : Who) : Block :=
  let b := b.endThread w
  let b := match w with
    | .vec t => b.endHelpers t
    | .ctl => b
  b.release.sweep

/-! ## Moving past an instruction (R171) -/

/-- Where threads that complete a word of a block go. -/
inductive Onward where
  | within (pc : Word)
  | header (a : Word)
  | astray (a : Word)     -- the word after the block is no header (0x02)
  deriving DecidableEq, Repr

/-- The place after an instruction of `words` words. -/
def State.onward (s : State) (core c : Nat) (hdr pc : Word) (words : Nat) : Onward :=
  let h := s.headerAt core c hdr
  let off := codeOff pc + 8 * words
  let next := codeAddr (codeOvl pc) off
  if off < codeOff hdr + 8 * (h.len + 1) then .within next
  else if off < 65536 && s.headerWord core c next then .header next
  else .astray next

/-- The place of the last word of an instruction of `words` words. -/
def lastWord (pc : Word) (words : Nat) : Word := codeAddr (codeOvl pc) (codeOff pc + 8 * (words - 1))

/-- Threads of a block that stand at one PC complete their word and pass on; where the word after the block is no
header they park with 0x02 at the block's last word (R171, R408). -/
def State.passAll (s : State) (blk : Nat) (ws : List Who) (words : Nat) : State :=
  match s.block blk, ws with
  | some b, w :: _ =>
    match b.thread w with
    | none => s
    | some t =>
      match s.onward b.core b.ctx t.hdr t.pc words with
      | .within pc => ws.foldl (fun s w => s.modThread blk w fun t => { t with pc := pc, wait := .none }) s
      | .header a =>
        (ws.foldl (fun s w => s.modThread blk w fun t => t.enterAt a) s).modBlock blk Block.sweep
      | .astray a =>
        s.parkGroup blk (ws.map fun w =>
          let pc := lastWord t.pc words
          { who := w, cause := 0x02, pc := pc, word := s.wordAt b.core b.ctx pc, addr := some (a.setWidth 64) })
  | _, _ => s

/-! ## Rendezvous (R238, R239) -/

/-- Whether the thread of a lane is live. -/
def Block.laneLive (b : Block) (win : Option Nat) (lane : Nat) : Bool :=
  match win with
  | some n => b.liveWho (.vec (32 * n + lane))
  | none => lane == 0 && b.ctlLive

/-- The named set of an instance: the union of the masks of its guard-true arrivals. -/
def Rdv.named (r : Rdv) : BitVec 32 := r.arrs.foldl (fun m a => if a.guard then m ||| a.mask else m) 0

/-- The lanes an instance still awaits: live members of the named set that have not arrived. -/
def Block.awaitedLanes (b : Block) (r : Rdv) : Word :=
  laneBits fun l => r.named.getLsbD l && b.laneLive r.win l && r.arrs.all fun a => a.lane != l

/-- Completes one instance: every guard-true arrival writes its results, and every arrival passes on. -/
def State.completeRdv (s : State) (blk : Nat) (r : Rdv) : State :=
  match s.block blk with
  | none => s
  | some b =>
    let outs := (r.arrs.filter (·.guard)).map fun a => (a, laneResult r.ins r.arrs a)
    let s := s.modBlock blk fun b =>
      { (outs.foldl (fun b p => b.modThread p.1.who fun t => t.putLane p.2) b) with
        rdvs := b.rdvs.filter fun x => !(x.win == r.win && x.pc == r.pc) }
    let s := r.arrs.foldl (fun s a => if a.since < s.tick then s.sampleWait b.core 0x004 a.since else s) s
    let hdr := ((r.arrs.head?.bind fun a => b.thread a.who).map (·.hdr)).getD 0
    let logs := outs.flatMap fun p => p.2.causes.map fun c => (c, (tidOf p.1.who).toNat % 65536, 1)
    (s.logIssue b.ctx b.core (BitVec.ofNat 32 b.bid) hdr logs).passAll blk (r.arrs.map (·.who)) 1

/-- Completes every instance of a block that awaits nobody (R238). -/
def State.completeRdvs (s : State) (blk : Nat) : State :=
  match s.block blk with
  | none => s
  | some b => b.rdvs.foldl (fun s r =>
      match s.block blk with
      | some b => if b.awaitedLanes r == 0 then s.completeRdv blk r else s
      | none => s) s

/-- A thread takes PREEMPT (R62, step 2): a parked thread keeps a parked mark. Its arrival at a rendezvous leaves the
instance. -/
def State.takePreempt (s : State) (blk : Nat) (w : Who) : State :=
  match s.block blk with
  | none => s
  | some b =>
    match b.thread w with
    | none => s
    | some t =>
      let pc := if t.parked then s.recordPc b w t else t.trapPc
      let s := s.modBlock blk fun b =>
        Block.modThread { b.withdraw w with saving := true } w fun t =>
          { t.intoHandler 0x1F pc 0 with repark := t.parked || t.repark }
      ((s.modBlock blk Block.sweep).startAt blk b.lr.hovl 0 [w]).settle b.core

/-- Whether a block that ends is a saved one (R62). -/
def State.savesBlock (s : State) (b : Block) : Bool :=
  b.saving && b.killed.isNone && ((s.ctx b.ctx).pre == .stopping || (s.ctx b.ctx).pre == .stopped)

/-- Events that no live control thread can take any more go to the runtime, in their order (R400). Those of a block that is
being saved stay untaken: they are delivered again after its restore (R388, R402). -/
def State.flushEvents (s : State) (blk : Nat) : State :=
  match s.block blk with
  | none => s
  | some b =>
    if b.ctlLive then s
    else
      let s := if s.savesBlock b then s
        else b.parks.foldl (fun s e => s.tellRuntime b e.who e.cause e.hrec 0) s
      s.modBlock blk fun b => { b with parks := [] }

/-- Ends a thread of a resident block, with all that follows: helper lanes, holds, rendezvous and overlays it
stood in (R29, R37, R311). -/
def State.endThread (s : State) (blk : Nat) (w : Who) : State :=
  match s.block blk with
  | none => s
  | some b => (((s.modBlock blk fun b => b.finish w).completeRdvs blk).flushEvents blk).settle b.core

/-! ## The fault group of an issue (R42, R399, R418) -/

/-- Whether a thread of a block is live. -/
def State.liveThread (s : State) (blk : Nat) (w : Who) : Bool := (s.thread blk w).any (·.live)

/-- Whether an issue is not over: one of its threads still has its access to make, or an access of it that reads has not
bound its value. Until then the fault group of its bundle may grow. -/
def State.issueOpen (s : State) (blk iss : Nat) : Bool :=
  ((s.block blk).any fun b => b.whos.any fun w => (b.thread w).any fun t =>
    t.live && !t.parked && t.issue == iss && t.wait.inIssue) ||
  s.reqs.any fun r => r.blk == blk && r.issue == iss && r.reads && !r.bound && !r.returned && s.liveThread blk r.who

/-- A thread faults at an issue: it waits for the rest of its bundle, and then parks with it. -/
def State.faultThread (s : State) (blk iss : Nat) (p : Parked) : State :=
  s.modBlock blk fun b =>
    Block.modThread { b with faulted := b.faulted ++ [(iss, p)] } p.who fun t => { t with wait := .faulted }

/-- The log record of a load that met an uncorrectable error (R405). -/
def State.logLate (s : State) (r : Req) : State :=
  match s.block r.blk with
  | some b =>
    if r.bad == some 0x13 then
      s.logRecord r.ctx 0x13 (BitVec.ofNat 8 r.core) 1 (BitVec.ofNat 32 b.bid) (r.hdr.setWidth 64)
        ((tidOf r.who).toNat % 65536)
    else s
  | none => s

/-- What a thread parks with at an access whose value cannot be returned. -/
def Req.latePark (r : Req) : Parked :=
  let c := r.bad.getD 0
  { who := r.who, cause := c, pc := r.pc, word := r.word, addr := some r.va,
    detail := match r.kind with
      | .snap _ _ _ _ win _ _ _ => win.toNat
      | .load _ _ _ _ _ | .store _ _ _ | .atomic _ _ _ _ _ _ _ | .clean _ | .own _ _ | .buf _ _ _ _ | .stk _ _ | .lock | .defer _ =>
        if c = 0x13 then homeDie r.pa else 0 }

/-- A thread stands again in the basic block of an access whose value cannot be returned, and the access is over. -/
def State.standAgain (s : State) (r : Req) : State :=
  match s.block r.blk with
  | none => s
  | some b =>
    let pri := (s.headerAt b.core b.ctx r.hdr).pri
    ((((s.logLate r).endValue r).sampleWait r.core 0x001 r.since).modBlock r.blk fun b =>
      let b := (b.withdraw r.who).modThread r.who fun t => { t with hdr := r.hdr, entering := false, start := none }
      match winOf r.who with
      | some n => b.addCand n r.hdr ((b.thread r.who).bind (·.rej)) pri
      | none => b)

/-- The accesses of an issue whose values cannot be returned, of threads that can park. -/
def State.lateOf (s : State) (b : Block) (iss : Nat) : List Req :=
  s.reqs.filter fun r => r.blk == b.id && r.issue == iss && r.reads && r.bad.isSome && !r.returned &&
    (b.thread r.who).any fun t => t.live && !t.parked && (t.wait != .faulted || t.issue == iss)

/-- The fault group of an issue that is over parks: the threads that faulted as it was made, and those whose values cannot be
returned, in ascending `%tid` (R42, R399). A thread of it that is parked at a later word parks again when it is resumed
(DEDUCED, log entry 32). -/
def State.closeGroup (s : State) (blk iss : Nat) : State :=
  match s.block blk with
  | none => s
  | some b =>
    let late := s.lateOf b iss
    let l := (b.faulted.filter (·.1 == iss)).map (·.2) ++ late.map Req.latePark
    if l.isEmpty then s
    else
      let l := sortBy (fun p q => (tidOf p.who).toNat ≤ (tidOf q.who).toNat) l
      ((((late.foldl State.standAgain s).parkGroup blk l).modBlock blk Block.sweep).completeRdvs blk).settle b.core

/-- Threads of a block fault, each at an issue: the group of every issue that is over parks. -/
def State.raise (s : State) (blk : Nat) (l : List (Nat × Parked)) : State :=
  let s := l.foldl (fun s p => s.faultThread blk p.1 p.2) s
  ((l.map (·.1)).eraseDups).foldl (fun s iss => if s.issueOpen blk iss then s else s.closeGroup blk iss) s

/-- FAULT_GROUP, a step of the model's own: a fault group whose issue is over parks. -/
def State.closeFaults (s : State) (blk : Nat) : State :=
  match s.block blk with
  | none => s
  | some b =>
    match (b.faulted.map (·.1)).find? fun iss => !s.issueOpen blk iss with
    | some iss => s.closeGroup blk iss
    | none => s

/-! ## Resume and kill (R44, R319, R399) -/

/-- The entry of OVL at which a thread of a block starts (R50). -/
def Block.entryOf (b : Block) (w : Who) : BitVec 8 :=
  match w with
  | .vec _ => b.lr.vent
  | .ctl => b.lr.cent

/-- Resumes a parked thread at the PC of its record. At the first byte of OVL, which is where a thread parks whose start
failed, it starts as at placement (R413). A PC other than the kept one must name a header and pass R228,
or the thread parks again with 0x02. -/
def State.resumeThread (s : State) (blk : Nat) (w : Who) : State :=
  match s.block blk with
  | none => s
  | some b =>
    match b.thread w with
    | none => s
    | some t =>
      let pc := s.recordPc b w t
      let s := s.modThread blk w fun t => { t with parked := false, parkHand := false, since := s.tick }
      if pc == t.keptPc then
        match t.start with
        | some (ovl, ent) => s.startAt blk ovl ent.toNat [w]
        | none => if pc == codeAddr b.lr.ovl 0 then s.startAt blk b.lr.ovl (b.entryOf w).toNat [w] else s
      else if (s.ctx b.ctx).targetOk pc &&
          ((s.residentCopy b.core b.ctx (codeOvl pc)).isNone || s.headerWord b.core b.ctx pc) then
        ((s.modThread blk w fun t => t.enterAt pc).modBlock blk Block.sweep).settle b.core
      else
        s.parkGroup blk [{ who := w, cause := 0x02, pc := t.keptPc, enter := t.entering,
                           word := s.wordAt b.core b.ctx t.keptPc, addr := some (pc.setWidth 64) }]

/-! ## Handles (R273, R277) -/

/-- Completes the handle of a thread that carries an operation, wherever `hpass` has moved it (R275). -/
def Thread.completeH (t : Thread) (op : Nat) (word : Word) (result : DWord) : Thread :=
  { t with handles := t.handles.map fun h =>
      if h.pending && h.op == op then { pending := false, op := 0, word := word, result := result } else h }

/-- The completion word: status in [31:24], count in [23:0] (R185). -/
def completionWord (status : Cause) (count : Nat) : Word := status ++ BitVec.ofNat 24 count

end Sys2Proof.Machine
end

