-- ==== Sys2Proof/Machine/Collect.lean ====
section
/-! DEFINITION. Collectives at a package: contributions through alias windows and at retirement (R332 to R334), the source
side of a dispatch (R345, R346, R381), the arrival of packets (R329, R330), the firmware programs 1 to 4 (R335, R336,
R346), and the completion of a round (R338, R339, R384). -/

namespace Sys2Proof.Machine

/-! ## Contributions (R333) -/

/-- The member word of this package's own binding. -/
def State.selfWord (s : State) (c : Nat) : Word := BitVec.ofNat 32 (s.pkg.toNat + c % 64 * 2 ^ 20)

/-- The earliest round of a collective that has not completed at this package. -/
def State.openRound (s : State) (c coll : Nat) (r : CollRec) : Nat :=
  let cur := match s.bindingOf c r.prog with
    | some p => p.2.roundOf coll
    | none => 0
  (s.rounds.filter fun x => x.ctx == c && x.coll == coll).foldl (fun n x => Nat.min n x.round) cur

/-- The contribution that is being collected for a collective: at first that of the earliest round that has not completed here,
which a binding may have passed already (R384). -/
def State.contrib (s : State) (c coll : Nat) (r : CollRec) : Contrib :=
  match s.contribs.find? fun k => k.ctx == c && k.coll == coll with
  | some k => k
  | none =>
    { ctx := c, coll := coll, round := s.openRound c coll r, bytes := [], misuse := false, launched := [], stamps := [] }

/-- Sets the contribution of a collective. -/
def State.setContrib (s : State) (k : Contrib) : State :=
  { s with contribs := k :: s.contribs.filter fun x => !(x.ctx == k.ctx && x.coll == k.coll) }

/-- A misuse of the alias window is reported in the round (R333). -/
def State.misuse (s : State) (c coll : Nat) (r : CollRec) : State :=
  let k := s.contrib c coll r
  match s.round c coll k.round with
  | some _ => s.failRound c coll k.round 0x0B
  | none => s.setContrib { k with misuse := true }

/-- The bytes of a chunk, when every one of them has been stored. -/
def Contrib.chunkBytes (k : Contrib) (r : CollRec) (i : Nat) : Option (List Byte) :=
  let lo := i * r.chunk
  let n := min r.chunk (r.nbytes - lo)
  (List.range n).mapM fun j => k.bytes.lookup (lo + j)

/-- A chunk launches when it is whole: it enters its binding as a DATA packet (CHUNK_LAUNCH). -/
def State.launchChunk (s : State) (c coll : Nat) (r : CollRec) (i : Nat) : State :=
  let k := s.contrib c coll r
  match k.chunkBytes r i with
  | none => s
  | some bs =>
    let s := s.setContrib { k with launched := k.launched ++ [i],
                                   bytes := k.bytes.filter fun p => p.1 / r.chunk != i }
    let p := { Packet.blank with
      type := 1, coll := BitVec.ofNat 16 coll, chunk := BitVec.ofNat 32 i, round := BitVec.ofNat 16 k.round,
      last := i + 1 == r.chunks, data := bs }
    (s.touchRound c coll k.round).send c r (s.selfWord c) (p.ofFormat (r.opf.toNat / 16)) (k.stamps.lookup i)

/-- Stores bytes that lie in one chunk into a contribution; a byte stored twice is reported (R333). -/
def State.storeChunk (s : State) (c coll : Nat) (r : CollRec) (off : Nat) (data : List Byte)
    (stamp : Option (BitVec 48)) : State :=
  let k := s.contrib c coll r
  let at_ := data.zipIdx.map fun p => (off + p.2, p.1)
  let s := if at_.any fun p => (k.bytes.lookup p.1).isSome then s.misuse c coll r else s
  let k := s.contrib c coll r
  let i := off / r.chunk
  let s := s.setContrib
    { k with
      bytes := at_ ++ k.bytes.filter fun p => !(off ≤ p.1 && p.1 < off + data.length)
      stamps := match stamp with
        | none => k.stamps
        | some h =>
          let o := (k.stamps.lookup i).getD 0
          (i, if o < h then h else o) :: k.stamps.filter fun p => p.1 != i }
  s.launchChunk c coll r i

/-! ## The source side of a dispatch (R345, R346, R381) -/

/-- Sends the REQs of a send list and the EOL after them. -/
def State.sendReqs (s : State) (c coll : Nat) (r : CollRec) (round d : Nat) (dst : Word) (list nacks : Nat)
    (total : Nat) : Nat → State
  | 0 =>
    s.send c r dst { Packet.blank with
      type := 9, coll := BitVec.ofNat 16 coll, chunk := BitVec.ofNat 32 total, round := BitVec.ofNat 16 round }
  | n + 1 =>
    let e := total - (n + 1)
    match s.vreadAcross c (list + 16 + 16 * e) 16 with
    | .error x => s.readFails c coll round x
    | .ok bs =>
      let s := s.spanKeep c (list + 16 + 16 * e) 16
      let token := leNat ((bs.drop 8).take 2)
      let s := s.send c r dst { Packet.blank with
        type := 6, coll := BitVec.ofNat 16 coll, chunk := BitVec.ofNat 32 token,
        slot := BitVec.ofNat 12 (leNat ((bs.drop 10).take 1)), round := BitVec.ofNat 16 round }
      let q : DReq := { ctx := c, coll := coll, round := round, rank := d, token := token,
                        rowa := BitVec.ofNat 64 (leNat (bs.take 8)), nacks := BitVec.ofNat 64 nacks, row := none }
      { s with dreqs := s.dreqs ++ [q] }.sendReqs c coll r round d dst list nacks total n

/-- The source engine sends the REQs and the EOL of the list for one destination rank (DISPATCH_SEND). -/
def State.sendList (s : State) (c coll : Nat) (r : CollRec) (round d list : Nat) : State :=
  let s := s.touchRound c coll round
  match s.member c r d with
  | .error e => s.readFails c coll round e
  | .ok dst =>
    match s.vreadAcross c list 16 with
    | .error e => s.readFails c coll round e
    | .ok bs =>
      let s := (s.areaKeep c r.memb (4 * r.nrank)).spanKeep c list 16
      let n := leNat (bs.take 4)
      s.sendReqs c coll r round d dst list (leNat (bs.drop 8)) n n

/-! ## Alias stores (R332, R333) -/

/-- The chunk, or the list address, of a piece of an alias store. -/
def AliasWait.chunk (w : AliasWait) (r : CollRec) : Nat := if r.ctype = 3 then w.off / 8 else w.off / r.chunk

/-- Whether the accesses of its thread that an alias store follows have been performed, or are lost (R137, R333). -/
def State.aliasReady (s : State) (w : AliasWait) : Bool :=
  match w.blk with
  | none => true
  | some k => (s.reqsOf k w.who).all fun r => w.upto ≤ r.id || r.performed .pkg || s.lostAt .pkg r

/-- Whether a send list, or the member list, has a line that cannot be reached (R443). -/
def State.listShut (s : State) (c : Nat) (r : CollRec) (list : Nat) : Bool :=
  s.membShut c r || s.spanShut c list 16 ||
    (match s.vreadAcross c list 16 with
     | .ok bs => s.areaShut c list (16 + 16 * leNat (bs.take 4))
     | .error _ => false)

/-- Whether a piece of an alias store waits: for earlier accesses of its thread, behind a piece of its chunk that waits, while
its chunk has launched (R333), or for a list that cannot be reached. -/
def State.aliasHeld (s : State) (w : AliasWait) (r : CollRec) : Bool :=
  !s.aliasReady w || (s.contrib w.ctx w.coll r).launched.contains (w.chunk r) ||
    (s.aliasWaits.any fun a => a.ctx == w.ctx && a.coll == w.coll && a.chunk r == w.chunk r) ||
    (r.ctype = 3 && s.listShut w.ctx r (leNat w.data))

/-- One piece of an alias store, within one chunk or one list address. -/
def State.aliasPiece (s : State) (w : AliasWait) (r : CollRec) : State :=
  let k := s.contrib w.ctx w.coll r
  let i := w.chunk r
  if s.aliasHeld w r then { s with aliasWaits := s.aliasWaits ++ [w] }
  else
    let s := match w.blk with
      | none => s
      | some id => s.modBlock id fun b =>
        if b.aliasIn.contains (w.coll, k.round) then b else { b with aliasIn := b.aliasIn ++ [(w.coll, k.round)] }
    if r.ctype = 1 && r.myrank != r.root then s.misuse w.ctx w.coll r
    else if r.ctype = 3 then
      (s.setContrib { k with launched := k.launched ++ [i] }).sendList w.ctx w.coll r k.round i (leNat w.data)
    else s.storeChunk w.ctx w.coll r w.off w.data w.stamp

/-- An alias store: each 8-byte address of a DISPATCH window is a list of its own. -/
def State.aliasStore (s : State) (w : AliasWait) (r : CollRec) : State :=
  if r.ctype = 3 && w.data.length = 16 then
    (s.aliasPiece { w with data := w.data.take 8 } r).aliasPiece { w with off := w.off + 8, data := w.data.drop 8 } r
  else s.aliasPiece w r

/-- The collective of an alias window, when the window matches its record (R332). -/
def State.aliasColl (s : State) (c : Nat) (w : Window) : Option (Nat × CollRec) :=
  let coll := w.key.toNat % 65536
  match (s.ctx c).coll coll with
  | none => none
  | some r =>
    let kind := if r.ctype = 0 then 5 else if r.ctype = 1 then 4 else 6
    let size := if r.ctype = 3 then 8 * r.nrank else r.nbytes
    if w.key.toNat / 65536 = 0 && !w.resv && w.kind.toNat == kind && w.limit.toNat - w.base.toNat == size &&
        w.base.toNat ≤ w.limit.toNat then
      some (coll, r)
    else none

/-- Bytes that an alias store must have at least: an element of the format, or an address of a send list (R332). -/
def collUnit (r : CollRec) : Nat := if r.ctype = 3 then 8 else r.esize

/-- The waiting alias stores of a collective that nothing holds any more go on, in their order: at the latest when a round has
completed (R333). -/
def State.resumeAlias (s : State) (c coll : Nat) (r : CollRec) : State :=
  let mine (w : AliasWait) : Bool := w.ctx == c && w.coll == coll
  let l := s.aliasWaits.filter mine
  l.foldl (fun s w => s.aliasPiece w r) { s with aliasWaits := s.aliasWaits.filter fun w => !mine w }

/-! ## Launch-bound contributions (R334) -/

/-- Bytes in pieces that each lie in one chunk. -/
def chunkPieces (k : Nat) : Nat → Nat → List Byte → List (Nat × List Byte)
  | 0, _, _ => []
  | n + 1, off, bs =>
    let m := k - off % k
    if bs.isEmpty then [] else (off, bs.take m) :: chunkPieces k n (off + m) (bs.drop m)

/-- The largest heat stamp of the regions that some bytes of a context touch (R164). -/
def Context.stampOf (x : Context) (va n : Nat) : BitVec 48 :=
  (x.stamps.filter fun p => va / 2 ^ 21 ≤ p.1 && p.1 ≤ (va + n - 1) / 2 ^ 21).foldl
    (fun m p => if m < p.2 then p.2 else m) 0

/-- Whether the region that a retiring block contributes has a line that cannot be reached (R443). -/
def State.contribShut (s : State) (c coll bid : Nat) : Bool :=
  ((s.ctx c).coll coll).any fun r => s.areaShut c (r.inbase + bid * r.bbytes) r.bbytes

/-- A retiring block's region is read as its contribution. -/
def State.contribute (s : State) (c coll bid : Nat) : State :=
  match (s.ctx c).coll coll with
  | none => s
  | some r =>
    let off := bid * r.bbytes
    let n := (s.contrib c coll r).round
    if r.ctype = 3 || r.bbytes = 0 then s
    else if r.nbytes < off + r.bbytes then s.failRound c coll n 0x12
    else
      (chunkPieces r.chunk (r.chunks + 1) off (List.replicate r.bbytes 0)).foldl (fun s p =>
        match s.vreadAcross c (r.inbase + p.1) p.2.length with
        | .error e => s.readFails c coll n e
        | .ok bs =>
          let s := s.spanKeep c (r.inbase + p.1) bs.length
          let h := if r.ctype = 2 then some ((s.ctx c).stampOf (r.inbase + p.1) bs.length) else none
          s.aliasPiece { blk := none, who := .ctl, upto := 0, core := 0, ctx := c, coll := coll, off := p.1, data := bs, stamp := h } r) s

end Sys2Proof.Machine
end

