-- ==== Sys2Proof/Machine/Issue.lean ====
section
/-! DEFINITION. One issue of an instruction: the faults found from the word and its place (R178, R193, R397, R406), the
waits before an instruction starts (R185, R200), what each guard-true thread does, and what the bundle does
afterwards: its log records (R116), its fault group (R42), its divergence (R34) and its fall-through (R171). -/

namespace Sys2Proof.Machine

/-- The thread an instruction acts in, with the number of the issue (R250). -/
structure Site where
  blk : Nat
  who : Who
  iss : Nat
  deriving DecidableEq, Repr

/-- What an instruction does in one guard-true thread. -/
inductive Act where
  | done (s : State) (logs : List (Cause × Nat))   -- completes; the thread passes on
  | stall (s : State) (w : Wait)                   -- waits and issues again
  | fault (c : Cause) (addr : Option DWord) (detail : Nat)
  | failed (s : State) (c : Cause) (addr : Option DWord) (detail : Nat)  -- as `fault`, after a change of state
  | report (s : State) (c : Cause) (addr : DWord) (detail : Nat) (word : Option DWord)  -- an access that was lost
  | jump (s : State) (target : Word)               -- a transfer
  | past (s : State) (c : Cause)                   -- parks past the word (`trap`, `brk`)
  | gone (s : State)                               -- the thread has left the word by itself

/-! ## Properties of an instruction -/

/-- Words of an instruction (R181, R182). -/
def wordsOf : Instr → Nat
  | .mbr _ _ => 2
  | .chain _ _ => 3
  | _ => 1

/-- Whether an instruction is a transfer or an `eret`, which ends its block (R178). -/
def isTransfer : Instr → Bool
  | .bra _ _ | .mbr _ _ | .call _ _ | .callo _ _ _ | .calli _ _ | .ret _ | .exit _ | .bri _ _ | .eret _ => true
  | _ => false

/-- Whether an instruction is of class 0x4 (R177). -/
def isCrossLane : Instr → Bool
  | .voteAll _ _ _ _ | .voteAny _ _ _ _ | .voteBal _ _ _ _ | .shflIdx _ _ _ | .shflUp _ _ _ | .shflDn _ _ _
  | .shflXor _ _ _ | .qxH _ _ | .qxV _ _ | .qxD _ _ | .lredAdd _ _ | .lredMax _ _ | .lredMin _ _ | .lscanAdd _ _
  | .matchLanes _ _ _ _ => true
  | _ => false

/-- Whether an instruction is for control threads only: class 0xA OP 05 to 0D (R40). -/
def isMatrix : Instr → Bool
  | .mma _ _ _ _ | .mmaBs _ _ _ _ | .mmaNp _ _ _ _ _ | .mmaCoop _ _ _ _ _ _ _ _ | .mzero _ _ | .mdrain _ _ _
  | .csel _ _ _ | .mseq _ _ _ => true
  | _ => false

/-- Whether an instruction needs handler mode (R314). -/
def isPrivileged : Instr → Bool
  | .eret _ | .park _ _ _ | .resume _ _ _ | .kill _ _ _ | .frsave _ _ | .frload _ _ | .bsave _ _ | .brest _ _
  | .tlbinv _ _ _ => true
  | .wrsr _ _ n => (srInfo n.toNat).any fun p => p.2 == .priv
  | _ => false

/-- The barrier object an instruction names (R188, R262, R277). -/
def barOf : Instr → Option Nat
  | .barInit _ n _ | .barArr _ _ n | .barExp _ n _ | .barWait _ _ n _ | .barTst _ _ _ n _ => some n.toNat
  | .cpy _ k _ | .cpyRed _ k _ | .cpyBc _ k _ | .cpyT _ k _ | .cpyD _ k _ _ => if k.ben then some k.bar.toNat else none
  | .chain _ o => if o.compl.ben then some o.compl.bar.toNat else none
  | _ => none

/-! ## Faults of the word (R49, R178, R188) -/

/-- Whether a thread with `greg` registers has a g register (R49). -/
def hasReg (greg r : Nat) : Bool := r < greg - 2 || r == 110 || r == 111

/-- The cause that every thread of the bundle raises, whatever its guard: a register outside the thread's set, a
barrier number beyond NBAR (0x01); a misplaced word (0x03). -/
def State.wordFault (s : State) (b : Block) (w : Who) (t : Thread) (i : Instr) : Option Cause :=
  let h := s.headerAt b.core b.ctx t.hdr
  let stop := codeOff t.hdr + 8 * (h.len + 1)
  let next := codeOff t.pc + 8 * wordsOf i
  if w != .ctl && (names i).any fun r => r < 112 && !hasReg b.lr.greg r then some 0x01
  else if (barOf i).any fun n => b.lr.nbar ≤ n then some 0x01
  else if stop < next then some 0x03
  else if isTransfer i && next != stop then some 0x03
  else if isCrossLane i && !h.xl then some 0x03
  else none

/-- The cause a guard-true thread raises before the instruction's own checks (R40, R314, R397). -/
def threadFault (w : Who) (t : Thread) (i : Instr) : Option Cause :=
  if isPrivileged i && !t.hmode then some 0x04
  else if isMatrix i && w != .ctl then some 0x05
  else none

/-- The registers that an instruction names whose values have not returned to a thread (R200). -/
def State.lacks (s : State) (b : Block) (w : Who) (i : Instr) : List Nat :=
  let due := s.awaited b.id w
  (names i).filter due.contains

/-- The handles that an instruction names and that are pending, for which a thread waits (R185). -/
def Thread.pendings (t : Thread) (i : Instr) : Option Wait :=
  let hs := (names i).filter fun r => 112 ≤ r && (t.h (r - 112)).pending
  if !hs.isEmpty then some (.handles (hs.foldl (fun m r => m ||| (1#16 <<< (r - 112))) 0)) else none

/-- The values that a bundle lacks: an instruction starts in none of its threads while one whose guard is true, and which may
execute it, awaits a register that it names (R33, R200). -/
def State.bundleLacks (s : State) (b : Block) (ws : List Who) (i : Instr) (g : Guard) : List (Who × Nat) :=
  ws.flatMap fun w => match b.thread w with
    | some t => if t.guard g && (threadFault w t i).isNone then (s.lacks b w i).map fun r => (w, r) else []
    | none => []

/-! ## One thread of an issue -/

/-- What an issue has come to so far: the state, the log entries, the threads that park with the number of their issue, and
the threads that have completed the word with the target each one takes. -/
structure IssueOut where
  st    : State
  logs  : List (Cause × Nat × Nat)
  parks : List (Nat × Parked)
  moved : List (Who × Option Word)

/-- A thread raises a cause at its word. -/
def IssueOut.park (o : IssueOut) (iss : Nat) (p : Parked) : IssueOut := { o with parks := o.parks ++ [(iss, p)] }

/-- A thread whose guard is false arrives at a rendezvous as absent: it names nothing and reads nothing (R238). -/
def IssueOut.absent (o : IssueOut) (a : Act) (blk : Nat) (w : Who) : IssueOut :=
  match a with
  | .stall s x => { o with st := s.await blk w x }
  | _ => o

/-- Whether the predicate of a guard was lost: then the guard cannot be judged (R430). -/
def Thread.guardLost (t : Thread) (g : Guard) : Bool := t.badPreds.contains g.p.toNat

/-- Whether an instruction reads a register or a predicate of a thread that was lost (R430). -/
def Thread.lost (t : Thread) (i : Instr) : Bool :=
  (reads i).any t.badRegs.contains || (readPreds i).any t.badPreds.contains

/-- Runs an instruction in one thread of the bundle. -/
def runThread (i : Instr) (g : Guard) (f : State → Site → Act) (blk new : Nat) (o : IssueOut) (w : Who) : IssueOut :=
  match o.st.block blk with
  | none => o
  | some b =>
    match b.thread w with
    | none => o
    | some t =>
      let iss := t.issueNo new
      let word := o.st.wordAt b.core b.ctx t.pc
      if t.guardLost g then o.park iss { who := w, cause := 0x13, pc := t.pc, word := word }
      else if !t.guard g then
        if isCrossLane i then o.absent (f o.st { blk := blk, who := w, iss := iss }) blk w
        else { o with moved := o.moved ++ [(w, none)] }
      else
        match threadFault w t i with
        | some c => o.park iss { who := w, cause := c, pc := t.pc, word := word }
        | none =>
          match t.pendings i with
          | some x => { o with st := o.st.await blk w x }
          | none =>
            if t.lost i then o.park iss { who := w, cause := 0x13, pc := t.pc, word := word }
            else match f o.st { blk := blk, who := w, iss := iss } with
              | .done s logs =>
                { o with st := s, logs := o.logs ++ logs.map fun p => (p.1, (tidOf w).toNat % 65536, p.2),
                         moved := o.moved ++ [(w, none)] }
              | .stall s x => { o with st := s.awaitIn blk iss w x }
              | .fault c a d =>
                o.park iss { who := w, cause := c, pc := t.pc, word := word, addr := a, detail := d }
              | .failed s c a d =>
                { o with st := s }.park iss { who := w, cause := c, pc := t.pc, word := word, addr := a, detail := d }
              | .report s c a d x =>
                { o with st := s }.park iss
                  { who := w, cause := c, pc := t.pc, word := x.getD word, addr := some a, detail := d }
              | .jump s a => { o with st := s, moved := o.moved ++ [(w, some a)] }
              | .past s c =>
                match s.onward b.core b.ctx t.hdr t.pc (wordsOf i) with
                | .within pc => { o with st := s }.park iss { who := w, cause := c, pc := pc, word := word }
                | .header a => { o with st := s }.park iss { who := w, cause := c, pc := a, enter := true, word := word }
                | .astray a => { o with st := s }.park iss { who := w, cause := c, pc := a, enter := true, word := word }
              | .gone s => { o with st := s }

/-! ## Divergence (R34, R36, R175) -/

/-- Rejoin records in use on a core. -/
def State.rejoinsOn (s : State) (core : Nat) : Nat :=
  (s.blocks.filter (·.core == core)).foldl (fun n b => n + (b.rejoins.filter fun r => !r.freed).length) 0

/-- The lane mask of some vector threads. -/
def maskOf (ws : List Who) : BitVec 32 := ws.foldl (fun m w => m ||| (1#32 <<< laneOf w)) 0

/-- The threads of a bundle that carried one rejoin point join or form the record for J; with none free they keep
their rejoin (R36). -/
def State.formRejoin (s : State) (blk win : Nat) (j : Word) (out : Option Word) (ws : List Who) : State :=
  match s.block blk with
  | none => s
  | some b =>
    let same (r : Rejoin) : Bool := !r.freed && r.win == win && r.j == j && r.out == out
    let m := maskOf ws
    let point (b : Block) : Block := ws.foldl (fun b w => b.modThread w fun t => { t with rej := some j }) b
    let grow (r : Rejoin) : Rejoin := if same r then { r with memb := r.memb ||| m, ent := r.ent &&& ~~~m } else r
    if b.rejoins.any same then
      s.modBlock blk fun b => point { b with rejoins := b.rejoins.map grow }
    else if s.rejoinsOn b.core < Config.rejoinRecords then
      s.modBlock blk fun b => point { b with rejoins := b.rejoins ++
        [({ j := j, out := out, memb := m, ent := 0, since := 0, win := win, freed := false } : Rejoin)] }
    else s

/-- The threads of a bundle that leave a basic block with RECONV towards several headers diverge: each takes J as its
rejoin point, and the window gets a record for each rejoin point that the bundle carried (R34). R34 speaks of one outer rejoin
point; a bundle that joined threads of two frontier entries (R32) may carry several, and what it then forms is the model's
choice: one record for each (DESIGN CHOICE, log entry 133). -/
def State.diverge (s : State) (blk win : Nat) (j : Word) (ws : List Who) : State :=
  match s.block blk with
  | none => s
  | some b =>
    let rejOf (w : Who) : Option Word := (b.thread w).bind (·.rej)
    let outs := (ws.map rejOf).eraseDups
    outs.foldl (fun s out => s.formRejoin blk win j out (ws.filter fun w => rejOf w == out)) s

/-- Whether a list of targets names two different headers. -/
def diverges (l : List (Who × Word)) : Bool :=
  match l with
  | [] => false
  | p :: l => l.any fun q => q.2 != p.2

/-- The targets that the threads leaving a block go to, when the word after the block is `next`. -/
def leaving (next : Word) (l : List (Who × Option Word)) : List (Who × Word) := l.map fun p => (p.1, p.2.getD next)

/-- Threads leave the last word of a block towards their headers (R34). -/
def State.depart (s : State) (b : Block) (hdr : Word) (l : List (Who × Word)) : State :=
  let h := s.headerAt b.core b.ctx hdr
  let ws := l.map (·.1)
  let s := match ws.head?.bind winOf with
    | some win => if diverges l && h.reconv ≠ 0 then s.diverge b.id win (codeStep hdr h.reconv) ws else s
    | none => s
  let s := l.foldl (fun s p =>
    let s := if codeOvl p.2 == codeOvl hdr then s else s.cancelEvict b.core b.ctx (codeOvl p.2)
    s.modThread b.id p.1 fun t => t.enterAt p.2) s
  (s.modBlock b.id Block.sweep).settle b.core

/-- Whether a divergence would take a rejoin point outside the image (R175). -/
def State.reconvOut (s : State) (b : Block) (hdr : Word) (l : List (Who × Word)) : Bool :=
  let h := s.headerAt b.core b.ctx hdr
  match s.residentCopy b.core b.ctx (codeOvl hdr) with
  | some k => diverges l && h.reconv ≠ 0 && k.size ≤ codeOff (codeStep hdr h.reconv)
  | none => false

/-! ## The whole issue -/

/-- Parks the threads of a bundle with one cause at their word. -/
def State.parkBundle (s : State) (b : Block) (t : Thread) (ws : List Who) (c : Cause) : State :=
  s.parkGroup b.id (ws.map fun w =>
    { who := w, cause := c, pc := t.pc, word := s.wordAt b.core b.ctx t.pc })

/-- What a thread parks with that falls through to no header: at the last word of its block (R171, R408). -/
def State.fallPark (s : State) (b : Block) (t : Thread) (i : Instr) (a : Word) (w : Who) : Parked :=
  let pc := lastWord t.pc (wordsOf i)
  { who := w, cause := 0x02, pc := pc, word := s.wordAt b.core b.ctx pc, addr := some (a.setWidth 64) }

/-- The threads of an issue that fault: those that their acts have refused, and those that fall through to no header. -/
def IssueOut.faults (o : IssueOut) (b : Block) (t : Thread) (i : Instr) (new : Nat) : List (Nat × Parked) :=
  match o.st.onward b.core b.ctx t.hdr t.pc (wordsOf i) with
  | .within _ => o.parks
  | .header _ => o.parks
  | .astray a => o.parks ++ (o.moved.filter (·.2.isNone)).map fun p =>
      (((b.thread p.1).map (·.issueNo new)).getD new, o.st.fallPark b t i a p.1)

/-- The threads of an issue that fault park. A thread that issues alone and for the first time is a fault group by itself; any
other parks with the threads of its bundle (R42). -/
def State.parkFaults (s : State) (blk : Nat) (alone : Bool) (l : List (Nat × Parked)) : State :=
  if alone then s.parkGroup blk (l.map (·.2)) else s.raise blk l

/-- The rest of an issue: log records, the fault group, and the threads that pass on or leave the block. -/
def IssueOut.finish (o : IssueOut) (b : Block) (t : Thread) (i : Instr) (alone : Bool) (new : Nat) : State :=
  let s := (o.st.logIssue b.ctx b.core (BitVec.ofNat 32 b.bid) t.hdr o.logs).parkFaults b.id alone (o.faults b t i new)
  match s.onward b.core b.ctx t.hdr t.pc (wordsOf i) with
  | .within pc => o.moved.foldl (fun s p => s.modThread b.id p.1 fun t => { t with pc := pc, wait := .none }) s
  | .header a => s.depart b t.hdr (leaving a o.moved)
  | .astray a => s.depart b t.hdr (leaving a (o.moved.filter (·.2.isSome)))

/-- Where each thread that has completed the last word goes; threads that fall through to no header leave towards none. -/
def targets (o : Onward) (l : List (Who × Option Word)) : List (Who × Word) :=
  match o with
  | .within a => leaving a l
  | .header a => leaving a l
  | .astray a => leaving a (l.filter (·.2.isSome))

/-- Whether a thread that issues is its whole bundle, and issues for the first time. -/
def Thread.alone (t : Thread) (ws : List Who) : Bool :=
  ws.length == 1 && (match t.wait with
    | .again _ | .source _ _ => false
    | _ => true)

/-- Issues an instruction, as issue number `iss`, over some threads of a block that stand at one word. A bundle that lacks a
value waits for it. A diverging bundle whose rejoin point lies outside the image parks with 0x03 at the last word of its block
(R178). -/
def State.issueOver (s : State) (iss blk : Nat) (ws : List Who) (i : Instr) (g : Guard) (f : State → Site → Act) :
    State :=
  match s.block blk, ws with
  | some b, w :: _ =>
    match b.thread w with
    | none => s
    | some t =>
      match s.wordFault b w t i with
      | some c => s.parkBundle b t ws c
      | none =>
        let due := s.bundleLacks b ws i g
        if !due.isEmpty then ws.foldl (fun s w => s.await blk w (.results due)) s
        else
          let o := ws.foldl (runThread i g f blk iss) { st := s, logs := [], parks := [], moved := [] }
          let l := targets (s.onward b.core b.ctx t.hdr t.pc (wordsOf i)) o.moved
          if isTransfer i && s.reconvOut b t.hdr l then s.parkBundle b { t with pc := lastWord t.pc (wordsOf i) } ws 0x03
          else o.finish b t i (t.alone ws) iss
  | _, _ => s

/-- Issues an instruction over some threads of a block, under the next issue number. -/
def State.issueFor (s : State) (blk : Nat) (ws : List Who) (i : Instr) (g : Guard) (f : State → Site → Act) : State :=
  { s with nextId := s.nextId + 1 }.issueOver s.nextId blk ws i g f

/-- Issues an instruction in the bundle or the control thread that holds the issue slot, and then does `post`. A
core instruction with no core thread in the slot does nothing. -/
def State.issueThen (s : State) (i : Instr) (g : Guard) (f : State → Site → Act) (post : State → Nat → State) :
    Host.Outcome State Fault Refusal :=
  match s.cur with
  | some (.bundle blk tids) =>
    .next (post ({ s with cur := none }.issueFor blk (tids.map Who.vec) i g f) blk)
  | some (.control blk) => .next (post ({ s with cur := none }.issueFor blk [.ctl] i g f) blk)
  | some (.port _ _) => .next s
  | none => .next s

/-- Issues an instruction. -/
def State.issue (s : State) (i : Instr) (g : Guard) (f : State → Site → Act) : Host.Outcome State Fault Refusal :=
  s.issueThen i g f fun s _ => s

/-! ## Common kinds of act -/

/-- Changes the issuing thread and completes. -/
def State.setThread (s : State) (x : Site) (f : Thread → Thread) : State := s.modThread x.blk x.who f

/-- An act over the issuing thread and its block. -/
def withThread (f : State → Site → Block → Thread → Act) (s : State) (x : Site) : Act :=
  match s.block x.blk with
  | none => .gone s
  | some b =>
    match b.thread x.who with
    | none => .gone s
    | some t => f s x b t

/-- An act that only computes on the thread: the new thread and the causes it logs. -/
def compute (f : Thread → Thread × List (Cause × Nat)) : State → Site → Act :=
  withThread fun s x _ t => let r := f t; .done (s.setThread x fun _ => r.1) r.2

/-- An act that only changes the thread and logs nothing. -/
def plainly (f : Thread → Thread) : State → Site → Act := compute fun t => (f t, [])

/-- A helper lane completes without effect outside itself; `h` writes what it receives (R28). -/
def exceptHelper (h : Thread → Thread) (f : State → Site → Act) : State → Site → Act :=
  fun s x => withThread (fun s x _ t => if t.helper then .done (s.setThread x h) [] else f s x) s x

end Sys2Proof.Machine
end

