-- ==== Sys2Proof/Machine/Stack.lean ====
section
/-! DEFINITION. Request entries (R71), translation as a thread meets it (R69, R70), and the stack: its range (R89) and the
stack cache (R90). -/

namespace Sys2Proof.Machine

/-! ## Request entries (R71) -/


/-- Whether an access writes what others observe: memory, a buffer, or by a deferred write. -/
def Req.writes (r : Req) : Bool :=
  match r.kind with
  | .store _ _ _ | .atomic _ _ _ _ _ _ _ | .buf _ _ _ _ | .defer _ => true
  | .load _ _ _ _ _ | .snap _ _ _ _ _ _ _ _ | .clean _ | .own _ _ | .stk _ _ | .lock => false

/-- The threads of a block whose misses hold entries: they wait for a page-table walk, or it has answered them and the access
has still to be made. -/
def Block.missing (b : Block) : Nat :=
  (b.whos.filter fun w => (b.thread w).any fun t =>
    match t.wait with
    | .walk _ _ _ | .again true => t.live && !t.parked
    | _ => false).length

/-- Entries in use on a core: accesses in flight, of its threads and of its engines (R134), misses that wait for a walk, alias
stores that wait. -/
def State.entriesUsed (s : State) (core : Nat) : Nat :=
  (s.reqs.filter fun (r : Req) => r.core == core).length +
    (s.blocks.filter (·.core == core)).foldl (fun n b => n + b.missing) 0 +
    (s.aliasWaits.filter fun (w : AliasWait) => w.core == core && w.blk.isSome).length

/-- Runs an access when its core has a free entry; until then its thread issues again. -/
def State.withEntry (s : State) (core : Nat) (k : State → Act) : Act :=
  if Config.requests ≤ s.entriesUsed core then .stall s (.again false) else k s

/-- The releases that an access makes (R129, R134): its own, and those of the fences before it. -/
def ReqKind.fences (k : ReqKind) (id : Nat) (old : List (Scope × Nat)) : List (Scope × Nat) :=
  match k with
  | .store _ _ (some sc) => (sc, id) :: old
  | .store _ _ none | .atomic _ _ _ _ _ _ _ => old
  | .load _ _ _ _ _ | .snap _ _ _ _ _ _ _ _ | .clean _ | .own _ _ | .buf _ _ _ _ | .stk _ _ | .lock | .defer _ => []

/-- An access of a thread as it starts. -/
def State.request (s : State) (x : Site) (b : Block) (t : Thread) (va : DWord) (pa : Nat) (pte : DWord) (nt : Bool)
    (kind : ReqKind) : Req :=
  { id := s.nextId, core := b.core, blk := x.blk, who := x.who, ctx := b.ctx, issue := x.iss, pc := t.pc, hdr := t.hdr,
    word := s.wordAt b.core b.ctx t.pc, va := va, pa := pa, pte := pte, kind := kind, st := .issued, value := none,
    bad := none, since := s.tick, returned := false, nt := nt, fences := kind.fences s.nextId t.fences }

/-- Puts an access into flight. -/
def State.addReq (s : State) (r : Req) : State := { s with nextId := r.id + 1, reqs := s.reqs ++ [r] }

/-- An access of a thread in flight: it takes an entry, or the thread issues again when one is free. -/
def State.newReq (s : State) (x : Site) (b : Block) (t : Thread) (va : DWord) (pa : Nat) (pte : DWord) (nt : Bool)
    (kind : ReqKind) (k : State → Act) : Act :=
  s.withEntry b.core fun s => k (s.addReq (s.request x b t va pa pte nt kind))

/-- An access that is performed at issue: its entry is held until its value returns or its acknowledgement arrives
(R248). -/
def State.madeReq (s : State) (x : Site) (b : Block) (t : Thread) (va : DWord) (kind : ReqKind) : State :=
  s.addReq { s.request x b t va 0 0 false kind with st := .done }

/-! ## Translation of a thread's access (R70) -/

/-- What an access meets: its leaf entry and physical address, a wait, or a cause with the address refused. -/
inductive Reach where
  | ok (pte : DWord) (pa : Nat)
  | stall (s : State) (w : Wait)
  | failed (s : State) (c : Cause) (addr : DWord)   -- as `fault`, after a translation is dropped
  | fault (c : Cause) (addr : DWord)

/-- An access that no buffer answers: it waits for a walk, and faults with its fault group where the table as it
stands fails the walk or refuses the access. A miss takes a request entry; without a free one its thread issues again
(R71). -/
def State.reachTable (s : State) (b : Block) (va : DWord) (wr rd : Bool) : Reach :=
  match s.walk b.ctx va with
  | .fail c => .failed s c va
  | .leaf pte _ =>
    if !permits pte wr rd then .failed s 0x09 va
    else .stall s (if Config.requests ≤ s.entriesUsed b.core then .again false else .walk va wr rd)

/-- Translates a thread's access through its core's buffers. A miss walks; an entry that would refuse the access is
dropped, and the access walks again. -/
def State.reach (s : State) (b : Block) (va : DWord) (wr rd : Bool) : Reach :=
  if va.toNat / 2 ^ 48 ≠ 0 then .fault 0x08 va
  else match s.tlbFind b.core b.ctx (pageOf va) with
    | none => s.reachTable b va wr rd
    | some e =>
      if permits e.pte wr rd then .ok e.pte (physOf e.pte e.big va)
      else (s.tlbDrop b.core b.ctx (pageOf va)).reachTable b va wr rd

/-! ## The stack (R89, R90) -/

/-- Whether an access of `n` bytes at a stack pointer lies inside the thread's range (R89). -/
def Block.inStack (b : Block) (t : Thread) (x : Word) (n : Nat) : Bool :=
  b.lr.stk != 0 && t.stackOff x + n ≤ b.lr.stk * 256

/-- The checks of a stack access (R251): alignment, range, translation, format range, bad data. `aligned` is the value
that must be a multiple of the size. -/
def State.stackReach (s : State) (b : Block) (t : Thread) (x : Word) (aligned : Nat) (n : Nat) (wr : Bool) : Reach :=
  let va := t.stackAddr x
  if aligned % n ≠ 0 then .fault 0x07 va
  else if !b.inStack t x n then .fault 0x06 va
  else match s.reach b va wr (!wr) with
    | .ok pte pa =>
      if wr then
        match s.writeRefused pte pa n with
        | some c => .fault c va
        | none => .ok pte pa
      else
        match s.readRefused pte pa n with
        | some c => .fault c va
        | none => .ok pte pa
    | r => r

/-- Whether an access is a store to the stack that has still to be made. -/
def Req.stackDue (r : Req) : Bool :=
  r.st == .issued && (match r.kind with
    | .stk _ _ => true
    | _ => false)

/-- Lays a store of the thread that has still to be made over bytes read from its stack (R122). -/
def overStack (va : Nat) (bs : List Byte) (r : Req) : List Byte :=
  match r.kind with
  | .stk _ d =>
    if r.stackDue then
      bs.mapIdx fun i v => if r.va.toNat ≤ va + i && va + i < r.va.toNat + d.length then d.getD (va + i - r.va.toNat) v else v
    else bs
  | _ => bs

/-- The line of the stack cache that holds an address. -/
def Block.stackLine (b : Block) (va : Nat) : Option StkLine := b.stack.find? fun l => l.line == va / 128

/-- Whether a stack access needs a line that the cache does not hold and that cannot be reached now (R426, R443). -/
def State.stackShut (s : State) (b : Block) (va : DWord) (pa : Nat) : Bool :=
  (b.stackLine va.toNat).isNone && s.shut (pa - pa % 128) 128

/-- The line of a stack address in the stack cache; one that is not there is read from memory, whose bad sectors it keeps
(R90, R430). -/
def State.stackFill (s : State) (b : Block) (va : DWord) (pa : Nat) : StkLine :=
  match b.stackLine va.toNat with
  | some l => l
  | none =>
    let lo := pa - pa % 128
    { line := va.toNat / 128, bytes := s.physRead lo 128, dirty := false, used := 0,
      bad := (List.range 8).filter fun i => s.dead lo 1 || s.physBad (lo + 16 * i) 16 }

/-- The bytes of a stack access, and whether it meets a bad sector (R90, R430). -/
def State.stackRead (s : State) (b : Block) (va : DWord) (pa n : Nat) : List Byte × Bool :=
  let l := s.stackFill b va pa
  let k := va.toNat % 128
  ((l.bytes.drop k).take n, l.bad.any fun i => 16 * i < k + n && k < 16 * i + 16)

/-- Whether a line of a block's stack cache waits to be written back to a line that cannot be reached now. -/
def State.spillWaits (s : State) (b : Block) (l : StkLine) : Bool :=
  l.dirty && (match s.coreXlat b.core b.ctx (BitVec.ofNat 64 (l.line * 128)) true with
    | .ok _ pa => s.shut pa 128
    | .fail _ => false)

/-- Writes a line of a block's stack cache to memory, through the translations of its core; not its bad sectors, and nothing on
a die that has failed. None when it cannot be written back now. -/
def State.spillLine (s : State) (b : Block) (l : StkLine) : Option State :=
  if !l.dirty then some s
  else
    let va : DWord := BitVec.ofNat 64 (l.line * 128)
    match s.coreXlat b.core b.ctx va true with
    | .fail _ => none
    | .ok pte pa =>
      if (s.writeRefused pte pa 128).isSome || s.spillWaits b l then none
      else if s.dead pa 128 then some s
      else
        let s := (s.pinLines pte pa 128).tlbKeep b.core b.ctx va true false
        some (if l.bad.isEmpty then s.landWrite pa l.bytes
          else ((List.range 8).filter fun i => !l.bad.contains i).foldl (fun s i =>
            s.landWrite (pa + 16 * i) ((l.bytes.drop (16 * i)).take 16)) s)

/-- The lines that the stack cache of a core holds, with their blocks, least recently used first. -/
def State.stackLines (s : State) (core : Nat) : List (Block × StkLine) :=
  sortBy (fun p q => p.2.used ≤ q.2.used)
    ((s.blocks.filter (·.core == core)).flatMap fun b => b.stack.map fun l => (b, l))

/-- Writes back and drops the first of some lines that can be written back. -/
def State.spillOldest (s : State) : List (Block × StkLine) → State
  | [] => s
  | (b, l) :: rest =>
    match s.spillLine b l with
    | some s => s.modBlock b.id fun b => { b with stack := b.stack.filter fun x => x.line != l.line }
    | none => s.spillOldest rest

/-- The stack cache of a core keeps its most recently used lines: while it holds more than it has room for, the least
recently used leaves (R90). -/
def State.trimStack (s : State) (core : Nat) : State :=
  let l := s.stackLines core
  (List.range (l.length - Config.stackLines)).foldl (fun s _ => s.spillOldest (s.stackLines core)) s

/-- A line stands in the stack cache as the one used at `used`; a line that is taken into it is pinned when its page is NEAR,
and what the cache then has no room for leaves (R73, R90). -/
def State.putLine (s : State) (b : Block) (pte : DWord) (pa used : Nat) (l : StkLine) : State :=
  let s := if (b.stack.any fun x => x.line == l.line) then s else s.pinLines pte (pa - pa % 128) 128
  (s.modBlock b.id fun b => { b with stack := { l with used := used } :: b.stack.filter fun x => x.line != l.line }).trimStack b.core

/-- A read uses its line of the stack cache. -/
def State.stackUse (s : State) (b : Block) (va pte : DWord) (pa : Nat) : State :=
  s.putLine b pte pa s.nextId (s.stackFill b va pa)

/-- Writes bytes into the stack cache. -/
def State.stackWrite (s : State) (blk : Nat) (va pte : DWord) (pa : Nat) (bs : List Byte) : State :=
  match s.block blk with
  | none => s
  | some b =>
    let l := s.stackFill b va pa
    let k := va.toNat % 128
    s.putLine b pte pa s.nextId
      { l with bytes := l.bytes.take k ++ bs ++ l.bytes.drop (k + bs.length), dirty := true, bad := clearBad l.bad k bs.length }

/-- Whether a store to the stack can be made as it issues: every acquire of its thread has bound its value, no earlier store of
the thread to its stack waits (R130), and its line can be reached. -/
def State.stackFree (s : State) (x : Site) (b : Block) (va : DWord) (pa : Nat) : Bool :=
  ((s.reqsOf x.blk x.who).all fun r => (!r.acquire || r.bound) && !r.stackDue) && !s.stackShut b va pa

/-- A store to the stack: it is made as it issues, or waits for what comes before it. The thread goes on. -/
def State.stackStore (s : State) (x : Site) (b : Block) (t : Thread) (va pte : DWord) (pa : Nat) (bs : List Byte) : State :=
  if s.stackFree x b va pa then (s.stackWrite x.blk va pte pa bs).madeReq x b t va (.stk pa bs)
  else s.addReq (s.request x b t va 0 pte false (.stk pa bs))

/-- Pushes 8 bytes, as `push` of SIZE 3 does (R230): the new g111 and the state with the record written. -/
def State.pushRecord (s : State) (b : Block) (t : Thread) : Reach :=
  s.stackReach b t (t.g 111 - 8) (t.g 111 - 8).toNat 8 true

/-- A load that meets an uncorrectable error: one log record, and the park (R405). -/
def State.badLoad (s : State) (b : Block) (w : Who) (t : Thread) (a : DWord) (die : Nat) : Act :=
  .report (s.logRecord b.ctx 0x13 (BitVec.ofNat 8 b.core) 1 (BitVec.ofNat 32 b.bid) (t.hdr.setWidth 64)
    ((tidOf w).toNat % 65536)) 0x13 a die none

/-- A read of memory by an instruction that is refused: an uncorrectable error is a load's. -/
def State.readFault (s : State) (b : Block) (w : Who) (t : Thread) (c : Cause) (a : DWord) : Act :=
  if c = 0x13 then s.badLoad b w t a (s.dieAt b.ctx a) else .fault c (some a) 0

/-- Reads a record of `n` bytes that an engine instruction names, with the translations of its core; it waits at a line that
cannot be reached (R70, R73, R426). -/
def State.readRecord (s : State) (b : Block) (va : DWord) (n : Nat) (k : State → Except Cause (List Byte) → Act) : Act :=
  if (s.coreXlat b.core b.ctx va false).waits s n then .stall s (.again false)
  else k (s.coreKeep b.core b.ctx va n) (s.coreRead b.core b.ctx va n)

/-- The act a reach that is not a success comes to. -/
def Reach.act (r : Reach) (k : DWord → Nat → Act) : Act :=
  match r with
  | .ok pte pa => k pte pa
  | .stall s w => .stall s w
  | .failed s c a => .failed s c (some a) 0
  | .fault c a => .fault c (some a) 0

end Sys2Proof.Machine
end

