-- ==== Sys2Proof/Machine/IntAlu.lean ====
section
/-! DEFINITION. The meanings of class 0x0 (R204 to R212): integer, logic, shift, bit-field, compare, immediate,
predicate and uniform-register instructions. -/

namespace Sys2Proof.Machine

/-- What a step answers. -/
abbrev Result := Host.Outcome State Fault Refusal

/-! ## Elements (R204) -/

/-- An operation of two operands, element by element: each result with the cause it logs. -/
def Thread.map2 (t : Thread) (o : Alu) (f : Nat → Nat → Nat × Option Cause) : Thread × List (Cause × Nat) :=
  let l := (t.elems o.ty o.a).zipWith f (t.elems o.ty o.b)
  (t.setElems o.ty o.d (l.map (·.1)), causesOf (l.map (·.2)))

/-- An operation of one operand, element by element. -/
def Thread.map1 (t : Thread) (o : Alu) (f : Nat → Nat × Option Cause) : Thread × List (Cause × Nat) :=
  let l := (t.elems o.ty o.a).map f
  (t.setElems o.ty o.d (l.map (·.1)), causesOf (l.map (·.2)))

/-- A wrapping operation on the exact integers of two elements (R101). -/
def wrap2 (ty : ElemTy) (f : Int → Int → Int) (a b : Nat) : Nat × Option Cause :=
  (intLow (tyBits ty) (f (elemInt ty a) (elemInt ty b)), none)

/-- A saturating operation on the exact integers of two elements (R101): a clamped element logs 0x43. -/
def sat2 (ty : ElemTy) (f : Int → Int → Int) (a b : Nat) : Nat × Option Cause :=
  let r := clampTy ty (f (elemInt ty a) (elemInt ty b))
  (intLow (tyBits ty) r.1, if r.2 then some 0x43 else none)

/-- `abs` and `neg` (R204): wrapping, or saturating with SAT. -/
def wrapOrSat (o : Alu) (f : Int → Int) (a : Nat) : Nat × Option Cause :=
  let v := f (elemInt o.ty a)
  if o.sat then
    let r := clampTy o.ty v
    (intLow (tyBits o.ty) r.1, if r.2 then some 0x43 else none)
  else (intLow (tyBits o.ty) v, none)

/-- High half of the exact product (R204). -/
def mulHigh (n : Nat) (a b : Int) : Int := a * b / 2 ^ n

/-- Quotient and remainder (R205), each as a result with its cause. -/
def divRem (ty : ElemTy) (rem : Bool) (a b : Nat) : Nat × Option Cause :=
  let n := tyBits ty
  let x := elemInt ty a
  let y := elemInt ty b
  if y = 0 then (if rem then a % 2 ^ n else 2 ^ n - 1, some 0x41)
  else (intLow n (if rem then x.tmod y else x.tdiv y), none)

/-- The shift amount: gB modulo the width (R204). -/
def Thread.shift (t : Thread) (o : Alu) : Nat := (t.src o.b).toNat % tyBits o.ty

/-- Shift left. -/
def shlOf (n a k : Nat) : Nat := a * 2 ^ k % 2 ^ n
/-- Shift right with zeros. -/
def shrOf (n a k : Nat) : Nat := a % 2 ^ n / 2 ^ k
/-- Shift right with copies of the top bit. -/
def sarOf (n a k : Nat) : Nat := intLow n (natSigned n a / 2 ^ k)
/-- Rotate left. -/
def rolOf (n a k : Nat) : Nat := (a * 2 ^ k % 2 ^ n) + a % 2 ^ n / 2 ^ (n - k)

/-- A shift by gB. -/
def Thread.shiftBy (t : Thread) (o : Alu) (f : Nat → Nat → Nat → Nat) : Thread :=
  t.writeT o.ty o.d (f (tyBits o.ty) (t.readT o.ty o.a) (t.shift o))

/-- Number of ones among the `n` low bits. -/
def popcOf : Nat → Nat → Nat
  | 0, _ => 0
  | n + 1, v => v % 2 + popcOf n (v / 2)

/-- Leading zeros of an `n`-bit number. -/
def clzOf : Nat → Nat → Nat
  | 0, _ => 0
  | n + 1, v => if natBit v n then 0 else 1 + clzOf n v

/-- The `n` low bits in reverse order. -/
def brevOf : Nat → Nat → Nat
  | 0, _ => 0
  | n + 1, v => v % 2 * 2 ^ n + brevOf n (v / 2)

/-- `bfx`: the field of `len` bits at `pos`, extended by the type (R206). -/
def bfxOf (ty : ElemTy) (pos len a : Nat) : Nat :=
  let v := a / 2 ^ pos % 2 ^ len
  if tyIsSigned ty then intLow (tyBits ty) (natSigned len v) else v

/-- `bfi`: a with the field replaced by the low bits of b (R206). -/
def bfiOf (pos len a b : Nat) : Nat :=
  a % 2 ^ pos + b % 2 ^ len * 2 ^ pos + a / 2 ^ (pos + len) * 2 ^ (pos + len)

/-- Writes a condition and its negation (R207, R216). -/
def Thread.setCond (t : Thread) (d c : Reg) (v : Bool) : Thread :=
  (t.setQ (d.extractLsb' 0 3) v).setQ (c.extractLsb' 0 3) (!v)

/-! ## OP 00 to 1F -/

/-- `add` (R204). -/
def execAdd (g : Guard) (o : Alu) (s : State) : Result :=
  s.issue (.add g o) g (compute fun t => t.map2 o (wrap2 o.ty (· + ·)))

/-- `sub` (R204). -/
def execSub (g : Guard) (o : Alu) (s : State) : Result :=
  s.issue (.sub g o) g (compute fun t => t.map2 o (wrap2 o.ty (· - ·)))

/-- `mul` (R204). -/
def execMul (g : Guard) (o : Alu) (s : State) : Result :=
  s.issue (.mul g o) g (compute fun t => t.map2 o (wrap2 o.ty (· * ·)))

/-- `mulhi` (R204). -/
def execMulhi (g : Guard) (o : Alu) (s : State) : Result :=
  s.issue (.mulhi g o) g (compute fun t => t.map2 o (wrap2 o.ty (mulHigh (tyBits o.ty))))

/-- `mad` (R204). -/
def execMad (g : Guard) (o : Alu) (s : State) : Result :=
  s.issue (.mad g o) g (plainly fun t =>
    let n := tyBits o.ty
    t.writeT o.ty o.d ((t.readT o.ty o.a * t.readT o.ty o.b + t.readT o.ty o.c) % 2 ^ n))

/-- `madw` (R204): 32 x 32 + 64. -/
def execMadw (g : Guard) (o : Alu) (s : State) : Result :=
  s.issue (.madw g o) g (plainly fun t =>
    let x := elemInt o.ty (t.src o.a).toNat
    let y := elemInt o.ty (t.src o.b).toNat
    t.setPair o.d.toNat (BitVec.ofInt 64 (x * y + ((t.pair o.c.toNat).toNat : Int))))

/-- `min` (R204). -/
def execMin (g : Guard) (o : Alu) (s : State) : Result :=
  s.issue (.min g o) g (compute fun t => t.map2 o (wrap2 o.ty fun a b => if a ≤ b then a else b))

/-- `max` (R204). -/
def execMax (g : Guard) (o : Alu) (s : State) : Result :=
  s.issue (.max g o) g (compute fun t => t.map2 o (wrap2 o.ty fun a b => if a ≤ b then b else a))

/-- `abs` (R204). -/
def execAbs (g : Guard) (o : Alu) (s : State) : Result :=
  s.issue (.abs g o) g (compute fun t => t.map1 o (wrapOrSat o fun a => if a < 0 then -a else a))

/-- `neg` (R204). -/
def execNeg (g : Guard) (o : Alu) (s : State) : Result :=
  s.issue (.neg g o) g (compute fun t => t.map1 o (wrapOrSat o fun a => -a))

/-- `and` (R204). -/
def execAnd (g : Guard) (o : Alu) (s : State) : Result :=
  s.issue (.and g o) g (plainly fun t => t.writeT o.ty o.d (t.readT o.ty o.a &&& t.readT o.ty o.b))

/-- `or` (R204). -/
def execOr (g : Guard) (o : Alu) (s : State) : Result :=
  s.issue (.or g o) g (plainly fun t => t.writeT o.ty o.d (t.readT o.ty o.a ||| t.readT o.ty o.b))

/-- `xor` (R204). -/
def execXor (g : Guard) (o : Alu) (s : State) : Result :=
  s.issue (.xor g o) g (plainly fun t => t.writeT o.ty o.d (t.readT o.ty o.a ^^^ t.readT o.ty o.b))

/-- `not` (R204). -/
def execNot (g : Guard) (o : Alu) (s : State) : Result :=
  s.issue (.not g o) g (plainly fun t => t.writeT o.ty o.d (2 ^ tyBits o.ty - 1 - t.readT o.ty o.a))

/-- `shl` (R204). -/
def execShl (g : Guard) (o : Alu) (s : State) : Result := s.issue (.shl g o) g (plainly fun t => t.shiftBy o shlOf)

/-- `shr` (R204). -/
def execShr (g : Guard) (o : Alu) (s : State) : Result := s.issue (.shr g o) g (plainly fun t => t.shiftBy o shrOf)

/-- `sar` (R204). -/
def execSar (g : Guard) (o : Alu) (s : State) : Result := s.issue (.sar g o) g (plainly fun t => t.shiftBy o sarOf)

/-- `rol` (R204). -/
def execRol (g : Guard) (o : Alu) (s : State) : Result := s.issue (.rol g o) g (plainly fun t => t.shiftBy o rolOf)

/-- `bfx` (R206). -/
def execBfx (g : Guard) (o : Alu) (s : State) : Result :=
  s.issue (.bfx g o) g (plainly fun t =>
    t.writeT o.ty o.d (bfxOf o.ty (bfPos o.imm) (bfLen o.imm) (t.readT o.ty o.a)))

/-- `bfi` (R206). -/
def execBfi (g : Guard) (o : Alu) (s : State) : Result :=
  s.issue (.bfi g o) g (plainly fun t =>
    t.writeT o.ty o.d (bfiOf (bfPos o.imm) (bfLen o.imm) (t.readT o.ty o.a) (t.readT o.ty o.b)))

/-- `popc` (R204). -/
def execPopc (g : Guard) (o : Alu) (s : State) : Result :=
  s.issue (.popc g o) g (plainly fun t =>
    t.setG o.d.toNat (BitVec.ofNat 32 (popcOf (tyBits o.ty) (t.readT o.ty o.a))))

/-- `clz` (R204). -/
def execClz (g : Guard) (o : Alu) (s : State) : Result :=
  s.issue (.clz g o) g (plainly fun t =>
    t.setG o.d.toNat (BitVec.ofNat 32 (clzOf (tyBits o.ty) (t.readT o.ty o.a))))

/-- `brev` (R204). -/
def execBrev (g : Guard) (o : Alu) (s : State) : Result :=
  s.issue (.brev g o) g (plainly fun t => t.writeT o.ty o.d (brevOf (tyBits o.ty) (t.readT o.ty o.a)))

/-- `sel` (R204, R207). -/
def execSel (g : Guard) (o : Alu) (s : State) : Result :=
  s.issue (.sel g o) g (plainly fun t =>
    t.writeT o.ty o.d (if t.q (o.c.extractLsb' 0 3) then t.readT o.ty o.a else t.readT o.ty o.b))

/-- `setp` (R207). -/
def execSetp (g : Guard) (o : Alu) (s : State) : Result :=
  s.issue (.setp g o) g (plainly fun t =>
    t.setCond o.d o.c (icond (o.imm.toNat % 8) (elemInt o.ty (t.readT o.ty o.a)) (elemInt o.ty (t.readT o.ty o.b))))

/-- `mov` (R204). -/
def execMov (g : Guard) (o : Alu) (s : State) : Result :=
  s.issue (.mov g o) g (plainly fun t => t.writeT o.ty o.d (t.readT o.ty o.a))

/-- `lea` (R208). -/
def execLea (g : Guard) (o : Alu) (s : State) : Result :=
  s.issue (.lea g o) g (plainly fun t =>
    let x := elemInt o.ty (t.src o.b).toNat
    t.setPair o.d.toNat (BitVec.ofInt 64 (((t.pair o.a.toNat).toNat : Int) + x * 2 ^ (o.imm.toNat % 8))))

/-- `div` (R205). -/
def execDiv (g : Guard) (o : Alu) (s : State) : Result :=
  s.issue (.div g o) g (compute fun t => t.map2 o (divRem o.ty false))

/-- `rem` (R205). -/
def execRem (g : Guard) (o : Alu) (s : State) : Result :=
  s.issue (.rem g o) g (compute fun t => t.map2 o (divRem o.ty true))

/-- `sadd` (R204). -/
def execSadd (g : Guard) (o : Alu) (s : State) : Result :=
  s.issue (.sadd g o) g (compute fun t => t.map2 o (sat2 o.ty (· + ·)))

/-- `ssub` (R204). -/
def execSsub (g : Guard) (o : Alu) (s : State) : Result :=
  s.issue (.ssub g o) g (compute fun t => t.map2 o (sat2 o.ty (· - ·)))

/-! ## OP 20 to 26 (R209) -/

/-- An immediate form of a bitwise or additive operation: 32 bits, or a pair with the immediate extended. -/
def Thread.immOp (t : Thread) (o : Imm) (f32 : Word → Word → Word) (f64 : DWord → DWord → DWord) : Thread :=
  if o.m4 = 1 then t.setPair o.d.toNat (f64 (t.pair o.a.toNat) (o.imm.signExtend 64))
  else t.setG o.d.toNat (f32 (t.src o.a) o.imm)

/-- `addi`. -/
def execAddi (g : Guard) (o : Imm) (s : State) : Result :=
  s.issue (.addi g o) g (plainly fun t => t.immOp o (· + ·) (· + ·))

/-- `andi`. -/
def execAndi (g : Guard) (o : Imm) (s : State) : Result :=
  s.issue (.andi g o) g (plainly fun t => t.immOp o (· &&& ·) (· &&& ·))

/-- `ori`. -/
def execOri (g : Guard) (o : Imm) (s : State) : Result :=
  s.issue (.ori g o) g (plainly fun t => t.immOp o (· ||| ·) (· ||| ·))

/-- `xori`. -/
def execXori (g : Guard) (o : Imm) (s : State) : Result :=
  s.issue (.xori g o) g (plainly fun t => t.immOp o (· ^^^ ·) (· ^^^ ·))

/-- `movi`. -/
def execMovi (g : Guard) (o : Imm) (s : State) : Result :=
  s.issue (.movi g o) g (plainly fun t =>
    if o.m4 = 1 then t.setPair o.d.toNat (o.imm.signExtend 64) else t.setG o.d.toNat o.imm)

/-- `movhi`. -/
def execMovhi (g : Guard) (o : Imm) (s : State) : Result :=
  s.issue (.movhi g o) g (plainly fun t => t.setG (o.d.toNat + 1) o.imm)

/-- `setpi`. -/
def execSetpi (g : Guard) (o : Imm) (s : State) : Result :=
  s.issue (.setpi g o) g (plainly fun t =>
    let ty : ElemTy := if o.m4.extractLsb' 3 1 = 1 then .n32 else .i32
    t.setQ (o.d.extractLsb' 0 3)
      (icond (o.m4.toNat % 8) (elemInt ty (t.src o.a).toNat) (elemInt ty o.imm.toNat)))

/-! ## OP 28 to 2D (R210 to R212) -/

/-- A predicate operation, its second source negated when C[0] = 1. -/
def Thread.predOp (t : Thread) (o : PredOps) (f : Bool → Bool → Bool) : Thread :=
  t.setQ o.d (f (t.q o.a) (t.q o.b != o.neg))

/-- `pand`. -/
def execPand (g : Guard) (o : PredOps) (s : State) : Result :=
  s.issue (.pand g o) g (plainly fun t => t.predOp o (· && ·))

/-- `por`. -/
def execPor (g : Guard) (o : PredOps) (s : State) : Result :=
  s.issue (.por g o) g (plainly fun t => t.predOp o (· || ·))

/-- `pxor`. -/
def execPxor (g : Guard) (o : PredOps) (s : State) : Result :=
  s.issue (.pxor g o) g (plainly fun t => t.predOp o (· != ·))

/-- `pnot`. -/
def execPnot (g : Guard) (d a : BitVec 3) (s : State) : Result :=
  s.issue (.pnot g d a) g (plainly fun t => t.setQ d (!t.q a))

/-- `movs` (R211). -/
def execMovs (g : Guard) (d : Reg) (n : BitVec 6) (s : State) : Result :=
  s.issue (.movs g d n) g (withThread fun s x b _ =>
    .done (s.setThread x fun t => t.setG d.toNat (vget b.sregs n.toNat 0)) [])

/-- `wrs` (R211, R212): threads of a bundle write in ascending `%tid`. -/
def execWrs (g : Guard) (a : Reg) (n : BitVec 6) (s : State) : Result :=
  s.issue (.wrs g a n) g (withThread fun s x _ t =>
    .done (s.modBlock x.blk fun b => { b with sregs := vset b.sregs n.toNat (t.src a) }) [])

end Sys2Proof.Machine
end

