-- ==== Sys2Proof/Machine/Sync.lean ====
section
/-! DEFINITION. The meanings of class 0x8 (R261 to R272): fences, barrier objects, `waitany`, the quench, flags,
accumulator space. -/

namespace Sys2Proof.Machine

/-! ## Releases (R129, R133, R426, R428) -/

/-- The report of an access of the issuing thread that is lost: of those that meet a condition, the first. An aborted
commit is reported once; a frozen line is reported until it thaws. -/
def State.reportLost (s : State) (x : Site) (p : Req → Bool) : Option Act :=
  ((s.reqsOf x.blk x.who).find? p).map fun r =>
    let a : DWord := BitVec.ofNat 64 (r.va.toNat / 128 * 128)
    match r.st with
    | .aborted c d => .report { s with reqs := s.reqs.filter (·.id != r.id) } c a d (some r.word)
    | _ => .report s 0x14 a (((s.frozenLines.find? fun f => f.line == lineOf r.pa).map (·.die)).getD 0) none

/-- Runs the rest of a release once every access of the thread has been performed towards a scope. -/
def State.released (s : State) (x : Site) (sc : Scope) (k : State → Act) : Act :=
  match s.reportLost x (s.lostAt sc) with
  | some a => a
  | none => if (s.reqsOf x.blk x.who).all fun r => r.performed sc then k s else .stall s (.order sc)

/-- A fence of a thread: the stores after it are releases at its scope of every access before it (R129, R134). -/
def Thread.fenced (t : Thread) (sc : Scope) (at_ : Nat) : Thread :=
  { t with fences := (sc, at_) :: t.fences.filter fun p => p.1 != sc }

/-- `fence` (R132, R261). -/
def execFence (g : Guard) (scope : Scope) (s : State) : Result :=
  s.issue (.fence g scope) g fun s x =>
    s.released x scope fun s => .done (s.setThread x fun t => t.fenced scope s.nextId) []

/-! ## Barrier objects (R263 to R265) -/

/-- `bar.init`. -/
def execBarInit (g : Guard) (n : BitVec 4) (a : Reg) (s : State) : Result :=
  s.issue (.barInit g n a) g (withThread fun s x _ t =>
    .done (s.modBlock x.blk fun b => b.modBar n.toNat fun k => k.start (t.src a)) [])

/-- The point up to which a release of a thread follows the writes of its core: where it began to wait. -/
def Thread.sourcePoint (t : Thread) (now : Nat) : Nat :=
  match t.wait with
  | .source n _ => n
  | _ => now

/-- Runs the rest of a release by the core's source: once every write that its core sent before it is performed (R134). -/
def State.afterSource (s : State) (b : Block) (t : Thread) (sc : Scope) (k : State → Act) : Act :=
  let n := t.sourcePoint s.nextId
  if s.sourceDone b.core n sc then k s else .stall s (.source n sc)

/-- `bar.arr`: a release at block scope (R139), by the source that its core is (R134). -/
def execBarArr (g : Guard) (d : Reg) (n : BitVec 4) (s : State) : Result :=
  s.issue (.barArr g d n) g (exceptHelper (fun t => t.setG d.toNat 0) (withThread fun s x b t =>
    s.released x .blk fun s => s.afterSource b t .blk fun s =>
      let ph := (b.bar n.toNat).ph
      .done ((s.modBlock x.blk fun b => b.modBar n.toNat Bar.arrive).setThread x fun t =>
        t.setG d.toNat (if ph then 1 else 0)) []))

/-- `bar.exp`. -/
def execBarExp (g : Guard) (n : BitVec 4) (a : Reg) (s : State) : Result :=
  s.issue (.barExp g n a) g (exceptHelper id (withThread fun s x _ t =>
    .done (s.modBlock x.blk fun b => b.modBar n.toNat fun k => k.expect (t.src a)) []))

/-- `bar.wait` (R265). -/
def execBarWait (g : Guard) (d : BitVec 3) (n : BitVec 4) (a : Reg) (s : State) : Result :=
  s.issue (.barWait g d n a) g (withThread fun s x b t =>
    let ph := (t.src a).getLsbD 0
    let k := b.bar n.toNat
    if t.wait.isOver || k.ph != ph then .done (s.setThread x fun t => t.setQ d k.err) [] else .stall s (.bar n.toNat ph))

/-- `bar.tst` (R265). Where D and C name the same predicate, which of the two writes remains is left open: the later one here, ERR
(DESIGN CHOICE, log entry 18). -/
def execBarTst (g : Guard) (d c : BitVec 3) (n : BitVec 4) (a : Reg) (s : State) : Result :=
  s.issue (.barTst g d c n a) g (withThread fun s x b t =>
    let k := b.bar n.toNat
    .done (s.setThread x fun u => (u.setQ d (k.ph != (t.src a).getLsbD 0)).setQ c k.err) [])

/-- `waitany` (R266). -/
def execWaitany (g : Guard) (d a b : Reg) (s : State) : Result :=
  s.issue (.waitany g d a b) g (withThread fun s x k t =>
    let ga := t.src a
    let gb := t.src b
    if ga = 0 then .done (s.setThread x fun t => t.setG d.toNat 0xFFFFFFFF) []
    else match t.anyChoice k ga gb with
      | some j =>
        .done (s.setThread x fun t =>
          { t.setG d.toNat (BitVec.ofNat 32 j) with anyq := BitVec.ofNat 5 ((j + 1) % 32) }) []
      | none => .stall s (.anyOf ga gb))

/-! ## The quench (R268, R269) -/

/-- `heat.arr`: arrives at the quench of the current heat; a second arrival in one heat waits. -/
def execHeatArr (g : Guard) (d : Reg) (s : State) : Result :=
  s.issue (.heatArr g d) g (exceptHelper (fun t => t.setPair d.toNat 0) (withThread fun s x b t =>
    let h := (s.ctx b.ctx).heat
    let put (t : Thread) : Thread := t.setPair d.toNat (h.setWidth 64)
    if !b.lr.heatF then .done (s.setThread x put) []
    else if t.arrived == some h.toNat then .stall s (.heatOver h.toNat)
    else .done (s.setThread x fun t => { put t with arrived := some h.toNat }) []))

/-- `heat.wait`. -/
def execHeatWait (g : Guard) (d : BitVec 3) (a : Reg) (s : State) : Result :=
  s.issue (.heatWait g d a) g (withThread fun s x b t =>
    let h := (t.pair a.toNat).toNat % 2 ^ 48
    let c := s.ctx b.ctx
    if h < c.heat.toNat then .done (s.setThread x fun t => t.setQ d (c.qcause != 0)) [] else .stall s (.heatOver h))

/-! ## Flags (R267) -/

/-- `fwait`. -/
def execFwait (g : Guard) (mask : BitVec 12) (s : State) : Result :=
  s.issue (.fwait g mask) g (withThread fun s _ b t =>
    if t.wait.isOver || b.flagsClear mask then .done s [] else .stall s (.flags mask))

/-! ## Accumulator space (R64, R65, R270 to R272) -/

/-- The units of C of a core that some reservation or region holds. -/
def State.cHeld (s : State) (core : Nat) : List Nat :=
  (s.blocks.filter (·.core == core)).flatMap fun b =>
    (List.range b.lr.cq).map (b.cBase + ·) ++ b.regions.flatMap fun r => (List.range r.2).map (r.1 + ·)

/-- The first units of the contiguous runs of `n` free units. -/
def freeRuns (total : Nat) (held : List Nat) (n : Nat) : List Nat :=
  (List.range (total + 1 - n)).filter fun i => (List.range n).all fun k => !held.contains (i + k)

/-- What a thread receives when its request fails. -/
def Thread.aallocFail (t : Thread) (d : Reg) (c : BitVec 3) : Thread := (t.setG d.toNat 0x11000000).setQ c false

/-- A store to C of a core that has been issued and not made. -/
def Req.coming (r : Req) (core p n : Nat) : Bool :=
  r.core == core && r.st == .issued && (match r.kind with
    | .buf .c q bs _ => q < p + n && p < q + bs.length
    | _ => false)

/-- The bytes of a region of C as it is granted: all 0, and no store that was issued before the grant reaches them (R270). -/
def State.clearRegion (s : State) (core unit units : Nat) : State :=
  { s with reqs := s.reqs.map fun (r : Req) => if r.coming core (unit * 4096) (units * 4096) then { r with st := .done } else r }.modCore
    core fun x => { x with cmem := memClear x.cmem (unit * 4096) (units * 4096), cbad := clearSectors x.cbad unit units }

/-- Grants the requests of a core that fit, oldest first (R64). -/
def State.grantOne (s : State) (core : Nat) (e : Nat × AReq) : State :=
  match s.block e.1 with
  | none => s
  | some b =>
    let runs := freeRuns Config.cUnits (s.cHeld core) e.2.units
    if runs.isEmpty || b.areqs.all (·.order != e.2.order) then s
    else
      let (k, s) := s.pick runs.length
      let p := runs.getD k 0
      let s := (s.clearRegion core p e.2.units).modBlock e.1 fun b =>
        Block.modThread { b with regions := b.regions ++ [(p, e.2.units)],
                                 areqs := b.areqs.filter (·.order != e.2.order) } e.2.who fun t =>
          (t.setG e.2.d.toNat (BitVec.ofNat 32 (0x100000 + p * 4096))).setQ e.2.c true
      s.passAll e.1 [e.2.who] 1

/-- The waiting requests of a core, oldest first: lower SEQ, then lower `%bid`, then the earlier request (R64). -/
def State.areqsOn (s : State) (core : Nat) : List (Nat × AReq) :=
  let bs := sortBy (fun a b => a.seq < b.seq || (a.seq == b.seq && a.bid ≤ b.bid))
    (s.blocks.filter (·.core == core))
  bs.flatMap fun b => (sortBy (fun a c => a.order ≤ c.order) b.areqs).map fun a => (b.id, a)

/-- Serves the waiting requests of a core (R64). -/
def State.grantC (s : State) (core : Nat) : State := (s.areqsOn core).foldl (fun s e => s.grantOne core e) s

/-- `aalloc` (R271): a request that cannot ever be met fails at once; else it enters, and is granted or waits. -/
def execAalloc (g : Guard) (d : Reg) (c : BitVec 3) (a : Reg) (s : State) : Result :=
  s.issueThen (.aalloc g d c a) g (withThread fun s x _ t =>
    let n := (t.src a).toNat
    if n = 0 || 256 < n then .done (s.setThread x fun t => t.aallocFail d c) []
    else
      let order := s.nextId
      .stall (State.modBlock { s with nextId := order + 1 } x.blk fun b =>
        { b with areqs := b.areqs ++ [({ who := x.who, units := n, d := d, c := c, order := order } : AReq)] }) .aalloc)
    fun s blk => match s.block blk with
      | some b => s.grantC b.core
      | none => s

/-- The bytes a tile covers in its buffer meet a range. -/
def Tile.meets (t : Tile) (buf : Buf) (lo n : Nat) : Bool :=
  t.bound && t.lay.buf == buf && t.lay.base < lo + n && lo < t.lay.base + t.size

/-- `afree` (R272). -/
def execAfree (g : Guard) (a : Reg) (s : State) : Result :=
  s.issueThen (.afree g a) g (withThread fun s x b t =>
    let off := (t.src a).toNat
    match b.regions.find? fun r => 0x100000 + r.1 * 4096 == off with
    | none => .fault 0x09 none 0
    | some r =>
      if b.tiles.any fun k => k.meets .c off (r.2 * 4096) && k.st != .empty then .fault 0x0C none 0
      else .done (s.modBlock x.blk fun b => { b with regions := b.regions.filter (· != r) }) [])
    fun s blk => match s.block blk with
      | some b => s.grantC b.core
      | none => s

end Sys2Proof.Machine
end

