-- ==== Sys2Proof/Machine/Access.lean ====
section
/-! DEFINITION. The parts that loads, stores and atomics share: request entries (R71), the buffers W, A and C as a block
sees them (R76, R83), windows (R92, R155 to R157), deferred writes (R152 to R154), values and registers (R248), and the
order among a thread's accesses that holds at issue (R123, R130, R426). -/

namespace Sys2Proof.Machine

/-! ## Values and registers (R248) -/

/-- The words that a load of `n` bytes writes. -/
def loadWords (n : Nat) (sx : Bool) (bs : List Byte) : List Word :=
  if n < 4 then
    let v := leNat bs
    [if sx then BitVec.ofInt 32 (natSigned (8 * n) v) else BitVec.ofNat 32 v]
  else (List.range (n / 4)).map fun i => BitVec.ofNat 32 (leNat ((bs.drop (4 * i)).take 4))

/-- Writes the result of a load. -/
def Thread.putLoad (t : Thread) (d : Reg) (n : Nat) (sx : Bool) (bs : List Byte) : Thread :=
  t.setGs d.toNat (loadWords n sx bs)

/-- The bytes that a store of `n` bytes takes from a register up. -/
def Thread.storeBytes (t : Thread) (d : Reg) (n : Nat) : List Byte :=
  ((t.gs d.toNat ((n + 3) / 4)).flatMap fun w => leBytes 4 w.toNat).take n

/-- The number in a register or an aligned run of registers. -/
def Thread.number (t : Thread) (r n : Nat) : Nat := leNat ((t.gs r ((n + 3) / 4)).flatMap fun w => leBytes 4 w.toNat)

/-! ## Order at issue -/

/-- An access that is performed at issue follows every acquire of its thread (R130). -/
def State.afterAcquire (s : State) (x : Site) (k : State → Act) : Act :=
  if (s.reqsOf x.blk x.who).all fun r => !r.acquire || r.bound then k s else .stall s .acquired

/-- An access to a line on which an access of the thread was lost reports it (R426, R428). -/
def State.unlessLost (s : State) (x : Site) (pa : Nat) (k : State → Act) : Act :=
  match s.reportLost x fun r => lineOf r.pa == lineOf pa && s.lostAt .sys r with
  | some a => a
  | none => k s

/-! ## The buffers (R76, R77, R83, R270) -/

/-- The buffer of a SPACE value. -/
def bufOf : Space → Option Buf
  | .w => some .w
  | .a => some .a
  | .c => some .c
  | .glob | .stack | .win => none

/-- The first unit and the units of a block's share of a buffer. -/
def Block.share (b : Block) : Buf → Nat × Nat
  | .w => (b.wBase, b.lr.wq)
  | .a => (b.aBase, b.lr.aq)
  | .c => (b.cBase, b.lr.cq)

/-- The physical offset of a range of a block's buffer: inside its share, or inside one of its regions of C. -/
def Block.bufPhys (b : Block) (k : Buf) (off n : Nat) : Option Nat :=
  let p := b.share k
  if off + n ≤ p.2 * 4096 then some (p.1 * 4096 + off)
  else if k == .c && 0x100000 ≤ off &&
      b.regions.any fun r => r.1 * 4096 ≤ off - 0x100000 && off - 0x100000 + n ≤ (r.1 + r.2) * 4096 then
    some (off - 0x100000)
  else none

/-- Whether a tile that an engine owns or uses covers part of a range. -/
def Block.tileHolds (b : Block) (k : Buf) (off n : Nat) : Bool :=
  b.tiles.any fun t => t.meets k off n && !(t.st == .empty || (t.st == .ready && !t.ownerE))

/-- The cells of a buffer of a core. -/
def Core.buf (c : Core) : Buf → List Host.Cell
  | .w => c.wmem
  | .a => c.amem
  | .c => c.cmem

/-- The bad sectors of a buffer of a core (R430). -/
def Core.badOf (c : Core) : Buf → List Nat
  | .w => c.wbad
  | .a => c.abad
  | .c => c.cbad

/-- Writes bytes into a buffer of a core. -/
def Core.writeBuf (c : Core) (k : Buf) (p : Nat) (bs : List Byte) : Core :=
  match k with
  | .w => { c with wmem := memWrite c.wmem p bs, wbad := clearBad c.wbad p bs.length }
  | .a => { c with amem := memWrite c.amem p bs, abad := clearBad c.abad p bs.length }
  | .c => { c with cmem := memWrite c.cmem p bs, cbad := clearBad c.cbad p bs.length }

/-- Whether a read of a buffer meets a bad sector. -/
def Core.bufBad (c : Core) (k : Buf) (p n : Nat) : Bool := (c.badOf k).any fun i => i * 16 < p + n && p < i * 16 + 16

/-- The checks of a thread's access to a buffer (R251, checks 1 and 4). -/
def Block.bufReach (b : Block) (k : Buf) (a : DWord) (n : Nat) : Except Cause Nat :=
  if a.toNat % n ≠ 0 then .error 0x07
  else match b.bufPhys k a.toNat n with
    | none => .error 0x09
    | some p => if b.tileHolds k a.toNat n then .error 0x0D else .ok p

/-! ## Windows (R92, R155 to R157) -/

/-- The handle that an access names. -/
def Thread.handleNo (t : Thread) (o : Mem) : Nat := (t.src o.b).toNat % 65536

/-- The entry that a handle names. -/
def Context.window (x : Context) (h : Nat) : Option Window :=
  if x.winN.any fun n => h < 2 ^ n then x.windows.lookup h else none

/-- The 32 bytes of an entry of the window table (R155); its reserved bits read 0. -/
def windowBytes (w : Window) : List Byte :=
  leBytes 6 w.base.toNat ++ leBytes 6 w.limit.toNat ++ leBytes 4 w.key.toNat ++ leBytes 6 w.stamp.toNat ++
    leBytes 2 w.budget.toNat ++ leBytes 3 w.peer.toNat ++ leBytes 1 w.pctx.toNat ++
    leBytes 2 (w.kind.toNat + 8 * w.rule.toNat + (if w.frz then 128 else 0)) ++ leBytes 2 0

/-- The entry that 32 bytes hold (R155). -/
def windowOf (bs : List Byte) : Window :=
  let f (o n : Nat) : Nat := leNat ((bs.drop o).take n)
  { base := BitVec.ofNat 48 (f 0 6), limit := BitVec.ofNat 48 (f 6 6), key := BitVec.ofNat 32 (f 0x0C 4),
    stamp := BitVec.ofNat 48 (f 0x10 6), budget := BitVec.ofNat 16 (f 0x16 2), peer := BitVec.ofNat 20 (f 0x18 3),
    pctx := BitVec.ofNat 6 (f 0x1B 1), kind := BitVec.ofNat 3 (f 0x1C 1), rule := BitVec.ofNat 4 (f 0x1C 1 / 8),
    frz := f 0x1C 1 / 128 % 2 == 1,
    resv := f 0x18 3 / 2 ^ 20 != 0 || f 0x1B 1 / 64 != 0 || f 0x1D 1 != 0 || f 0x1E 2 != 0 }

/-- The bytes of the window table at an address of its mapping (R156): an entry that the runtime has not written is all
zeros. Where the table is mapped is the runtime's choice, held in the context record (DESIGN CHOICE, log entry 107). -/
def Context.mapped (x : Context) (va n : Nat) : Option (List Byte) :=
  match x.winMap, x.winN with
  | some m, some k =>
    if m.toNat ≤ va && va + n ≤ m.toNat + 32 * 2 ^ k then
      let o := va - m.toNat
      let entry := match x.windows.lookup (o / 32) with
        | some w => windowBytes w
        | none => List.replicate 32 0
      some ((entry.drop (o % 32)).take n)
    else none
  | _, _ => none

/-- What an access may find in a window. -/
inductive WinReach where
  | ok (w : Window)
  | alias_ (w : Window)
  | fault (c : Cause)

/-- The check of a window access (R251, check 3): the entry, its kind, its limit. `wr` asks for a deferred write. -/
def Context.winReach (x : Context) (h off n : Nat) (wr : Bool) : WinReach :=
  match x.window h with
  | none => .fault 0x0A
  | some w =>
    let k := w.kind.toNat
    if k = 0 || k = 7 then .fault 0x0A
    else if w.limit.toNat - w.base.toNat < off + n then .fault 0x0A
    else if 4 ≤ k then .alias_ w
    else if 10 ≤ w.rule.toNat then .fault 0x0A
    else if wr then (if k = 2 then .fault 0x0A else .ok w)
    else if k = 1 then .fault 0x0A else .ok w

/-- Whether a store meets the shape that rules 2 to 8 ask for (R154, R157). -/
def ruleShape (rule a n : Nat) : Bool := !(2 ≤ rule && rule ≤ 8) || (4 ≤ n && a % 4 = 0)

/-! ## Deferred writes (R152, R153) -/

/-- Makes a deferred write: a request, until the Anvil has taken it and acknowledges it; there it is held until it leaves the
package. A heat-bound block's write belongs to the current
heat, or to the next one once its thread has arrived (R268). -/
def State.defer (s : State) (x : Site) (b : Block) (t : Thread) (w : DWrite) (peer : Nat) (budget : Option Nat) : State :=
  let id := s.nextId
  let h := (s.ctx b.ctx).heat.toNat
  let o : Outbound :=
    { id := id, seq := b.seq, bid := b.bid, who := x.who, bound := b.lr.heatF,
      heat := if b.lr.heatF && t.arrived == some h then h + 1 else h, peer := peer, budget := budget, w := w }
  s.addReq (s.request x b t (BitVec.ofNat 64 w.addr) 0 0 false (.defer o))

/-- A deferred write to a HEAT page of this package (R154). -/
def State.deferLocal (s : State) (x : Site) (b : Block) (t : Thread) (va : DWord) (kind : DKind) (bs : List Byte) :
    State :=
  s.defer x b t
    { spkg := s.pkg, sctx := some (BitVec.ofNat 6 b.ctx), direct := true, seq := 0, heat := 0, win := 0xFFFF,
      dctx := BitVec.ofNat 6 b.ctx, key := 0, addr := va.toNat, kind := kind, data := bs } s.pkg.toNat none

/-- A deferred write through a window, whose entry it has read at issue (R156). -/
def State.deferWin (s : State) (x : Site) (b : Block) (t : Thread) (h : Nat) (w : Window) (off : Nat) (kind : DKind)
    (bs : List Byte) : State :=
  s.defer x b t
    { spkg := s.pkg, sctx := some (BitVec.ofNat 6 b.ctx), direct := false, seq := 0, heat := 0, win := BitVec.ofNat 16 h,
      dctx := w.pctx, key := w.key, addr := w.base.toNat + off, kind := kind, data := bs } w.peer.toNat
    (some (w.budget.toNat * 4096))

end Sys2Proof.Machine
end

