-- ==== Sys2Proof/Machine/Engine.lean ====
section
/-! DEFINITION. Engine commands as a thread starts them and as they complete (R137, R138, R174, R273, R277, R396, R405). -/

namespace Sys2Proof.Machine

/-! ## The start of a command -/

/-- The flags that a counted operation of a thread raises: SETA and SETB of its header, and the one it names (R174). -/
def State.countedFlags (s : State) (b : Block) (t : Thread) (own : Option Nat) : List Nat :=
  flagsOf (s.headerAt b.core b.ctx t.hdr) own

/-- What a command names for its completion (R277). -/
structure Signal where
  hdl   : Option Nat
  own   : Option Nat
  bar   : Option Nat
  scope : Scope
  deriving DecidableEq, Repr

/-- Starts a command in a thread: its flags rise, or it waits until they can; its handle becomes pending. -/
def State.startCmd (s : State) (x : Site) (b : Block) (t : Thread) (g : Signal) (va : DWord) (kind : CmdKind)
    (run : Progress := .start) : Act :=
  let fs := s.countedFlags b t g.own
  if !b.flagRoom fs then .stall s (.flagRoom fs)
  else
    let id := s.nextId
    let c : Cmd :=
      { id := id, blk := x.blk, who := x.who, ctx := b.ctx, core := b.core, kind := kind, va := va, hdl := g.hdl,
        flags := fs, bar := g.bar, scope := g.scope, stop := false, upto := id, tid := (tidOf x.who).toNat % 65536,
        hdr := t.hdr, since := s.tick, run := run }
    let s := { s with nextId := id + 1, cmds := s.cmds ++ [c] }
    .done ((s.modBlock x.blk fun b => b.raise fs).setThread x fun t =>
      match g.hdl with
      | some h => t.setH h { pending := true, op := id, word := 0, result := 0 }
      | none => t) []

/-! ## The completion of a command -/

/-- How a command ends: status, count, result, bytes written, and the causes it logs with their element counts. -/
structure Done where
  status : Cause
  count  : Nat
  result : DWord := 0
  bytes  : Nat := 0
  logs   : List (Cause × Nat) := []
  deriving DecidableEq, Repr

/-- A log record of a command (R115, R116). -/
def State.logCmd (s : State) (c : Cmd) (cause : Cause) (count thr : Nat) : State :=
  let bid : Word := match s.block c.blk with
    | some b => BitVec.ofNat 32 b.bid
    | none => 0xFFFFFFFF
  s.logRecord c.ctx cause (BitVec.ofNat 8 c.core) count bid (c.hdr.setWidth 64) thr

/-- The records of a command: one for each cause it met; one with its status when nothing else carries it (R396), or when
it is an uncorrectable error (R405). -/
def State.logEnd (s : State) (c : Cmd) (thr : Nat) (d : Done) : State :=
  let s := d.logs.foldl (fun s p => if p.2 = 0 then s else s.logCmd c p.1 p.2 thr) s
  if d.status != 0 && ((c.hdl.isNone && c.bar.isNone) || d.status == 0x13) then s.logCmd c d.status 1 0xFFFF else s

/-- The signals of a command that ends: its handle, its flags and its barrier object (R138, R264). -/
def State.closeCmd (s : State) (c : Cmd) (d : Done) : State :=
  let s := { s with cmds := s.cmds.filter (·.id != c.id) }.dropLocks
  let s := s.modThread c.blk c.who fun t => t.completeH c.id (completionWord d.status d.count) d.result
  s.modBlock c.blk fun b =>
    let b := b.lower c.flags
    match c.bar with
    | some n => b.modBar n fun k => k.engine d.bytes (d.status != 0)
    | none => b

/-- Ends a command: its records, then its signals. `thr` is the THREAD of the arithmetic records. -/
def State.endCmd (s : State) (c : Cmd) (thr : Nat) (d : Done) : State := (s.logEnd c thr d).closeCmd c d

/-- The accesses of the issuing thread that a command follows (R137). -/
def State.before (s : State) (c : Cmd) : List Req := (s.reqsOf c.blk c.who).filter fun r => r.id < c.upto

/-- Whether every access that a command follows has been performed, or is lost. -/
def State.cmdReady (s : State) (c : Cmd) : Bool :=
  (s.before c).all fun r => r.performed .pkg || s.lostAt .pkg r

/-- The status a command takes from an access of its thread that was lost (R426, R428). -/
def State.cmdLost (s : State) (c : Cmd) : Option Cause :=
  ((s.before c).find? (s.lostAt .pkg)).map fun r =>
    match r.st with
    | .aborted e _ => e
    | _ => 0x14

/-! ## The locks of commands (R128, R135, R428) -/

/-- What has become of the lock of a line for which a command has asked (R135, R428). -/
inductive LockSt where
  | free | asked | held | lost
  deriving DecidableEq, Repr

/-- The lock of a line for a command. -/
def State.lockAt (s : State) (cmd pa : Nat) : LockSt :=
  match s.reqs.find? fun r => r.lockOf cmd && lineOf r.pa == lineOf pa with
  | none => .free
  | some r => match r.st with
    | .locked _ => .held
    | .aborted _ _ => .lost
    | .issued | .home _ _ | .done => .asked

/-- The state as a command meets lines: its own locks do not keep it away. -/
def State.besides (s : State) (cmd : Nat) : State := { s with reqs := s.reqs.filter fun (r : Req) => !r.lockOf cmd }

/-- A request that a command makes by itself. -/
def Cmd.request (m : Cmd) (s : State) (va pte : DWord) (pa : Nat) (kind : ReqKind) (st : ReqSt) : Req :=
  { id := s.nextId, core := m.core, blk := m.blk, who := m.who, ctx := m.ctx, issue := m.id, pc := 0, hdr := m.hdr, word := 0,
    va := va, pa := pa, pte := pte, kind := kind, st := st, value := none, bad := none, since := s.tick, returned := true,
    nt := false, fences := [] }

/-- A command asks the directory for the lock of a line, when its core has a request entry for it (R71, R135). -/
def State.askLock (s : State) (m : Cmd) (va pte : DWord) (pa : Nat) : State :=
  if s.entriesUsed m.core < Config.requests && s.lockAt m.id pa == .free then s.addReq (m.request s va pte pa .lock .issued) else s

/-- A command has made its write of a line: the lock goes. -/
def State.unlock (s : State) (cmd pa : Nat) : State :=
  { s with reqs := s.reqs.filter fun (r : Req) => !(r.lockOf cmd && lineOf r.pa == lineOf pa) }

/-- A command of the package by its name. -/
def State.cmd (s : State) (id : Nat) : Option Cmd := s.cmds.find? (·.id == id)

end Sys2Proof.Machine
end

