-- ==== Sys2Proof/Machine/Atomics.lean ====
section
/-! DEFINITION. The meanings of class 0x7 (R256 to R260): atomics, reduce operations, and the operations that memory-side
agents run, with what an agent does (R140, R259, R260, R429). -/

namespace Sys2Proof.Machine

/-! ## Atomic and reduce operations (R257) -/

/-- The value an operation writes at its word of `n` bits; none when a compare fails. -/
def atomicNew (op n old v c : Nat) : Option Nat :=
  let m := 2 ^ n
  match op with
  | 0 => some ((old + v) % m)
  | 1 => some (if natSigned n v < natSigned n old then v else old)
  | 2 => some (if natSigned n old < natSigned n v then v else old)
  | 3 => some (Nat.land old v)
  | 4 => some (Nat.lor old v)
  | 5 => some (Nat.xor old v)
  | 6 => some v
  | 7 => if old = c then some v else none
  | _ => some (if v ≤ old then 0 else old + 1)

/-- The deferred form of a reduce operation (R163). -/
def deferredRed (op : Nat) (rule : BitVec 4) : DKind :=
  match op with
  | 0 => .redAdd rule
  | 1 => .redMin rule
  | 2 => .redMax rule
  | _ => .redOr rule

/-- Whether a write of the issuing thread is on its way to a line. -/
def State.coming (s : State) (x : Site) (pa : Nat) : Bool :=
  (s.reqsOf x.blk x.who).any fun r => r.sends && r.st != .done && lineOf r.pa == lineOf pa

/-- An atomic or reduce operation on global memory: one request that binds the old value and writes the new one. -/
def State.atomicGlobal (s : State) (x : Site) (b : Block) (t : Thread) (o : Mem) (op : Nat) (ret : Bool) : Act :=
  let n := sizeBytes o.size
  let va := t.memAddr o
  let v := if op = 7 then t.number (o.d.toNat + n / 4) n else t.number o.d.toNat n
  let c := if op = 7 then t.number o.d.toNat n else 0
  if va.toNat % n ≠ 0 then .fault 0x07 (some va) 0
  else (s.reach b va true true).act fun pte pa =>
    if pteHeat pte && ret then .fault 0x17 (some va) 0
    else if pteHeat pte && !ruleShape (s.ctx b.ctx).hrule.toNat va.toNat n then .fault 0x17 (some va) 0
    else if s.inRange pa n then .fault 0x09 (some va) 0
    else if pteHeat pte then
      s.withEntry b.core fun s =>
        .done (s.deferLocal x b t va (deferredRed op (s.ctx b.ctx).hrule) (leBytes n v)) []
    else
      s.unlessLost x pa fun s =>
        if !ret && s.physBad pa n && !s.coming x pa then s.badLoad b x.who t va (homeDie pa)
        else s.newReq x b t va pa pte o.nt (.atomic op ret o.d n v c o.ack) fun s => .done s []

/-- A reduce operation through a window (R258). -/
def State.redWin (s : State) (x : Site) (b : Block) (t : Thread) (o : Mem) (op : Nat) : Act :=
  let n := sizeBytes o.size
  let off := t.winAddr o
  let h := t.handleNo o
  if off.toNat % n ≠ 0 then .fault 0x07 (some off) 0
  else match (s.ctx b.ctx).winReach h off.toNat n true with
    | .fault c => .fault c (some off) h
    | .alias_ _ => .fault 0x0B (some off) 0
    | .ok w => s.withEntry b.core fun s =>
      .done (s.deferWin x b t h w off.toNat (deferredRed op w.rule) (t.storeBytes o.d n)) []

/-- An atomic that returns the old value; in a helper lane the result is 0. -/
def atomRun (o : Mem) (op : Nat) : State → Site → Act :=
  exceptHelper (fun t => t.setGs o.d.toNat (List.replicate (sizeRegs o.size) 0))
    (withThread fun s x b t => s.atomicGlobal x b t o op true)

/-- A reduce operation. -/
def redRun (o : Mem) (op : Nat) : State → Site → Act :=
  exceptHelper id (withThread fun s x b t =>
    if o.space == .win then s.redWin x b t o op else s.atomicGlobal x b t o op false)

/-- `atom.add`. -/
def execAtomAdd (g : Guard) (o : Mem) (s : State) : Result := s.issue (.atomAdd g o) g (atomRun o 0)
/-- `atom.min`. -/
def execAtomMin (g : Guard) (o : Mem) (s : State) : Result := s.issue (.atomMin g o) g (atomRun o 1)
/-- `atom.max`. -/
def execAtomMax (g : Guard) (o : Mem) (s : State) : Result := s.issue (.atomMax g o) g (atomRun o 2)
/-- `atom.and`. -/
def execAtomAnd (g : Guard) (o : Mem) (s : State) : Result := s.issue (.atomAnd g o) g (atomRun o 3)
/-- `atom.or`. -/
def execAtomOr (g : Guard) (o : Mem) (s : State) : Result := s.issue (.atomOr g o) g (atomRun o 4)
/-- `atom.xor`. -/
def execAtomXor (g : Guard) (o : Mem) (s : State) : Result := s.issue (.atomXor g o) g (atomRun o 5)
/-- `atom.xchg`. -/
def execAtomXchg (g : Guard) (o : Mem) (s : State) : Result := s.issue (.atomXchg g o) g (atomRun o 6)
/-- `atom.cas`. -/
def execAtomCas (g : Guard) (o : Mem) (s : State) : Result := s.issue (.atomCas g o) g (atomRun o 7)
/-- `atom.inc`. -/
def execAtomInc (g : Guard) (o : Mem) (s : State) : Result := s.issue (.atomInc g o) g (atomRun o 15)
/-- `red.add`. -/
def execRedAdd (g : Guard) (o : Mem) (s : State) : Result := s.issue (.redAdd g o) g (redRun o 0)
/-- `red.min`. -/
def execRedMin (g : Guard) (o : Mem) (s : State) : Result := s.issue (.redMin g o) g (redRun o 1)
/-- `red.max`. -/
def execRedMax (g : Guard) (o : Mem) (s : State) : Result := s.issue (.redMax g o) g (redRun o 2)
/-- `red.or`. -/
def execRedOr (g : Guard) (o : Mem) (s : State) : Result := s.issue (.redOr g o) g (redRun o 4)

/-! ## Memory-side agents (R259, R260) -/

/-- Starts an operation of an agent: its address is checked at issue (R251, R260), and its handle becomes pending. -/
def State.startAgent (s : State) (x : Site) (b : Block) (t : Thread) (o : Mem) (n : Nat) (wr : Bool) (kind : CmdKind) :
    Act :=
  let va := t.memAddr o
  if va.toNat % n ≠ 0 then .fault 0x07 (some va) 0
  else (s.reach b va wr true).act fun pte pa =>
    if pteHeat pte then .fault 0x17 (some va) 0
    else match (if wr && s.inRange pa n then some (0x09 : Cause) else s.readRefused pte pa n) with
      | some c => .fault c (some va) 0
      | none => s.unlessLost x pa fun s =>
        s.startCmd x b t { hdl := some (o.d.toNat - 112), own := none, bar := none, scope := .pkg } va kind

/-- Runs an operation of an agent; in a helper lane its handle completes at once. -/
def agentRun (o : Mem) (f : State → Site → Block → Thread → Act) : State → Site → Act :=
  exceptHelper (fun t => t.clearH (o.d.toNat - 112)) (withThread f)

/-- `nmcas`. -/
def execNmcas (g : Guard) (o : Mem) (s : State) : Result :=
  s.issue (.nmcas g o) g (agentRun o fun s x b t =>
    let a := o.a.toNat
    s.startAgent x b t o 16 true (.nmcas (t.g (a + 2)) (t.gs (a + 3) 4) (t.gs (a + 7) 4)))

/-- `nmenq`. -/
def execNmenq (g : Guard) (o : Mem) (s : State) : Result :=
  s.issue (.nmenq g o) g (agentRun o fun s x b t =>
    s.startAgent x b t o 16 true (.nmenq (t.pair (o.a.toNat + 2))))

/-- `nmchase`. -/
def execNmchase (g : Guard) (o : Mem) (s : State) : Result :=
  s.issue (.nmchase g o) g (agentRun o fun s x b t =>
    s.startAgent x b t o 8 false (.nmchase (t.g (o.a.toNat + 2)) (t.g (o.a.toNat + 3))))

/-! ## What an agent does -/

/-- A word that an agent reaches: its bytes and its place. -/
structure AgentWord where
  pa   : Nat
  home : Nat
  val  : Nat
  deriving DecidableEq, Repr

/-- Why an agent does not go on: it waits for a line, or the operation ends with a status. -/
inductive AgentHalt where
  | wait
  | lock (va pte : DWord) (pa : Nat)   -- it asks for the lock of a REPLICATE line first (R135)
  | status (c : Cause)
  deriving DecidableEq, Repr

/-- An agent reaches `n` bytes to read them, to write them, or both, through the buffers of the issuing core: translation
and permission report 0x08 or 0x09, a format range 0x09, a bad sector that is read and a die that has failed 0x13, and every
other failure 0x16 (R260, R429, R443). It waits at a line that is busy. A write to a REPLICATE page asks for the lock of its
line; a lock that was aborted ends the operation with 0x15 (R128, R135, R428). -/
def State.agentAt (s : State) (m : Cmd) (va n : Nat) (wr rd : Bool) : Except AgentHalt AgentWord :=
  match s.leafFor m.core m.ctx (BitVec.ofNat 64 va) wr rd with
  | .fail e => .error (.status (if e = 0x17 then 0x16 else e))
  | .leaf pte big =>
    let pa := physOf pte big (BitVec.ofNat 64 va)
    if !permits pte wr rd then .error (.status 0x09)
    else if pteHeat pte then .error (.status 0x16)
    else if (wr || pteIlv pte) && s.inRange pa n then .error (.status 0x09)
    else if (s.die (homeDie pa)).st == .failed then .error (.status 0x13)
    else if (s.besides m.id).lineBusy pa || (s.die (homeDie pa)).st != .up then .error .wait
    else if wr && pteRepl pte && s.lockAt m.id pa != .held then
      .error (match s.lockAt m.id pa with
        | .free => .lock (BitVec.ofNat 64 va) pte pa
        | .lost => .status 0x15
        | .asked | .held => .wait)
    else
      let v := s.homeRead pa n
      if rd && v.2 then .error (.status 0x13) else .ok { pa := pa, home := homeDie pa, val := leNat v.1 }

/-- A translation that an agent used stays in the buffers of the issuing core, and a line of a NEAR page in its near
tier. -/
def State.agentKeep (s : State) (m : Cmd) (va : Nat) (wr rd : Bool) : State :=
  let a : DWord := BitVec.ofNat 64 va
  match s.leafFor m.core m.ctx a wr rd with
  | .leaf pte big => (s.tlbKeep m.core m.ctx a wr rd).pinNear pte (lineOf (physOf pte big a))
  | .fail _ => s

/-- An agent's write: it behaves as a `.ack` store (R128), so no copy of its line is left. -/
def State.agentWrite (s : State) (pa : Nat) (bs : List Byte) : State := (s.homeWrite pa bs).dropCopies pa bs.length

/-- How an operation of an agent ends. -/
structure AgentEnd where
  st     : State
  status : Cause
  value  : Nat
  result : Nat
  deriving DecidableEq, Repr

/-- An operation that ends with a status, having written nothing. -/
def State.agentStop (s : State) (c : Cause) : AgentEnd := ⟨s, c, 0, 0⟩

/-- How far an operation comes: it has ended, it waits, or it has asked for a lock. -/
inductive AgentRun where
  | over (e : AgentEnd)
  | waits
  | asks (s : State)

/-- An operation that cannot go on. -/
def State.agentHalt (s : State) (m : Cmd) (h : AgentHalt) : AgentRun :=
  match h with
  | .status c => .over (s.agentStop c)
  | .wait => .waits
  | .lock va pte pa => .asks (s.askLock m va pte pa)

/-- `nmcas` at the agent. -/
def State.runNmcas (s : State) (m : Cmd) (mask : Word) (cmp new : List Word) : AgentRun :=
  if mask = 0 || 16 ≤ mask.toNat then .over (s.agentStop 0x16)
  else match s.agentAt m m.va.toNat 16 true true with
    | .error h => s.agentHalt m h
    | .ok w =>
      let s := s.agentKeep m m.va.toNat true true
      let old := leBytes 16 w.val
      let word (i : Nat) : Word := BitVec.ofNat 32 (leNat ((old.drop (4 * i)).take 4))
      let m (i : Nat) : Bool := mask.getLsbD i && word i == cmp.getD i 0
      let swapped := (List.range 4).all fun i => !mask.getLsbD i || m i
      let bs := (List.range 4).flatMap fun i => leBytes 4 (if mask.getLsbD i then new.getD i 0 else word i).toNat
      let value := (List.range 4).foldl (fun n i => n + (if m i then 2 ^ i else 0)) (if swapped then 16 else 0)
      .over ⟨if swapped then s.agentWrite w.pa bs else s, 0, value, 0⟩

/-- `nmenq` at the agent: it reads the tail, and writes the node, the tail, and the head or the last node. -/
def State.runNmenq (s : State) (m : Cmd) (node : DWord) : AgentRun :=
  let va := m.va.toNat
  if node = 0 || node.toNat % 8 ≠ 0 then .over (s.agentStop 0x16)
  else match s.agentAt m va 8 true false, s.agentAt m (va + 8) 8 true true, s.agentAt m node.toNat 8 true false with
    | .error h, _, _ => s.agentHalt m h
    | _, .error h, _ => s.agentHalt m h
    | _, _, .error h => s.agentHalt m h
    | .ok head, .ok tail, .ok nd =>
      if nd.home ≠ head.home then .over (s.agentStop 0x16)
      else
        let s := (s.agentKeep m (va + 8) true true).agentKeep m node.toNat true false
        let n8 := leBytes 8 node.toNat
        let link (s : State) (pa : Nat) (v : Nat) : AgentRun :=
          .over ⟨((s.agentWrite nd.pa (leBytes 8 0)).agentWrite pa n8).agentWrite tail.pa n8, 0, v, 0⟩
        if tail.val = 0 then link s head.pa 1
        else if tail.val % 8 ≠ 0 then .over (s.agentStop 0x16)
        else match s.agentAt m tail.val 8 true false with
          | .error h => s.agentHalt m h
          | .ok last =>
            if last.home ≠ head.home then .over (s.agentStop 0x16) else link (s.agentKeep m tail.val true false) last.pa 0

/-- A hop of `nmchase`: where the operation ends there, how; else the next pointer. -/
inductive Hop where
  | over (e : AgentEnd)
  | next (s : State) (p : Nat)
  | wait

/-- What a failure makes of a hop. -/
def State.hopHalt (s : State) (h : AgentHalt) : Hop :=
  match h with
  | .status c => .over (s.agentStop c)
  | .wait | .lock _ _ _ => .wait

/-- Hop `i`, counted from 1, at the pointer `p`: a separate load (R140). -/
def State.hop (s : State) (m : Cmd) (key koff i p : Nat) : Hop :=
  if p = 0 then .over ⟨s, 0, 0, 0⟩
  else if p % 8 ≠ 0 then .over (s.agentStop 0x16)
  else match s.agentAt m (p + koff) 4 false true with
    | .error h => s.hopHalt h
    | .ok k =>
      let s := s.agentKeep m (p + koff) false true
      if k.val = key then .over ⟨s, 0, i, p⟩
      else match s.agentAt m p 8 false true with
        | .error h => s.hopHalt h
        | .ok n => .next (s.agentKeep m p false true) n.val

/-- How far the hops of `nmchase` have come. -/
inductive Chased where
  | over (e : AgentEnd)
  | at_ (s : State) (n p : Nat)

/-- At most `fuel` hops of `nmchase`, which has done `n` of `hops` and stands at the pointer `p`. -/
def State.chase (s : State) (m : Cmd) (key koff hops : Nat) : Nat → Nat → Nat → Chased
  | 0, n, p => if n = hops then .over ⟨s, 0, 0, p⟩ else .at_ s n p
  | fuel + 1, n, p =>
    if n = hops then .over ⟨s, 0, 0, p⟩
    else match s.hop m key koff (n + 1) p with
      | .over e => .over e
      | .wait => .at_ s n p
      | .next s p => s.chase m key koff hops fuel (n + 1) p

/-- `nmchase` at the agent: its start pointer, then at most `fuel` hops. -/
def State.runNmchase (s : State) (m : Cmd) (key ctl : Word) (fuel : Nat) : Chased :=
  let koff := (ctl.extractLsb' 8 8).toNat
  let hops := (ctl.extractLsb' 0 4).toNat + 1
  if koff < 8 || koff % 4 ≠ 0 || ctl.extractLsb' 4 4 != 0 || ctl.extractLsb' 16 16 != 0 then .over (s.agentStop 0x16)
  else match m.run.at_ with
    | some p => s.chase m key.toNat koff hops fuel m.run.n p
    | none =>
      match s.agentAt m m.va.toNat 8 false true with
      | .error (.status e) => .over (s.agentStop e)
      | .error .wait => .at_ s 0 0
      | .error (.lock _ _ _) => .at_ s 0 0
      | .ok w => (s.agentKeep m m.va.toNat false true).chase m key.toNat koff hops fuel 0 w.val

/-- An operation of an agent completes. -/
def AgentEnd.finish (e : AgentEnd) (c : Cmd) : State :=
  e.st.endCmd c c.tid { status := e.status, count := e.value, result := BitVec.ofNat 64 e.result }

/-- The hops of an `nmchase` so far: it has ended, or it stands at a pointer that it has read. -/
def Chased.finish (x : Chased) (c : Cmd) : State :=
  match x with
  | .over e => e.finish c
  | .at_ s n p =>
    if c.run.at_.isNone && n = 0 && p = 0 then s
    else { s with cmds := s.cmds.map fun k => if k.id == c.id then { k with run := { k.run with n := n, at_ := some p } } else k }

/-- NM_AGENT_EXECUTE: the agent of the home die runs an operation, once every earlier access of its thread has been
performed (R137), and completes it; it waits while it cannot reach a word. -/
def execNmAgentExecute (cmd : Nat) (s : State) : Result :=
  match s.cmd cmd with
  | none => .next s
  | some c =>
    let run (f : Unit → State) : Result :=
      match s.cmdLost c with
      | some e => .next ((s.agentStop e).finish c)
      | none => .next (if s.cmdReady c then f () else s)
    let close (e : AgentRun) : State :=
      match e with
      | .over e => e.finish c
      | .waits => s
      | .asks s => s
    match c.kind with
    | .nmcas m cmp new => run fun _ => close (s.runNmcas c m cmp new)
    | .nmenq node => run fun _ => close (s.runNmenq c node)
    | .nmchase key ctl => run fun _ => (s.runNmchase c key ctl 16).finish c
    | .copy _ _ _ _ _ _ _ _ | .badCopy _ _ _ _ | .fill _ _ _ _ _ | .drain _ _ _ _ _ | .chain _ _ _ _ _ _ _ | .ovld _ _ _ => .next s

/-- AGENT_HOP, a step of the model's own: an `nmchase` does one hop (R140). -/
def State.agentHop (s : State) (cmd : Nat) : State :=
  match s.cmd cmd with
  | none => s
  | some c =>
    match c.kind with
    | .nmchase key ctl =>
      if s.cmdReady c && (s.cmdLost c).isNone then (s.runNmchase c key ctl 1).finish c else s
    | _ => s

end Sys2Proof.Machine
end

