-- ==== Sys2Proof/Machine/Control.lean ====
section
/-! DEFINITION. The meanings of class 0x3 (R227 to R236): branches, calls, returns, `exit`, `yield`, `nop`, `brk`. -/

namespace Sys2Proof.Machine

/-- A rejected target: 0x02, with the target as ADDR (R408). -/
def badTarget (a : Word) : Act := .fault 0x02 (some (a.setWidth 64)) 0

/-- A transfer towards an overlay that is not resident (R232): an AUTO overlay is loaded and the thread waits for the
load; else the thread parks with 0x0E. -/
def State.missing (s : State) (b : Block) (w : Who) (ovl : BitVec 8) : Act :=
  match (s.ctx b.ctx).overlay ovl with
  | none => .fault 0x0E none ovl.toNat
  | some e =>
    if e.auto then
      match s.startLoad b.core b.ctx ovl b.seq b.lr.isq (some (b.id, w)) with
      | (.failed c, s) => .failed s c none ovl.toNat
      | (_, s) => .stall s (.overlay ovl)
    else .fault 0x0E none ovl.toNat

/-- A thread meets a lost word of an overlay: it waits while the image is read again (R430). -/
def State.refetch (s : State) (core : Nat) (k : OvlCopy) (ovl : BitVec 8) : Act :=
  .stall (s.reloadCopy core k.id) (.overlay ovl)

/-- A transfer to a code address (R228, R232): the checks of the overlay table, then the overlay's presence, then the
header; `eff` is what the transfer changes when it is taken. -/
def State.transfer (s : State) (x : Site) (b : Block) (a : Word) (eff : State → Act) : Act :=
  if (s.ctx b.ctx).targetOk a then
    match s.residentCopy b.core b.ctx (codeOvl a) with
    | some k =>
      if k.lost (codeOff a) 1 then s.refetch b.core k (codeOvl a)
      else if isHeader (k.word (codeOff a)) then eff s else badTarget a
    | none => s.missing b x.who (codeOvl a)
  else badTarget a

/-- The target of `bra`, `call` and `mbr`: the header address plus an offset in words; an address outside the
overlay of the block names no header there (R229, R231). -/
def nearTarget (hdr : Word) (off : Int) : Word := hdr + BitVec.ofInt 32 (8 * off)

/-- A branch within the current overlay. -/
def State.branchNear (s : State) (x : Site) (b : Block) (t : Thread) (off : Int) (eff : State → Word → Act) : Act :=
  let a := nearTarget t.hdr off
  if codeOvl a == codeOvl t.hdr then s.transfer x b a fun s => eff s a else badTarget a

/-- The return record of a call: the header after the calling block (R230). -/
def State.returnRecord (s : State) (b : Block) (t : Thread) : DWord :=
  (codeStep t.hdr ((s.headerAt b.core b.ctx t.hdr).len + 1)).setWidth 64

/-- The push of a call, and its jump (R230). The target has been tested first: the spec orders neither the causes 0x02 and 0x0E
nor the load of an AUTO overlay against a push that leaves the stack (0x06) (DESIGN CHOICE, log entry 129). -/
def State.callTo (s : State) (x : Site) (b : Block) (t : Thread) (a : Word) : Act :=
  (s.pushRecord b t).act fun pte pa =>
    let sp := t.g 111 - 8
    let va := t.stackAddr sp
    let bs := leBytes 8 (s.returnRecord b t).toNat
    let s' := if s.stackFree x b va pa then s.stackWrite x.blk va pte pa bs else s.stackStore x b t va pte pa bs
    .jump (s'.setThread x fun t => t.setG 111 sp) a

/-- `bra` (R229). -/
def execBra (g : Guard) (off : BitVec 32) (s : State) : Result :=
  s.issue (.bra g off) g (withThread fun s x b t => s.branchNear x b t off.toInt fun s a => .jump s a)

/-- The first selector of `mbr` that is true for a thread (R229). -/
def Thread.mbrOffset (t : Thread) (o : MbrOps) : Option (BitVec 16) :=
  (([(o.s0, o.o0), (o.s1, o.o1), (o.s2, o.o2), (o.s3, o.o3)]).find? fun p => t.q p.1.p != p.1.neg).map (·.2)

/-- `mbr` (R181, R229): a thread that selects no target passes on. -/
def execMbr (g : Guard) (o : MbrOps) (s : State) : Result :=
  s.issue (.mbr g o) g (withThread fun s x b t =>
    match t.mbrOffset o with
    | some off => s.branchNear x b t off.toInt fun s a => .jump s a
    | none => .done s [])

/-- `call` (R230, R231). -/
def execCall (g : Guard) (off : BitVec 32) (s : State) : Result :=
  s.issue (.call g off) g (withThread fun s x b t => s.branchNear x b t off.toInt fun s a => s.callTo x b t a)

/-- `callo` (R231): the entry is read while the overlay is resident. -/
def execCallo (g : Guard) (ovl ent : BitVec 8) (s : State) : Result :=
  s.issue (.callo g ovl ent) g (withThread fun s x b t =>
    if ((s.ctx b.ctx).overlay ovl).isSome then
      match s.residentCopy b.core b.ctx ovl with
      | some k =>
        if k.entryLost ent.toNat then s.refetch b.core k ovl
        else match k.entry ovl ent.toNat with
        | some a => s.transfer x b a fun s => s.callTo x b t a
        | none => badTarget (k.entryTarget ovl ent.toNat)
      | none => s.missing b x.who ovl
    else badTarget (codeAddr ovl 0))

/-- `calli` (R231). -/
def execCalli (g : Guard) (a : Reg) (s : State) : Result :=
  s.issue (.calli g a) g (withThread fun s x b t => s.transfer x b (t.src a) fun s => s.callTo x b t (t.src a))

/-- `ret` (R230): a record with a reserved bit set, or whose address is no legal target, raises 0x02. -/
def execRet (g : Guard) (s : State) : Result :=
  s.issue (.ret g) g (withThread fun s x b t =>
    let sp := t.g 111
    (s.stackReach b t sp (t.stackAddr sp).toNat 8 false).act fun pte pa =>
      let r := s.stackRead b (t.stackAddr sp) pa 8
      if s.stackShut b (t.stackAddr sp) pa then .stall s (.again false)
      else if r.2 then s.badLoad b x.who t (t.stackAddr sp) (homeDie pa)
      else
        let v := leNat ((s.reqsOf x.blk x.who).foldl (overStack (t.stackAddr sp).toNat) r.1)
        let a : Word := BitVec.ofNat 32 v
        if v / 2 ^ 32 ≠ 0 then badTarget a
        else s.transfer x b a fun s =>
          .jump ((s.stackUse b (t.stackAddr sp) pte pa).setThread x fun t => t.setG 111 (sp + 8)) a)

/-- `exit` (R234). A control thread with a recorded sequencer fault parks with it instead (R425). -/
def execExit (g : Guard) (s : State) : Result :=
  s.issue (.exit g) g (withThread fun s x b _ =>
    match x.who, b.mFault with
    | .ctl, some (c, d) => .failed (s.modBlock x.blk fun b => { b with mFault := none }) c none d
    | _, _ => .gone (s.endThread x.blk x.who))

/-- `yield` (R235): a mark on each thread; nothing in a control thread. -/
def execYield (g : Guard) (s : State) : Result :=
  s.issue (.yield g) g (withThread fun s x _ _ =>
    .done (if x.who == .ctl then s else s.setThread x fun t => { t with yielded := true }) [])

/-- `nop` (R236). -/
def execNop (g : Guard) (s : State) : Result := s.issue (.nop g) g fun s _ => .done s []

/-- `bri` (R229). -/
def execBri (g : Guard) (a : Reg) (s : State) : Result :=
  s.issue (.bri g a) g (withThread fun s x b t => s.transfer x b (t.src a) fun s => .jump s (t.src a))

/-- `brk` (R236): parks past the word while the context's break enable is set. -/
def execBrk (g : Guard) (n : BitVec 5) (s : State) : Result :=
  s.issue (.brk g n) g (withThread fun s _ b _ =>
    if (s.ctx b.ctx).brken then .past s (BitVec.ofNat 8 (0x20 + n.toNat)) else .done s [])

end Sys2Proof.Machine
end

