-- ==== Sys2Proof/Machine/BlockDot.lean ====
section
/-! DEFINITION. The block dot and its update of the accumulator (R105, R106), and nested planes (R102 to R104), shared
by class 0x2 and the matrix engine. -/

namespace Sys2Proof.Machine

/-- The value of an integer. -/
def intVal (v : Int) : FVal := .num (v < 0) v.natAbs 0

/-- The exact sum of products of a block, with the special values of R106. An exact zero is +0. -/
def blockDot (a b : List FVal) : FVal :=
  match (a.zipWith fmulExact b).foldl (faddExact .rne) (.num false 0 0) with
  | .num n m e => if m = 0 then .num false 0 0 else .num n m e
  | v => v

/-- Whether some operand of a block is NaN. -/
def anyNan (l : List FVal) : Bool := l.any FVal.isNan

/-- acc + s_a * s_b * d_b, one rounding (R106). -/
def accFloat (acc : Nat) (sa sb d : FVal) (nanIn : Bool) : FRes :=
  let c := fval .f32 acc
  finish .f32 .rne (nanIn || c.isNan || sa.isNan || sb.isNan)
    (faddExact .rne c (fmulExact (fmulExact sa sb) d))

/-- (acc + D_b) mod 2^32, and whether it wrapped (R106). -/
def accInt (acc : Nat) (d : Int) : Nat × Bool :=
  let v := natSigned 32 acc + d
  (intLow 32 v, v < -2147483648 || 2147483647 < v)

/-- The exact integer dot of a block. -/
def blockDotInt (a b : List Int) : Int := (a.zipWith (· * ·) b).foldl (· + ·) 0

/-! ## Nested planes -/

/-- Plane `p` of a group of 32 weights (R102). -/
def planeOf (ws : List Nat) (p : Nat) : Nat :=
  (ws.zipIdx).foldl (fun n x => n + x.1 / 2 ^ p % 2 * 2 ^ x.2) 0

/-- Weight `j` of a group, from its first `k` plane words, plane 7 first (R104). -/
def planeWeight (k : Nat) (planes : List Nat) (j : Nat) : Int :=
  npiValue k ((planes.take k).foldl (fun t p => 2 * t + p / 2 ^ j % 2) 0)

end Sys2Proof.Machine
end

