-- ==== Sys2Proof/Machine/FloatAlu.lean ====
section
/-! DEFINITION. The meanings of class 0x1 (R213 to R218): floating-point operations and functions, element by
element. -/

namespace Sys2Proof.Machine

/-- The format of a floating-point type. -/
def tyFmt : ElemTy → FFmt
  | .bf16 | .bf16x2 => .bf16
  | .f8e4x4 => .e4m3
  | .f8e5x4 => .e5m2
  | _ => .f32

/-- A result with the cause it logs. -/
def FRes.pair (r : FRes) : Nat × Option Cause := (r.bits, r.cause)

/-- An operation on the values of two operands. -/
def Thread.float2 (t : Thread) (o : Alu) (f : FFmt → Rnd → FVal → FVal → FRes) : Thread × List (Cause × Nat) :=
  let k := tyFmt o.ty
  t.map2 o fun a b => (f k o.rnd (fval k a) (fval k b)).pair

/-- An operation on the value of one operand. -/
def Thread.float1 (t : Thread) (o : Alu) (f : FFmt → Rnd → FVal → FRes) : Thread × List (Cause × Nat) :=
  let k := tyFmt o.ty
  t.map1 o fun a => (f k o.rnd (fval k a)).pair

/-- `ffma` element by element. -/
def Thread.float3 (t : Thread) (o : Alu) : Thread × List (Cause × Nat) :=
  let k := tyFmt o.ty
  let l := ((t.elems o.ty o.a).zip ((t.elems o.ty o.b).zip (t.elems o.ty o.c))).map fun p =>
    ffma k o.rnd (fval k p.1) (fval k p.2.1) (fval k p.2.2)
  (t.setElems o.ty o.d (l.map (·.bits)), causesOf (l.map (·.cause)))

/-- `fadd`. -/
def execFadd (g : Guard) (o : Alu) (s : State) : Result := s.issue (.fadd g o) g (compute fun t => t.float2 o fadd)

/-- `fsub`. -/
def execFsub (g : Guard) (o : Alu) (s : State) : Result := s.issue (.fsub g o) g (compute fun t => t.float2 o fsub)

/-- `fmul`. -/
def execFmul (g : Guard) (o : Alu) (s : State) : Result := s.issue (.fmul g o) g (compute fun t => t.float2 o fmul)

/-- `ffma`. -/
def execFfma (g : Guard) (o : Alu) (s : State) : Result := s.issue (.ffma g o) g (compute fun t => t.float3 o)

/-- `fmin` (R215). -/
def execFmin (g : Guard) (o : Alu) (s : State) : Result :=
  s.issue (.fmin g o) g (compute fun t => t.map2 o fun a b => (fmaxmin (tyFmt o.ty) false a b, none))

/-- `fmax` (R215). -/
def execFmax (g : Guard) (o : Alu) (s : State) : Result :=
  s.issue (.fmax g o) g (compute fun t => t.map2 o fun a b => (fmaxmin (tyFmt o.ty) true a b, none))

/-- `fabs` (R215). -/
def execFabs (g : Guard) (o : Alu) (s : State) : Result :=
  s.issue (.fabs g o) g (compute fun t => t.map1 o fun a => (fabsCode (tyFmt o.ty) a, none))

/-- `fneg` (R215). -/
def execFneg (g : Guard) (o : Alu) (s : State) : Result :=
  s.issue (.fneg g o) g (compute fun t => t.map1 o fun a => (fnegCode (tyFmt o.ty) a, none))

/-- `fsetp` (R216). -/
def execFsetp (g : Guard) (o : Alu) (s : State) : Result :=
  s.issue (.fsetp g o) g (plainly fun t =>
    let k := tyFmt o.ty
    t.setCond o.d o.c (fcond (o.imm.toNat % 8) (fval k (t.readT o.ty o.a)) (fval k (t.readT o.ty o.b))))

/-- `frcp` (R213, R214). -/
def execFrcp (g : Guard) (o : Alu) (s : State) : Result := s.issue (.frcp g o) g (compute fun t => t.float1 o frcp)

/-- `frsq` (R213, R214). -/
def execFrsq (g : Guard) (o : Alu) (s : State) : Result := s.issue (.frsq g o) g (compute fun t => t.float1 o frsq)

/-- `fsqrt` (R213, R214). -/
def execFsqrt (g : Guard) (o : Alu) (s : State) : Result := s.issue (.fsqrt g o) g (compute fun t => t.float1 o fsqrt)

/-- `fex2` (R213, R214). -/
def execFex2 (g : Guard) (o : Alu) (s : State) : Result := s.issue (.fex2 g o) g (compute fun t => t.float1 o fex2)

/-- `flg2` (R213, R214). -/
def execFlg2 (g : Guard) (o : Alu) (s : State) : Result := s.issue (.flg2 g o) g (compute fun t => t.float1 o flg2)

/-- `fsin` (R213, R214). -/
def execFsin (g : Guard) (o : Alu) (s : State) : Result := s.issue (.fsin g o) g (compute fun t => t.float1 o fsin)

/-- `fcos` (R213, R214). -/
def execFcos (g : Guard) (o : Alu) (s : State) : Result := s.issue (.fcos g o) g (compute fun t => t.float1 o fcos)

/-- `ftanh` (R213, R214). -/
def execFtanh (g : Guard) (o : Alu) (s : State) : Result := s.issue (.ftanh g o) g (compute fun t => t.float1 o ftanh)

/-- `fdiv`. -/
def execFdiv (g : Guard) (o : Alu) (s : State) : Result := s.issue (.fdiv g o) g (compute fun t => t.float2 o fdiv)

/-- `fclass` (R217). -/
def execFclass (g : Guard) (o : Alu) (s : State) : Result :=
  s.issue (.fclass g o) g (plainly fun t =>
    t.setG o.d.toNat (BitVec.ofNat 32 (fclassMask (tyFmt o.ty) (t.readT o.ty o.a))))

/-- `fround` (R218). -/
def execFround (g : Guard) (o : Alu) (s : State) : Result :=
  s.issue (.fround g o) g (compute fun t => t.float1 o fround)

/-- `fscale` (R218): both elements of bf16x2 use the same exponent. -/
def execFscale (g : Guard) (o : Alu) (s : State) : Result :=
  s.issue (.fscale g o) g (compute fun t => t.float1 o fun k r v => fscale k r (t.src o.b).toInt v)

end Sys2Proof.Machine
end

