-- ==== Sys2Proof/Machine/Convert.lean ====
section
/-! DEFINITION. The meanings of class 0x2 (R219 to R226): conversion, packing, nested planes, block scaling. -/

namespace Sys2Proof.Machine

/-! ## `cvt` (R220) -/

/-- The conversion of one scalar: the code and the cause. -/
def cvtOf (dst src : ElemTy) (r : Rnd) (sat : Bool) (a : Nat) : Nat × Option Cause :=
  if tyFloat1 dst then
    if tyFloat1 src then (convert (tyFmt dst) r sat (fval (tyFmt src) a)).pair
    else (fromInteger (tyFmt dst) r sat (elemInt src a)).pair
  else if tyFloat1 src then
    let v := toInteger r (tyMin dst) (tyMax dst) (fval (tyFmt src) a)
    (intLow (tyBits dst) v.1, v.2)
  else
    let x := elemInt src a
    if sat then
      let v := clampTy dst x
      (intLow (tyBits dst) v.1, if v.2 then some 0x44 else none)
    else (intLow (tyBits dst) x, none)

/-- `cvt`. -/
def execCvt (g : Guard) (o : Alu) (s : State) : Result :=
  s.issue (.cvt g o) g (compute fun t =>
    let src := (cvtSrc o.imm).getD .i32
    let r := cvtOf o.ty src o.rnd o.sat (t.readT src o.a)
    (t.writeT o.ty o.d r.1, causesOf [r.2]))

/-! ## Packing (R221) -/

/-- Packs results as elements of `n` bits. -/
def packRes (n : Nat) (l : List FRes) : Word := BitVec.ofNat 32 (joinElems n (l.map (·.bits)))

/-- The f32 value of a register. -/
def Thread.f32 (t : Thread) (r : Nat) : FVal := fval .f32 (t.g r).toNat

/-- The f32 codes of the elements of a word: exact, a NaN canonical. -/
def widenAll (f : FFmt) (n k : Nat) (w : Word) : List Word :=
  (splitElems n k w.toNat).map fun c => BitVec.ofNat 32 (convert .f32 .rne false (fval f c)).bits

/-- `pk.bf16`. -/
def execPkBf16 (g : Guard) (o : Alu) (s : State) : Result :=
  s.issue (.pkBf16 g o) g (compute fun t =>
    let l := [convert .bf16 o.rnd o.sat (fval .f32 (t.src o.a).toNat),
      convert .bf16 o.rnd o.sat (fval .f32 (t.src o.b).toNat)]
    (t.setG o.d.toNat (packRes 16 l), causesOf (l.map (·.cause))))

/-- `upk.bf16`. -/
def execUpkBf16 (g : Guard) (o : Alu) (s : State) : Result :=
  s.issue (.upkBf16 g o) g (plainly fun t => t.setGs o.d.toNat (widenAll .bf16 16 2 (t.src o.a)))

/-- `pk.f8`. -/
def execPkF8 (g : Guard) (o : Alu) (s : State) : Result :=
  s.issue (.pkF8 g o) g (compute fun t =>
    let l := (List.range 4).map fun i => convert (tyFmt o.ty) o.rnd o.sat (t.f32 (o.a.toNat + i))
    (t.setG o.d.toNat (packRes 8 l), causesOf (l.map (·.cause))))

/-- `upk.f8`. -/
def execUpkF8 (g : Guard) (o : Alu) (s : State) : Result :=
  s.issue (.upkF8 g o) g (plainly fun t => t.setGs o.d.toNat (widenAll (tyFmt o.ty) 8 4 (t.src o.a)))

/-! ## Nested planes (R222, R223) -/

/-- The 32 bytes of an octet. -/
def Thread.octet (t : Thread) (r : Nat) : List Nat := (t.gs r 8).flatMap fun w => splitElems 8 4 w.toNat

/-- `npi.enc`: gD holds plane 7. -/
def execNpiEnc (g : Guard) (o : Alu) (s : State) : Result :=
  s.issue (.npiEnc g o) g (plainly fun t =>
    let ws := t.octet o.a.toNat
    t.setGs o.d.toNat ((List.range 8).map fun i => BitVec.ofNat 32 (planeOf ws (7 - i))))

/-- `npi.dec`. -/
def execNpiDec (g : Guard) (o : Alu) (s : State) : Result :=
  s.issue (.npiDec g o) g (plainly fun t =>
    let k := o.imm.toNat % 16
    let planes := (t.gs o.a.toNat k).map (·.toNat)
    t.setGs o.d.toNat ((List.range 8).map fun i =>
      BitVec.ofNat 32 (joinElems 8 ((List.range 4).map fun j => intLow 8 (planeWeight k planes (4 * i + j))))))

/-! ## Block scaling (R224 to R226) -/

/-- The target maximum of `bscale`. -/
def scaleMax (t : ElemTy) : Nat :=
  match t with
  | .f8e4x4 => 448
  | .f8e5x4 => 57344
  | _ => 127

/-- `bscale` of the f32 code of the largest magnitude: the smallest bf16 value not below m / max. -/
def bscaleOf (ty : ElemTy) (a : Nat) : Nat :=
  match fval .f32 a with
  | .nan => 0x7FC0
  | .inf _ => 0x7F80
  | .num _ m e =>
    if m = 0 then 0x3F80 else (roundQuot .bf16 .rup false false m (scaleMax ty) e).bits

/-- `bscale`. -/
def execBscale (g : Guard) (o : Alu) (s : State) : Result :=
  s.issue (.bscale g o) g (plainly fun t => t.setG o.d.toNat (BitVec.ofNat 32 (bscaleOf o.ty (t.src o.a).toNat)))

/-- One element of `bquant` (R225): its code and its causes, from the exact quotient x / s. -/
def bquantOf (ty : ElemTy) (r : Rnd) (sat : Bool) (x sc : FVal) : Nat × List Cause :=
  let zero : Bool := match x, sc with
    | .num _ m _, .num _ n _ => m != 0 && n == 0
    | _, _ => false
  let made : List Cause := if zero then [0x41] else []
  if tyF8 ty then
    let q : FRes := match zero, x, sc with
      | true, .num a _ _, .num b _ _ => convert (tyFmt ty) r sat (.inf (a != b))
      | _, _, _ => fdivSat (tyFmt ty) r sat x sc
    (q.bits, made ++ q.cause.toList)
  else
    let q : Int × Option Cause := match x, sc with
      | .nan, _ => toInteger r (-128) 127 .nan
      | _, .nan => toInteger r (-128) 127 .nan
      | .inf _, .inf _ => toInteger r (-128) 127 .nan
      | .inf a, .num b _ _ => toInteger r (-128) 127 (.inf (a != b))
      | .num _ _ _, .inf _ => (0, none)
      | .num a m e, .num b n k =>
        if n = 0 then (if m = 0 then toInteger r (-128) 127 .nan else toInteger r (-128) 127 (.inf (a != b)))
        else
          let neg := a != b
          let d := clampExp (e - k)
          let v := if 0 ≤ d then roundInt r neg (m * 2 ^ d.toNat) n else roundInt r neg m (n * 2 ^ (-d).toNat)
          let w : Int := signed neg v
          if w < -128 then (-128, some 0x44) else if 127 < w then (127, some 0x44) else (w, none)
    (intLow 8 q.1, made ++ q.2.toList)

/-- `bquant`. -/
def execBquant (g : Guard) (o : Alu) (s : State) : Result :=
  s.issue (.bquant g o) g (compute fun t =>
    let sc := fval .bf16 ((t.src o.b).toNat % 65536)
    let l := (List.range 4).map fun i => bquantOf o.ty o.rnd o.sat (t.f32 (o.a.toNat + i)) sc
    (t.setG o.d.toNat (BitVec.ofNat 32 (joinElems 8 (l.map (·.1)))),
      l.flatMap fun p => p.2.map fun c => (c, 1)))

/-- The value of an element of `bdot`'s octets. -/
def bdotVal (ty : ElemTy) (c : Nat) : FVal := if tyF8 ty then fval (tyFmt ty) c else intVal (natSigned 8 c)

/-- The type of the B octet (R226). -/
def bdotTy (o : Alu) : ElemTy :=
  match bdotFmt o.imm with
  | 1 => .f8e4x4
  | 2 => .f8e5x4
  | _ => o.ty

/-- The new accumulator of `bdot` and its cause (R226). -/
def Thread.bdot (t : Thread) (o : Alu) : Nat × Option Cause :=
  let x := t.octet o.a.toNat
  let y := t.octet o.b.toNat
  let acc := (t.g o.d.toNat).toNat
  if bdotIacc o.imm then
    let r := accInt acc (blockDotInt (x.map (natSigned 8)) (y.map (natSigned 8)))
    (r.1, if r.2 then some 0x45 else none)
  else
    let a := x.map (bdotVal o.ty)
    let b := y.map (bdotVal (bdotTy o))
    let c := (t.src o.c).toNat
    (accFloat acc (fval .bf16 (c % 65536)) (fval .bf16 (c / 65536)) (blockDot a b) (anyNan a || anyNan b)).pair

/-- `bdot`. -/
def execBdot (g : Guard) (o : Alu) (s : State) : Result :=
  s.issue (.bdot g o) g (compute fun t =>
    let r := t.bdot o
    (t.setG o.d.toNat (BitVec.ofNat 32 r.1), causesOf [r.2]))

end Sys2Proof.Machine
end

