-- ==== Sys2Proof/Machine/Elements.lean ====
section
/-! DEFINITION. Elements as engines see them: the format codes (R94), the places of a tile's elements (R87, R103), the
conversions of R281, and the reads and writes of engines in global memory and in tiles (R126, R128, R280, R285). -/

namespace Sys2Proof.Machine

/-! ## Element formats (R94) -/

/-- The element formats. -/
inductive EFmt where
  | flt (f : FFmt)
  | int (signed : Bool) (bits : Nat)
  | npi (k : Nat)
  deriving DecidableEq, Repr

/-- The format of a code; a reserved code has none. -/
def efmt (code : Nat) : Option EFmt :=
  match code with
  | 0x00 => some (.flt .f32)
  | 0x01 => some (.flt .bf16)
  | 0x02 => some (.flt .e4m3)
  | 0x03 => some (.flt .e5m2)
  | 0x04 => some (.int true 8)
  | 0x05 => some (.int false 8)
  | 0x06 => some (.int true 16)
  | 0x07 => some (.int false 16)
  | 0x08 => some (.int true 32)
  | 0x09 => some (.int false 32)
  | _ => if 0x12 ≤ code && code ≤ 0x18 then some (.npi (code - 0x10)) else none

/-- The element width e. -/
def EFmt.width : EFmt → Nat
  | .flt f => f.width
  | .int _ n => n
  | .npi k => k

/-- Whether a format is NPI-k. -/
def EFmt.isNpi : EFmt → Bool
  | .npi _ => true
  | .flt _ => false
  | .int _ _ => false

/-- The range of an integer format. -/
def intRange (signed : Bool) (n : Nat) : Int × Int :=
  if signed then (-(2 : Int) ^ (n - 1), (2 : Int) ^ (n - 1) - 1) else (0, (2 : Int) ^ n - 1)

/-- The value of an element of an integer format. -/
def intElem (signed : Bool) (n code : Nat) : Int := if signed then natSigned n code else (code % 2 ^ n : Nat)

/-- Narrows an integer to a format: exact in range, else wrapped, or clamped with 0x44 (R100). -/
def narrowInt (signed : Bool) (n : Nat) (sat : Bool) (v : Int) : Nat × Option Cause :=
  let r := intRange signed n
  if sat && v < r.1 then (intLow n r.1, some 0x44)
  else if sat && r.2 < v then (intLow n r.2, some 0x44)
  else (intLow n v, none)

/-! ## Conversions (R281) -/

/-- Whether R281 has a row for a pair of formats. -/
def convertible (sf df : EFmt) : Bool :=
  sf == df ||
    (match sf, df with
     | .flt .f32, .flt _ => true
     | .flt _, .flt .f32 => true
     | .flt .e4m3, .flt .bf16 => true
     | .flt .e5m2, .flt .bf16 => true
     | .flt .f32, .int _ _ => true
     | .flt .bf16, .int _ _ => true
     | .int _ _, .flt .f32 => true
     | .int _ _, .flt .bf16 => true
     | .int _ _, .int _ _ => true
     | _, _ => false)

/-- Converts one element. -/
def convElem (sf df : EFmt) (sat : Bool) (code : Nat) : Nat × Option Cause :=
  if sf == df then (code, none)
  else match sf, df with
    | .flt a, .flt b => (convert b .rne (sat && a == .f32) (fval a code)).pair
    | .flt a, .int g n =>
      let r := intRange g n
      let v := toInteger .rne r.1 r.2 (fval a code)
      (intLow n v.1, v.2)
    | .int g n, .flt b => (fromInteger b .rne false (intElem g n code)).pair
    | .int g n, .int h m => narrowInt h m sat (intElem g n code)
    | _, _ => (code, none)

/-! ## The places of a tile's elements (R87, R88, R103) -/

/-- The physical offset of a logical offset under a permutation. -/
def permute (perm off : Nat) : Nat :=
  let row := natBits off 20 9
  let bank := natBits off 8 4
  let b := if perm = 0 then bank
    else Nat.xor bank (row / 2 ^ ((perm - 1) / 5) % 2 ^ ((perm - 1) % 5 + 1))
  row * 512 + b * 16 + off % 16

/-- The linear index of an element of a tile. -/
def Layout.linear (l : Layout) (i0 i1 i2 : Nat) : Nat := i0 * l.s0 + i1 * l.s1 + i2 * l.s2

/-- The physical offset of an element, and the bytes it takes: for NPI-k those of its group of 32. -/
def Layout.place (l : Layout) (f : EFmt) (i0 i1 i2 : Nat) : Nat × Nat :=
  let n := l.linear i0 i1 i2
  match f with
  | .npi k => (permute l.perm (l.base + n / 32 * (4 * k)), 4 * k)
  | .flt x => (permute l.perm (l.base + n * (x.width / 8)), x.width / 8)
  | .int _ m => (permute l.perm (l.base + n * (m / 8)), m / 8)

/-- Whether an element lies inside its tile. -/
def Tile.inside (t : Tile) (f : EFmt) (i0 i1 i2 : Nat) : Bool :=
  let p := t.lay.place f i0 i1 i2
  t.lay.base ≤ p.1 && p.1 + p.2 ≤ t.lay.base + t.size

/-- Whether every element of a box of indices lies inside its tile. -/
def Tile.boxInside (t : Tile) (f : EFmt) (e0 e1 e2 : Nat) : Bool :=
  (List.range e2).all fun i2 => (List.range e1).all fun i1 => (List.range e0).all fun i0 => t.inside f i0 i1 i2

/-- The element of the group words, plane 7 first: bit `j` of each (R103). -/
def groupElem (words : List Nat) (j : Nat) : Nat := words.foldl (fun t w => 2 * t + w / 2 ^ j % 2) 0

/-- Puts a bit into a word. -/
def putBit (w j v : Nat) : Nat := w - w / 2 ^ j % 2 * 2 ^ j + v % 2 * 2 ^ j

/-- Puts a k-bit element into the group words, plane 7 first. -/
def putGroup (words : List Nat) (j v : Nat) : List Nat :=
  words.mapIdx fun i w => putBit w j (v / 2 ^ (words.length - 1 - i))

/-! ## Why an engine does not go on -/

/-- An element that cannot be read or written: the command waits for its line, or ends with a status. -/
inductive Halt where
  | wait
  | lock (va pte : DWord) (pa : Nat)   -- it asks for the lock of a REPLICATE line first (R135)
  | status (c : Cause)
  deriving DecidableEq, Repr

/-! ## Global memory as engines read and write it -/

/-- Whether a write to a line has not yet become visible, or a commit holds its lock. -/
def State.lineHeld (s : State) (pa : Nat) : Bool :=
  s.reqs.any fun r => lineOf r.pa == lineOf pa && (match r.st, r.kind with
    | .home _ _, .store _ ack _ => ack
    | .home _ _, .atomic _ _ _ _ _ _ ack => ack
    | .home _ _, _ => false
    | .locked _, _ => true
    | _, _ => false)

/-- Whether a line is frozen (R426). -/
def State.lineFrozen (s : State) (pa : Nat) : Bool := s.frozenLines.any fun f => f.line == lineOf pa

/-- Whether a commit holds the lock of a line, or its home does not answer: a read waits (R136, R426, R443). -/
def State.lineShut (s : State) (pa : Nat) : Bool :=
  s.lineFrozen pa || (s.die (homeDie pa)).st != .up ||
    s.reqs.any fun r => lineOf r.pa == lineOf pa && (match r.st with
      | .locked _ => true
      | .issued | .home _ _ | .done | .aborted _ _ => false)

/-- Changes a command. -/
def State.modCmd (s : State) (id : Nat) (f : Cmd → Cmd) : State :=
  { s with cmds := s.cmds.map fun c => if c.id == id then f c else c }

/-- Translates an access of an engine, through the buffers of its core (R70). -/
def State.engineAt (s : State) (m : Cmd) (va : DWord) (wr rd : Bool) : Except Halt (DWord × Nat) :=
  match s.leafFor m.core m.ctx va wr rd with
  | .fail e => .error (.status e)
  | .leaf pte big =>
    if permits pte wr rd then .ok (pte, physOf pte big va) else .error (.status 0x09)

/-- The bytes within one line as an engine of a die reads them: from its near tier, else from the home. -/
def State.dieRead (s : State) (die pa n : Nat) : List Byte × Bool :=
  match s.nearCopy die (lineOf pa) with
  | some k => ((k.bytes.drop (pa % 128)).take n, false)
  | none => s.homeRead pa n

/-- An engine reads bytes of global memory; `wr` says that it reads them to write them, at their home. -/
def State.engineRead (s : State) (m : Cmd) (va : DWord) (n : Nat) (wr : Bool) : Except Halt (State × List Byte) :=
  match s.engineAt m va wr true with
  | .error e => .error e
  | .ok (pte, pa) =>
    match s.readRefused pte pa n with
    | some e => .error (.status e)
    | none =>
      if (s.die (homeDie pa)).st == .failed then .error (.status 0x13)
      else if (s.besides m.id).lineShut pa then .error .wait
      else
        let v := if wr then s.homeRead pa n else s.dieRead (dieOf m.core) pa n
        if v.2 then .error (.status 0x13)
        else .ok ((s.tlbKeep m.core m.ctx va wr true).pinNear pte (lineOf pa), v.1)

/-- The copies of a line that an engine's write, a `.fwd` store, leaves to be invalidated (R126, R128): those of the other
dies. A commit to a REPLICATE page reaches every replica. -/
def State.engineClean (s : State) (m : Cmd) (pte : DWord) (va : DWord) (pa n : Nat) : State :=
  if pteRepl pte then s.dropCopies pa n
  else
    let own := dieOf m.core
    let s := { s with near := s.near.filter fun (k : NearCopy) => !(k.die == own && k.line == lineOf pa) }
    let dies := (s.near.filter fun k => k.line == lineOf pa && k.die != homeDie pa).map (·.die)
    let known (r : Req) : Bool := r.issue == m.id && lineOf r.pa == lineOf pa && (match r.kind, r.st with
      | .clean _, .home _ _ => true
      | _, _ => false)
    if dies.isEmpty then s
    else if s.reqs.any known then
      { s with reqs := s.reqs.map fun r => if known r then { r with st := .home dies s.tick } else r }
    else
      s.addReq (m.request s va pte pa (.clean n) (.home dies s.tick))

/-- What an engine is to write to one word of global memory, once its checks have passed: a HEAT page refuses it with 0x17,
an enabled range with 0x09, a frozen line with 0x14 (R285, R426). One that is made as it is read, on a REPLICATE page, asks for
the lock of its line first; a lock that was aborted ends it with 0x15 (R128, R135, R428). -/
def State.enginePart (s : State) (m : Cmd) (va : DWord) (n keep val : Nat) (rd : Bool) : Except Halt (State × EngPart) :=
  match s.engineAt m va true rd with
  | .error e => .error e
  | .ok (pte, pa) =>
    match s.writeRefused pte pa n with
    | some e => .error (.status e)
    | none =>
      if (s.die (homeDie pa)).st == .failed then .error (.status 0x13)
      else if s.lineFrozen pa then .error (.status 0x14)
      else if (s.besides m.id).lineHeld pa || (s.besides m.id).lineShut pa || Config.requests ≤ s.entriesUsed m.core then
        .error .wait
      else if rd && pteRepl pte && s.lockAt m.id pa != .held then
        .error (match s.lockAt m.id pa with
          | .free => .lock va pte pa
          | .lost => .status 0x15
          | .asked | .held => .wait)
      else .ok (s.tlbKeep m.core m.ctx va true rd, { va := va, pte := pte, pa := pa, size := n, keep := keep, val := val })

/-- Makes a write of an engine visible at its home. -/
def State.showPart (s : State) (m : Cmd) (p : EngPart) : State :=
  let w := Nat.lor (Nat.land (leNat (memRead s.mem p.pa p.size)) p.keep) p.val
  ((s.homeWrite p.pa (leBytes p.size w)).engineClean m p.pte p.va p.pa p.size).pinNear p.pte (lineOf p.pa)

/-- Whether the lines of an element's writes can be written, and its core has a request entry for each (R71, R134). -/
def State.partsOpen (s : State) (m : Cmd) (ps : List EngPart) : Bool :=
  s.entriesUsed m.core + ps.length ≤ Config.requests + (s.reqs.filter fun r => r.lockOf m.id).length &&
    ps.all fun p => !(s.besides m.id).lineHeld p.pa && !(s.besides m.id).lineShut p.pa

/-- The writes of an element become visible, all at once (R120); the locks they were made under go. -/
def State.showParts (s : State) (m : Cmd) (ps : List EngPart) : State :=
  ps.foldl (fun s p => (s.showPart m p).unlock m.id p.pa) s

/-- The writes of element `n` of a command wait to become visible (R138). -/
def State.pendParts (s : State) (m : Cmd) (n : Nat) (ps : List EngPart) : State :=
  s.modCmd m.id fun c => { c with run := { c.run with pend := c.run.pend ++ [(n, ps)] } }

/-- The writes of an element: those of element `n` become visible later, those of a step of a reduction now (R282). -/
def State.putParts (s : State) (m : Cmd) (ps : List EngPart) (later : Option Nat) : State :=
  match later with
  | some n => s.pendParts m n ps
  | none => s.showParts m ps

/-! ## Indices (R280, R285) -/

/-- The indices of element `n` in linear order, dimension 0 innermost. -/
def indicesOf : List Nat → Nat → List Nat
  | [], _ => []
  | e :: es, n => n % e :: indicesOf es (n / e)

/-- Σ jd × Sd. -/
def strideSum (js : List Nat) (st : List Int) : Int := (js.zipWith (fun (j : Nat) (x : Int) => (j : Int) * x) st).foldl (· + ·) 0

/-- An address moved by a signed number of bytes. -/
def moveBy (a : DWord) (d : Int) : DWord := a + BitVec.ofInt 64 d

/-- The address of the word of a plane for a linear index (R280). -/
def planeAddr (a : DWord) (pstr : Nat) (plane : Nat) (l : Int) : DWord :=
  moveBy a ((7 - plane : Nat) * pstr + 4 * (l / 32))

/-- The planes of NPI-k, 7 first. -/
def planesOf (k : Nat) : List Nat := (List.range k).map (7 - ·)

/-! ## Elements of a side (R280) -/

/-- Reads `n` bytes of a tile at a physical offset. -/
def State.tileRead (s : State) (b : Block) (t : Tile) (off n : Nat) : Except Halt (List Byte) :=
  match b.bufPhys t.lay.buf off n with
  | none => .error (.status 0x0C)
  | some p =>
    let c := s.core b.core
    if c.bufBad t.lay.buf p n then .error (.status 0x13) else .ok (memRead (c.buf t.lay.buf) p n)

/-- Writes bytes of a tile at a physical offset. -/
def State.tileWrite (s : State) (b : Block) (t : Tile) (off : Nat) (bs : List Byte) : Except Halt State :=
  match b.bufPhys t.lay.buf off bs.length with
  | none => .error (.status 0x0C)
  | some p => .ok (s.modCore b.core fun c => c.writeBuf t.lay.buf p bs)

/-- Reads an element of a tile. -/
def State.tileElem (s : State) (b : Block) (t : Tile) (f : EFmt) (i0 i1 i2 : Nat) : Except Halt Nat :=
  let p := t.lay.place f i0 i1 i2
  match s.tileRead b t p.1 p.2 with
  | .error e => .error e
  | .ok bs =>
    match f with
    | .npi k => .ok (groupElem (byteElems 4 k bs) (t.lay.linear i0 i1 i2 % 32))
    | .flt _ => .ok (leNat bs)
    | .int _ _ => .ok (leNat bs)

/-- Writes an element of a tile. -/
def State.putTileElem (s : State) (b : Block) (t : Tile) (f : EFmt) (i0 i1 i2 v : Nat) : Except Halt State :=
  let p := t.lay.place f i0 i1 i2
  match f with
  | .npi k =>
    match s.tileRead b t p.1 p.2 with
    | .error e => .error e
    | .ok bs => s.tileWrite b t p.1 (elemBytes 4 (putGroup (byteElems 4 k bs) (t.lay.linear i0 i1 i2 % 32) v))
  | .flt _ => s.tileWrite b t p.1 (leBytes p.2 v)
  | .int _ _ => s.tileWrite b t p.1 (leBytes p.2 v)

/-- Reads an element of global memory in planar form, plane by plane. -/
def State.planarElem (s : State) (m : Cmd) (a : DWord) (pstr : Nat) (l : Int) :
    List Nat → Nat → Except Halt (State × Nat)
  | [], t => .ok (s, t)
  | p :: ps, t =>
    let w := planeAddr a pstr p l
    if w.toNat % 4 ≠ 0 then .error (.status 0x07)
    else match s.engineRead m w 4 false with
      | .error e => .error e
      | .ok (s, bs) => s.planarElem m a pstr l ps (2 * t + leNat bs / 2 ^ (l % 32).toNat % 2)

/-- What is to be written for an element of global memory in planar form: one bit of a word of each plane. -/
def State.planarParts (s : State) (m : Cmd) (a : DWord) (pstr : Nat) (l : Int) (v : Nat) :
    List Nat → Except Halt (State × List EngPart)
  | [] => .ok (s, [])
  | p :: ps =>
    let w := planeAddr a pstr p l
    let bit := 2 ^ (l % 32).toNat
    if w.toNat % 4 ≠ 0 then .error (.status 0x07)
    else match s.enginePart m w 4 (2 ^ 32 - 1 - bit) (v / 2 ^ ps.length % 2 * bit) false with
      | .error e => .error e
      | .ok (s, q) =>
        match s.planarParts m a pstr l v ps with
        | .error e => .error e
        | .ok (s, qs) => .ok (s, q :: qs)

/-- A read that leaves the state as it is. -/
def sameState (s : State) (r : Except Halt Nat) : Except Halt (State × Nat) :=
  match r with
  | .error e => .error e
  | .ok v => .ok (s, v)

/-- Reads the element of a side. -/
def State.sideRead (s : State) (m : Cmd) (b : Block) (x : Side) (f : EFmt) (js : List Nat) (wr : Bool) :
    Except Halt (State × Nat) :=
  match x with
  | .addr a st pstr =>
    let l := strideSum js st
    match f with
    | .npi k => s.planarElem m a pstr l (planesOf k) 0
    | .flt _ | .int _ _ =>
      let n := f.width / 8
      let va := moveBy a (l * n)
      if va.toNat % n ≠ 0 then .error (.status 0x07)
      else match s.engineRead m va n wr with
        | .error e => .error e
        | .ok (s, bs) => .ok (s, leNat bs)
  | .phys a st =>
    let pa := (moveBy a (2 * strideSum js st)).toNat % Config.farBytes
    if (s.die (homeDie pa)).st == .failed then .error (.status 0x13)
    else if (s.besides m.id).lineShut pa then .error .wait
    else
      let v := s.homeRead pa 2
      if v.2 then .error (.status 0x13) else .ok (s, leNat v.1)
  | .tile i _ => sameState s (s.tileElem b (b.tile i) f (js.getD 0 0) (js.getD 1 0) (js.getD 2 0))

/-- Writes the element of a side: as element `later` of the command, or at the step that has read it to change it. -/
def State.sideWrite (s : State) (m : Cmd) (b : Block) (x : Side) (f : EFmt) (js : List Nat) (v : Nat)
    (later : Option Nat) : Except Halt State :=
  match x with
  | .addr a st pstr =>
    let l := strideSum js st
    match f with
    | .npi k =>
      match s.planarParts m a pstr l v (planesOf k) with
      | .error e => .error e
      | .ok (s, ps) => .ok (s.putParts m ps later)
    | .flt _ | .int _ _ =>
      let n := f.width / 8
      let va := moveBy a (l * n)
      if va.toNat % n ≠ 0 then .error (.status 0x07)
      else match s.enginePart m va n 0 v later.isNone with
        | .error e => .error e
        | .ok (s, q) => .ok (s.putParts m [q] later)
  | .phys _ _ => .error (.status 0x12)
  | .tile i _ => s.putTileElem b (b.tile i) f (js.getD 0 0) (js.getD 1 0) (js.getD 2 0) v

/-! ## Elements in ascending linear order (R285) -/

/-- How far a run has come: the elements done, why it halted, the causes it met with their element counts, and which element
raised which cause. -/
structure Run where
  st   : State
  n    : Nat
  halt : Option Halt
  logs : List (Cause × Nat)
  raised : List (Cause × Nat) := []

/-- Counts one element that raised a cause. -/
def addCause (l : List (Cause × Nat)) (c : Cause) : List (Cause × Nat) :=
  if l.any (·.1 == c) then l.map fun p => if p.1 == c then (p.1, p.2 + 1) else p else l ++ [(c, 1)]

/-- Counts an element for each cause it raised, once however often it raised it (R115). -/
def addCauses (l : List (Cause × Nat)) (cs : List Cause) : List (Cause × Nat) := cs.eraseDups.foldl addCause l

/-- Runs up to `k` elements; the first that fails ends the run, and nothing after it is written. -/
def runElems (f : State → Nat → Except Halt (State × List Cause)) : Nat → Run → Run
  | 0, r => r
  | k + 1, r =>
    match r.halt with
    | some _ => r
    | none =>
      match f r.st r.n with
      | .error h => { r with halt := some h }
      | .ok (s, cs) => runElems f k { r with st := s, n := r.n + 1, logs := addCauses r.logs cs,
                                               raised := r.raised ++ cs.eraseDups.map fun c => (c, r.n) }

end Sys2Proof.Machine
end

