-- ==== Sys2Proof/Machine/System.lean ====
section
/-! DEFINITION. The meanings of class 0xD (R314 to R323): traps, special registers, `eret`, thread control, saving and
restoring a block, log records, translation removal. -/

namespace Sys2Proof.Machine

/-! ## Special registers (R187, R315, R316) -/

/-- PRI of a thread's frontier entry: of the header of its basic block (R30). -/
def State.prioOf (s : State) (b : Block) (t : Thread) : Nat :=
  match b.cands.find? fun k => k.hdr == t.hdr && k.rej == t.rej with
  | some k => k.pri
  | none => (s.headerAt b.core b.ctx t.hdr).pri

/-- The value of a special register; `%prio` of a control thread, which has no frontier entry, is a free value. -/
def State.srValue (s : State) (b : Block) (w : Who) (t : Thread) (n : Nat) : DWord :=
  let c := s.ctx b.ctx
  let word (k : Nat) : DWord := BitVec.ofNat 64 (k % 2 ^ 32)
  match n with
  | 0x00 => word (tidOf w).toNat
  | 0x01 => match w with
    | .vec i => word (i / 4)
    | .ctl => word 0xFFFFFFFF
  | 0x02 => match w with
    | .vec i => word (i / 32)
    | .ctl => word 0xFFFFFFFF
  | 0x03 => word b.bid
  | 0x04 => word b.lr.bdim
  | 0x05 => word (b.lr.gdim.toNat + 1)
  | 0x06 => word b.core
  | 0x07 => word (dieOf b.core)
  | 0x08 => word s.pkg.toNat
  | 0x09 => word b.ctx
  | 0x0A => word (if t.helper then 1 else 0)
  | 0x0B => match w with
    | .vec _ => word (s.prioOf b t)
    | .ctl => (Config.freeWord s.fresh).setWidth 64
  | 0x0C => word (codeOvl t.pc).toNat
  | 0x0D => word t.anyq.toNat
  | 0x10 => c.heat.setWidth 64
  | 0x11 => BitVec.ofNat 64 s.cycle
  | 0x12 => t.stklim
  | 0x13 => c.log.setWidth 64
  | 0x20 => if t.hmode then t.hcause.setWidth 64 else 0
  | 0x21 => if t.hmode then t.hpc.setWidth 64 else 0
  | 0x22 => if c.brken then 1 else 0
  | 0x24 => if t.hmode then t.hrec else 0
  | 0x26 => if t.hmode then b.hsave else 0
  | _ => 0

/-- `rdsr`. -/
def execRdsr (g : Guard) (d : Reg) (n : BitVec 8) (s : State) : Result :=
  s.issue (.rdsr g d n) g (withThread fun s x b t =>
    let v := s.srValue b x.who t n.toNat
    let s := if n = 0x0B && x.who == .ctl then { s with fresh := s.fresh + 1 } else s
    .done (s.setThread x fun t =>
      if (srInfo n.toNat).any (·.1) then t.setPair d.toNat v else t.setG d.toNat (v.setWidth 32)) [])

/-- Writes the writable bits of a special register (R316). -/
def State.srWrite (s : State) (x : Site) (b : Block) (t : Thread) (a : Reg) (n : Nat) : State :=
  let v := t.src a
  match n with
  | 0x0D => s.setThread x fun t => { t with anyq := v.extractLsb' 0 5 }
  | 0x12 => s.setThread x fun t => { t with stklim := t.pair a.toNat }
  | 0x13 => s.modCtx b.ctx fun c => { c with log := v }
  | 0x21 => s.setThread x fun t => { t with hpc := v, hpcHw := false }
  | 0x22 => s.modCtx b.ctx fun c => { c with brken := v.getLsbD 0 }
  | 0x26 => s.modBlock x.blk fun b => { b with hsave := t.pair a.toNat }
  | _ => s

/-- `wrsr`. -/
def execWrsr (g : Guard) (a : Reg) (n : BitVec 8) (s : State) : Result :=
  s.issue (.wrsr g a n) g (withThread fun s x b t => .done (s.srWrite x b t a n.toNat) [])

/-! ## `trap`, `eret` (R317, R318, R320) -/

/-- `trap`. -/
def execTrap (g : Guard) (n : BitVec 5) (s : State) : Result :=
  s.issue (.trap g n) g fun s _ => .past s (BitVec.ofNat 8 (0x20 + n.toNat))

/-- The header of the basic block that holds a word: the nearest header below it whose block covers it. -/
def findHeader (k : OvlCopy) (off : Nat) : Nat → Option Nat
  | 0 => none
  | n + 1 =>
    let h := off - 8 * (256 - n)
    if off < 8 * (256 - n) then none
    else
      let w := k.word h
      if isHeader w && off < h + 8 * ((readHeader w).len + 1) then some h else findHeader k off n

/-- The basic block a thread stands in at a PC: the one it held, when it covers the PC, else the one found in the
image. -/
def State.blockAt (s : State) (core c : Nat) (held pc : Word) : Word :=
  match s.residentCopy core c (codeOvl pc) with
  | none => held
  | some k =>
    let h := readHeader (k.word (codeOff held))
    if codeOvl held == codeOvl pc && codeOff held < codeOff pc && codeOff pc < codeOff held + 8 * (h.len + 1) &&
        isHeader (k.word (codeOff held)) then held
    else match findHeader k (codeOff pc) 256 with
      | some o => codeAddr (codeOvl pc) o
      | none => held

/-- Leaves handler mode. -/
def Thread.leaveHandler (t : Thread) : Thread :=
  { t with hmode := false, hcause := 0, hpc := 0, hpcHw := false, hrec := 0, wait := .none }

/-- A thread's return to a hardware-set `%hpc`: the word named, in the basic block and rejoin it held (R318). -/
def Thread.returnTo (t : Thread) (hdr : Word) (enter : Bool) : Thread :=
  { t.leaveHandler with pc := t.hpc, hdr := hdr, rej := t.retRej, entering := enter }

/-- What a park record says of its event: its cause, whether it has been taken, and its count (R398, R402). A record that
cannot be read counts as not taken; its cause and its count are free values (DESIGN CHOICE, log entry 127). -/
def State.recordOf (s : State) (b : Block) (w : Who) (t : Thread) : Cause × Bool × Nat :=
  let unread : Cause × Bool × Nat := ((Config.freeWord s.fresh).setWidth 8, false, (Config.freeWord (s.fresh + 1)).toNat)
  if (s.ctx b.ctx).parkbase = 0 then unread
  else match s.vreadSpan b.ctx (s.recordAt b w t).toNat 4 with
    | .ok bs => (bs.headD 0, (bs.getD 1 0).getLsbD 4, leNat (bs.drop 56))
    | .error _ => unread

/-- Delivers again, in PSEQ order, the events of the saved parks that were not taken: to the control thread's handler, or to the
runtime where a park in those threads would go there outside handler mode (R400, R402). -/
def State.redeliver (s : State) (blk : Nat) : State :=
  match s.block blk with
  | none => s
  | some b =>
    let l := b.whos.filterMap fun w => (b.thread w).bind fun t =>
      if t.live && t.restored then
        let r := s.recordOf b w t
        if r.2.1 then none else some (w, r.1, r.2.2)
      else none
    let l := sortBy (fun a c => a.2.2 ≤ c.2.2) l
    let told (t : Thread) : Thread := { t with restored := false }
    let z : State := { s with fresh := s.fresh + 2 }
    let s := z.modBlock blk fun b => { b with launchF := false, threads := b.threads.map told, ctl := b.ctl.map told }
    l.foldl (fun s e =>
      match b.thread e.1 with
      | none => s
      | some t =>
        let hrec := s.recordAt b e.1 t
        if e.1 == .ctl || !b.ctlLive then s.tellRuntime b e.1 e.2.1 hrec 0 else s.queueEvent blk e.1 e.2.1 hrec) s

/-- `eret` of one thread. A `%hpc` that `wrsr` wrote is the target of a transfer of the bundle (R227, R318). -/
def State.eret (s : State) (x : Site) (b : Block) (t : Thread) : Act :=
  let c := s.ctx b.ctx
  let enter := s.headerWord b.core b.ctx t.hpc
  let hdr := s.blockAt b.core b.ctx t.retHdr t.hpc
  let after (s : State) : State :=
    let s := (s.modBlock x.blk Block.sweep).settle b.core
    if b.launchF && (x.who == .ctl || !b.ctlLive) then s.redeliver x.blk else s
  if (t.repark || b.launchF) && b.whos.any fun w => (b.thread w).any fun u => u.restored && !s.recordOpen b w u then
    .stall s (.again false)
  else if t.repark then
    .gone (after (s.setThread x fun t =>
      { t.returnTo hdr enter with parked := true, keptPc := t.hpc, repark := false,
                                  keptCause := (s.recordOf b x.who t).1,
                                  taken := (s.recordOf b x.who t).2.1 }))
  else if !c.targetOk t.hpc then badTarget t.hpc
  else if t.hpcHw then
    let s := s.cancelEvict b.core b.ctx (codeOvl t.hpc)
    .gone (after (s.setThread x fun t => t.returnTo hdr enter))
  else if (s.residentCopy b.core b.ctx (codeOvl t.hpc)).isSome && !enter then badTarget t.hpc
  else
    let s := s.setThread x Thread.leaveHandler
    .jump (if b.launchF && (x.who == .ctl || !b.ctlLive) then s.redeliver x.blk else s) t.hpc

/-- `eret`. -/
def execEret (g : Guard) (s : State) : Result :=
  s.issue (.eret g) g (withThread fun s x b t => s.eret x b t)

/-! ## Thread control (R319) -/

/-- The thread of a block that a `%tid` names. -/
def Block.named (b : Block) (v : Word) : Option Who :=
  if v = 0xFFFFFFFF then (if b.ctl.isSome then some .ctl else none)
  else if v.toNat < b.threads.length then some (.vec v.toNat) else none

/-- Acts on one thread of the block when it qualifies, and says whether it did. -/
def onThread (d : BitVec 3) (a : Reg) (p : Site → Who → Thread → Bool) (f : State → Block → Who → Thread → State) :
    State → Site → Act :=
  withThread fun s x b t =>
    match (b.named (t.src a)).bind fun w => (b.thread w).map fun u => (w, u) with
    | some (w, u) =>
      if p x w u then
        let s := (f (s.setThread x fun t => t.setQ d true) b w u)
        if (s.thread x.blk x.who).any fun t => t.live then .done s [] else .gone s
      else .done (s.setThread x fun t => t.setQ d false) []
    | none => .done (s.setThread x fun t => t.setQ d false) []

/-- `park`. -/
def execPark (g : Guard) (d : BitVec 3) (a : Reg) (s : State) : Result :=
  s.issue (.park g d a) g (onThread d a (fun x w u => u.live && !u.parked && w != x.who) fun s b w u =>
    (s.parkQuiet b.id { who := w, cause := 0, pc := u.resumePc, enter := u.atHeader,
                        word := s.wordAt b.core b.ctx u.resumePc }).completeRdvs b.id)

/-- `resume` (R44): it waits while the line of the record cannot be reached (R426). -/
def execResume (g : Guard) (d : BitVec 3) (a : Reg) (s : State) : Result :=
  s.issue (.resume g d a) g (withThread fun s x b t =>
    if (b.named (t.src a)).any fun w => (b.thread w).any fun u => u.live && u.parked && !s.recordOpen b w u then
      .stall s (.again false)
    else onThread d a (fun _ _ u => u.live && u.parked) (fun s b w _ => s.resumeThread b.id w) s x)

/-- `kill` (R37, R234). -/
def execKill (g : Guard) (d : BitVec 3) (a : Reg) (s : State) : Result :=
  s.issue (.kill g d a) g (onThread d a (fun _ _ u => u.live) fun s b w _ => s.endThread b.id w)

/-! ## Saving and restoring (R320, R321) -/

/-- Cuts bytes into pieces of 16. -/
def chunks16 : Nat → List Byte → List (List Byte)
  | 0, _ => []
  | n + 1, bs => bs.take 16 :: chunks16 n (bs.drop 16)

/-- Writes pieces of 16 bytes from an address up, or the cause that refuses one. -/
def State.vwriteAll (s : State) (c va : Nat) : List (List Byte) → Except (Cause × Nat) State
  | [] => .ok s
  | p :: ps =>
    match s.vwrite c (BitVec.ofNat 64 va) p with
    | .error e => .error (e, va)
    | .ok s => s.vwriteAll c (va + 16) ps

/-- A 32-bit field that may be absent. -/
def optWord (o : Option Word) : Nat := (o.getD 0xFFFFFFFF).toNat

/-- A flag bit. -/
def flagBit (b : Bool) (i : Nat) : Nat := if b then 2 ^ i else 0

/-- A thread record (R320). -/
def threadRecord (t : Thread) : List Byte :=
  leBytes 4 (if t.hmode then t.hpc else t.trapPc).toNat ++ leBytes 4 (optWord (if t.hmode then t.retRej else t.rej)) ++
  leBytes 1 (flagBit t.held 0 + flagBit (t.parked || t.repark) 1 + flagBit (!t.live) 2 + flagBit t.helper 3) ++
  leBytes 7 0

/-- A rejoin record (R320). -/
def rejoinBytes (now : Nat) (r : Rejoin) : List Byte :=
  leBytes 4 r.j.toNat ++ leBytes 4 (optWord r.out) ++ leBytes 4 r.memb.toNat ++ leBytes 4 r.ent.toNat ++
  leBytes 4 (if r.ent == 0 then 0 else (now - r.since) / Config.coreTicks) ++ leBytes 2 r.win ++ leBytes 10 0

/-- An entry record (R320). -/
def entryBytes (k : Cand) : List Byte :=
  leBytes 1 k.pri ++ leBytes 3 0 ++ leBytes 4 k.hdr.toNat ++ leBytes 4 (optWord k.rej) ++ leBytes 2 k.wcnt ++
  leBytes 2 k.win

/-- Whether a candidate is one that the saved frontier keeps: some thread stands in it outside handler mode, or
returns to it. -/
def Block.keeps (b : Block) (k : Cand) : Bool :=
  b.threads.zipIdx.any fun p => (p.1.standsIn p.2 k && !p.1.hmode) || p.1.returnsTo p.2 k

/-- The frontier record of a block (R320). -/
def State.frontierBytes (s : State) (b : Block) : List Byte :=
  let rs := b.rejoins.filter fun r => !r.freed
  let ks := b.cands.filter b.keeps
  let cpc : Nat := match b.ctl with
    | some t => (if t.hmode then t.hpc else t.trapPc).toNat
    | none => 0xFFFFFFFF
  let cst : Nat := match b.ctl with
    | some t => flagBit (t.parked || t.repark) 0 + flagBit (!t.live) 1
    | none => 0
  leBytes 4 b.threads.length ++ leBytes 4 rs.length ++ leBytes 4 ks.length ++ leBytes 4 cpc ++ leBytes 1 cst ++
  leBytes 47 0 ++ b.threads.flatMap threadRecord ++ rs.flatMap (rejoinBytes s.tick) ++ ks.flatMap entryBytes

/-- The act of an access by `frsave`, `frload`, `bsave` or `brest`: aligned, and after the thread's earlier accesses
have been performed. -/
def State.bulk (s : State) (x : Site) (va : DWord) (k : Nat) (f : State → Act) : Act :=
  if va.toNat % k ≠ 0 then .fault 0x07 (some va) 0 else s.released x .pkg f

/-- Reads `n` pieces of 16 bytes for an instruction: it waits at a line that cannot be reached, and a refused read names the
piece. -/
def State.readArea (s : State) (x : Site) (b : Block) (t : Thread) (va n : Nat) (f : State → List Byte → Act) : Act :=
  if s.areaShut b.ctx va (16 * n) then .stall s (.again false)
  else match s.spanRefused b.ctx va n, s.vreadSpan b.ctx va n with
    | some (a, e), _ => s.readFault b x.who t e a
    | none, .ok bs => f (s.areaKeep b.ctx va (16 * n)) bs
    | none, .error e => .fault e (some (BitVec.ofNat 64 va)) 0

/-- `frsave`. -/
def execFrsave (g : Guard) (a : Reg) (s : State) : Result :=
  s.issue (.frsave g a) g (withThread fun s x b t =>
    let va := t.pair a.toNat
    s.bulk x va 64 fun s =>
      let bs := s.frontierBytes b
      if s.areaShut b.ctx va.toNat bs.length then .stall s (.again false)
      else match s.vwriteAll b.ctx va.toNat (chunks16 (bs.length / 16) bs) with
      | .ok s => .done s []
      | .error (e, at_) => .fault e (some (BitVec.ofNat 64 at_)) 0)

/-- A frontier record that has been read. -/
structure Frontier where
  nthr    : Nat
  cpc     : Word
  cst     : Nat
  threads : List (List Byte)
  rejoins : List Rejoin
  cands   : List Cand
  clean   : Bool
  deriving DecidableEq, Repr

/-- Cuts bytes into `n` pieces of `k`. -/
def pieces (k : Nat) : Nat → List Byte → List (List Byte)
  | 0, _ => []
  | n + 1, bs => bs.take k :: pieces k n (bs.drop k)

/-- The number in `n` bytes at an offset. -/
def fieldAt (bs : List Byte) (o n : Nat) : Nat := leNat ((bs.drop o).take n)

/-- A 32-bit field read as a point that may be absent. -/
def pointAt (bs : List Byte) (o : Nat) : Option Word :=
  let v := fieldAt bs o 4
  if v = 0xFFFFFFFF then none else some (BitVec.ofNat 32 v)

/-- Reads a rejoin record. -/
def readRejoin (now : Nat) (bs : List Byte) : Rejoin :=
  { j := BitVec.ofNat 32 (fieldAt bs 0 4), out := pointAt bs 4, memb := BitVec.ofNat 32 (fieldAt bs 8 4),
    ent := BitVec.ofNat 32 (fieldAt bs 12 4), since := now - Config.coreTicks * fieldAt bs 16 4,
    win := fieldAt bs 20 2, freed := false }

/-- Reads an entry record. -/
def readEntry (bs : List Byte) : Cand :=
  { pri := fieldAt bs 0 1, hdr := BitVec.ofNat 32 (fieldAt bs 4 4), rej := pointAt bs 8,
    wcnt := fieldAt bs 12 2, win := fieldAt bs 14 2 }

/-- Reads a frontier record from its head and its body (R320). -/
def readFrontier (now : Nat) (head body : List Byte) : Frontier :=
  let n := fieldAt head 0 4
  let r := fieldAt head 4 4
  let e := fieldAt head 8 4
  let ts := pieces 16 n body
  let rs := pieces 32 r (body.drop (16 * n))
  let es := pieces 16 e (body.drop (16 * n + 32 * r))
  { nthr := n, cpc := BitVec.ofNat 32 (fieldAt head 12 4), cst := fieldAt head 16 1, threads := ts,
    rejoins := rs.map (readRejoin now), cands := es.map readEntry,
    clean := fieldAt head 17 47 = 0 && fieldAt head 16 1 < 4 &&
      (ts.all fun t => fieldAt t 8 1 < 16 && fieldAt t 9 7 = 0) && (rs.all fun t => fieldAt t 22 10 = 0) &&
      (es.all fun t => fieldAt t 1 3 = 0 && fieldAt t 0 1 < 16) }

/-- Whether two records of one entry disagree in PRI, or two name the same entry and window. -/
def candClash : List Cand → Bool
  | [] => false
  | k :: ks => (ks.any fun j => j.hdr == k.hdr && j.rej == k.rej && (j.pri != k.pri || j.win == k.win)) || candClash ks

/-- The basic block of a saved thread: the entry of its window and rejoin with the nearest header below its PC. -/
def savedHdr (ks : List Cand) (win : Nat) (rej : Option Word) (pc : Word) : Word :=
  ((ks.filter fun k => k.win == win && k.rej == rej && codeOvl k.hdr == codeOvl pc && k.hdr.toNat ≤ pc.toNat).foldl
    (fun m k => if m.toNat ≤ k.hdr.toNat then k.hdr else m) 0)

/-- Restores one thread of a block from its record (R320). -/
def Block.restoreThread (b : Block) (ks : List Cand) (tid : Nat) (r : List Byte) : Block :=
  let st := fieldAt r 8 1
  if natBit st 2 then b.endThread (.vec tid)
  else b.modThread (.vec tid) fun t =>
    let pc := BitVec.ofNat 32 (fieldAt r 0 4)
    { t with hpc := pc, hpcHw := true, retRej := pointAt r 4, retHdr := savedHdr ks (tid / 32) (pointAt r 4) pc,
             held := natBit st 0, repark := natBit st 1, restored := natBit st 1 }

/-- Restores a block's control thread. -/
def Block.restoreCtl (b : Block) (f : Frontier) : Block :=
  if natBit f.cst 1 then b.endThread .ctl
  else if f.cpc = 0xFFFFFFFF then b
  else b.modThread .ctl fun t =>
    { t with hpc := f.cpc, hpcHw := true, retHdr := 0, retRej := none, repark := natBit f.cst 0, restored := natBit f.cst 0 }

/-- Restores a block's frontier, rejoin records and resume PCs (R320). -/
def Block.restore (b : Block) (f : Frontier) : Block :=
  let b := { b with rejoins := f.rejoins,
                    cands := f.cands ++ b.cands.filter fun k => !b.keeps k && f.cands.all fun j =>
                      !(j.hdr == k.hdr && j.rej == k.rej && j.win == k.win) }
  let b := (f.threads.zipIdx).foldl (fun b p => b.restoreThread f.cands p.2 p.1) b
  (b.restoreCtl f).release

/-- `frload`. -/
def execFrload (g : Guard) (a : Reg) (s : State) : Result :=
  s.issue (.frload g a) g (withThread fun s x b t =>
    let va := t.pair a.toNat
    s.bulk x va 64 fun s =>
      s.readArea x b t va.toNat 4 fun s head =>
        let n := fieldAt head 0 4
        let r := fieldAt head 4 4
        let e := fieldAt head 8 4
        if n ≠ b.threads.length || 256 < r || 2048 < e then .fault 0x09 (some va) 0
        else s.readArea x b t (va.toNat + 64) (n + 2 * r + e) fun s body =>
          let f := readFrontier s.tick head body
          if !f.clean || candClash f.cands then .fault 0x09 (some va) 0
          else
            let s := ((s.modBlock x.blk fun b => b.restore f).completeRdvs x.blk).settle b.core
            if (s.thread x.blk x.who).any (·.live) then .done s [] else .gone s)

/-- Pads a list of bytes to a multiple of 16 with what memory holds. -/
def padTo16 (bs : List Byte) (old : List Byte) : List Byte := bs ++ old.drop bs.length

/-- Writes 8-byte words one by one, or the cause that refuses one. -/
def State.vwrite8 (s : State) (c va : Nat) : List DWord → Except (Cause × Nat) State
  | [] => .ok s
  | v :: vs =>
    match s.vwrite c (BitVec.ofNat 64 va) (leBytes 8 v.toNat) with
    | .error e => .error (e, va)
    | .ok s => s.vwrite8 c (va + 8) vs

/-- Reads `n` 8-byte words. -/
def State.vread8 (s : State) (c va : Nat) : Nat → Except (Cause × Nat) (List DWord)
  | 0 => .ok []
  | n + 1 =>
    match s.vread c (BitVec.ofNat 64 va) 8 with
    | .error e => .error (e, va)
    | .ok bs =>
      match s.vread8 c (va + 8) n with
      | .error e => .error e
      | .ok l => .ok (BitVec.ofNat 64 (leNat bs) :: l)

/-- `bsave`. -/
def execBsave (g : Guard) (a : Reg) (s : State) : Result :=
  s.issue (.bsave g a) g (withThread fun s x b t =>
    let va := t.pair a.toNat
    s.bulk x va 8 fun s =>
      if s.areaShut b.ctx va.toNat (8 * b.bars.length) then .stall s (.again false)
      else match s.vwrite8 b.ctx va.toNat (b.bars.map Bar.image) with
      | .ok s => .done (s.modBlock x.blk fun b => { b with barSaved := true }) []
      | .error (e, at_) => .fault e (some (BitVec.ofNat 64 at_)) 0)

/-- The barrier updates that were held while a block was saved are applied to it (R339). -/
def State.applyHeld (s : State) (blk : Nat) : State :=
  match s.block blk with
  | none => s
  | some b =>
    let mine (h : Nat × Nat × Nat × Int × Bool) : Bool := h.1 == b.seq && h.2.1 == b.bid
    let l := (s.ctx b.ctx).heldBars.filter mine
    (s.modBlock blk fun b => l.foldl (fun b h => b.modBar h.2.2.1 fun k => k.engine h.2.2.2.1.toNat h.2.2.2.2) b).modCtx
      b.ctx fun k => { k with heldBars := k.heldBars.filter fun h => !mine h }

/-- `brest`: no completion check; an image that is not legal raises 0x09 and changes nothing. -/
def execBrest (g : Guard) (a : Reg) (s : State) : Result :=
  s.issue (.brest g a) g (withThread fun s x b t =>
    let va := t.pair a.toNat
    s.bulk x va 8 fun s =>
      if s.areaShut b.ctx va.toNat (8 * b.bars.length) then .stall s (.again false)
      else match s.vread8 b.ctx va.toNat b.bars.length with
      | .error (e, at_) => s.readFault b x.who t e (BitVec.ofNat 64 at_)
      | .ok l =>
        let s := s.areaKeep b.ctx va.toNat (8 * b.bars.length)
        match l.mapM Bar.ofImage with
        | some bars => .done ((s.modBlock x.blk fun b => { b with bars := bars, barSaved := false }).applyHeld x.blk) []
        | none => .fault 0x09 (some va) 0)

/-! ## Log and translation (R322, R323) -/

/-- `logpush`: one record for each guard-true thread, in ascending `%tid`. -/
def execLogpush (g : Guard) (a : Reg) (s : State) : Result :=
  s.issue (.logpush g a) g (exceptHelper id (withThread fun s x b t =>
    let v := t.src a
    .done (s.logRecord b.ctx (v.extractLsb' 0 8) (BitVec.ofNat 8 b.core) (v.extractLsb' 8 16).toNat
      (BitVec.ofNat 32 b.bid) (t.hdr.setWidth 64) ((tidOf x.who).toNat % 65536)) []))

/-- `tlbinv`: acts as `fence.pkg`, then registers the removal and waits until it is complete. -/
def execTlbinv (g : Guard) (a : Reg) (mode : BitVec 2) (s : State) : Result :=
  s.issue (.tlbinv g a mode) g (withThread fun s x b t =>
    s.released x .pkg fun s =>
      let id := s.nextId
      .stall { s with nextId := id + 1, invs := s.invs ++ [({ id := id, blk := x.blk, who := x.who, ctx := b.ctx,
                                                              mode := mode.toNat, va := t.pair a.toNat } : TlbInv)] }
        (.tlbinv id))

end Sys2Proof.Machine
end

