-- ==== Sys2Proof/Machine/Copy.lean ====
section
/-! DEFINITION. The copy forms and chains of class 0x9 (R277 to R290), automatic fills (R85), and the completion of these
engine commands (R137, R138, R276, R283, R285, R422, R423). -/

namespace Sys2Proof.Machine

/-! ## What a copy does -/

/-- A copy: its two sides, extents, formats, reduce operation and saturation. -/
structure CopySpec where
  src : Side
  dst : Side
  ext : List Nat
  sf  : Nat
  df  : Nat
  rop : Nat
  sat : Bool
  deriving DecidableEq, Repr

/-- The elements of a copy. -/
def CopySpec.total (p : CopySpec) : Nat := p.ext.foldl (· * ·) 1

/-- The bytes of some elements of a format. -/
def fmtBytes (code n : Nat) : Nat :=
  match efmt code with
  | some f => n * f.width / 8
  | none => 0

/-- Why a copy is refused before any element moves: 0x12 or 0x0C (R285), in the order of its rows. -/
inductive Refuse where
  | go
  | desc
  | tile
  deriving DecidableEq, Repr

/-- The worse of two refusals: the earlier row of R285. -/
def Refuse.join (a b : Refuse) : Refuse :=
  match a, b with
  | .desc, _ => .desc
  | _, .desc => .desc
  | .tile, _ => .tile
  | _, .tile => .tile
  | .go, .go => .go

/-- The status of a refusal. -/
def Refuse.cause : Refuse → Option Cause
  | .go => none
  | .desc => some 0x12
  | .tile => some 0x0C

/-- Refuses with 0x12 unless a condition holds. -/
def needDesc (c : Bool) : Refuse := if c then .go else .desc

/-- A tile as a side of a copy (R280, R285): a format of the tile's element width, both NPI or both not, every element of
the box inside it. -/
def Block.tileSide (b : Block) (i : Nat) (f : EFmt) (ext : List Nat) : Refuse :=
  if b.lr.ntile ≤ i || !(b.tile i).bound then .tile
  else
    let t := b.tile i
    match efmt t.lay.fmt with
    | none => .desc
    | some g =>
      if g.width ≠ f.width || g.isNpi != f.isNpi then .desc
      else if g.isNpi && !(t.lay.s0 = 1 && t.lay.s1 % 32 = 0 && t.lay.s2 % 32 = 0) then .desc
      else if ext.drop 3 != [1, 1, 1] then .desc
      else if t.boxInside f (ext.getD 0 0) (ext.getD 1 0) (ext.getD 2 0) then .go else .tile

/-- The rules of a side in global memory: those of an NPI side (R280). -/
def addrSide (f : EFmt) (st : List Int) (ext : List Nat) : Refuse :=
  needDesc (!f.isNpi || (st.headD 0 == 1 && (st.drop 1).all (· % 32 == 0) && ext.headD 0 % 32 == 0))

/-- The rules of one side. -/
def Block.sideRule (b : Block) (x : Side) (f : EFmt) (ext : List Nat) : Refuse :=
  match x with
  | .addr _ st _ => addrSide f st ext
  | .phys _ _ => .go
  | .tile i _ => (needDesc (!f.isNpi || ext.headD 0 % 32 == 0)).join (b.tileSide i f ext)

/-- The format code that a reduce operation asks for (R282). -/
def ropFmt (rop : Nat) : Option Nat :=
  match rop with
  | 1 => some 0x00 | 2 => some 0x01 | 3 => some 0x08 | 4 => some 0x08 | 5 => some 0x00 | 6 => some 0x00
  | 7 => some 0x08 | 8 => some 0x08
  | _ => none

/-- The reduce operations (R282): destination, then source. -/
def ropComb (rop : Nat) (d v : Nat) : Combined :=
  match rop with
  | 1 => addF32 d v
  | 2 => addBf16 d v
  | 3 => addW d v
  | 4 => addS d v
  | 5 => selF32 true d v
  | 6 => selF32 false d v
  | 7 => selI32 true d v
  | 8 => selI32 false d v
  | _ => (v, none)

/-- The checks of a copy that come before any element moves; `red` says that it is `cpy.red`, `other` that the rules of its
destination tile are left to each target (R283). -/
def Block.refuses (b : Block) (p : CopySpec) (red each : Bool) : Refuse :=
  match efmt p.sf, efmt p.df with
  | some f, some g =>
    let ops := needDesc (if red then p.sf == p.df && ropFmt p.rop == some p.sf else p.rop == 0)
    let pair := needDesc (convertible f g)
    (ops.join pair).join ((b.sideRule p.src f p.ext).join (if each then .go else b.sideRule p.dst g p.ext))
  | _, _ => .desc

/-! ## Descriptors and views (R279, R286) -/

/-- A signed 32-bit field of a descriptor. -/
def strideAt (bs : List Byte) (o : Nat) : Int := natSigned 32 (fieldAt bs o 4)

/-- A side of a descriptor. -/
def Block.descSide (b : Block) (tile : Bool) (v : Nat) (st : List Int) (pstr : Nat) : Side :=
  if tile then .tile (v % 256) (b.tile (v % 256)).epoch else .addr (BitVec.ofNat 64 v) st pstr

/-- The copy of a descriptor. -/
def Block.descSpec (b : Block) (bs : List Byte) : CopySpec :=
  let ctl := fieldAt bs 0x5B 1
  let pstr := fieldAt bs 0x60 8
  { src := b.descSide (natBit ctl 0) (fieldAt bs 0 8) ((List.range 6).map fun i => strideAt bs (0x28 + 4 * i)) pstr,
    dst := b.descSide (natBit ctl 1) (fieldAt bs 8 8) ((List.range 6).map fun i => strideAt bs (0x40 + 4 * i)) pstr,
    ext := (List.range 6).map fun i => fieldAt bs (0x10 + 4 * i) 4,
    sf := fieldAt bs 0x58 1 % 32, df := fieldAt bs 0x59 1 % 32, rop := fieldAt bs 0x5A 1 % 16, sat := natBit ctl 2 }

/-- Whether a side is in global memory in planar form. -/
def planarSide (x : Side) (code : Nat) : Bool :=
  match x with
  | .addr _ _ _ => (efmt code).any EFmt.isNpi
  | .phys _ _ => false
  | .tile _ _ => false

/-- Whether the reserved bits of a descriptor are 0 (R279). -/
def descClean (bs : List Byte) (p : CopySpec) : Bool :=
  let ctl := fieldAt bs 0x5B 1
  fieldAt bs 0x58 1 < 32 && fieldAt bs 0x59 1 < 32 && fieldAt bs 0x5A 1 < 16 && ctl < 8 && fieldAt bs 0x5C 4 == 0 &&
    fieldAt bs 0x68 24 == 0 && (!natBit ctl 0 || fieldAt bs 0 8 < 256) && (!natBit ctl 1 || fieldAt bs 8 8 < 256) &&
    (fieldAt bs 0x60 8 == 0 || planarSide p.src p.sf || planarSide p.dst p.df)

/-- The global side of a view, or none when its scale region cannot be read (R286). -/
def State.viewSide (s : State) (v : View) (drain : Bool) (fmt : Nat) : Option Side :=
  let st : List Int := [1, v.gs1, v.gs2]
  if !v.frs then some (.addr v.addr st v.pstr)
  else
    let r := vget s.fr v.frn FmtRange.reset
    if drain || !r.en || r.scl == 0 || fmt ≠ 0x01 || v.gfmt ≠ 0x01 then none
    else some (.phys (BitVec.ofNat 64 (2 * r.scl.toNat) + 2 * v.addr) st)

/-- The copy of a fill or drain through a tile's view (R286). -/
def State.viewSpec (s : State) (b : Block) (i : Nat) (drain : Bool) : Except Refuse CopySpec :=
  let t := b.tile i
  match t.view with
  | none => .error .tile
  | some v =>
    match s.viewSide v drain t.lay.fmt with
    | none => .error .desc
    | some g =>
      let e : Side := .tile i t.epoch
      .ok { src := if drain then e else g, dst := if drain then g else e, ext := [v.e0, v.e1, v.e2, 1, 1, 1],
            sf := if drain then t.lay.fmt else v.gfmt, df := if drain then v.gfmt else t.lay.fmt, rop := 0,
            sat := v.sat }

/-! ## Starting copies (R277, R278, R284, R287) -/

/-- What a command names for its completion (R277). -/
def complSignal (k : Compl) : Signal :=
  { hdl := if unused k.d then none else some (k.d.toNat - 112), own := if k.fen then some k.flag.toNat else none,
    bar := if k.ben then some k.bar.toNat else none, scope := k.scope }

/-- A helper lane's copy completes its handle at once (R28). -/
def complHelper (k : Compl) (t : Thread) : Thread := if unused k.d then t else t.clearH (k.d.toNat - 112)

/-- Starts a command whose tiles are marked when it has started. -/
def Act.after (a : Act) (f : State → State) : Act :=
  match a with
  | .done s l => .done (f s) l
  | .stall s w => .stall s w
  | .fault c x d => .fault c x d
  | .failed s c a d => .failed s c a d
  | .report s c x d w => .report s c x d w
  | .jump s t => .jump s t
  | .past s c => .past s c
  | .gone s => .gone s

/-- The tile conditions of a copy with two sides (R284). -/
def sideWaits (src dst : Side) : List (Nat × TileCond) :=
  (match dst with
   | .tile i _ => [(i, .writable)]
   | .addr _ _ _ | .phys _ _ => []) ++
  (match src with
   | .tile i _ => [(i, .readable)]
   | .addr _ _ _ | .phys _ _ => [])

/-- The tile conditions of a copy (R284). -/
def CopySpec.waits (p : CopySpec) : List (Nat × TileCond) := sideWaits p.src p.dst

/-- The tiles of a copy that starts: the destination passes to FILLING, the source counts an engine user (R284). -/
def Block.beginCopy (b : Block) (src dst : Side) : Block :=
  let b := match dst with
    | .tile i _ => b.modTile i fun t => { t with st := .filling }
    | .addr _ _ _ | .phys _ _ => b
  match src with
  | .tile i _ => b.modTile i fun t => { t with users := t.users + 1 }
  | .addr _ _ _ | .phys _ _ => b

/-- Starts a copy whose checks have passed. -/
def State.startCopy (s : State) (x : Site) (b : Block) (t : Thread) (k : Compl) (p : CopySpec)
    (bc : Option (List (Nat × Nat))) : Act :=
  let w := p.waits
  if !b.tilesReady w then .stall s (.tiles w)
  else (s.startCmd x b t (complSignal k) 0 (.copy p.src p.dst p.ext p.sf p.df p.rop p.sat bc)).after fun s =>
    s.modBlock x.blk fun b => b.beginCopy p.src p.dst

/-- A side that is no tile. -/
def noTile : Side := .addr 0 [] 0

/-- A side of a copy that is refused, as the copy holds it: a tile of the block that is bound; nothing else is held. -/
def Block.heldSide (b : Block) (x : Side) : Side :=
  match x with
  | .tile i e => if i < b.lr.ntile && (b.tile i).bound then .tile i e else noTile
  | .addr _ _ _ | .phys _ _ => noTile

/-- Starts a copy that completes with a status before any element moves: it issues, and holds its tiles, like one that does
not (R284, R422). -/
def State.startBad (s : State) (x : Site) (b : Block) (t : Thread) (k : Compl) (c : Cause) (bytes : Nat) (src dst : Side) :
    Act :=
  let src := b.heldSide src
  let dst := b.heldSide dst
  if !b.tilesReady (sideWaits src dst) then .stall s (.tiles (sideWaits src dst))
  else (s.startCmd x b t (complSignal k) 0 (.badCopy c bytes src dst)).after fun s => s.modBlock x.blk fun b => b.beginCopy src dst

/-- Starts a command that is refused, when the bytes it was to write are not stated: a free value. -/
def State.startLost (s : State) (x : Site) (b : Block) (t : Thread) (k : Compl) (c : Cause) (src dst : Side) : Act :=
  let (w, s) := s.free
  s.startBad x b t k c w.toNat src dst


/-- The `%bid` of the blocks of a block's gang, in order, the block itself among them (R283). -/
def Block.gangBids (b : Block) : List Nat :=
  if b.lr.gang = 0 then [b.bid]
  else (List.range b.lr.gang).map fun i => b.bid / b.lr.gang * b.lr.gang + i

/-- Runs the rest of a copy with the bytes of its descriptor (R279). -/
def withDescriptor (k : Compl) (a : Reg) (f : State → Site → Block → Thread → List Byte → Act) : State → Site → Act :=
  withThread fun s x b t =>
    let va := t.pair a.toNat
    if va.toNat % 128 ≠ 0 then .fault 0x07 (some va) 0
    else s.released x .blk fun s =>
      s.readRecord b va 128 fun s r =>
        match r with
        | .error e => s.startLost x b t k e noTile noTile
        | .ok bs => f s x b t bs

/-- A copy of a descriptor: `cpy` and `cpy.red`. -/
def copyDesc (red : Bool) (k : Compl) (a : Reg) : State → Site → Act :=
  withDescriptor k a fun s x b t bs =>
    let p := b.descSpec bs
    match ((needDesc (descClean bs p)).join (b.refuses p red false)).cause with
    | some c =>
      if (efmt p.df).isNone then s.startLost x b t k c p.src p.dst else s.startBad x b t k c (fmtBytes p.df p.total) p.src p.dst
    | none => s.startCopy x b t k p none

/-- `cpy`. -/
def execCpy (g : Guard) (k : Compl) (a : Reg) (s : State) : Result :=
  s.issue (.cpy g k a) g (exceptHelper (complHelper k) (copyDesc false k a))

/-- `cpy.red`. -/
def execCpyRed (g : Guard) (k : Compl) (a : Reg) (s : State) : Result :=
  s.issue (.cpyRed g k a) g (exceptHelper (complHelper k) (copyDesc true k a))

/-- Whether a side is a tile. -/
def Side.isTile : Side → Bool
  | .tile _ _ => true
  | .addr _ _ _ => false
  | .phys _ _ => false

/-- `cpy.bc`. -/
def execCpyBc (g : Guard) (k : Compl) (a : Reg) (s : State) : Result :=
  s.issue (.cpyBc g k a) g (exceptHelper (complHelper k) (withDescriptor k a fun s x b t bs =>
    let p := b.descSpec bs
    let all := b.gangBids
    match ((needDesc (descClean bs p && p.dst.isTile)).join (b.refuses p false true)).cause, p.dst, efmt p.df with
    | some c, _, _ =>
      if (efmt p.df).isNone then s.startLost x b t k c p.src p.dst
      else s.startBad x b t k c (fmtBytes p.df p.total * all.length) p.src p.dst
    | none, .tile i _, some f =>
      let own : CopySpec := if b.tileSide i f p.ext == .go then p else { p with dst := .addr 0 [] 0 }
      s.startCopy x b t k own (some (all.map fun m => (m, i)))
    | none, _, _ => .gone s))

/-- Starts a fill or drain of a bound tile, to write `n` elements of format `df`, or one that is refused and ends with `bad`
before any element moves: it holds its tile like one that is not (R422). -/
def State.startView (s : State) (x : Site) (b : Block) (t : Thread) (k : Compl) (i : Nat) (drain keep : Bool) (df n : Nat)
    (bad : Option Cause) : Act :=
  let w : List (Nat × TileCond) := [(i, if drain then .drainable else .writable)]
  let e := (b.tile i).epoch
  if !b.tilesReady w then .stall s (.tiles w)
  else (s.startCmd x b t (complSignal k) 0 (if drain then .drain i e keep df n else .fill i e false df n)
    { Progress.start with fail := bad }).after fun s =>
      s.modBlock x.blk fun b => b.modTile i fun t => { t with st := if drain then .draining else .filling }

/-- A copy through a view: `cpy.t` and `cpy.d`. When the tile has no view, the bytes that the copy was to write are not stated:
a free value. -/
def copyView (drain keep : Bool) (k : Compl) (a : Reg) : State → Site → Act :=
  withThread fun s x b t =>
    let i := (t.src a).toNat % 256
    if b.lr.ntile ≤ i || !(b.tile i).bound then s.startLost x b t k 0x0C noTile noTile
    else match s.viewSpec b i drain with
      | .ok p => s.startView x b t k i drain keep p.df p.total (b.refuses p false false).cause
      | .error r =>
        match (b.tile i).view with
        | some v => s.startView x b t k i drain keep (if drain then v.gfmt else (b.tile i).lay.fmt) (v.e0 * v.e1 * v.e2) r.cause
        | none =>
          let (w, s) := s.free
          s.startView x b t k i drain keep 0x04 w.toNat r.cause

/-- `cpy.t`. -/
def execCpyT (g : Guard) (k : Compl) (a : Reg) (s : State) : Result :=
  s.issue (.cpyT g k a) g (exceptHelper (complHelper k) (copyView false false k a))

/-- `cpy.d`. -/
def execCpyD (g : Guard) (k : Compl) (a : Reg) (keep : Bool) (s : State) : Result :=
  s.issue (.cpyD g k a keep) g (exceptHelper (complHelper k) (copyView true keep k a))

/-! ## Chains (R288 to R290) -/

/-- The format code of a chain format. -/
def chainCode : ChainFmt → Nat
  | .f32 => 0x00 | .bf16 => 0x01 | .f8e4 => 0x02 | .f8e5 => 0x03

/-- A chain format. -/
def chainFlt : ChainFmt → FFmt
  | .f32 => .f32 | .bf16 => .bf16 | .f8e4 => .e4m3 | .f8e5 => .e5m2

/-- The links of a chain before its end link. -/
def opLinks (o : ChainOps) : List (BitVec 16) := (chainLinks o.w2 o.w3).filter (· != 0)

/-- The operand of a link, as the bits of an F32 value (R289). -/
def linkOperand (b : Block) (t : Thread) (l : BitVec 16) : Word :=
  let v := l.extractLsb' 0 8
  match (l.extractLsb' 8 2).toNat with
  | 1 => t.g v.toNat
  | 2 => BitVec.ofNat 32 (fromInteger .f32 .rne false v.toInt).bits
  | 3 => vget b.sregs v.toNat 0
  | _ => 0

/-- One link: x and y are F32 codes. -/
def linkOp (op x y : Nat) : FRes :=
  let a := fval .f32 x
  let c := fval .f32 y
  match op with
  | 0x01 => fadd .f32 .rne a c
  | 0x02 => fsub .f32 .rne a c
  | 0x03 => fsub .f32 .rne c a
  | 0x04 => fmul .f32 .rne a c
  | 0x05 => fdiv .f32 .rne a c
  | 0x06 => .plain (fmaxmin .f32 false x y)
  | 0x07 => .plain (fmaxmin .f32 true x y)
  | 0x08 => .plain (fmaxmin .f32 true x 0)
  | 0x09 => .plain (fabsCode .f32 x)
  | 0x0A => .plain (fnegCode .f32 x)
  | 0x0B => fex2 .f32 .rne a
  | 0x0C => flg2 .f32 .rne a
  | 0x0D => ftanh .f32 .rne a
  | 0x0E => frcp .f32 .rne a
  | 0x0F => frsq .f32 .rne a
  | 0x10 => fsqrt .f32 .rne a
  | _ => fsigm a

/-- Runs the links over an element: its F32 code and the causes met. -/
def runLinks : List (BitVec 16 × Word) → Nat → List Cause → Nat × List Cause
  | [], x, cs => (x, cs)
  | (l, y) :: ls, x, cs =>
    let r := linkOp (l.extractLsb' 10 6).toNat x y.toNat
    runLinks ls r.bits (cs ++ r.cause.toList)

/-- One element of a chain. -/
def chainElem (sf df : ChainFmt) (ls : List (BitVec 16 × Word)) (code : Nat) : Nat × List Cause :=
  let r := runLinks ls (convert .f32 .rne false (fval (chainFlt sf) code)).bits []
  let d := convert (chainFlt df) .rne true (fval .f32 r.1)
  (d.bits, r.2 ++ d.cause.toList)

/-- A side of a chain: element L lies at base + L × e / 8, under the permutation of its tile (R288). -/
def chainSide (tile : Bool) (v : DWord) (e : Nat) : Side :=
  if tile then .tile (v.toNat % 256) e else .addr v [1] 0

/-- A tile as a chain sees it. -/
def Tile.flat (t : Tile) : Tile := { t with lay := { t.lay with s0 := 1, s1 := 0, s2 := 0 } }

/-- The checks of a tile side of a chain (R78, R285, R288). -/
def Block.chainTile (b : Block) (tile : Bool) (v : DWord) (f : ChainFmt) (n : Nat) : Refuse :=
  let i := v.toNat % 256
  if !tile then .go
  else if b.lr.ntile ≤ i || !(b.tile i).bound then .tile
  else
    let t := b.tile i
    let g : EFmt := .flt (chainFlt f)
    if t.lay.buf != .a then .desc
    else if (efmt t.lay.fmt).any fun h => h.isNpi || h.width != g.width then .desc
    else if t.flat.boxInside g n 1 1 then .go else .tile

/-- `chain` in one thread. Of a count of 2²⁴ or more, for which the spec gives no outcome, the low 24 bits are taken (DESIGN
CHOICE, log entry 142). -/
def chainAct (o : ChainOps) : State → Site → Act :=
  withThread fun s x b t =>
    let src := if o.srcTile then (t.src o.a).setWidth 64 else t.pair o.a.toNat
    let dst := if o.dstTile then (t.src o.b).setWidth 64 else t.pair o.b.toNat
    let n := (t.src o.c).toNat % 2 ^ 24
    let si := src.toNat % 256
    let di := dst.toNat % 256
    match ((b.chainTile o.srcTile src o.sf n).join (b.chainTile o.dstTile dst o.df n)).cause with
    | some c => s.startBad x b t o.compl c (fmtBytes (chainCode o.df) n) (chainSide o.srcTile src (b.tile si).epoch)
        (chainSide o.dstTile dst (b.tile di).epoch)
    | none =>
      let w := (if o.dstTile then [(di, TileCond.writable)] else []) ++ (if o.srcTile then [(si, TileCond.readable)] else [])
      if !b.tilesReady w then .stall s (.tiles w)
      else
        let se := (b.tile si).epoch
        let de := (b.tile di).epoch
        (s.startCmd x b t (complSignal o.compl) 0 (.chain o src dst se de n ((opLinks o).map (linkOperand b t)))).after fun s =>
          s.modBlock x.blk fun b => b.beginCopy (chainSide o.srcTile src se) (chainSide o.dstTile dst de)

/-- `chain`. -/
def execChain (g : Guard) (o : ChainOps) (s : State) : Result :=
  s.issue (.chain g o) g (exceptHelper (complHelper o.compl) (chainAct o))

/-! ## Automatic fills (R85, R287) -/

/-- Starts an automatic fill of an EMPTY tile with a view: it uses no handle and no flag, and follows the control thread's
accesses. -/
def State.autoFill (s : State) (b : Block) (hdr : Word) (i : Nat) : State :=
  let id := s.nextId
  let z : Nat × Nat := match (b.tile i).view with
    | some v => ((b.tile i).lay.fmt, v.e0 * v.e1 * v.e2)
    | none => (0, 0)
  let c : Cmd :=
    { id := id, blk := b.id, who := .ctl, ctx := b.ctx, core := b.core, kind := .fill i (b.tile i).epoch true z.1 z.2, va := 0,
      hdl := none, flags := [], bar := none, scope := .core, stop := false, upto := id, tid := 0xFFFF, hdr := hdr,
      since := s.tick, run := .start }
  { s with nextId := id + 1, cmds := s.cmds ++ [c] }.modBlock b.id fun b => b.modTile i fun t => { t with st := .filling }

/-! ## The elements of a command -/

/-- Whether the tile of a side has been freed since the command started (R82). -/
def Block.freed (b : Block) (x : Side) : Bool :=
  match x with
  | .tile i e => (b.tile i).epoch != e
  | .addr _ _ _ => false
  | .phys _ _ => false

/-- Whether a tile that a command moves elements of has been freed: the command is cancelled (R82). -/
def Block.cancels (b : Block) (k : CmdKind) : Bool :=
  match k with
  | .copy src dst _ _ _ _ _ _ => b.freed src || b.freed dst
  | .fill i e _ _ _ => b.freed (.tile i e)
  | .drain i e _ _ _ => b.freed (.tile i e)
  | .chain o sa da se de _ _ => b.freed (chainSide o.srcTile sa se) || b.freed (chainSide o.dstTile da de)
  | .badCopy _ _ _ _ | .nmcas _ _ _ | .nmenq _ | .nmchase _ _ | .ovld _ _ _ => false

/-- The tiles of a copy that ends: the destination is READY with owner E, the source loses its user (R284, R422). -/
def Block.endCopy (b : Block) (src dst : Side) : Block :=
  let b := match dst with
    | .tile i e => b.modTile i fun t => if t.epoch = e && t.st == .filling then { t with st := .ready, ownerE := true } else t
    | .addr _ _ _ | .phys _ _ => b
  match src with
  | .tile i e => b.modTile i fun t => if t.epoch = e then { t with users := t.users - 1 } else t
  | .addr _ _ _ | .phys _ _ => b

/-- One element of a copy. A `cpy.bc` keeps what it has read for its targets. -/
def State.copyElem (s : State) (m : Cmd) (b : Block) (p : CopySpec) (f g : EFmt) (bc : Bool) (n : Nat) :
    Except Halt (State × List Cause) :=
  let js := indicesOf p.ext n
  match s.sideRead m b p.src f js false with
  | .error e => .error e
  | .ok (s, v) =>
    let (v, c) := if p.rop = 0 then convElem f g p.sat v else (v, none)
    if bc then .ok (s.modCmd m.id fun c => { c with run := { c.run with vals := c.run.vals ++ [v] } }, c.toList)
    else if p.rop = 0 then
      match s.sideWrite m b p.dst g js v (some n) with
      | .error e => .error e
      | .ok s => .ok (s, c.toList)
    else
      match s.sideRead m b p.dst g js true with
      | .error e => .error e
      | .ok (s, d) =>
        let w := ropComb p.rop d v
        match s.sideWrite m b p.dst g js w.1 none with
        | .error e => .error e
        | .ok s => .ok (s, w.2.toList)

/-- One element of a chain. -/
def State.chainStep (s : State) (c : Cmd) (b : Block) (o : ChainOps) (src dst : Side) (ls : List (BitVec 16 × Word))
    (n : Nat) : Except Halt (State × List Cause) :=
  let f : EFmt := .flt (chainFlt o.sf)
  let g : EFmt := .flt (chainFlt o.df)
  let flat : Block := { b with tiles := b.tiles.map Tile.flat }
  match s.sideRead c flat src f [n, 0, 0] false with
  | .error e => .error e
  | .ok (s, v) =>
    let r := chainElem o.sf o.df ls v
    match s.sideWrite c flat dst g [n, 0, 0] r.1 (some n) with
    | .error e => .error e
    | .ok s => .ok (s, r.2)

/-- What a command does: how many elements it has, and the step of one. -/
structure Work where
  total : Nat
  step  : State → Nat → Except Halt (State × List Cause)

/-- The work of a copy. -/
def copyWork (c : Cmd) (b : Block) (p : CopySpec) (bc : Bool) : Except Cause Work :=
  match efmt p.sf, efmt p.df with
  | some f, some g => .ok { total := p.total, step := fun s n => s.copyElem c b p f g bc n }
  | _, _ => .error 0x12

/-- The work of a fill or drain through the view of a tile. -/
def State.viewWork (s : State) (c : Cmd) (b : Block) (i : Nat) (drain : Bool) : Except Cause Work :=
  match s.viewSpec b i drain with
  | .error r => .error (r.cause.getD 0x0C)
  | .ok p =>
    match (b.refuses p false false).cause with
    | some x => .error x
    | none => copyWork c b p false

/-- The work of a command that moves elements, or the status that ends it. -/
def State.workOf (s : State) (c : Cmd) (b : Block) : Except Cause Work :=
  match c.kind with
  | .copy src dst ext sf df rop sat bc =>
    copyWork c b { src := src, dst := dst, ext := ext, sf := sf, df := df, rop := rop, sat := sat } bc.isSome
  | .fill i _ _ _ _ => s.viewWork c b i false
  | .drain i _ _ _ _ => s.viewWork c b i true
  | .chain o sa da se de n ys =>
    let src := chainSide o.srcTile sa se
    let dst := chainSide o.dstTile da de
    .ok { total := n, step := fun s k => s.chainStep c b o src dst ((opLinks o).zip ys) k }
  | .badCopy e _ _ _ => .error e
  | .nmcas _ _ _ | .nmenq _ | .nmchase _ _ | .ovld _ _ _ => .error 0

/-- How far a command runs: to its end, or to the boundary at which a stop takes it (R276). -/
def Cmd.limit (c : Cmd) (total stop : Nat) : Nat := if c.stop then Nat.min stop total else total

/-- Changes the progress of a command. -/
def State.modRun (s : State) (id : Nat) (f : Progress → Progress) : State := s.modCmd id fun c => { c with run := f c.run }

/-- A command meets a failure that ends its elements. -/
def State.failCmd (s : State) (c : Cmd) (e : Cause) : State := s.modRun c.id fun r => { r with fail := some e }

/-- A command does elements up to a limit, and says whether they are over: they wait at a line that cannot be reached. -/
def State.runWork (s : State) (c : Cmd) (w : Work) (limit : Nat) : State × Bool :=
  let r := runElems w.step (limit - c.run.n) { st := s, n := c.run.n, halt := none, logs := c.run.logs }
  let done (s : State) (fail : Option Cause) : State := s.modRun c.id fun p => { p with n := r.n, fail := fail, logs := r.logs }
  match r.halt with
  | none => (done r.st none, true)
  | some (.status e) => (done r.st (some e), true)
  | some .wait => (done r.st none, false)
  | some (.lock va pte pa) => (done (r.st.askLock c va pte pa) none, false)

/-- Whether a command may do elements: the accesses it follows have been performed, and its elements are not over. -/
def State.mayRun (s : State) (c : Cmd) : Bool :=
  s.cmdReady c && (s.cmdLost c).isNone && c.run.fail.isNone && c.run.gate.isNone

/-- A command ends at an element whose write was lost: none from there on is written (R285). -/
def State.loseFrom (s : State) (id n : Nat) (e : Cause) : State :=
  s.modRun id fun r => { r with n := n, fail := some e, pend := r.pend.filter (·.1 < n) }

/-- A command whose tile has been freed ends with 0x0C: the writes that are not visible yet are discarded, and those that are
stay (R82). -/
def State.cancelCmd (s : State) (c : Cmd) : State :=
  match c.run.pend.head? with
  | some e => s.loseFrom c.id e.1 0x0C
  | none => if c.run.fail.isSome then s else s.failCmd c 0x0C

/-- ENGINE_ADVANCE, a step of the model's own: a command does its next element (R120: it is not atomic as a whole). -/
def State.engineAdvance (s : State) (id : Nat) : State :=
  match s.cmd id with
  | none => s
  | some c =>
    match s.block c.blk with
    | none => s
    | some b =>
      if b.cancels c.kind then s.cancelCmd c
      else if !s.mayRun c || c.stop then s
      else match s.workOf c b with
        | .error e => s.failCmd c e
        | .ok w => (s.runWork c w (Nat.min w.total (c.run.n + 1))).1

/-- Whether some write of an element is a commit to a REPLICATE page. -/
def commits (ps : List EngPart) : Bool := ps.any fun p => pteRepl p.pte

/-- Whether the writes of element `n` of a command may become visible: in any order (R138), but a commit, which may be aborted,
follows those of the elements before it, and no element follows one that has still to be committed (R285, R424). -/
def Cmd.flushTurn (c : Cmd) (n : Nat) (ps : List EngPart) : Bool :=
  c.run.pend.all fun q => n ≤ q.1 || !(commits q.2 || commits ps)

/-- A write of an element of a command to a REPLICATE page: its line is locked, the write is made under the lock, and a lock
that was aborted ends the command with 0x15 (R128, R135, R428). An element in planar form is committed word by word. -/
def State.commitPart (s : State) (c : Cmd) (n : Nat) (p : EngPart) : State :=
  match s.lockAt c.id p.pa with
  | .free => s.askLock c p.va p.pte p.pa
  | .asked => s
  | .lost => (s.unlock c.id p.pa).loseFrom c.id n 0x15
  | .held => (s.showParts c [p]).modRun c.id fun r =>
      { r with pend := (r.pend.map fun e => if e.1 == n then (n, e.2.erase p) else e).filter fun e => !e.2.isEmpty
               top := Nat.max r.top (n + 1) }

/-- ENGINE_FLUSH, a step of the model's own: the writes of an element of a command become visible. -/
def State.engineFlush (s : State) (id n : Nat) : State :=
  match s.cmd id with
  | none => s
  | some c =>
    match c.run.pend.find? (·.1 == n) with
    | none => s
    | some e =>
      if (s.block c.blk).any fun b => b.cancels c.kind then s.cancelCmd c
      else if !c.flushTurn n e.2 || !s.partsOpen c e.2 then s
      else match e.2.find? fun p => pteRepl p.pte with
        | some p => s.commitPart c n p
        | none => (s.showParts c e.2).modRun id fun r =>
            { r with pend := r.pend.filter (·.1 != n), top := Nat.max r.top (n + 1) }

/-- The elements whose writes are not visible yet, when a line of one is frozen: the command ends there with 0x14 (R426). A
write that a later element's has overtaken waits for the line instead, so that no element after the failing one is written
(R285, R424; DEDUCED, log entry 131). A die that has failed ends the command with 0x13 (R443). -/
def State.freezeCmd (s : State) (c : Cmd) : State :=
  match c.run.pend.find? fun e => e.2.any fun p => s.dead p.pa 1 with
  | some e => s.loseFrom c.id e.1 0x13
  | none =>
    match c.run.pend.find? fun e => c.run.top ≤ e.1 && e.2.any fun p => s.lineFrozen p.pa with
    | some e => s.loseFrom c.id e.1 0x14
    | none => s

/-- Every write of a command that can be made becomes visible. -/
def State.flushCmd (s : State) (id : Nat) : State :=
  match s.cmd id with
  | none => s
  | some c =>
    let s := s.freezeCmd c
    match s.cmd id with
    | none => s
    | some c => c.run.pend.foldl (fun s e => s.engineFlush id e.1) s

/-! ## Completion -/

/-- Whether a write of a command, visible already, has lost an acknowledgement that the scope of the command asks for (R426). -/
def State.cleanLost (s : State) (c : Cmd) : Bool :=
  s.reqs.any fun r => r.issue == c.id && !r.ofThread && s.lostAt c.scope r

/-- A command whose elements are over completes: its writes become visible, and its signals, a release at its scope, follow
the writes of its core that are earlier (R134, R138). -/
def State.endWork (s : State) (id : Nat) (close : State → Cmd → State) : State :=
  let s := s.flushCmd id
  match s.cmd id with
  | none => s
  | some c =>
    if !c.run.pend.isEmpty then s
    else
      let gate := c.run.gate.getD s.nextId
      let s := s.modRun id fun r => { r with gate := some gate }
      if !s.sourceDone c.core gate c.scope then s
      else
        let status := if s.cleanLost c then some (c.run.fail.getD 0x14) else c.run.fail
        let c := { c with run := { c.run with fail := status } }
        close s c

/-- The tiles and signals of a command that completes; `n` destinations received every element. -/
def State.endRun (s : State) (c : Cmd) (thr df total n : Nat) (chain : Bool) : State :=
  let status := c.run.fail.getD 0
  let wrote := fmtBytes df c.run.n * n
  (s.sampleWait c.core 0x002 c.since).endCmd c thr
    { status := status, count := c.run.n, result := BitVec.ofNat 64 (if chain then c.run.n else wrote),
      bytes := if status = 0 then wrote else fmtBytes df total * n, logs := c.run.logs }

/-- An automatic fill ends: the steps of the operations that wait for the tile start from now on, or, when it failed, they
stop before their next step (R298, R361, R422). -/
def State.fillEnds (s : State) (core blk i : Nat) (c : Cause) : State :=
  s.modCore core fun k => { k with seq := k.seq.map fun m =>
    if m.blk == blk && (m.used.any fun u => u.1 == i) then
      { m with since := s.tick, fail := if c != 0 && m.fail.isNone then some (c, i) else m.fail }
    else m }

/-- The tile of a fill that ends (R422). -/
def Block.endFill (b : Block) (i e : Nat) (auto : Bool) (status : Cause) : Block :=
  b.modTile i fun t =>
    if t.epoch ≠ e then t
    else if auto && status != 0 then { t with st := .empty, ownerE := false }
    else { t with st := .ready, ownerE := true }

/-- The tile of a drain that ends (R287, R422). -/
def Block.endDrain (b : Block) (i e : Nat) (keep : Bool) (status : Cause) : Block :=
  b.modTile i fun t =>
    if t.epoch ≠ e then t
    else if keep || status != 0 then { t with st := .ready, ownerE := true }
    else { t with st := .empty, ownerE := false }

/-- The end of a command that moves elements: its tiles, then its records and signals. -/
def State.closeWork (s : State) (b : Block) (c : Cmd) : State :=
  let status := c.run.fail.getD 0
  match c.kind with
  | .copy src dst ext _ df _ _ _ =>
    (s.modBlock b.id fun b => b.endCopy src dst).endRun c 0xFFFF df (ext.foldl (· * ·) 1) 1 false
  | .fill i e auto df n =>
    let s := s.modBlock b.id fun b => b.endFill i e auto status
    let s := if auto && (b.tile i).epoch == e then s.fillEnds c.core c.blk i status else s
    s.endRun c 0xFFFF df n 1 false
  | .drain i e keep df n => (s.modBlock b.id fun b => b.endDrain i e keep status).endRun c 0xFFFF df n 1 false
  | .chain o sa da se de n _ =>
    (s.modBlock b.id fun b => b.endCopy (chainSide o.srcTile sa se) (chainSide o.dstTile da de)).endRun c c.tid
      (chainCode o.df) n 1 true
  | .badCopy e bytes src dst =>
    ((s.modBlock b.id fun b => b.endCopy src dst).sampleWait c.core 0x002 c.since).endCmd c 0xFFFF
      { status := e, count := 0, bytes := bytes }
  | .nmcas _ _ _ | .nmenq _ | .nmchase _ _ | .ovld _ _ _ => s

/-! ## The targets of `cpy.bc` (R283) -/

/-- What a target is: a block whose tile the command fills, one whose tile it may fill now, one whose tile has to become
writable first, or one that receives nothing for a cause. -/
inductive Target where
  | takes (blk : Nat)
  | writable (blk epoch : Nat)
  | waits
  | nothing (c : Cause)
  deriving DecidableEq, Repr

/-- The epoch that the tile of a block had when the command began to fill it; the issuer's own tile is filled from the
start. -/
def Cmd.fills (c : Cmd) (blk : Nat) : Option Nat :=
  match c.kind with
  | .copy _ (.tile _ e) _ _ _ _ _ _ => if blk = c.blk then some e else (c.run.taken.find? (·.1 == blk)).map (·.2)
  | _ => (c.run.taken.find? (·.1 == blk)).map (·.2)

/-- The state of a target. -/
def State.target (s : State) (c : Cmd) (b : Block) (f : EFmt) (ext : List Nat) (bid i : Nat) : Target :=
  match s.mate b bid with
  | none => .nothing 0x0C
  | some k =>
    let now := (k.tile i).epoch
    match c.fills k.id with
    | some e => if e = now then .takes k.id else .nothing 0x0C
    | none =>
      match (k.tileSide i f ext).cause with
      | some x => .nothing x
      | none => if TileCond.writable.holds (k.tile i) then .writable k.id now else .waits

/-- The command begins to fill the tile of a target. -/
def State.takeTarget (s : State) (id i : Nat) (t : Target) : State :=
  match t with
  | .writable blk e =>
    (s.modBlock blk fun k => k.modTile i fun t => { t with st := .filling }).modRun id fun r =>
      { r with taken := r.taken ++ [(blk, e)] }
  | .takes _ | .waits | .nothing _ => s

/-- The first cause of the targets that receive nothing. -/
def firstCause : List Target → Cause
  | [] => 0
  | .nothing c :: _ => c
  | .takes _ :: ts => firstCause ts
  | .writable _ _ :: ts => firstCause ts
  | .waits :: ts => firstCause ts

/-- The targets of a `cpy.bc` as they stand. -/
def State.targets (s : State) (c : Cmd) (b : Block) (f : EFmt) (ext : List Nat) (l : List (Nat × Nat)) : List Target :=
  l.map fun m => s.target c b f ext m.1 m.2

/-- ENGINE_TAKE, a step of the model's own: a `cpy.bc` begins to fill the tile of a target that has become writable. -/
def State.engineTake (s : State) (id k : Nat) : State :=
  match s.cmd id with
  | none => s
  | some c =>
    match s.block c.blk, c.kind with
    | some b, .copy _ _ ext _ df _ _ (some l) =>
      match l[k]?, efmt df with
      | some m, some f => if s.mayRun c then s.takeTarget id m.2 (s.target c b f ext m.1 m.2) else s
      | _, _ => s
    | _, _ => s

/-- Writes the elements read into the tile of a target. -/
def State.fillTarget (s : State) (i : Nat) (f : EFmt) (ext vals : List Nat) (blk : Nat) : State :=
  match s.block blk with
  | none => s
  | some k =>
    vals.zipIdx.foldl (fun s p =>
      let js := indicesOf ext p.2
      match s.putTileElem k (k.tile i) f (js.getD 0 0) (js.getD 1 0) (js.getD 2 0) p.1 with
      | .ok s => s
      | .error _ => s) s

/-- The block of a target that the command fills. -/
def Target.block : Target → Option Nat
  | .takes m => some m
  | .writable _ _ | .waits | .nothing _ => none

/-- The end of `cpy.bc`: every tile that it fills has the elements, and its count is that of the elements written. -/
def State.closeBc (s : State) (b : Block) (l : List (Nat × Nat)) (c : Cmd) : State :=
  match c.kind with
  | .copy src dst ext _ df _ _ _ =>
    let f : EFmt := (efmt df).getD (.flt .f32)
    let i := ((l.head?).map (·.2)).getD 0
    let ts := s.targets c b f ext l
    let outs := ts.filterMap Target.block
    let s := outs.foldl (fun s m => s.fillTarget i f ext c.run.vals m) s
    let s := outs.foldl (fun s m => s.modBlock m fun k => k.modTile i fun t =>
      { t with st := .ready, ownerE := true }) (s.modBlock b.id fun b => b.endCopy src dst)
    let status := if c.run.fail.isSome then c.run.fail.getD 0 else firstCause ts
    let wrote := fmtBytes df c.run.n * outs.length
    (s.sampleWait c.core 0x002 c.since).endCmd c 0xFFFF
      { status := status, count := if outs.isEmpty then 0 else c.run.n, result := BitVec.ofNat 64 wrote,
        bytes := if status = 0 then wrote else fmtBytes df (ext.foldl (· * ·) 1) * l.length, logs := c.run.logs }
  | _ => s

/-- The targets of a `cpy.bc` that may be filled now are being filled, and none is awaited: one that still has to become
writable is awaited, so that it gets every element before a failing one (R283, R285), unless there is none or a stop ends the
command first (R276). -/
def State.bcReady (s : State) (c : Cmd) (b : Block) (ext : List Nat) (df : Nat) (l : List (Nat × Nat)) : State × Bool :=
  let f : EFmt := (efmt df).getD (.flt .f32)
  let ts := s.targets c b f ext l
  let i := ((l.head?).map (·.2)).getD 0
  (ts.foldl (fun s t => s.takeTarget c.id i t) s, c.stop || (c.run.fail.isSome && c.run.n == 0) || !ts.any (· == .waits))

/-! ## The events -/

/-- The elements of a command up to its end, or to a boundary: the state, and whether they are over. -/
def State.finishWork (s : State) (c : Cmd) (b : Block) (stop : Nat) : State × Bool :=
  if b.cancels c.kind then (s.cancelCmd c, true)
  else if c.run.fail.isSome || c.run.gate.isSome then (s, true)
  else match s.cmdLost c with
    | some e => (s.failCmd c e, true)
    | none =>
      if !s.cmdReady c then (s, false)
      else match s.workOf c b with
        | .error e => (s.failCmd c e, true)
        | .ok w => s.runWork c w (c.limit w.total stop)

/-- A command that moves elements does the rest of them and completes. -/
def State.completeCmd (s : State) (c : Cmd) (b : Block) (stop : Nat) : State :=
  let r := s.finishWork c b stop
  if !r.2 then r.1
  else match c.kind with
    | .copy _ _ ext _ df _ _ (some l) =>
      match r.1.cmd c.id with
      | none => r.1
      | some c =>
        let q := r.1.bcReady c b ext df l
        if q.2 then q.1.endWork c.id fun s c => s.closeBc b l c else q.1
    | _ => r.1.endWork c.id fun s c => s.closeWork b c

/-- COPY_COMPLETE: a copy, fill or drain moves its elements and completes; `stop` is the boundary at which a requested stop
takes it. -/
def execCopyComplete (cmd stop : Nat) (s : State) : Result :=
  match s.cmd cmd with
  | none => .next s
  | some c =>
    match s.block c.blk, c.kind with
    | none, _ => .next s
    | some b, .badCopy _ _ _ _ => .next (s.completeCmd c b stop)
    | some b, .copy _ _ _ _ _ _ _ _ => .next (s.completeCmd c b stop)
    | some b, .fill _ _ _ _ _ => .next (s.completeCmd c b stop)
    | some b, .drain _ _ _ _ _ => .next (s.completeCmd c b stop)
    | some _, .chain _ _ _ _ _ _ _ => .next s
    | some _, .nmcas _ _ _ => .next s
    | some _, .nmenq _ => .next s
    | some _, .nmchase _ _ => .next s
    | some _, .ovld _ _ _ => .next s

/-- CHAIN_COMPLETE: a chain computes its elements and completes (R290). -/
def execChainComplete (cmd stop : Nat) (s : State) : Result :=
  match s.cmd cmd with
  | none => .next s
  | some c =>
    match s.block c.blk, c.kind with
    | some b, .chain _ _ _ _ _ _ _ => .next (s.completeCmd c b stop)
    | _, _ => .next s

end Sys2Proof.Machine
end

