-- ==== Sys2Proof/Machine/Devices.lean ====
section
/-! DEFINITION. The device registers: format ranges (R107, R108, R111, R364), the power controller and the shaping tables
(R360 to R362), and the monitors (R365, R366). -/

namespace Sys2Proof.Machine

/-! ## Format ranges (R107, R108, R111) -/

/-- Changes a format range. -/
def State.modRange (s : State) (n : Nat) (f : FmtRange → FmtRange) : State := { s with fr := vmod s.fr n f }

/-- A format range by its number. -/
def State.range (s : State) (n : Nat) : FmtRange := vget s.fr n FmtRange.reset

/-- The fields of a write to FRCTL. -/
structure FrCtl where
  clr    : Bool
  en     : Bool
  planes : Bool
  fmt    : BitVec 5
  deriving DecidableEq, Repr

/-- Reads a write to FRCTL. -/
def frCtl (v : DWord) : FrCtl :=
  { clr := v.extractLsb' 31 1 == 1, en := v.extractLsb' 7 1 == 1, planes := v.extractLsb' 6 1 == 1,
    fmt := v.extractLsb' 0 5 }

/-- Whether a code names a format: NPI-2 to NPI-8. -/
def frFmt (f : BitVec 5) : Bool := 0x12 ≤ f.toNat && f.toNat ≤ 0x18

/-- First byte of a range's scales (R107). -/
def FmtRange.scaleLo (r : FmtRange) : Nat := r.scl.toNat * 2
/-- Bytes of a range's scales: N/32 scales of 2 bytes. -/
def FmtRange.scaleBytes (r : FmtRange) : Nat := (r.hi - r.lo) / 32 * 2

/-- Whether two spans of bytes share none; an empty one shares none with any. -/
def spansApart (a b c d : Nat) : Bool := b ≤ a || d ≤ c || b ≤ c || d ≤ a

/-- Whether the scales of a range lie outside another range: addresses of scales are taken modulo 2^40 (log entry 50). -/
def FmtRange.scalesApart (r k : FmtRange) : Bool :=
  let end_ := r.scaleLo + r.scaleBytes
  spansApart r.scaleLo end_ k.lo k.hi && spansApart 0 (end_ - Config.farBytes) k.lo k.hi

/-- Whether a range may be enabled beside those that are (R108). A range that ends at 2^40 has LIMIT 0 in its field: whether
LIMIT − BASE is then taken modulo the field, the spec leaves open, and such a range is refused here (DESIGN CHOICE, log entry
121). -/
def State.enables (s : State) (n : Nat) (r : FmtRange) : Bool :=
  let others := (s.fr.toList.zipIdx.filter fun p => p.2 != n && p.1.en).map (·.1)
  frFmt r.fmt && r.lo ≤ r.hi && r.hi - r.lo == 8 * r.plane && r.lo / 2 ^ 37 == (r.hi + Config.farBytes - 1) % Config.farBytes / 2 ^ 37 &&
    (others.all fun k => spansApart r.lo r.hi k.lo k.hi) &&
    (r.scl == 0 || (r :: others).all r.scalesApart)

/-- Every near-tier line of a range is invalidated (R111). -/
def State.flushRange (s : State) (r : FmtRange) : State :=
  let inside (line : Nat) : Bool := r.lo ≤ line * 128 && line * 128 < r.hi
  { s with near := s.near.filter fun (k : NearCopy) => !inside k.line
           l1 := s.l1.filter fun (k : L1Line) => !inside k.line
           nearHome := s.nearHome.filter fun p => !inside p.2 }

/-- FRCTL_WRITE: a write to FRCTL. While the range is enabled only EN = 0 takes effect; a write that cannot take effect
sets ERR. -/
def execFrctlWrite (n : Nat) (v : DWord) (s : State) : Result :=
  s.byRuntime (
    let w := frCtl v
    let r := s.range n
    let r := if w.clr then { r with err := false } else r
    let put (s : State) (r : FmtRange) : State := s.modRange n fun _ => r
    if 32 ≤ n then .next s
    else if r.en then
      let err := r.err || r.planes != w.planes || r.fmt != w.fmt
      if w.en then .next (put s { r with err := err }) else .next (put (s.flushRange r) { r with err := err, en := false })
    else if w.en then
      let r' := { r with en := true, planes := w.planes, fmt := w.fmt }
      if s.enables n r' then .next (put (s.flushRange r') r') else .next (put s { r with err := true })
    else .next (put s { r with planes := w.planes, fmt := if frFmt w.fmt then w.fmt else r.fmt }))

/-- FRCTL_ERR_CLEAR: writing 1 to ERR clears it. -/
def execFrctlErrClear (n : Nat) (s : State) : Result := s.byRuntime (.next (s.modRange n fun r => { r with err := false }))

/-! ## The power controller (R360 to R362) and the other registers (R4) -/

/-- A write to BASE, LIMIT, PSTRIDE or SBASE: ignored while the range is enabled, which sets ERR (R108). -/
def FmtRange.write (r : FmtRange) (f : FmtRange → FmtRange) : FmtRange := if r.en then { r with err := true } else f r

/-- The 25-bit field [39:15] of a value. -/
def fieldPage (v : Nat) : BitVec 25 := BitVec.ofNat 25 (v / 2 ^ 15)

/-- The shaping table after a write: an entry outside 1 to 16 keeps its value (R361). -/
def writeShape (old : Vector (BitVec 5) 16) (v : Nat) : Vector (BitVec 5) 16 :=
  old.mapIdx fun i x =>
    let e := v / 2 ^ (5 * i) % 32
    if 1 ≤ e && e ≤ 16 then BitVec.ofNat 5 e else x

/-- REGISTER_WRITE: a write to a register without a row of its own; a reserved value leaves its field unchanged. -/
def execRegisterWrite (r : DevReg) (v : Nat) (s : State) : Result :=
  s.byRuntime (
    .next (match r with
    | .frbase n => s.modRange n fun x => x.write fun x => { x with base := fieldPage v }
    | .frlim n => s.modRange n fun x => x.write fun x => { x with lim := fieldPage v }
    | .frstr n => s.modRange n fun x => x.write fun x => { x with str := fieldPage v }
    | .frscl n => s.modRange n fun x => x.write fun x => { x with scl := BitVec.ofNat 39 (v / 2) }
    | .pwrslew => if 1 ≤ v % 128 && v % 128 ≤ 100 then { s with slew := BitVec.ofNat 7 v } else s
    | .stagr =>
      let d := v / 256 % 512
      { s with stagB := v / 2 ^ 25 % 2 == 1, delta := if d ≤ 256 then BitVec.ofNat 9 d else s.delta,
               groups := BitVec.ofNat 8 v }
    | .shape d => s.modDie d fun k => { k with shape := writeShape k.shape v }))

/-- The level a die moves to (R362): up when its demand would raise the package current by more than SLEW amperes within
the interval, down when the permitted current has risen. -/
def moveLevel (slew level : Nat) (e : PowerEst) : Nat :=
  if 10 * slew < e.rise then (if level < 15 then level + 1 else level) else if e.back then level - 1 else level

/-- A die's level is that of the window that has begun (R361). -/
def Die.settled (d : Die) (now : Nat) : Die := { d with level := d.levelAt now }

/-- POWER_CONTROL_INTERVAL: once in 100 ns the controller moves each die's level by at most one. In an interval without
this event the estimates ask for no move (log entry 108). -/
def execPowerControlInterval (est : List PowerEst) (s : State) : Result :=
  let now := s.tick
  if now % Config.powerTicks != 0 || s.powered == now / Config.powerTicks + 1 then .next s
  else .next { s with
    powered := now / Config.powerTicks + 1
    dies := s.dies.mapIdx fun i d =>
      match est[i]? with
      | some e => { d.settled now with next := moveLevel s.slew.toNat d.next e, nextAt := now }
      | none => d }

/-- SHAPING_WINDOW_BOUNDARY: at the start of a window of 16 core cycles the levels that the controller chose before it
take effect (R361). -/
def execShapingWindowBoundary (s : State) : Result :=
  if s.tick % shapingWindow != 0 then .next s
  else .next { s with dies := s.dies.map fun d => d.settled s.tick }

/-! ## Monitors (R365, R366) -/

/-- Changes a monitor. -/
def State.modMon (s : State) (m : MonId) (f : Mon → Mon) : State :=
  match m with
  | .die d i => s.modDie d fun k => { k with mons := vmod k.mons i f }
  | .anvil i => { s with amons := vmod s.amons i f }

/-- Whether a monitor takes a source. -/
def monTakes (m : MonId) (src : Nat) : Bool :=
  match m with
  | .die _ _ => 1 ≤ src && src ≤ 7
  | .anvil _ => 0x101 ≤ src && src ≤ 0x103

/-- Whether a source takes an argument value. -/
def argFits (src arg : Nat) : Bool :=
  if src = 1 || src = 3 || src = 5 then arg < Config.coresPerDie
  else if src = 0x101 then arg < Config.engines
  else if src = 0x103 then arg < 64
  else true

/-- The cycle of a monitor's own clock: core cycles on a hearth die, Anvil cycles on the Anvil. -/
def monCycle (m : MonId) (tick : Nat) : Nat :=
  match m with
  | .die _ _ => tick / Config.coreTicks
  | .anvil _ => tick / Config.anvilTicks

/-- MONCFG after a write: CLR reads 0, and a source or an argument that the monitor does not take is kept. -/
def monWrite (m : MonId) (old v : Word) : Word :=
  let src := if monTakes m (v.toNat % 4096) then v.toNat % 4096 else old.toNat % 4096
  let a := v.toNat / 4096 % 4096
  let arg := if argFits src a then a else old.toNat / 4096 % 4096
  BitVec.ofNat 32 (v.toNat / 2 ^ 30 * 2 ^ 30 + v.toNat / 2 ^ 24 % 32 * 2 ^ 24 + arg * 4096 + src)

/-- MONCFG_WRITE: a write to MONCFG; with CLR = 1 it clears the counters too. -/
def execMoncfgWrite (m : MonId) (v : Word) (s : State) : Result :=
  s.byRuntime (
    .next (s.modMon m fun x =>
      { (if v.extractLsb' 29 1 == 1 then x.clear (monCycle m s.tick) else x) with cfg := monWrite m x.cfg v }))

/-- MONITOR_CLEAR: CLR clears every counter of a monitor. -/
def execMonitorClear (m : MonId) (s : State) : Result := s.byRuntime (.next (s.modMon m fun x => x.clear (monCycle m s.tick)))

/-- The level a source of a hearth die has now; none for a latency. -/
def State.dieLevel (s : State) (d : Nat) (m : Mon) : Option Nat :=
  if m.src = 5 then some (s.entriesUsed (d * Config.coresPerDie + m.arg))
  else if m.src = 6 then some ((s.die d).levelAt s.tick)
  else if m.src = 7 then some (countRecent s.tick (s.die d).nearOver)
  else none

/-- The level a source of the Anvil has now; none for a latency. -/
def State.anvilLevel (s : State) (m : Mon) : Option Nat :=
  if m.src = 0x101 then some (vget s.inq m.arg []).length
  else if m.src = 0x103 then some (countRecent s.tick (vget s.ports m.arg Port.reset).replays)
  else none

/-- Ticks from one sample of a level to the next: 64 Anvil cycles (R366). -/
def samplePeriod : Nat := 64 * Config.anvilTicks

/-- The level a monitor counts now. -/
def State.monLevel (s : State) (m : MonId) (x : Mon) : Option Nat :=
  match m with
  | .die d _ => s.dieLevel d x
  | .anvil _ => s.anvilLevel x

/-- A monitor's sample of this period: at most one. -/
def State.takeLevel (s : State) (m : MonId) : State :=
  let now := s.tick
  s.modMon m fun x =>
    match s.monLevel m x with
    | some v =>
      if x.sampled == now / samplePeriod + 1 then x
      else { x.sample (monCycle m now) v with sampled := now / samplePeriod + 1 }
    | none => x

/-- MONITOR_LEVEL_SAMPLE: once every 64 Anvil cycles a level is sampled. -/
def execMonitorLevelSample (m : MonId) (s : State) : Result :=
  if s.tick % samplePeriod != 0 then .next s else .next (s.takeLevel m)

/-- The monitors that count a level. -/
def State.levelMons (s : State) : List MonId :=
  let on (x : Mon) : Bool := x.en && (s.dieLevel 0 x).isSome
  let onAnvil (x : Mon) : Bool := x.en && (s.anvilLevel x).isSome
  (s.dies.toList.zipIdx.flatMap fun p =>
    (p.1.mons.toList.zipIdx.filter fun q => on q.1).map fun q => MonId.die p.2 q.2) ++
  (s.amons.toList.zipIdx.filter fun q => onAnvil q.1).map fun q => .anvil q.2

/-- The samples of a tick that are still to be taken. -/
def State.sampleDue (s : State) : State := s.levelMons.foldl State.takeLevel s

/-- Time passes: no level misses its sample. -/
def State.advance (s : State) (n : Nat) : State :=
  let t := s.tick
  if s.levelMons.isEmpty then { s with tick := t + n }
  else
    let first := (t + samplePeriod - 1) / samplePeriod
    let after := (t + n + samplePeriod - 1) / samplePeriod
    let s := (List.range (after - first)).foldl (fun s i =>
      State.sampleDue { s with tick := (first + i) * samplePeriod }) s
    { s with tick := t + n }

end Sys2Proof.Machine
end

