-- ==== Sys2Proof/WellFormed.lean ====
section
/-! DEFINITION. Well-formed instructions: those that no rule of R407 makes illegal from the word alone.
The checks themselves are in Machine/Legal.lean. -/

namespace Sys2Proof

/-- An instruction that breaks no rule of the illegal-use table of R407. -/
abbrev WellFormed (i : Instr) : Prop := Machine.legal i = true

end Sys2Proof
end

