-- ==== Sys2Proof/Decode.lean ====
section
/-! DEFINITION. The decoder and the encoder: the fields of an instruction word (R179, R180), the coded
fields (R189, R190), the opcode map (R192) and the port-program words (R340, R341). A word decodes to the
instruction its class and OP name when that instruction is legal (R407) and every field it does not use
holds 0 (R180), which is checked by laying the instruction out again. -/

namespace Sys2Proof

/-- Why a word is no instruction. Every reason raises illegal encoding 0x01 (R193), but for `header`
(0x03, R178) and, in a port program, 0x1C (R343). -/
inductive DecodeError where
  | header          -- CLS 0xF at an instruction position
  | reservedOp      -- a class or OP that R192 marks reserved
  | reservedCode    -- a reserved value of a coded field (R189, R190, R118)
  | illegalUse      -- a row of R407
  | reservedBits    -- an unused field that is not 0 (R180)
  | truncated       -- the bytes end before the instruction does
  | noWord          -- not a word of 32, 64, 128 or 192 bits
  deriving DecidableEq, Repr

/-! ## The fields of an instruction word (R179, R180) -/

/-- The fields of a word in the layout of format R. -/
structure Fields where
  cls : BitVec 4
  op  : BitVec 6
  gp  : BitVec 3
  gn  : BitVec 1
  d   : BitVec 7
  a   : BitVec 7
  b   : BitVec 7
  c   : BitVec 7
  m   : BitVec 6
  i   : BitVec 16
  deriving DecidableEq, Repr

/-- The fields of a word. -/
def unpack (w : DWord) : Fields :=
  { cls := w.extractLsb' 60 4, op := w.extractLsb' 54 6, gp := w.extractLsb' 51 3, gn := w.extractLsb' 50 1,
    d := w.extractLsb' 43 7, a := w.extractLsb' 36 7, b := w.extractLsb' 29 7, c := w.extractLsb' 22 7,
    m := w.extractLsb' 16 6, i := w.extractLsb' 0 16 }

/-- The word of the fields. -/
def pack (f : Fields) : DWord :=
  f.cls ++ (f.op ++ (f.gp ++ (f.gn ++ (f.d ++ (f.a ++ (f.b ++ (f.c ++ (f.m ++ f.i))))))))

/-- The guard (R179). -/
def guardOf (f : Fields) : Guard := { p := f.gp, neg := f.gn == 1 }

/-- The bit that carries a Boolean. -/
def bit1 (b : Bool) : BitVec 1 := if b then 1 else 0

/-- Fields of format R with a guard. -/
def fmtR (cls : BitVec 4) (op : BitVec 6) (g : Guard) (d a b c : BitVec 7) (m : BitVec 6) (i : BitVec 16) :
    Fields :=
  { cls := cls, op := op, gp := g.p, gn := bit1 g.neg, d := d, a := a, b := b, c := c, m := m, i := i }

/-- Fields of formats I and B: M4 and IMM32 in the low 36 bits (R180). -/
def fmtI (cls : BitVec 4) (op : BitVec 6) (g : Guard) (d a : BitVec 7) (m4 : BitVec 4) (v : BitVec 32) :
    Fields :=
  { cls := cls, op := op, gp := g.p, gn := bit1 g.neg, d := d, a := a, b := m4 ++ v.extractLsb' 29 3,
    c := v.extractLsb' 22 7, m := v.extractLsb' 16 6, i := v.extractLsb' 0 16 }

/-- M4 of formats I and B. -/
def Fields.m4 (f : Fields) : BitVec 4 := f.b.extractLsb' 3 4

/-- IMM32 of formats I and B. -/
def Fields.imm32 (f : Fields) : BitVec 32 := f.b.extractLsb' 0 3 ++ (f.c ++ (f.m ++ f.i))

/-! ## Coded fields -/

/-- The type codes (R189). -/
def tyOf (c : BitVec 4) : Option ElemTy :=
  match c.toNat with
  | 0 => some .i32 | 1 => some .n32 | 2 => some .i64 | 3 => some .n64 | 4 => some .f32 | 5 => some .bf16
  | 7 => some .bf16x2 | 8 => some .i8x4 | 9 => some .n8x4 | 10 => some .i16x2 | 11 => some .n16x2
  | 12 => some .f8e4x4 | 13 => some .f8e5x4 | _ => none

/-- The code of a type (R189). -/
def tyCode : ElemTy → BitVec 4
  | .i32 => 0 | .n32 => 1 | .i64 => 2 | .n64 => 3 | .f32 => 4 | .bf16 => 5 | .bf16x2 => 7 | .i8x4 => 8
  | .n8x4 => 9 | .i16x2 => 10 | .n16x2 => 11 | .f8e4x4 => 12 | .f8e5x4 => 13

/-- The rounding codes (R98). -/
def rndOf (c : BitVec 2) : Rnd :=
  match c.toNat with
  | 0 => .rne | 1 => .rtz | 2 => .rdn | _ => .rup

/-- The code of a rounding mode (R98). -/
def rndCode : Rnd → BitVec 2
  | .rne => 0 | .rtz => 1 | .rdn => 2 | .rup => 3

/-- The scope codes (R117); 5 to 7 are illegal (R118). -/
def scopeOf (c : BitVec 3) : Option Scope :=
  match c.toNat with
  | 0 => some .blk | 1 => some .core | 2 => some .die | 3 => some .pkg | 4 => some .sys | _ => none

/-- The code of a scope (R117). -/
def scopeCode : Scope → BitVec 3
  | .blk => 0 | .core => 1 | .die => 2 | .pkg => 3 | .sys => 4

/-- The SPACE codes (R190). -/
def spaceOf (c : BitVec 3) : Option Space :=
  match c.toNat with
  | 0 => some .glob | 1 => some .w | 2 => some .a | 3 => some .c | 4 => some .stack | 5 => some .win
  | _ => none

/-- The code of a space (R190). -/
def spaceCode : Space → BitVec 3
  | .glob => 0 | .w => 1 | .a => 2 | .c => 3 | .stack => 4 | .win => 5

/-- The SIZE codes (R190). -/
def sizeOf (c : BitVec 3) : Option Size :=
  match c.toNat with
  | 0 => some .b8 | 1 => some .b16 | 2 => some .b32 | 3 => some .b64 | 4 => some .b128 | _ => none

/-- The code of a size (R190). -/
def sizeCode : Size → BitVec 3
  | .b8 => 0 | .b16 => 1 | .b32 => 2 | .b64 => 3 | .b128 => 4

/-- The chain formats (R288). -/
def chainFmtOf (c : BitVec 2) : ChainFmt :=
  match c.toNat with
  | 0 => .f32 | 1 => .bf16 | 2 => .f8e4 | _ => .f8e5

/-- The code of a chain format (R288). -/
def chainFmtCode : ChainFmt → BitVec 2
  | .f32 => 0 | .bf16 => 1 | .f8e4 => 2 | .f8e5 => 3

/-- The KIND field of `mma.coop` (R295). -/
def coopOf (c : BitVec 2) : Option CoopKind :=
  match c.toNat with
  | 0 => some .mma | 1 => some .bs | 2 => some .np | _ => none

/-- The code of a KIND (R295). -/
def coopCode : CoopKind → BitVec 2
  | .mma => 0 | .bs => 1 | .np => 2

/-! ## Operand groups: read from the fields, and laid out -/

/-- The operands of a word of classes 0x0 to 0x2 (R189). -/
def readAlu (f : Fields) : Option Alu :=
  (tyOf (f.m.extractLsb' 2 4)).map fun t =>
    { ty := t, rnd := rndOf (f.m.extractLsb' 0 2), sat := f.i.extractLsb' 15 1 == 1, d := f.d, a := f.a,
      b := f.b, c := f.c, imm := f.i.extractLsb' 0 15 }

/-- Lays the operands of classes 0x0 to 0x2 out (R189). -/
def layAlu (cls : BitVec 4) (op : BitVec 6) (g : Guard) (o : Alu) : Fields :=
  fmtR cls op g o.d o.a o.b o.c (tyCode o.ty ++ rndCode o.rnd) (bit1 o.sat ++ o.imm)

/-- The operands of format I (R180, R209). -/
def readImm (f : Fields) : Imm := { d := f.d, a := f.a, m4 := f.m4, imm := f.imm32 }

/-- Lays the operands of format I out. -/
def layImm (op : BitVec 6) (g : Guard) (o : Imm) : Fields := fmtI 0 op g o.d o.a o.m4 o.imm

/-- A predicate number in a 7-bit field (R186). -/
def predField (q : BitVec 3) : BitVec 7 := (0 : BitVec 4) ++ q

/-- The predicate number of a 7-bit field. -/
def fieldPred (r : BitVec 7) : BitVec 3 := r.extractLsb' 0 3

/-- An h register in a 7-bit field (R184). -/
def handleField (h : BitVec 4) : BitVec 7 := (7 : BitVec 3) ++ h

/-- The handle number of a 7-bit field. -/
def fieldHandle (r : BitVec 7) : BitVec 4 := r.extractLsb' 0 4

/-- The operands of the predicate operations (R210). -/
def readPreds (f : Fields) : PredOps :=
  { d := fieldPred f.d, a := fieldPred f.a, b := fieldPred f.b, neg := f.c.extractLsb' 0 1 == 1 }

/-- Lays the operands of the predicate operations out (R210). -/
def layPreds (op : BitVec 6) (g : Guard) (o : PredOps) : Fields :=
  fmtR 0 op g (predField o.d) (predField o.a) (predField o.b) ((0 : BitVec 6) ++ bit1 o.neg) 0 0

/-- A selector of `mbr`: its predicate and its negation (R181). -/
def readSel (s : BitVec 4) : Sel := { p := s.extractLsb' 1 3, neg := s.extractLsb' 0 1 == 1 }

/-- The four bits of a selector (R181). -/
def laySel (s : Sel) : BitVec 4 := s.p ++ bit1 s.neg

/-- The selectors and offsets of `mbr`: word 1 bits [35:20] and word 2 (R181). -/
def readMbr (f : Fields) (w2 : DWord) : MbrOps :=
  let v : BitVec 16 := f.b ++ (f.c ++ f.m.extractLsb' 4 2)
  { s0 := readSel (v.extractLsb' 12 4), s1 := readSel (v.extractLsb' 8 4),
    s2 := readSel (v.extractLsb' 4 4), s3 := readSel (v.extractLsb' 0 4),
    o0 := w2.extractLsb' 0 16, o1 := w2.extractLsb' 16 16,
    o2 := w2.extractLsb' 32 16, o3 := w2.extractLsb' 48 16 }

/-- Lays the first word of `mbr` out (R181). -/
def layMbr (g : Guard) (o : MbrOps) : Fields :=
  let v : BitVec 16 := laySel o.s0 ++ (laySel o.s1 ++ (laySel o.s2 ++ laySel o.s3))
  fmtR 3 1 g 0 0 (v.extractLsb' 9 7) (v.extractLsb' 2 7) (v.extractLsb' 0 2 ++ (0 : BitVec 4)) 0

/-- The second word of `mbr` (R181). -/
def mbrWord2 (o : MbrOps) : DWord := o.o3 ++ (o.o2 ++ (o.o1 ++ o.o0))

/-- The operands of a shuffle (R237). -/
def readShfl (f : Fields) : Shfl := { d := f.d, a := f.a, b := f.b, q := fieldPred f.c }

/-- Lays a shuffle out (R237). -/
def layShfl (op : BitVec 6) (g : Guard) (o : Shfl) (i : BitVec 16) : Fields :=
  fmtR 4 op g o.d o.a o.b (predField o.q) 0 i

/-- The source of `shfl.idx` (R237). -/
def readLaneSrc (i : BitVec 16) : LaneSrc :=
  if i.extractLsb' 15 1 = 1 then .lane (i.extractLsb' 0 5) else .reg (i.extractLsb' 0 7)

/-- IMM16 of `shfl.idx` (R237). -/
def layLaneSrc : LaneSrc → BitVec 16
  | .reg r => (0 : BitVec 9) ++ r
  | .lane l => (1 : BitVec 1) ++ ((0 : BitVec 10) ++ l)

/-- The operands of a lane reduction (R237). -/
def readLane (f : Fields) : Option LaneRed :=
  (tyOf (f.m.extractLsb' 2 4)).map fun t =>
    { ty := t, rnd := rndOf (f.m.extractLsb' 0 2), d := f.d, a := f.a, b := f.b }

/-- Lays a lane reduction out (R237). -/
def layLane (op : BitVec 6) (g : Guard) (o : LaneRed) : Fields :=
  fmtR 4 op g o.d o.a o.b 0 (tyCode o.ty ++ rndCode o.rnd) 0

/-- The operands of format M (R190). -/
def readMem (f : Fields) : Option Mem :=
  match spaceOf (f.m.extractLsb' 3 3), sizeOf (f.m.extractLsb' 0 3), scopeOf (f.c.extractLsb' 2 3) with
  | some sp, some sz, some sc =>
    some { space := sp, size := sz, d := f.d, a := f.a, b := f.b, ack := f.c.extractLsb' 6 1 == 1,
           nt := f.c.extractLsb' 5 1 == 1, scope := sc, sx := f.c.extractLsb' 1 1 == 1, imm := f.i }
  | _, _, _ => none

/-- Lays the operands of format M out; C[22] is 0 (R190). -/
def layMem (cls : BitVec 4) (op : BitVec 6) (g : Guard) (o : Mem) : Fields :=
  fmtR cls op g o.d o.a o.b
    (bit1 o.ack ++ (bit1 o.nt ++ (scopeCode o.scope ++ (bit1 o.sx ++ (0 : BitVec 1)))))
    (spaceCode o.space ++ sizeCode o.size) o.imm

/-- The completion fields (R277). -/
def readCompl (f : Fields) : Option Compl :=
  (scopeOf (f.i.extractLsb' 9 3)).map fun s =>
    { d := f.d, scope := s, ben := f.i.extractLsb' 8 1 == 1, bar := f.i.extractLsb' 4 4,
      fen := f.i.extractLsb' 3 1 == 1, flag := f.i.extractLsb' 0 3 }

/-- IMM16 of the completion fields (R277). -/
def complImm (k : Compl) : BitVec 16 :=
  (0 : BitVec 4) ++ (scopeCode k.scope ++ (bit1 k.ben ++ (k.bar ++ (bit1 k.fen ++ k.flag))))

/-- Lays a copy out (R278). -/
def layCopy (op : BitVec 6) (g : Guard) (k : Compl) (a : Reg) (m : BitVec 6) : Fields :=
  fmtR 9 op g k.d a 0 0 m (complImm k)

/-- The operands of `chain` (R288). -/
def readChain (f : Fields) (w2 w3 : DWord) : Option ChainOps :=
  (readCompl f).map fun k =>
    { compl := k, a := f.a, b := f.b, c := f.c, srcTile := f.m.extractLsb' 0 1 == 1,
      dstTile := f.m.extractLsb' 1 1 == 1, sf := chainFmtOf (f.m.extractLsb' 2 2),
      df := chainFmtOf (f.m.extractLsb' 4 2), w2 := w2, w3 := w3 }

/-- Lays the first word of `chain` out (R288). -/
def layChain (g : Guard) (o : ChainOps) : Fields :=
  fmtR 9 3 g o.compl.d o.a o.b o.c
    (chainFmtCode o.df ++ (chainFmtCode o.sf ++ (bit1 o.dstTile ++ bit1 o.srcTile))) (complImm o.compl)

/-! ## The opcode map (R192): the raw reading of each class

A raw reading takes every operand as it stands; `decodeFields` then checks it. -/

/-- Class 0x0 (R204, R209 to R211). -/
def raw0 (g : Guard) (f : Fields) : Option Instr :=
  match f.op.toNat with
  | 0x00 => (readAlu f).map (.add g)
  | 0x01 => (readAlu f).map (.sub g)
  | 0x02 => (readAlu f).map (.mul g)
  | 0x03 => (readAlu f).map (.mulhi g)
  | 0x04 => (readAlu f).map (.mad g)
  | 0x05 => (readAlu f).map (.madw g)
  | 0x06 => (readAlu f).map (.min g)
  | 0x07 => (readAlu f).map (.max g)
  | 0x08 => (readAlu f).map (.abs g)
  | 0x09 => (readAlu f).map (.neg g)
  | 0x0A => (readAlu f).map (.and g)
  | 0x0B => (readAlu f).map (.or g)
  | 0x0C => (readAlu f).map (.xor g)
  | 0x0D => (readAlu f).map (.not g)
  | 0x0E => (readAlu f).map (.shl g)
  | 0x0F => (readAlu f).map (.shr g)
  | 0x10 => (readAlu f).map (.sar g)
  | 0x11 => (readAlu f).map (.rol g)
  | 0x12 => (readAlu f).map (.bfx g)
  | 0x13 => (readAlu f).map (.bfi g)
  | 0x14 => (readAlu f).map (.popc g)
  | 0x15 => (readAlu f).map (.clz g)
  | 0x16 => (readAlu f).map (.brev g)
  | 0x17 => (readAlu f).map (.sel g)
  | 0x18 => (readAlu f).map (.setp g)
  | 0x19 => (readAlu f).map (.mov g)
  | 0x1A => (readAlu f).map (.lea g)
  | 0x1C => (readAlu f).map (.div g)
  | 0x1D => (readAlu f).map (.rem g)
  | 0x1E => (readAlu f).map (.sadd g)
  | 0x1F => (readAlu f).map (.ssub g)
  | 0x20 => some (.addi g (readImm f))
  | 0x21 => some (.andi g (readImm f))
  | 0x22 => some (.ori g (readImm f))
  | 0x23 => some (.xori g (readImm f))
  | 0x24 => some (.movi g (readImm f))
  | 0x25 => some (.movhi g (readImm f))
  | 0x26 => some (.setpi g (readImm f))
  | 0x28 => some (.pand g (readPreds f))
  | 0x29 => some (.por g (readPreds f))
  | 0x2A => some (.pxor g (readPreds f))
  | 0x2B => some (.pnot g (fieldPred f.d) (fieldPred f.a))
  | 0x2C => some (.movs g f.d (f.i.extractLsb' 0 6))
  | 0x2D => some (.wrs g f.a (f.i.extractLsb' 0 6))
  | _ => none

/-- Class 0x1 (R213). -/
def raw1 (g : Guard) (f : Fields) : Option Instr :=
  match f.op.toNat with
  | 0x00 => (readAlu f).map (.fadd g)
  | 0x01 => (readAlu f).map (.fsub g)
  | 0x02 => (readAlu f).map (.fmul g)
  | 0x03 => (readAlu f).map (.ffma g)
  | 0x04 => (readAlu f).map (.fmin g)
  | 0x05 => (readAlu f).map (.fmax g)
  | 0x06 => (readAlu f).map (.fabs g)
  | 0x07 => (readAlu f).map (.fneg g)
  | 0x08 => (readAlu f).map (.fsetp g)
  | 0x0A => (readAlu f).map (.frcp g)
  | 0x0B => (readAlu f).map (.frsq g)
  | 0x0C => (readAlu f).map (.fsqrt g)
  | 0x0D => (readAlu f).map (.fex2 g)
  | 0x0E => (readAlu f).map (.flg2 g)
  | 0x0F => (readAlu f).map (.fsin g)
  | 0x10 => (readAlu f).map (.fcos g)
  | 0x11 => (readAlu f).map (.ftanh g)
  | 0x12 => (readAlu f).map (.fdiv g)
  | 0x13 => (readAlu f).map (.fclass g)
  | 0x14 => (readAlu f).map (.fround g)
  | 0x15 => (readAlu f).map (.fscale g)
  | _ => none

/-- Class 0x2 (R219). -/
def raw2 (g : Guard) (f : Fields) : Option Instr :=
  match f.op.toNat with
  | 0x00 => (readAlu f).map (.cvt g)
  | 0x01 => (readAlu f).map (.pkBf16 g)
  | 0x02 => (readAlu f).map (.upkBf16 g)
  | 0x03 => (readAlu f).map (.pkF8 g)
  | 0x04 => (readAlu f).map (.upkF8 g)
  | 0x05 => (readAlu f).map (.npiEnc g)
  | 0x06 => (readAlu f).map (.npiDec g)
  | 0x07 => (readAlu f).map (.bscale g)
  | 0x08 => (readAlu f).map (.bquant g)
  | 0x09 => (readAlu f).map (.bdot g)
  | _ => none

/-- Class 0x3 (R227); `w2` is the word after, which `mbr` takes. -/
def raw3 (g : Guard) (f : Fields) (w2 : DWord) : Option Instr :=
  match f.op.toNat with
  | 0x00 => some (.bra g f.imm32)
  | 0x01 => some (.mbr g (readMbr f w2))
  | 0x02 => some (.call g f.imm32)
  | 0x03 => some (.callo g (f.i.extractLsb' 8 8) (f.i.extractLsb' 0 8))
  | 0x04 => some (.calli g f.a)
  | 0x05 => some (.ret g)
  | 0x06 => some (.exit g)
  | 0x07 => some (.yield g)
  | 0x08 => some (.nop g)
  | 0x09 => some (.bri g f.a)
  | 0x0A => some (.brk g (f.i.extractLsb' 0 5))
  | _ => none

/-- Class 0x4 (R237). -/
def raw4 (g : Guard) (f : Fields) : Option Instr :=
  match f.op.toNat with
  | 0x00 => some (.voteAll g (fieldPred f.d) (fieldPred f.a) f.b)
  | 0x01 => some (.voteAny g (fieldPred f.d) (fieldPred f.a) f.b)
  | 0x02 => some (.voteBal g f.d (fieldPred f.a) f.b)
  | 0x03 => some (.shflIdx g (readShfl f) (readLaneSrc f.i))
  | 0x04 => some (.shflUp g (readShfl f) (f.i.extractLsb' 0 5))
  | 0x05 => some (.shflDn g (readShfl f) (f.i.extractLsb' 0 5))
  | 0x06 => some (.shflXor g (readShfl f) (f.i.extractLsb' 0 5))
  | 0x07 => some (.qxH g (readShfl f))
  | 0x08 => some (.qxV g (readShfl f))
  | 0x09 => some (.qxD g (readShfl f))
  | 0x0A => (readLane f).map (.lredAdd g)
  | 0x0B => (readLane f).map (.lredMax g)
  | 0x0C => (readLane f).map (.lredMin g)
  | 0x0D => (readLane f).map (.lscanAdd g)
  | 0x0E => some (.matchLanes g f.d f.a f.b)
  | _ => none

/-- Class 0x5 (R247). -/
def raw5 (g : Guard) (f : Fields) : Option Instr :=
  match f.op.toNat with
  | 0x00 => (readMem f).map (.ld g)
  | 0x01 => (readMem f).map (.ldAcq g)
  | 0x02 => (readMem f).map (.ldNc g)
  | 0x03 => (readMem f).map (.pf g)
  | 0x04 => (readMem f).map (.pop g)
  | _ => none

/-- Class 0x6 (R247). -/
def raw6 (g : Guard) (f : Fields) : Option Instr :=
  match f.op.toNat with
  | 0x00 => (readMem f).map (.st g)
  | 0x01 => (readMem f).map (.stRel g)
  | 0x02 => (readMem f).map (.push g)
  | _ => none

/-- Class 0x7 (R256, R259). -/
def raw7 (g : Guard) (f : Fields) : Option Instr :=
  match f.op.toNat with
  | 0x00 => (readMem f).map (.atomAdd g)
  | 0x01 => (readMem f).map (.atomMin g)
  | 0x02 => (readMem f).map (.atomMax g)
  | 0x03 => (readMem f).map (.atomAnd g)
  | 0x04 => (readMem f).map (.atomOr g)
  | 0x05 => (readMem f).map (.atomXor g)
  | 0x06 => (readMem f).map (.atomXchg g)
  | 0x07 => (readMem f).map (.atomCas g)
  | 0x08 => (readMem f).map (.redAdd g)
  | 0x09 => (readMem f).map (.redMin g)
  | 0x0A => (readMem f).map (.redMax g)
  | 0x0B => (readMem f).map (.redOr g)
  | 0x0C => (readMem f).map (.nmcas g)
  | 0x0D => (readMem f).map (.nmenq g)
  | 0x0E => (readMem f).map (.nmchase g)
  | 0x0F => (readMem f).map (.atomInc g)
  | _ => none

/-- Class 0x8 (R261, R262). -/
def raw8 (g : Guard) (f : Fields) : Option Instr :=
  let n : BitVec 4 := f.i.extractLsb' 0 4
  match f.op.toNat with
  | 0x00 => (scopeOf (f.i.extractLsb' 0 3)).map (.fence g)
  | 0x01 => some (.barInit g n f.a)
  | 0x02 => some (.barArr g f.d n)
  | 0x03 => some (.barExp g n f.a)
  | 0x04 => some (.barWait g (fieldPred f.d) n f.a)
  | 0x05 => some (.waitany g f.d f.a f.b)
  | 0x06 => some (.barTst g (fieldPred f.d) (fieldPred f.c) n f.a)
  | 0x07 => some (.heatArr g f.d)
  | 0x08 => some (.heatWait g (fieldPred f.d) f.a)
  | 0x09 => some (.fwait g (f.i.extractLsb' 0 12))
  | 0x0A => some (.aalloc g f.d (fieldPred f.c) f.a)
  | 0x0B => some (.afree g f.a)
  | _ => none

/-- Class 0x9 (R278, R288); `w2` and `w3` are the words after, which `chain` takes. -/
def raw9 (g : Guard) (f : Fields) (w2 w3 : DWord) : Option Instr :=
  match f.op.toNat with
  | 0x00 => (readCompl f).map (.cpy g · f.a)
  | 0x01 => (readCompl f).map (.cpyRed g · f.a)
  | 0x02 => (readCompl f).map (.cpyBc g · f.a)
  | 0x03 => (readChain f w2 w3).map (.chain g)
  | 0x04 => (readCompl f).map (.cpyT g · f.a)
  | 0x05 => (readCompl f).map (.cpyD g · f.a (f.m.extractLsb' 0 1 == 1))
  | _ => none

/-- Class 0xA (R291, R295, R300 to R303). -/
def rawA (g : Guard) (f : Fields) : Option Instr :=
  let m0 := f.m.extractLsb' 0 1 == 1
  match f.op.toNat with
  | 0x00 => some (.tbind g f.a f.b f.c m0 (f.m.extractLsb' 1 1 == 1))
  | 0x01 => some (.tgive g f.a)
  | 0x02 => some (.ttake g f.a)
  | 0x03 => some (.tstat g f.d f.a)
  | 0x04 => some (.tfree g f.a)
  | 0x05 => some (.mma g f.a f.b f.c)
  | 0x06 => some (.mmaBs g f.a f.b f.c)
  | 0x07 => some (.mmaNp g f.a f.b f.c m0)
  | 0x08 => (coopOf (f.m.extractLsb' 1 2)).map fun k =>
      .mmaCoop g f.a f.b f.c m0 k (f.i.extractLsb' 0 2) (f.i.extractLsb' 2 5)
  | 0x09 => some (.mzero g f.a)
  | 0x0A => some (.mdrain g f.a f.b)
  | 0x0C => some (.csel g f.a f.b)
  | 0x0D => some (.mseq g f.d m0)
  | _ => none

/-- Class 0xB (R274). -/
def rawB (g : Guard) (f : Fields) : Option Instr :=
  match f.op.toNat with
  | 0x00 => some (.hwait g f.i)
  | 0x01 => some (.htest g (fieldPred f.d) (fieldHandle f.a))
  | 0x02 => some (.hcancel g (fieldHandle f.a))
  | 0x03 => some (.hpass g (fieldHandle f.d) (fieldHandle f.a))
  | 0x04 => some (.hget g f.d (fieldHandle f.a))
  | _ => none

/-- Class 0xC (R309). -/
def rawC (g : Guard) (f : Fields) : Option Instr :=
  match f.op.toNat with
  | 0x00 => some (.ovld g (fieldHandle f.d) f.a)
  | 0x01 => some (.ovpin g (fieldPred f.d) f.a)
  | 0x02 => some (.ovunpin g f.a)
  | 0x03 => some (.ovevict g (fieldPred f.d) f.a)
  | 0x04 => some (.ovq g f.d f.a)
  | _ => none

/-- Class 0xD (R314 to R323). -/
def rawD (g : Guard) (f : Fields) : Option Instr :=
  match f.op.toNat with
  | 0x00 => some (.trap g (f.i.extractLsb' 0 5))
  | 0x01 => some (.rdsr g f.d (f.i.extractLsb' 0 8))
  | 0x02 => some (.wrsr g f.a (f.i.extractLsb' 0 8))
  | 0x03 => some (.eret g)
  | 0x04 => some (.park g (fieldPred f.d) f.a)
  | 0x05 => some (.resume g (fieldPred f.d) f.a)
  | 0x06 => some (.kill g (fieldPred f.d) f.a)
  | 0x07 => some (.frsave g f.a)
  | 0x08 => some (.frload g f.a)
  | 0x09 => some (.bsave g f.a)
  | 0x0A => some (.brest g f.a)
  | 0x0B => some (.logpush g f.a)
  | 0x0D => some (.tlbinv g f.a (f.i.extractLsb' 0 2))
  | _ => none

/-- The raw reading of a word of any class (R192): class 0xE and every reserved OP read as nothing. -/
def rawInstr (f : Fields) (w2 w3 : DWord) : Option Instr :=
  let g := guardOf f
  match f.cls.toNat with
  | 0x0 => raw0 g f | 0x1 => raw1 g f | 0x2 => raw2 g f | 0x3 => raw3 g f w2 | 0x4 => raw4 g f
  | 0x5 => raw5 g f | 0x6 => raw6 g f | 0x7 => raw7 g f | 0x8 => raw8 g f | 0x9 => raw9 g f w2 w3
  | 0xA => rawA g f | 0xB => rawB g f | 0xC => rawC g f | 0xD => rawD g f
  | _ => none

/-- Whether R192 assigns an OP of a class. -/
def opAssigned (cls op : Nat) : Bool :=
  match cls with
  | 0x0 => op ≤ 0x26 && op != 0x1B || 0x28 ≤ op && op ≤ 0x2D
  | 0x1 => op ≤ 0x15 && op != 0x09
  | 0x2 => op ≤ 0x09
  | 0x3 => op ≤ 0x0A
  | 0x4 => op ≤ 0x0E
  | 0x5 => op ≤ 0x04
  | 0x6 => op ≤ 0x02
  | 0x7 => op ≤ 0x0F
  | 0x8 => op ≤ 0x0B
  | 0x9 => op ≤ 0x05
  | 0xA => op ≤ 0x0D && op != 0x0B
  | 0xB => op ≤ 0x04
  | 0xC => op ≤ 0x04
  | 0xD => op ≤ 0x0D && op != 0x0C
  | _ => false

/-! ## The encoder -/

/-- The fields of the first word of a core instruction (R179 to R182, R192); none for a port-program
word or an event. -/
def encodeFields : Instr → Option Fields
  | .add g o => some (layAlu 0 0x00 g o)
  | .sub g o => some (layAlu 0 0x01 g o)
  | .mul g o => some (layAlu 0 0x02 g o)
  | .mulhi g o => some (layAlu 0 0x03 g o)
  | .mad g o => some (layAlu 0 0x04 g o)
  | .madw g o => some (layAlu 0 0x05 g o)
  | .min g o => some (layAlu 0 0x06 g o)
  | .max g o => some (layAlu 0 0x07 g o)
  | .abs g o => some (layAlu 0 0x08 g o)
  | .neg g o => some (layAlu 0 0x09 g o)
  | .and g o => some (layAlu 0 0x0A g o)
  | .or g o => some (layAlu 0 0x0B g o)
  | .xor g o => some (layAlu 0 0x0C g o)
  | .not g o => some (layAlu 0 0x0D g o)
  | .shl g o => some (layAlu 0 0x0E g o)
  | .shr g o => some (layAlu 0 0x0F g o)
  | .sar g o => some (layAlu 0 0x10 g o)
  | .rol g o => some (layAlu 0 0x11 g o)
  | .bfx g o => some (layAlu 0 0x12 g o)
  | .bfi g o => some (layAlu 0 0x13 g o)
  | .popc g o => some (layAlu 0 0x14 g o)
  | .clz g o => some (layAlu 0 0x15 g o)
  | .brev g o => some (layAlu 0 0x16 g o)
  | .sel g o => some (layAlu 0 0x17 g o)
  | .setp g o => some (layAlu 0 0x18 g o)
  | .mov g o => some (layAlu 0 0x19 g o)
  | .lea g o => some (layAlu 0 0x1A g o)
  | .div g o => some (layAlu 0 0x1C g o)
  | .rem g o => some (layAlu 0 0x1D g o)
  | .sadd g o => some (layAlu 0 0x1E g o)
  | .ssub g o => some (layAlu 0 0x1F g o)
  | .addi g o => some (layImm 0x20 g o)
  | .andi g o => some (layImm 0x21 g o)
  | .ori g o => some (layImm 0x22 g o)
  | .xori g o => some (layImm 0x23 g o)
  | .movi g o => some (layImm 0x24 g o)
  | .movhi g o => some (layImm 0x25 g o)
  | .setpi g o => some (layImm 0x26 g o)
  | .pand g o => some (layPreds 0x28 g o)
  | .por g o => some (layPreds 0x29 g o)
  | .pxor g o => some (layPreds 0x2A g o)
  | .pnot g d a => some (fmtR 0 0x2B g (predField d) (predField a) 0 0 0 0)
  | .movs g d n => some (fmtR 0 0x2C g d 0 0 0 0 ((0 : BitVec 10) ++ n))
  | .wrs g a n => some (fmtR 0 0x2D g 0 a 0 0 0 ((0 : BitVec 10) ++ n))
  | .fadd g o => some (layAlu 1 0x00 g o)
  | .fsub g o => some (layAlu 1 0x01 g o)
  | .fmul g o => some (layAlu 1 0x02 g o)
  | .ffma g o => some (layAlu 1 0x03 g o)
  | .fmin g o => some (layAlu 1 0x04 g o)
  | .fmax g o => some (layAlu 1 0x05 g o)
  | .fabs g o => some (layAlu 1 0x06 g o)
  | .fneg g o => some (layAlu 1 0x07 g o)
  | .fsetp g o => some (layAlu 1 0x08 g o)
  | .frcp g o => some (layAlu 1 0x0A g o)
  | .frsq g o => some (layAlu 1 0x0B g o)
  | .fsqrt g o => some (layAlu 1 0x0C g o)
  | .fex2 g o => some (layAlu 1 0x0D g o)
  | .flg2 g o => some (layAlu 1 0x0E g o)
  | .fsin g o => some (layAlu 1 0x0F g o)
  | .fcos g o => some (layAlu 1 0x10 g o)
  | .ftanh g o => some (layAlu 1 0x11 g o)
  | .fdiv g o => some (layAlu 1 0x12 g o)
  | .fclass g o => some (layAlu 1 0x13 g o)
  | .fround g o => some (layAlu 1 0x14 g o)
  | .fscale g o => some (layAlu 1 0x15 g o)
  | .cvt g o => some (layAlu 2 0x00 g o)
  | .pkBf16 g o => some (layAlu 2 0x01 g o)
  | .upkBf16 g o => some (layAlu 2 0x02 g o)
  | .pkF8 g o => some (layAlu 2 0x03 g o)
  | .upkF8 g o => some (layAlu 2 0x04 g o)
  | .npiEnc g o => some (layAlu 2 0x05 g o)
  | .npiDec g o => some (layAlu 2 0x06 g o)
  | .bscale g o => some (layAlu 2 0x07 g o)
  | .bquant g o => some (layAlu 2 0x08 g o)
  | .bdot g o => some (layAlu 2 0x09 g o)
  | .bra g v => some (fmtI 3 0 g 0 0 0 v)
  | .mbr g o => some (layMbr g o)
  | .call g v => some (fmtI 3 2 g 0 0 0 v)
  | .callo g o e => some (fmtI 3 3 g 0 0 0 ((0 : BitVec 16) ++ (o ++ e)))
  | .calli g a => some (fmtR 3 4 g 0 a 0 0 0 0)
  | .ret g => some (fmtR 3 5 g 0 0 0 0 0 0)
  | .exit g => some (fmtR 3 6 g 0 0 0 0 0 0)
  | .yield g => some (fmtR 3 7 g 0 0 0 0 0 0)
  | .nop g => some (fmtR 3 8 g 0 0 0 0 0 0)
  | .bri g a => some (fmtR 3 9 g 0 a 0 0 0 0)
  | .brk g n => some (fmtR 3 0xA g 0 0 0 0 0 ((0 : BitVec 11) ++ n))
  | .voteAll g d a b => some (fmtR 4 0 g (predField d) (predField a) b 0 0 0)
  | .voteAny g d a b => some (fmtR 4 1 g (predField d) (predField a) b 0 0 0)
  | .voteBal g d a b => some (fmtR 4 2 g d (predField a) b 0 0 0)
  | .shflIdx g o s => some (layShfl 3 g o (layLaneSrc s))
  | .shflUp g o n => some (layShfl 4 g o ((0 : BitVec 11) ++ n))
  | .shflDn g o n => some (layShfl 5 g o ((0 : BitVec 11) ++ n))
  | .shflXor g o n => some (layShfl 6 g o ((0 : BitVec 11) ++ n))
  | .qxH g o => some (layShfl 7 g o 0)
  | .qxV g o => some (layShfl 8 g o 0)
  | .qxD g o => some (layShfl 9 g o 0)
  | .lredAdd g o => some (layLane 0xA g o)
  | .lredMax g o => some (layLane 0xB g o)
  | .lredMin g o => some (layLane 0xC g o)
  | .lscanAdd g o => some (layLane 0xD g o)
  | .matchLanes g d a b => some (fmtR 4 0xE g d a b 0 0 0)
  | .ld g o => some (layMem 5 0x00 g o)
  | .ldAcq g o => some (layMem 5 0x01 g o)
  | .ldNc g o => some (layMem 5 0x02 g o)
  | .pf g o => some (layMem 5 0x03 g o)
  | .pop g o => some (layMem 5 0x04 g o)
  | .st g o => some (layMem 6 0x00 g o)
  | .stRel g o => some (layMem 6 0x01 g o)
  | .push g o => some (layMem 6 0x02 g o)
  | .atomAdd g o => some (layMem 7 0x00 g o)
  | .atomMin g o => some (layMem 7 0x01 g o)
  | .atomMax g o => some (layMem 7 0x02 g o)
  | .atomAnd g o => some (layMem 7 0x03 g o)
  | .atomOr g o => some (layMem 7 0x04 g o)
  | .atomXor g o => some (layMem 7 0x05 g o)
  | .atomXchg g o => some (layMem 7 0x06 g o)
  | .atomCas g o => some (layMem 7 0x07 g o)
  | .redAdd g o => some (layMem 7 0x08 g o)
  | .redMin g o => some (layMem 7 0x09 g o)
  | .redMax g o => some (layMem 7 0x0A g o)
  | .redOr g o => some (layMem 7 0x0B g o)
  | .nmcas g o => some (layMem 7 0x0C g o)
  | .nmenq g o => some (layMem 7 0x0D g o)
  | .nmchase g o => some (layMem 7 0x0E g o)
  | .atomInc g o => some (layMem 7 0x0F g o)
  | .fence g s => some (fmtR 8 0 g 0 0 0 0 0 ((0 : BitVec 13) ++ scopeCode s))
  | .barInit g n a => some (fmtR 8 1 g 0 a 0 0 0 ((0 : BitVec 12) ++ n))
  | .barArr g d n => some (fmtR 8 2 g d 0 0 0 0 ((0 : BitVec 12) ++ n))
  | .barExp g n a => some (fmtR 8 3 g 0 a 0 0 0 ((0 : BitVec 12) ++ n))
  | .barWait g d n a => some (fmtR 8 4 g (predField d) a 0 0 0 ((0 : BitVec 12) ++ n))
  | .waitany g d a b => some (fmtR 8 5 g d a b 0 0 0)
  | .barTst g d c n a => some (fmtR 8 6 g (predField d) a 0 (predField c) 0 ((0 : BitVec 12) ++ n))
  | .heatArr g d => some (fmtR 8 7 g d 0 0 0 0 0)
  | .heatWait g d a => some (fmtR 8 8 g (predField d) a 0 0 0 0)
  | .fwait g v => some (fmtR 8 9 g 0 0 0 0 0 ((0 : BitVec 4) ++ v))
  | .aalloc g d c a => some (fmtR 8 0xA g d a 0 (predField c) 0 0)
  | .afree g a => some (fmtR 8 0xB g 0 a 0 0 0 0)
  | .cpy g k a => some (layCopy 0 g k a 0)
  | .cpyRed g k a => some (layCopy 1 g k a 0)
  | .cpyBc g k a => some (layCopy 2 g k a 0)
  | .chain g o => some (layChain g o)
  | .cpyT g k a => some (layCopy 4 g k a 0)
  | .cpyD g k a keep => some (layCopy 5 g k a ((0 : BitVec 5) ++ bit1 keep))
  | .tbind g a b c view rdy => some (fmtR 0xA 0 g 0 a b c ((0 : BitVec 4) ++ (bit1 rdy ++ bit1 view)) 0)
  | .tgive g a => some (fmtR 0xA 1 g 0 a 0 0 0 0)
  | .ttake g a => some (fmtR 0xA 2 g 0 a 0 0 0 0)
  | .tstat g d a => some (fmtR 0xA 3 g d a 0 0 0 0)
  | .tfree g a => some (fmtR 0xA 4 g 0 a 0 0 0 0)
  | .mma g a b c => some (fmtR 0xA 5 g 0 a b c 0 0)
  | .mmaBs g a b c => some (fmtR 0xA 6 g 0 a b c 0 0)
  | .mmaNp g a b c scl => some (fmtR 0xA 7 g 0 a b c ((0 : BitVec 5) ++ bit1 scl) 0)
  | .mmaCoop g a b c scl k p l => some (fmtR 0xA 8 g 0 a b c ((0 : BitVec 3) ++ (coopCode k ++ bit1 scl)) ((0 : BitVec 9) ++ (l ++ p)))
  | .mzero g a => some (fmtR 0xA 9 g 0 a 0 0 0 0)
  | .mdrain g a b => some (fmtR 0xA 0xA g 0 a b 0 0 0)
  | .csel g a b => some (fmtR 0xA 0xC g 0 a b 0 0 0)
  | .mseq g d w => some (fmtR 0xA 0xD g d 0 0 0 ((0 : BitVec 5) ++ bit1 w) 0)
  | .hwait g v => some (fmtR 0xB 0 g 0 0 0 0 0 v)
  | .htest g d a => some (fmtR 0xB 1 g (predField d) (handleField a) 0 0 0 0)
  | .hcancel g a => some (fmtR 0xB 2 g 0 (handleField a) 0 0 0 0)
  | .hpass g d a => some (fmtR 0xB 3 g (handleField d) (handleField a) 0 0 0 0)
  | .hget g d a => some (fmtR 0xB 4 g d (handleField a) 0 0 0 0)
  | .ovld g d a => some (fmtR 0xC 0 g (handleField d) a 0 0 0 0)
  | .ovpin g d a => some (fmtR 0xC 1 g (predField d) a 0 0 0 0)
  | .ovunpin g a => some (fmtR 0xC 2 g 0 a 0 0 0 0)
  | .ovevict g d a => some (fmtR 0xC 3 g (predField d) a 0 0 0 0)
  | .ovq g d a => some (fmtR 0xC 4 g d a 0 0 0 0)
  | .trap g n => some (fmtR 0xD 0 g 0 0 0 0 0 ((0 : BitVec 11) ++ n))
  | .rdsr g d n => some (fmtR 0xD 1 g d 0 0 0 0 ((0 : BitVec 8) ++ n))
  | .wrsr g a n => some (fmtR 0xD 2 g 0 a 0 0 0 ((0 : BitVec 8) ++ n))
  | .eret g => some (fmtR 0xD 3 g 0 0 0 0 0 0)
  | .park g d a => some (fmtR 0xD 4 g (predField d) a 0 0 0 0)
  | .resume g d a => some (fmtR 0xD 5 g (predField d) a 0 0 0 0)
  | .kill g d a => some (fmtR 0xD 6 g (predField d) a 0 0 0 0)
  | .frsave g a => some (fmtR 0xD 0x7 g 0 a 0 0 0 0)
  | .frload g a => some (fmtR 0xD 0x8 g 0 a 0 0 0 0)
  | .bsave g a => some (fmtR 0xD 0x9 g 0 a 0 0 0 0)
  | .brest g a => some (fmtR 0xD 0xA g 0 a 0 0 0 0)
  | .logpush g a => some (fmtR 0xD 0xB g 0 a 0 0 0 0)
  | .tlbinv g a mode => some (fmtR 0xD 0xD g 0 a 0 0 0 ((0 : BitVec 14) ++ mode))
  | .mcfNop | .mcfMatch _ _ | .mcfLookup _ _ _ | .mcfLookupM _ _ _ | .mcfHold _ | .mcfComb _ _ _ _
  | .mcfWait _ _ | .mcfFwd _ _ _ _ | .mcfRepl _ _ _ _ _ | .mcfEmit _ _ _ | .mcfBarup _ _
  | .mcfGrant _ _ _ | .mcfNack _ _ | .mcfCnt _ _ _ _ | .mcfJmp _ | .mcfJz _ _ | .mcfJnz _ _ | .mcfSet _ _
  | .mcfSetHi _ _ | .mcfAdd _ _ _ _ | .mcfAddImm _ _ _ | .mcfLd _ _ _ | .mcfSt _ _ _ | .mcfOrder _
  | .mcfDrain _ _ _ | .mcfLog _ _ | .mcfEnd
  | .blockHeaderEntry _ _ _ | .issueSlot _ _ | .controlCoreIssue _ | .rejoinHoldTimeout _ _ _ _
  | .rendezvousTimeout _ _ _ | .handlerEntry _ | .runtimeResume _ _ | .runtimeKill _ _ | .blockKill _ _
  | .watchdogTimeout _ _ | .preemptContext _ | .preemptionComplete _ | .contextResume _ | .blockRetire _
  | .doorbellWrite _ _ _ | .launchAccept _ _ | .batchForm | .resourceAdvertise _ | .blockPlace _
  | .launchComplete _ | .aallocStallFail _ | .pageWalk _ _ | .homeSliceAccess _ _
  | .directoryInvalidate _ _ | .storeAck _ | .loadReturn _ | .replicaCommit _ | .replicaUpdate _
  | .ackLostTimeout _ | .lineThaw _ | .replicaLockTimeout _ | .stackCacheSpill _ _ _ | .copyComplete _ _
  | .chainComplete _ _ | .matrixStepComplete _ | .coopTimeout _ | .nmAgentExecute _
  | .overlayLoadComplete _ _ | .frctlWrite _ _ | .frctlErrClear _ | .moncfgWrite _ _ | .monitorClear _
  | .monitorLevelSample _ | .registerWrite _ _ | .contextRecordWrite _ _ | .powerControlInterval _
  | .shapingWindowBoundary | .dwriteSend _ | .dwriteAccept _ | .snapshotRead _ | .snapshotResponse _
  | .packageArrive _ | .activityReport _ _ | .quenchArrivalReport _ _ _ _ | .quenchApply _ _
  | .quenchDone _ _ _ | .quenchRelease _ | .quenchSkewTimeout _ | .readmissionRequest _ _
  | .windowFreeze _ | .windowThaw _ | .programBind _ | .programUnbind _ _ | .packetReceive _
  | .grantReceive _ | .nackReceive _ | .rowAck _ _ _ _ _ | .roundComplete _ _ | .collectiveTimeout _ _
  | .packageReset _ | .contextReset _ | .hearthDieReset _ | .dieRejoin _ | .dieFailTimeout _
  | .portEnable _ | .trainingComplete _ | .trainingTimeout _ | .joinExchange _ _ | .attestationReport _ _
  | .linkLoss _ | .portClear _ | .frameReceive _ _ | .noPathTimeout _ | .keyRefresh _ | .keyStarved _
  | .heatDomainForm _ _ | .tlbinvRemovalComplete _ => none

/-- The continuation words of a core instruction: one for `mbr`, two for `chain` (R181, R182). -/
def encodeRest : Instr → List DWord
  | .mbr _ o => [mbrWord2 o]
  | .chain _ o => [o.w2, o.w3]
  | .add _ _ | .sub _ _ | .mul _ _ | .mulhi _ _ | .mad _ _ | .madw _ _ | .min _ _ | .max _ _ | .abs _ _
  | .neg _ _ | .and _ _ | .or _ _ | .xor _ _ | .not _ _ | .shl _ _ | .shr _ _ | .sar _ _ | .rol _ _
  | .bfx _ _ | .bfi _ _ | .popc _ _ | .clz _ _ | .brev _ _ | .sel _ _ | .setp _ _ | .mov _ _ | .lea _ _
  | .div _ _ | .rem _ _ | .sadd _ _ | .ssub _ _ | .addi _ _ | .andi _ _ | .ori _ _ | .xori _ _
  | .movi _ _ | .movhi _ _ | .setpi _ _ | .pand _ _ | .por _ _ | .pxor _ _ | .pnot _ _ _ | .movs _ _ _
  | .wrs _ _ _ | .fadd _ _ | .fsub _ _ | .fmul _ _ | .ffma _ _ | .fmin _ _ | .fmax _ _ | .fabs _ _
  | .fneg _ _ | .fsetp _ _ | .frcp _ _ | .frsq _ _ | .fsqrt _ _ | .fex2 _ _ | .flg2 _ _ | .fsin _ _
  | .fcos _ _ | .ftanh _ _ | .fdiv _ _ | .fclass _ _ | .fround _ _ | .fscale _ _ | .cvt _ _ | .pkBf16 _ _
  | .upkBf16 _ _ | .pkF8 _ _ | .upkF8 _ _ | .npiEnc _ _ | .npiDec _ _ | .bscale _ _ | .bquant _ _
  | .bdot _ _ | .bra _ _ | .call _ _ | .callo _ _ _ | .calli _ _ | .ret _ | .exit _ | .yield _ | .nop _
  | .bri _ _ | .brk _ _ | .voteAll _ _ _ _ | .voteAny _ _ _ _ | .voteBal _ _ _ _ | .shflIdx _ _ _
  | .shflUp _ _ _ | .shflDn _ _ _ | .shflXor _ _ _ | .qxH _ _ | .qxV _ _ | .qxD _ _ | .lredAdd _ _
  | .lredMax _ _ | .lredMin _ _ | .lscanAdd _ _ | .matchLanes _ _ _ _ | .ld _ _ | .ldAcq _ _ | .ldNc _ _
  | .pf _ _ | .pop _ _ | .st _ _ | .stRel _ _ | .push _ _ | .atomAdd _ _ | .atomMin _ _ | .atomMax _ _
  | .atomAnd _ _ | .atomOr _ _ | .atomXor _ _ | .atomXchg _ _ | .atomCas _ _ | .redAdd _ _ | .redMin _ _
  | .redMax _ _ | .redOr _ _ | .nmcas _ _ | .nmenq _ _ | .nmchase _ _ | .atomInc _ _ | .fence _ _
  | .barInit _ _ _ | .barArr _ _ _ | .barExp _ _ _ | .barWait _ _ _ _ | .waitany _ _ _ _
  | .barTst _ _ _ _ _ | .heatArr _ _ | .heatWait _ _ _ | .fwait _ _ | .aalloc _ _ _ _ | .afree _ _
  | .cpy _ _ _ | .cpyRed _ _ _ | .cpyBc _ _ _ | .cpyT _ _ _ | .cpyD _ _ _ _ | .tbind _ _ _ _ _ _
  | .tgive _ _ | .ttake _ _ | .tstat _ _ _ | .tfree _ _ | .mma _ _ _ _ | .mmaBs _ _ _ _
  | .mmaNp _ _ _ _ _ | .mmaCoop _ _ _ _ _ _ _ _ | .mzero _ _ | .mdrain _ _ _ | .csel _ _ _ | .mseq _ _ _
  | .hwait _ _ | .htest _ _ _ | .hcancel _ _ | .hpass _ _ _ | .hget _ _ _ | .ovld _ _ _ | .ovpin _ _ _
  | .ovunpin _ _ | .ovevict _ _ _ | .ovq _ _ _ | .trap _ _ | .rdsr _ _ _ | .wrsr _ _ _ | .eret _
  | .park _ _ _ | .resume _ _ _ | .kill _ _ _ | .frsave _ _ | .frload _ _ | .bsave _ _ | .brest _ _
  | .logpush _ _ | .tlbinv _ _ _ | .mcfNop | .mcfMatch _ _ | .mcfLookup _ _ _ | .mcfLookupM _ _ _
  | .mcfHold _ | .mcfComb _ _ _ _ | .mcfWait _ _ | .mcfFwd _ _ _ _ | .mcfRepl _ _ _ _ _ | .mcfEmit _ _ _
  | .mcfBarup _ _ | .mcfGrant _ _ _ | .mcfNack _ _ | .mcfCnt _ _ _ _ | .mcfJmp _ | .mcfJz _ _
  | .mcfJnz _ _ | .mcfSet _ _ | .mcfSetHi _ _ | .mcfAdd _ _ _ _ | .mcfAddImm _ _ _ | .mcfLd _ _ _
  | .mcfSt _ _ _ | .mcfOrder _ | .mcfDrain _ _ _ | .mcfLog _ _ | .mcfEnd
  | .blockHeaderEntry _ _ _ | .issueSlot _ _ | .controlCoreIssue _ | .rejoinHoldTimeout _ _ _ _
  | .rendezvousTimeout _ _ _ | .handlerEntry _ | .runtimeResume _ _ | .runtimeKill _ _ | .blockKill _ _
  | .watchdogTimeout _ _ | .preemptContext _ | .preemptionComplete _ | .contextResume _ | .blockRetire _
  | .doorbellWrite _ _ _ | .launchAccept _ _ | .batchForm | .resourceAdvertise _ | .blockPlace _
  | .launchComplete _ | .aallocStallFail _ | .pageWalk _ _ | .homeSliceAccess _ _
  | .directoryInvalidate _ _ | .storeAck _ | .loadReturn _ | .replicaCommit _ | .replicaUpdate _
  | .ackLostTimeout _ | .lineThaw _ | .replicaLockTimeout _ | .stackCacheSpill _ _ _ | .copyComplete _ _
  | .chainComplete _ _ | .matrixStepComplete _ | .coopTimeout _ | .nmAgentExecute _
  | .overlayLoadComplete _ _ | .frctlWrite _ _ | .frctlErrClear _ | .moncfgWrite _ _ | .monitorClear _
  | .monitorLevelSample _ | .registerWrite _ _ | .contextRecordWrite _ _ | .powerControlInterval _
  | .shapingWindowBoundary | .dwriteSend _ | .dwriteAccept _ | .snapshotRead _ | .snapshotResponse _
  | .packageArrive _ | .activityReport _ _ | .quenchArrivalReport _ _ _ _ | .quenchApply _ _
  | .quenchDone _ _ _ | .quenchRelease _ | .quenchSkewTimeout _ | .readmissionRequest _ _
  | .windowFreeze _ | .windowThaw _ | .programBind _ | .programUnbind _ _ | .packetReceive _
  | .grantReceive _ | .nackReceive _ | .rowAck _ _ _ _ _ | .roundComplete _ _ | .collectiveTimeout _ _
  | .packageReset _ | .contextReset _ | .hearthDieReset _ | .dieRejoin _ | .dieFailTimeout _
  | .portEnable _ | .trainingComplete _ | .trainingTimeout _ | .joinExchange _ _ | .attestationReport _ _
  | .linkLoss _ | .portClear _ | .frameReceive _ _ | .noPathTimeout _ | .keyRefresh _ | .keyStarved _
  | .heatDomainForm _ _ | .tlbinvRemovalComplete _ => []

/-- The fields of a port-program word (R340). -/
structure PortFields where
  op : BitVec 6
  d  : BitVec 4
  a  : BitVec 4
  b  : BitVec 4
  i  : BitVec 14
  deriving DecidableEq, Repr

/-- The fields of a port-program word (R340). -/
def unpackPort (w : Word) : PortFields :=
  { op := w.extractLsb' 26 6, d := w.extractLsb' 22 4, a := w.extractLsb' 18 4, b := w.extractLsb' 14 4,
    i := w.extractLsb' 0 14 }

/-- The port-program word of the fields (R340). -/
def packPort (f : PortFields) : Word := f.op ++ (f.d ++ (f.a ++ (f.b ++ f.i)))

/-- Fields of a port-program word, in order. -/
def portF (op : BitVec 6) (d a b : BitVec 4) (i : BitVec 14) : PortFields := ⟨op, d, a, b, i⟩

/-- The fields of a port-program instruction (R341); none for any other instruction. -/
def encodePort : Instr → Option PortFields
  | .mcfNop => some (portF 0 0 0 0 0)
  | .mcfMatch d t => some (portF 1 d 0 0 ((0 : BitVec 10) ++ t))
  | .mcfLookup d a w => some (portF 2 d a 0 ((0 : BitVec 10) ++ w))
  | .mcfLookupM d a b => some (portF 2 d a b (0x2000 : BitVec 14))
  | .mcfHold a => some (portF 3 0 a 0 0)
  | .mcfComb d a b op => some (portF 4 d a b ((0 : BitVec 10) ++ op))
  | .mcfWait a b => some (portF 5 0 a b 0)
  | .mcfFwd d a b k => some (portF 6 d a b ((0 : BitVec 13) ++ bit1 k))
  | .mcfRepl d a b k n => some (portF 7 d a b ((0 : BitVec 7) ++ (bit1 k ++ n)))
  | .mcfEmit d a f => some (portF 8 d a 0 ((0 : BitVec 13) ++ bit1 f))
  | .mcfBarup a b => some (portF 9 0 a b 0)
  | .mcfGrant d a b => some (portF 0xA d a b 0)
  | .mcfNack a b => some (portF 0xB 0 a b 0)
  | .mcfCnt d a b s => some (portF 0xC d a b ((0 : BitVec 13) ++ bit1 s))
  | .mcfJmp i => some (portF 0xD 0 0 0 i)
  | .mcfJz a i => some (portF 0xE 0 a 0 i)
  | .mcfJnz a i => some (portF 0xF 0 a 0 i)
  | .mcfSet d i => some (portF 0x10 d 0 (i.extractLsb' 14 4) (i.extractLsb' 0 14))
  | .mcfSetHi d i => some (portF 0x10 d 1 0 i)
  | .mcfAdd d a b i => some (portF 0x11 d a b (bit1 false ++ i))
  | .mcfAddImm d a i => some (portF 0x11 d a 0 (bit1 true ++ i))
  | .mcfLd d a w => some (portF 0x12 d a 0 ((0 : BitVec 8) ++ w))
  | .mcfSt d a w => some (portF 0x13 d a 0 ((0 : BitVec 8) ++ w))
  | .mcfOrder a => some (portF 0x14 0 a 0 0)
  | .mcfDrain d a b => some (portF 0x15 d a b 0)
  | .mcfLog a c => some (portF 0x16 0 a 0 ((0 : BitVec 6) ++ c))
  | .mcfEnd => some (portF 0x17 0 0 0 0)
  | .add _ _ | .sub _ _ | .mul _ _ | .mulhi _ _ | .mad _ _ | .madw _ _ | .min _ _ | .max _ _ | .abs _ _
  | .neg _ _ | .and _ _ | .or _ _ | .xor _ _ | .not _ _ | .shl _ _ | .shr _ _ | .sar _ _ | .rol _ _
  | .bfx _ _ | .bfi _ _ | .popc _ _ | .clz _ _ | .brev _ _ | .sel _ _ | .setp _ _ | .mov _ _ | .lea _ _
  | .div _ _ | .rem _ _ | .sadd _ _ | .ssub _ _ | .addi _ _ | .andi _ _ | .ori _ _ | .xori _ _
  | .movi _ _ | .movhi _ _ | .setpi _ _ | .pand _ _ | .por _ _ | .pxor _ _ | .pnot _ _ _ | .movs _ _ _
  | .wrs _ _ _ | .fadd _ _ | .fsub _ _ | .fmul _ _ | .ffma _ _ | .fmin _ _ | .fmax _ _ | .fabs _ _
  | .fneg _ _ | .fsetp _ _ | .frcp _ _ | .frsq _ _ | .fsqrt _ _ | .fex2 _ _ | .flg2 _ _ | .fsin _ _
  | .fcos _ _ | .ftanh _ _ | .fdiv _ _ | .fclass _ _ | .fround _ _ | .fscale _ _ | .cvt _ _ | .pkBf16 _ _
  | .upkBf16 _ _ | .pkF8 _ _ | .upkF8 _ _ | .npiEnc _ _ | .npiDec _ _ | .bscale _ _ | .bquant _ _
  | .bdot _ _ | .bra _ _ | .mbr _ _ | .call _ _ | .callo _ _ _ | .calli _ _ | .ret _ | .exit _ | .yield _
  | .nop _ | .bri _ _ | .brk _ _ | .voteAll _ _ _ _ | .voteAny _ _ _ _ | .voteBal _ _ _ _
  | .shflIdx _ _ _ | .shflUp _ _ _ | .shflDn _ _ _ | .shflXor _ _ _ | .qxH _ _ | .qxV _ _ | .qxD _ _
  | .lredAdd _ _ | .lredMax _ _ | .lredMin _ _ | .lscanAdd _ _ | .matchLanes _ _ _ _ | .ld _ _
  | .ldAcq _ _ | .ldNc _ _ | .pf _ _ | .pop _ _ | .st _ _ | .stRel _ _ | .push _ _ | .atomAdd _ _
  | .atomMin _ _ | .atomMax _ _ | .atomAnd _ _ | .atomOr _ _ | .atomXor _ _ | .atomXchg _ _
  | .atomCas _ _ | .redAdd _ _ | .redMin _ _ | .redMax _ _ | .redOr _ _ | .nmcas _ _ | .nmenq _ _
  | .nmchase _ _ | .atomInc _ _ | .fence _ _ | .barInit _ _ _ | .barArr _ _ _ | .barExp _ _ _
  | .barWait _ _ _ _ | .waitany _ _ _ _ | .barTst _ _ _ _ _ | .heatArr _ _ | .heatWait _ _ _ | .fwait _ _
  | .aalloc _ _ _ _ | .afree _ _ | .cpy _ _ _ | .cpyRed _ _ _ | .cpyBc _ _ _ | .chain _ _ | .cpyT _ _ _
  | .cpyD _ _ _ _ | .tbind _ _ _ _ _ _ | .tgive _ _ | .ttake _ _ | .tstat _ _ _ | .tfree _ _
  | .mma _ _ _ _ | .mmaBs _ _ _ _ | .mmaNp _ _ _ _ _ | .mmaCoop _ _ _ _ _ _ _ _ | .mzero _ _
  | .mdrain _ _ _ | .csel _ _ _ | .mseq _ _ _ | .hwait _ _ | .htest _ _ _ | .hcancel _ _ | .hpass _ _ _
  | .hget _ _ _ | .ovld _ _ _ | .ovpin _ _ _ | .ovunpin _ _ | .ovevict _ _ _ | .ovq _ _ _ | .trap _ _
  | .rdsr _ _ _ | .wrsr _ _ _ | .eret _ | .park _ _ _ | .resume _ _ _ | .kill _ _ _ | .frsave _ _
  | .frload _ _ | .bsave _ _ | .brest _ _ | .logpush _ _ | .tlbinv _ _ _
  | .blockHeaderEntry _ _ _ | .issueSlot _ _ | .controlCoreIssue _ | .rejoinHoldTimeout _ _ _ _
  | .rendezvousTimeout _ _ _ | .handlerEntry _ | .runtimeResume _ _ | .runtimeKill _ _ | .blockKill _ _
  | .watchdogTimeout _ _ | .preemptContext _ | .preemptionComplete _ | .contextResume _ | .blockRetire _
  | .doorbellWrite _ _ _ | .launchAccept _ _ | .batchForm | .resourceAdvertise _ | .blockPlace _
  | .launchComplete _ | .aallocStallFail _ | .pageWalk _ _ | .homeSliceAccess _ _
  | .directoryInvalidate _ _ | .storeAck _ | .loadReturn _ | .replicaCommit _ | .replicaUpdate _
  | .ackLostTimeout _ | .lineThaw _ | .replicaLockTimeout _ | .stackCacheSpill _ _ _ | .copyComplete _ _
  | .chainComplete _ _ | .matrixStepComplete _ | .coopTimeout _ | .nmAgentExecute _
  | .overlayLoadComplete _ _ | .frctlWrite _ _ | .frctlErrClear _ | .moncfgWrite _ _ | .monitorClear _
  | .monitorLevelSample _ | .registerWrite _ _ | .contextRecordWrite _ _ | .powerControlInterval _
  | .shapingWindowBoundary | .dwriteSend _ | .dwriteAccept _ | .snapshotRead _ | .snapshotResponse _
  | .packageArrive _ | .activityReport _ _ | .quenchArrivalReport _ _ _ _ | .quenchApply _ _
  | .quenchDone _ _ _ | .quenchRelease _ | .quenchSkewTimeout _ | .readmissionRequest _ _
  | .windowFreeze _ | .windowThaw _ | .programBind _ | .programUnbind _ _ | .packetReceive _
  | .grantReceive _ | .nackReceive _ | .rowAck _ _ _ _ _ | .roundComplete _ _ | .collectiveTimeout _ _
  | .packageReset _ | .contextReset _ | .hearthDieReset _ | .dieRejoin _ | .dieFailTimeout _
  | .portEnable _ | .trainingComplete _ | .trainingTimeout _ | .joinExchange _ _ | .attestationReport _ _
  | .linkLoss _ | .portClear _ | .frameReceive _ _ | .noPathTimeout _ | .keyRefresh _ | .keyStarved _
  | .heatDomainForm _ _ | .tlbinvRemovalComplete _ => none

/-- The raw reading of a port-program word (R341). -/
def rawPort (f : PortFields) : Option Instr :=
  match f.op.toNat with
  | 0x00 => some .mcfNop
  | 0x01 => some (.mcfMatch f.d (f.i.extractLsb' 0 4))
  | 0x02 => if f.i.extractLsb' 13 1 = 1 then some (.mcfLookupM f.d f.a f.b)
            else some (.mcfLookup f.d f.a (f.i.extractLsb' 0 4))
  | 0x03 => some (.mcfHold f.a)
  | 0x04 => some (.mcfComb f.d f.a f.b (f.i.extractLsb' 0 4))
  | 0x05 => some (.mcfWait f.a f.b)
  | 0x06 => some (.mcfFwd f.d f.a f.b (f.i.extractLsb' 0 1 == 1))
  | 0x07 => some (.mcfRepl f.d f.a f.b (f.i.extractLsb' 6 1 == 1) (f.i.extractLsb' 0 6))
  | 0x08 => some (.mcfEmit f.d f.a (f.i.extractLsb' 0 1 == 1))
  | 0x09 => some (.mcfBarup f.a f.b)
  | 0x0A => some (.mcfGrant f.d f.a f.b)
  | 0x0B => some (.mcfNack f.a f.b)
  | 0x0C => some (.mcfCnt f.d f.a f.b (f.i.extractLsb' 0 1 == 1))
  | 0x0D => some (.mcfJmp f.i)
  | 0x0E => some (.mcfJz f.a f.i)
  | 0x0F => some (.mcfJnz f.a f.i)
  | 0x10 => if f.a = 1 then some (.mcfSetHi f.d f.i) else some (.mcfSet f.d (f.b ++ f.i))
  | 0x11 => if f.i.extractLsb' 13 1 = 1 then some (.mcfAddImm f.d f.a (f.i.extractLsb' 0 13))
            else some (.mcfAdd f.d f.a f.b (f.i.extractLsb' 0 13))
  | 0x12 => some (.mcfLd f.d f.a (f.i.extractLsb' 0 6))
  | 0x13 => some (.mcfSt f.d f.a (f.i.extractLsb' 0 6))
  | 0x14 => some (.mcfOrder f.a)
  | 0x15 => some (.mcfDrain f.d f.a f.b)
  | 0x16 => some (.mcfLog f.a (f.i.extractLsb' 0 8))
  | 0x17 => some .mcfEnd
  | _ => none

/-! ## The decoder -/

/-- Decodes the fields of a first word, with the two words after it. -/
def decodeFields (f : Fields) (w2 w3 : DWord) : Except DecodeError Instr :=
  if f.cls = 0xF then .error .header
  else
    match rawInstr f w2 w3 with
    | none => .error (if opAssigned f.cls.toNat f.op.toNat then .reservedCode else .reservedOp)
    | some i =>
      if Machine.legal i = false then .error .illegalUse
      else if encodeFields i = some f then .ok i
      else .error .reservedBits

/-- Decodes a core instruction from its first word and the two words that follow it. -/
def decode (w w2 w3 : DWord) : Except DecodeError Instr := decodeFields (unpack w) w2 w3

/-- How many words the instruction of a first word takes: two for `mbr`, three for `chain`, otherwise
one (R181, R182). -/
def wordCount (w : DWord) : Nat :=
  if w.extractLsb' 60 4 = 3 ∧ w.extractLsb' 54 6 = 1 then 2
  else if w.extractLsb' 60 4 = 9 ∧ w.extractLsb' 54 6 = 3 then 3
  else 1

/-- Decodes a port-program word (R341, R343). -/
def decodePort (w : Word) : Except DecodeError Instr :=
  match rawPort (unpackPort w) with
  | none => .error .reservedOp
  | some i =>
    if Machine.legal i = false then .error .illegalUse
    else if encodePort i = some (unpackPort w) then .ok i
    else .error .reservedBits

/-- The words of a core instruction. -/
def encode (i : Instr) : Option (List DWord) := (encodeFields i).map fun f => pack f :: encodeRest i

/-- The word of a port-program instruction. -/
def encodePortWord (i : Instr) : Option Word := (encodePort i).map packPort

/-- Decodes the words of one core instruction. -/
def decodeWords : List DWord → Except DecodeError Instr
  | [] => .error .truncated
  | w :: ws => if ws.length + 1 < wordCount w then .error .truncated else decode w (ws.getD 0 0) (ws.getD 1 0)

/-- Groups bytes into 64-bit words, low byte first (R2); bytes that fill no word are dropped. -/
def wordsOfBytes : List Byte → List DWord
  | b0 :: b1 :: b2 :: b3 :: b4 :: b5 :: b6 :: b7 :: bs =>
    BitVec.ofNat 64 (leNat [b0, b1, b2, b3, b4, b5, b6, b7]) :: wordsOfBytes bs
  | _ => []

/-- Decodes the core instruction at the head of any bytes. -/
def decodeBytes (bs : List Byte) : Except DecodeError Instr := decodeWords (wordsOfBytes bs)

/-- Decodes the port-program word at the head of any bytes. -/
def decodePortBytes (bs : List Byte) : Except DecodeError Instr :=
  if bs.length < 4 then .error .truncated else decodePort (BitVec.ofNat 32 (leNat (bs.take 4)))

/-- The instruction of the opcode table's bits: 32 bits are a port-program word (R340), 64, 128 or 192
bits the words of a core instruction (R179), the first word lowest and the rest zero. -/
def decodeTableWord (nbits w : Nat) : Option Instr :=
  if nbits ≤ 32 then (decodePortBytes (leBytes 4 w)).toOption
  else (decodeBytes (leBytes 24 w)).toOption

end Sys2Proof
end

