-- ==== Sys2Proof/Machine/Schedule.lean ====
section
/-! DEFINITION. What issues next: the fetch of a word (R171, R178, R183, R409), the candidates of a lane group and the
selection among them (R32, R45, R235), the round robin of the control core (R39), issue slots (R31, R361), and the entry
of a header (R35, R47, R173, R176, R178). -/

namespace Sys2Proof.Machine

/-! ## The fetch of a word -/

/-- Threads whose PC names an overlay that is not resident (R409): they wait for its load, or park. -/
def State.fetchMissing (s : State) (b : Block) (ws : List Who) (pc : Word) (enter : Bool) : State :=
  let fail (s : State) (c : Cause) (d : Nat) : State :=
    s.parkGroup b.id (ws.map fun w => { who := w, cause := c, pc := pc, enter := enter, word := 0, detail := d })
  match s.missing b (ws.headD .ctl) (codeOvl pc) with
  | .fault c _ d => fail s c d
  | .failed s c _ d => fail s c d
  | .stall s x => ws.foldl (fun s w => s.await b.id w x) s
  | _ => s

/-- Threads that fetch a lost word wait while the image is read again (R430). -/
def State.fetchLost (s : State) (b : Block) (ws : List Who) (k : OvlCopy) (ovl : BitVec 8) : State :=
  ws.foldl (fun s w => s.await b.id w (.overlay ovl)) (s.reloadCopy b.core k.id)

/-- Whether a basic block's words cover a code address. -/
def State.covers (s : State) (core c : Nat) (hdr pc : Word) : Bool :=
  codeOvl hdr == codeOvl pc && codeOff hdr < codeOff pc && isHeader (s.wordAt core c hdr) &&
    codeOff pc < codeOff hdr + 8 * ((s.headerAt core c hdr).len + 1)

/-- Fetches the word at which some threads of a block stand, and decodes it. A word with the mark of a header raises
0x03 inside a basic block (R178) and is entered when a return named it (R318); a word that names no legal instruction
raises 0x01 (R193). Words past the end of the block are read as 0: 0x01 is decided from the word itself. -/
def State.fetchCore (s : State) (blk : Nat) (ws : List Who) : State × Option Instr :=
  match s.block blk, ws with
  | some b, w :: _ =>
    match b.thread w with
    | none => ({ s with cur := none }, none)
    | some t =>
      match s.residentCopy b.core b.ctx (codeOvl t.pc) with
      | none => ({ s with cur := none }.fetchMissing b ws t.pc false, none)
      | some k =>
        let x := k.word (codeOff t.pc)
        let inside := s.covers b.core b.ctx t.hdr t.pc
        if k.lost (codeOff t.pc) 1 || (codeOvl t.hdr == codeOvl t.pc && k.lost (codeOff t.hdr) 1) then
          ({ s with cur := none }.fetchLost b ws k (codeOvl t.pc), none)
        else if isHeader x then
          if inside then ({ s with cur := none }.parkBundle b t ws 0x03, none)
          else
            (ws.foldl (fun s w => s.modThread blk w fun t => t.enterAt t.pc) { s with cur := none }, none)
        else
          let hdr := s.blockAt b.core b.ctx t.hdr t.pc
          let s := if inside then s
            else ws.foldl (fun s w => s.modThread blk w fun t => { t with hdr := hdr }) s
          let stop := codeOff hdr + 8 * ((s.headerAt b.core b.ctx hdr).len + 1)
          let at_ (n : Nat) : DWord := if codeOff t.pc + 8 * n < stop then k.word (codeOff t.pc + 8 * n) else 0
          match decode x (at_ 1) (at_ 2) with
          | .ok i =>
            if k.lost (codeOff t.pc) (wordsOf i) then ({ s with cur := none }.fetchLost b ws k (codeOvl t.pc), none)
            else (s, some i)
          | .error _ => ({ s with cur := none }.parkBundle b t ws 0x01, none)
  | _, _ => ({ s with cur := none }, none)

/-! ## Issue slots (R31, R361) -/

/-- Whether the current core cycle is an issue slot of a die. -/
def State.slotOpen (s : State) (die : Nat) : Bool :=
  let d := s.die die
  d.st == .up && s.boot == .done && s.cycle % 16 < (vget d.shape (d.levelAt s.tick) 1).toNat

/-- Whether a lane group, or the control core (unit 4), may issue in this core cycle. -/
def State.mayIssue (s : State) (core unit : Nat) : Bool :=
  s.slotOpen (dieOf core) && vget (s.core core).issued unit 0 ≤ s.cycle && s.cur.isNone

/-- Marks a unit as having issued in this core cycle. The whole of a form takes one slot: whether the continuation words of a
three-word `chain` or of `mbr` take slots of their own, the spec leaves open (R170 counts them as instruction words, R179, R183
and R227 do not) (DESIGN CHOICE, log entry 132). -/
def State.markIssued (s : State) (core unit : Nat) : State :=
  let c := s.cycle + 1
  s.modCore core fun k => { k with issued := vset k.issued unit c }

/-! ## Candidates of a lane group (R32) -/

/-- A candidate: a window of a block, and a frontier entry of its block with eligible threads in that window. -/
structure Group where
  blk : Nat
  seq : Nat
  bid : Nat
  win : Nat
  hdr : Word
  rej : Option Word
  pri : Nat
  wcnt : Nat
  marked : Bool          -- every eligible thread carries a yield mark
  deriving DecidableEq, Repr

/-- The eligible vector threads of a block that a lane group serves. -/
def State.eligibleIn (s : State) (b : Block) (lg : Nat) : List (Nat × Thread) :=
  (b.threads.zipIdx.map fun p => (p.2, p.1)).filter fun p =>
    p.1 / 32 % 4 == lg && s.eligible b (.vec p.1) p.2

/-- The candidates of a block. -/
def State.groupsOf (s : State) (b : Block) (lg : Nat) : List Group :=
  let ts := s.eligibleIn b lg
  let keys := (ts.map fun p => (p.1 / 32, p.2.hdr, p.2.rej)).eraseDups
  keys.map fun k =>
    let mine := ts.filter fun p => p.1 / 32 == k.1 && p.2.hdr == k.2.1 && p.2.rej == k.2.2
    let c := b.cands.find? fun x => x.hdr == k.2.1 && x.rej == k.2.2 && x.win == k.1
    let e := b.cands.find? fun x => x.hdr == k.2.1 && x.rej == k.2.2
    { blk := b.id, seq := b.seq, bid := b.bid, win := k.1, hdr := k.2.1, rej := k.2.2,
      pri := match e with
        | some x => x.pri
        | none => (s.headerAt b.core b.ctx k.2.1).pri,
      wcnt := match c with
        | some x => x.wcnt
        | none => 0,
      marked := mine.all fun p => p.2.yielded }

/-- The candidates of a lane group of a core, over every resident block. -/
def State.groupsOn (s : State) (core lg : Nat) : List Group :=
  (s.blocks.filter (·.core == core)).flatMap fun b => s.groupsOf b lg

/-- Rank at step 3 of R32: the priority, or below priority 0 when every eligible thread carries a yield mark. -/
def Group.rank (g : Group) : Nat := if g.marked then 0 else g.pri + 1

/-- Whether a candidate ranks above another (R32). -/
def Group.above (x y : Group) : Bool :=
  let ax := Config.aged ≤ x.wcnt
  let ay := Config.aged ≤ y.wcnt
  if ax != ay then ax
  else if ax && x.wcnt != y.wcnt then y.wcnt < x.wcnt
  else if x.rank != y.rank then y.rank < x.rank
  else if x.seq != y.seq then x.seq < y.seq
  else if x.bid != y.bid then x.bid < y.bid
  else if x.hdr != y.hdr then x.hdr.toNat < y.hdr.toNat
  else x.win < y.win

/-- The candidate that ranks highest. -/
def pickGroup : List Group → Option Group
  | [] => none
  | g :: gs => match pickGroup gs with
    | none => some g
    | some h => some (if h.above g then h else g)

/-- The bundle of a candidate (R32): every eligible thread of its window at the lowest PC of the entry's block. -/
def State.bundleOf (s : State) (b : Block) (g : Group) : List Nat :=
  let ts := (s.eligibleIn b (g.win % 4)).filter fun p => p.1 / 32 == g.win
  match ts.filter fun p => p.2.hdr == g.hdr with
  | [] => []
  | p :: ps =>
    let pc := ps.foldl (fun m q => if q.2.pc.toNat < m.toNat then q.2.pc else m) p.2.pc
    (ts.filter fun p => p.2.pc == pc).map (·.1)

/-- Sets the wait count of a candidate of a block (R45). -/
def Block.setCount (b : Block) (g : Group) (n : Nat) : Block :=
  if b.cands.any fun k => k.hdr == g.hdr && k.rej == g.rej && k.win == g.win then
    { b with cands := b.cands.map fun k =>
        if k.hdr == g.hdr && k.rej == g.rej && k.win == g.win then { k with wcnt := n } else k }
  else { b with cands := b.cands ++ [{ pri := g.pri, hdr := g.hdr, rej := g.rej, win := g.win, wcnt := n }] }

/-- The wait counts after an issue slot: the candidates not selected rise by one, those of the bundle return to 0. -/
def State.ageGroups (s : State) (l : List Group) (sel : Group → Bool) : State :=
  l.foldl (fun s g => s.modBlock g.blk fun b => b.setCount g (if sel g then 0 else g.wcnt + 1)) s

/-- A thread of a bundle takes the slot: its wait and its yield mark end. What the word still asks of a wait stays: the
arrival that waits for an instance, a wait that has ended, and the issue in whose middle it waited. -/
def Thread.takeSlot (t : Thread) : Thread :=
  { t with yielded := false, wait := match t.wait with
      | .rdvSlot => .rdvSlot
      | .over j => .over j
      | .source n sc => .source n sc
      | x => if x.inIssue then .again false else .none }

/-- The tick at which a thread began to wait on tiles. -/
def Thread.tileWait (t : Thread) : Option Nat :=
  match t.wait with
  | .tiles _ => some t.since
  | _ => none

/-- The sample of a bundle whose tile instruction has waited for a core cycle or more (R447): one, of its longest wait. -/
def State.sampleIssue (s : State) (b : Block) (ws : List Who) : State :=
  match (ws.filterMap fun w => (b.thread w).bind Thread.tileWait).min? with
  | some t => if t + Config.coreTicks ≤ s.tick then s.sampleWait b.core 0x003 t else s
  | none => s

/-- The threads of a block take the issue slot. -/
def State.giveSlot (s : State) (b : Block) (ws : List Who) : State :=
  ws.foldl (fun s w => s.modThread b.id w Thread.takeSlot) (s.sampleIssue b ws)

/-- Whether a candidate has a thread in a bundle. -/
def Block.inBundle (b : Block) (g : Group) (tids : List Nat) : Bool :=
  g.blk == b.id && tids.any fun i => i / 32 == g.win && (b.thread (.vec i)).any fun t => t.hdr == g.hdr && t.rej == g.rej

/-- One issue slot of a lane group (R32). -/
def State.selectBundle (s : State) (core lg : Nat) : State :=
  let l := s.groupsOn core lg
  match pickGroup l with
  | none => s
  | some g =>
    match s.block g.blk with
    | none => s
    | some b =>
      let tids := s.bundleOf b g
      let s := (s.markIssued core lg).ageGroups l fun x => b.inBundle x tids
      { s.giveSlot b (tids.map Who.vec) with cur := some (.bundle b.id tids) }

/-! ## The control core (R39) -/

/-- The blocks of a core whose control thread is eligible. -/
def State.eligibleCtl (s : State) (core : Nat) : List Block :=
  s.blocks.filter fun b => b.core == core && b.ctl.any fun t => s.eligible b .ctl t

/-- The block next in round robin, from a slot number up. -/
def nextSlot (l : List Block) (from_ : Nat) : Option Block :=
  l.foldl (fun acc b =>
    match acc with
    | none => some b
    | some a =>
      if (b.bslot + Config.blockSlots - from_) % Config.blockSlots <
          (a.bslot + Config.blockSlots - from_) % Config.blockSlots then some b else some a) none

/-- One issue slot of the control core. -/
def State.selectControl (s : State) (core : Nat) : State :=
  match nextSlot (s.eligibleCtl core) (s.core core).robin with
  | none => s
  | some b =>
    let s := (s.markIssued core 4).modCore core fun k => { k with robin := (b.bslot + 1) % Config.blockSlots }
    { s.giveSlot b [.ctl] with cur := some (.control b.id) }

/-! ## Handler entry (R388, R399, R413) -/

/-- The control thread of a block enters its handler for an event; HOVL is resident. -/
def State.enterHandler (s : State) (b : Block) (t : Thread) (e : ParkEvent) : State :=
  let s := (s.dropEvent b.id).modBlock b.id fun b =>
    (b.withdraw .ctl).modThread .ctl fun u => u.intoHandler e.cause t.trapPc e.hrec
  ((s.setTaken b.id e.who).startAt b.id b.lr.hovl 0 [.ctl]).settle b.core

/-- The control thread of a block takes the oldest pending park event. A HOVL that is not resident is loaded first; when
it cannot be loaded, the event goes to the runtime. -/
def State.takeEvent (s : State) (blk : Nat) : State :=
  match s.block blk with
  | none => s
  | some b =>
    match b.parks, b.ctl with
    | e :: _, some t =>
      match s.residentCopy b.core b.ctx b.lr.hovl with
      | some _ => s.enterHandler b t e
      | none =>
        match s.startLoad b.core b.ctx b.lr.hovl b.seq b.lr.isq (some (blk, .ctl)) with
        | (.failed c, s) => (s.dropEvent blk).tellRuntime b e.who e.cause e.hrec c.toNat
        | (.joined _, s) => s.modBlock blk fun b => { b with hovlDue := true }
        | (.now, s) => s.enterHandler b t e
    | _, _ => s

/-- Whether the control thread of a block is at a place where it takes a pending park event: before a header, or
waiting. The record that the event names is visible first (R398). -/
def State.takesEvent (s : State) (b : Block) : Bool :=
  (b.parks.head?.any fun e => !s.postedBefore b.ctx e.order) && b.ctl.any fun t =>
    t.live && !t.parked && !t.hmode && t.start.isNone && (t.entering || t.wait.traps)

/-! ## The entry of a header (R35, R47, R173, R176, R178) -/

/-- The threads of a window, or the control thread, that stand before a header. -/
def State.enterers (s : State) (b : Block) (win : Option Nat) (a : Word) : List Who :=
  b.whos.filter fun w => winOf w == win && (b.thread w).any fun t =>
    t.live && !t.parked && t.entering && t.start.isNone && t.pc == a && s.ready b w t

/-- The rejoin step of one thread that enters a header (R35): at its rejoin point it takes the outer rejoin point of its
record, and is held until the record releases. A thread that is a member of several records for J has entered J in each of
them; the oldest gives the outer rejoin point, and with no record there is none (DESIGN CHOICE, log entry 100). -/
def Block.rejoinStep (b : Block) (now : Nat) (tid : Nat) (a : Word) : Block :=
  match b.thread (.vec tid) with
  | none => b
  | some t =>
    if t.rej != some a || t.held then b
    else
      let mine (r : Rejoin) : Bool := r.j == a && inLanes tid r.win r.memb && !inLanes tid r.win r.ent
      match b.rejoins.find? mine with
      | none => b.modThread (.vec tid) fun t => { t with rej := none }
      | some r =>
        let enter (x : Rejoin) : Rejoin :=
          if mine x then { x with ent := x.ent ||| (1#32 <<< (tid % 32)), since := if x.ent == 0 then now else x.since }
          else x
        Block.modThread { b with rejoins := b.rejoins.map enter } (.vec tid) fun t =>
          { t with rej := r.out, held := b.rejoins.any fun r => mine r && !r.freed }

/-- A thread passes into a basic block: it stands at the first word, waiting for the WAIT flags (R173). -/
def Thread.passHeader (t : Thread) (now : Nat) (a : Word) (wait : BitVec 12) (clear : Bool) : Thread :=
  { t with hdr := a, pc := codeAddr (codeOvl a) (codeOff a + 8), entering := false, start := none,
           wait := if clear then .none else .header wait, since := now }

/-- One thread enters a header that has no error. -/
def Block.enterOne (b : Block) (now : Nat) (a : Word) (h : Header) (w : Who) : Block :=
  let clear := b.flagsClear h.wait
  match w with
  | .ctl => b.modThread .ctl fun t => t.passHeader now a h.wait clear
  | .vec i =>
    let b := (b.rejoinStep now i a).modThread w fun t => t.passHeader now a h.wait clear
    b.addCand (i / 32) a ((b.thread w).bind (·.rej)) h.pri

/-- The pin of a HINT = 3 header (R176): one for a block and an overlay, taken as `ovpin` takes one (R311). -/
def State.hintPin (s : State) (b : Block) (ovl : BitVec 8) : State :=
  match s.residentCopy b.core b.ctx ovl with
  | some k =>
    if k.hints.contains (b.id, ovl) || 65535 ≤ k.pinCount then s
    else (s.modCopy b.core k.id fun k => { k with hints := k.hints ++ [(b.id, ovl)] }).cancelEvict b.core b.ctx ovl
  | none => s

/-- Threads of a window enter a header of a resident overlay. -/
def State.enterHeader (s : State) (b : Block) (a : Word) (k : OvlCopy) (ws : List Who) : State :=
  let x := k.word (codeOff a)
  let h := readHeader x
  let park (c : Cause) (addr : Option DWord) : State :=
    let s := s.modBlock b.id fun b => ws.foldl (fun b w => b.modThread w fun t => { t with hdr := a }) b
    let s := s.modBlock b.id fun b => ws.foldl (fun b w =>
      match winOf w with
      | some n => b.addCand n a ((b.thread w).bind (·.rej)) h.pri
      | none => b) b
    s.parkGroup b.id (ws.map fun w => { who := w, cause := c, pc := a, enter := true, word := x, addr := addr })
  if !isHeader x then
    s.parkGroup b.id (ws.map fun w =>
      { who := w, cause := 0x02, pc := a, enter := true, word := x, addr := some (a.setWidth 64) })
  else match headerError h (match ws.head?.bind winOf with
      | some _ => some b.lr.greg
      | none => none) (codeOff a) k.size with
    | some c => park c none
    | none =>
      let s := if h.hint = 3 then s.hintPin b (codeOvl a) else s
      (s.modBlock b.id fun b => (ws.foldl (fun b w => b.enterOne s.tick a h w) b).release.sweep).settle b.core

/-- The entry of a header by the threads that stand before it: PREEMPT (R47), a pending event of the control thread
(R388), the presence of the overlay (R409), then the header itself. -/
def State.headerEntry (s : State) (b : Block) (win : Option Nat) (a : Word) : State :=
  let ws := s.enterers b win a
  let (stop, go) := ws.partition fun w => (b.thread w).any (s.preempted b.ctx)
  let s := stop.foldl (fun s w => s.takePreempt b.id w) s
  if go.isEmpty then s
  else if win.isNone && s.takesEvent b then s.takeEvent b.id
  else match s.residentCopy b.core b.ctx (codeOvl a) with
    | some k => if k.lost (codeOff a) 1 then s.fetchLost b go k (codeOvl a) else s.enterHeader b a k go
    | none => s.fetchMissing b go a true

end Sys2Proof.Machine
end

