-- ==== Sys2Proof/Machine/Execution.lean ====
section
/-! DEFINITION. The events of execution: the entry of headers (R173), issue slots (R32, R39), the bounds on rejoin holds
(R35), rendezvous (R240) and waits (R403), handler entry (R388), and what the runtime does with parked threads and their
blocks (R400, R401). -/

namespace Sys2Proof.Machine

/-! ## Headers and issue slots -/

/-- BLOCK_HEADER_ENTRY: the threads of a window, or the control thread, that stand before a header enter it. -/
def execBlockHeaderEntry (blk : Nat) (win : Option Nat) (addr : Word) (s : State) : Result :=
  match s.block blk with
  | none => .next s
  | some b => if (s.enterers b win addr).isEmpty then .next s else .next (s.headerEntry b win addr)

/-- ISSUE_SLOT: a lane group selects its bundle. -/
def execIssueSlot (core lg : Nat) (s : State) : Result :=
  if lg < 4 && core < Config.cores && s.mayIssue core lg then .next (s.selectBundle core lg) else .next s

/-- CONTROL_CORE_ISSUE: the control core selects a control thread. -/
def execControlCoreIssue (core : Nat) (s : State) : Result :=
  if core < Config.cores && s.mayIssue core 4 then .next (s.selectControl core) else .next s

/-! ## Bounds on waits -/

/-- Whether a span of core cycles has passed since a tick. -/
def State.passed (s : State) (since cycles : Nat) : Bool := since + cycles * Config.coreTicks ≤ s.tick

/-- REJOIN_HOLD_TIMEOUT: a record that has held a member for 4,096 core cycles releases it. -/
def execRejoinHoldTimeout (blk win : Nat) (j : Word) (out : Option Word) (s : State) : Result :=
  match s.block blk with
  | none => .next s
  | some b =>
    if b.rejoins.any fun r => !r.freed && r.win == win && r.j == j && r.out == out && r.ent != 0 &&
        s.passed r.since Config.holdCycles then
      .next (s.modBlock blk fun b => b.releaseOver win j out)
    else .next s

/-- The arrival that a rendezvous has waited for longest. -/
def Rdv.earliest (r : Rdv) (now : Nat) : Nat := r.arrs.foldl (fun m a => Nat.min m a.since) now

/-- The vector threads of a window that have waited for a free instance at a place for longer than the bound. -/
def State.slotWaiters (s : State) (b : Block) (win : Nat) (pc : Word) : List Who :=
  b.whos.filter fun w => winOf w == some win && (b.thread w).any fun t =>
    t.live && !t.parked && t.wait == .rdvSlot && t.pc == pc && !s.ready b w t && s.passed t.since Config.rendezvousCycles

/-- The park with 0x10 of threads at a rendezvous (R240, R398): DETAIL names the lanes still awaited. -/
def State.rdvPark (s : State) (b : Block) (pc : Word) (mask : Word) (w : Who) : Parked :=
  { who := w, cause := 0x10, pc := pc, word := s.wordAt b.core b.ctx pc, detail := mask.toNat }

/-- RENDEZVOUS_TIMEOUT: the members that wait in an instance, or for a free one, park with 0x10, and the instance is
dissolved. -/
def execRendezvousTimeout (blk win : Nat) (pc : Word) (s : State) : Result :=
  match s.block blk with
  | none => .next s
  | some b =>
    match b.rdvs.find? fun r => r.win == some win && r.pc == pc with
    | some r =>
      if !s.passed (r.earliest s.tick) Config.rendezvousCycles then .next s
      else
        let l := sortBy (fun (a c : Arrival) => a.lane ≤ c.lane) r.arrs
        let s := l.foldl (fun s a => s.sampleWait b.core 0x004 a.since) s
        .next (s.parkGroup blk (l.map fun a => s.rdvPark b pc (b.awaitedLanes r) a.who))
    | none => .next (s.parkGroup blk ((s.slotWaiters b win pc).map (s.rdvPark b pc 0)))

/-- The waits that the watchdog counts (R403). -/
def Wait.watched : Wait → Bool
  | .header _ | .flags _ | .flagRoom _ | .handles _ | .bar _ _ | .anyOf _ _ | .tiles _ | .aalloc | .ovpin _ => true
  | .none | .over _ | .results _ | .rendezvous | .rdvSlot | .heatOver _ | .overlay _ | .coop | .matrixIdle | .matrixRoom
  | .tlbinv _ | .walk _ _ _ | .again _ | .faulted | .order _ | .source _ _ | .acquired | .bound => false

/-- WATCHDOG_TIMEOUT: a thread that has waited for 2^(16+n) core cycles parks with 0x1E at the waiting instruction. -/
def execWatchdogTimeout (blk : Nat) (who : Who) (s : State) : Result :=
  match s.block blk with
  | none => .next s
  | some b =>
    match b.thread who with
    | none => .next s
    | some t =>
      let n := (s.ctx b.ctx).wdog
      if n = 0 || !t.live || t.parked || !t.wait.watched || s.ready b who t || !s.passed t.since (2 ^ (16 + n)) then
        .next s
      else
        .next (s.parkGroup blk
          [{ who := who, cause := 0x1E, pc := t.resumePc, enter := t.atHeader,
             word := s.wordAt b.core b.ctx t.resumePc }])

/-! ## Handler entry -/

/-- HANDLER_ENTRY: the control thread, before a header or waiting, takes the oldest pending park event. -/
def execHandlerEntry (blk : Nat) (s : State) : Result :=
  match s.block blk with
  | none => .next s
  | some b => if s.takesEvent b then .next (s.takeEvent blk) else .next s

/-! ## The runtime and parked threads (R400, R401) -/

/-- A launch that loses a block to a kill of the runtime keeps the first cause as its status (R59, R400). -/
def State.noteKill (s : State) (seq : Nat) (cause : Cause) : State :=
  s.modLaunch seq fun l => if l.status == 0 then { l with status := cause } else l

/-- Whether a thread of a block is parked. -/
def State.isParked (s : State) (blk : Nat) (w : Who) : Bool := (s.thread blk w).any fun t => t.live && t.parked

/-- RUNTIME_RESUME: the runtime resumes a parked thread (R44, R399). -/
def execRuntimeResume (blk : Nat) (who : Who) (s : State) : Result :=
  s.byRuntime (
    match s.block blk with
    | none => .next s
    | some b =>
      if s.isParked blk who && (b.thread who).any (s.recordOpen b who) then .next (s.resumeThread blk who) else .next s)

/-- RUNTIME_KILL: the runtime kills a parked thread. A block that has no live thread left is lost to the kill, and its
launch completes with the cause of the park (R59, R400). -/
def execRuntimeKill (blk : Nat) (who : Who) (s : State) : Result :=
  s.byRuntime (
    match s.block blk with
    | none => .next s
    | some b =>
      match b.thread who with
      | none => .next s
      | some t =>
        if !(t.live && t.parked) then .next s
        else
          let s := s.endThread blk who
          match s.block blk with
          | none => .next s
          | some b => .next (if b.whos.any b.liveWho then s else s.noteKill b.seq t.keptCause))

/-- Kills every thread of a block at once (R37). -/
def State.killBlock (s : State) (blk : Nat) (cause : Cause) : State :=
  match s.block blk with
  | none => s
  | some b =>
    ((s.noteKill b.seq cause).modBlock blk fun b =>
      Block.sweep { (b.whos.foldl (fun b w => b.endThread w) b) with
        killed := some (b.killed.getD cause), parks := [], rejoins := [], rdvs := [] }).settle b.core

/-- BLOCK_KILL: the runtime kills a block. -/
def execBlockKill (blk : Nat) (cause : Byte) (s : State) : Result := s.byRuntime (.next (s.killBlock blk cause))

end Sys2Proof.Machine
end

