-- ==== Sys2Proof/Machine/Handles.lean ====
section
/-! DEFINITION. The meanings of class 0xB (R273 to R276). -/

namespace Sys2Proof.Machine

/-- The pending handles of a mask. -/
def Thread.pendingIn (t : Thread) (m : BitVec 16) : Bool :=
  (List.range 16).any fun i => m.getLsbD i && (t.h i).pending

/-- The mask of one handle. -/
def oneHandle (a : BitVec 4) : BitVec 16 := 1#16 <<< a.toNat

/-- `hwait`. -/
def execHwait (g : Guard) (mask : BitVec 16) (s : State) : Result :=
  s.issue (.hwait g mask) g (withThread fun s _ _ t =>
    if t.pendingIn mask then .stall s (.handles mask) else .done s [])

/-- `htest`. -/
def execHtest (g : Guard) (d : BitVec 3) (a : BitVec 4) (s : State) : Result :=
  s.issue (.htest g d a) g (plainly fun t => t.setQ d (!(t.h a.toNat).pending))

/-- Whether a command is a copy or chain form (R276). -/
def CmdKind.stoppable : CmdKind → Bool
  | .copy _ _ _ _ _ _ _ _ | .badCopy _ _ _ _ | .fill _ _ _ _ _ | .drain _ _ _ _ _ | .chain _ _ _ _ _ _ _ => true
  | .nmcas _ _ _ | .nmenq _ | .nmchase _ _ | .ovld _ _ _ => false

/-- `hcancel`: requests a stop of a pending copy or chain (R276). -/
def execHcancel (g : Guard) (a : BitVec 4) (s : State) : Result :=
  s.issue (.hcancel g a) g (withThread fun s _ _ t =>
    let h := t.h a.toNat
    .done (if h.pending then
        { s with cmds := s.cmds.map fun c => if c.id == h.op && c.kind.stoppable then { c with stop := true } else c }
      else s) [])

/-- `hpass`: hD takes over hA's operation, or its word and result. -/
def execHpass (g : Guard) (d a : BitVec 4) (s : State) : Result :=
  s.issue (.hpass g d a) g (withThread fun s x _ t =>
    if d == a then .done s []
    else if (t.h d.toNat).pending then .stall s (.handles (oneHandle d))
    else .done (s.setThread x fun t => (t.setH d.toNat (t.h a.toNat)).clearH a.toNat) [])

/-- `hget`. -/
def execHget (g : Guard) (d : Reg) (a : BitVec 4) (s : State) : Result :=
  s.issue (.hget g d a) g (withThread fun s x _ t =>
    if (t.h a.toNat).pending then .stall s (.handles (oneHandle a))
    else .done (s.setThread x fun t => t.setPair d.toNat (t.h a.toNat).result) [])

end Sys2Proof.Machine
end

