-- ==== Sys2Proof/Machine/Firmware.lean ====
section
/-! DEFINITION. What arrives at a port engine (R329, R330), the firmware programs 1 to 4 (R335, R336, R346), answers to a
dispatch's requests (R346), and the completion of a round at a package (R338, R339, R384). -/

namespace Sys2Proof.Machine

/-! ## Writing results -/

/-- Chunks that a round of a collective writes at a package (R335). -/
def Round.chunksDue (x : Round) (r : CollRec) : Nat :=
  if r.ctype = 2 then r.nrank * r.chunks
  else if r.ctype = 3 then x.granted * ((r.nbytes + 255) / 256)
  else r.chunks

/-- Whether firmware has written the whole result of a round. -/
def Round.written (x : Round) (r : CollRec) : Bool :=
  x.emits.length = x.chunksDue r && x.barup.isNone && (r.ctype != 3 || x.drained)

/-- Firmware completes rounds in their order: the current one when its result is written, then the next ones whose chunks
came first (R330). -/
def State.firmClose (s : State) (i c coll : Nat) (r : CollRec) : Nat → State
  | 0 => s
  | n + 1 =>
    match s.bindings[i]? with
    | none => s
    | some b =>
      match s.round c coll (b.roundOf coll) with
      | none => s
      | some x => if x.written r then (s.barup i c coll r 0).firmClose i c coll r n else s

/-- Firmware writes one chunk of a result, rounded to BF16 when `narrow`; when the last chunk of the current round is written it
completes the round. -/
def State.firmEmit (s : State) (i c coll : Nat) (r : CollRec) (round a : Nat) (x : Slot) (narrow : Bool) : State :=
  let hdr : DWord := match s.bindings[i]? with
    | some b => BitVec.ofNat 64 (b.engine * 65536)
    | none => 0
  let s := (s.logComb c (emitCauses x narrow) hdr).emitTo c coll round a (emitBytes x narrow)
  s.firmClose i c coll r s.rounds.length

/-- Whether a slot's value is rounded to BF16 as a result of a collective (R335, R336). -/
def narrows (r : CollRec) (x : Slot) : Bool := r.opf.toNat / 16 = 1 && x.form == .f

/-- Sends one packet to every other member. -/
def State.sendOthers (s : State) (c coll : Nat) (r : CollRec) (round : Nat) (p : Packet) (stamp : Option (BitVec 48)) :
    State :=
  (List.range r.nrank).foldl (fun s j =>
    if j = r.myrank then s
    else match s.member c r j with
      | .ok w => s.send c r w p stamp
      | .error e => s.readFails c coll round e) s

/-- A slot's value as the data of a packet. -/
def packetOfSlot (p : Packet) (x : Slot) : Packet :=
  { p with bf := x.form == .b, wrd := x.form == .w, data := x.bytes.take x.len }

/-- A packet's data as a slot. -/
def slotOf (form : Form) (data : List Byte) : Slot :=
  Slot.fill { full := false, form := form, bytes := List.replicate 256 0, len := 0 } form data

/-! ## Program 1: REDUCE on the canonical rank tree (R336) -/

/-- The ranks whose values node values at a rank combine, after its own, in order. -/
def childRanks (nrank h : Nat) : List Nat :=
  (((List.range 20).takeWhile fun k => h % 2 ^ (k + 1) = 0).map fun k => h + 2 ^ k).filter (· < nrank)

/-- The rank that takes a rank's value as its right operand. -/
def parentRank (h : Nat) : Nat :=
  match (List.range 20).find? fun k => h % 2 ^ (k + 1) ≠ 0 with
  | some k => h - 2 ^ k
  | none => 0

/-- Folds the operands of a rank's nodes, left operand first, with what each `comb` combined; none when one would fault. -/
def treeFold (op : Nat) : Slot → List (List Combined) → List Slot → Option (Slot × List (List Combined))
  | acc, l, [] => some (acc, l)
  | acc, l, x :: xs => if combOk op acc x then treeFold op (combSlot op acc x acc) (l ++ [combAll op acc x]) xs else none

/-- Computes the nodes of this rank for a chunk once every operand is here: the value goes to the parent's package, or,
at rank 0, to every member. -/
def State.firmReduce (s : State) (i c coll : Nat) (r : CollRec) (round chunk : Nat) : State :=
  match s.bindings[i]? with
  | none => s
  | some b =>
    let here (j : Nat) : Option TreeEnt :=
      b.tree.find? fun e => e.coll == coll && e.round == round && e.chunk == chunk && e.rank == j
    match (r.myrank :: childRanks r.nrank r.myrank).mapM here with
    | none => s
    | some [] => s
    | some (e :: es) =>
      let s := s.modBinding i fun b =>
        { b with tree := b.tree.filter fun e => !(e.coll == coll && e.round == round && e.chunk == chunk) }
      let op := r.opf.toNat % 16
      match treeFold op (slotOf e.form e.bytes) [] (es.map fun e => slotOf e.form e.bytes) with
      | none => s.stopPort ⟨i, 0⟩
      | some (x, l) =>
        let s := l.foldl (fun s z => s.logComb c z (BitVec.ofNat 64 (b.engine * 65536))) s
        let p := { Packet.blank with
          coll := BitVec.ofNat 16 coll, chunk := BitVec.ofNat 32 chunk, round := BitVec.ofNat 16 round,
          last := chunk + 1 == r.chunks }
        if r.myrank = 0 then
          (s.sendOthers c coll r round (packetOfSlot { p with type := 2 } x) none).firmEmit i c coll r round
            (r.dst + chunk * r.chunk) x (narrows r x)
        else match s.member c r (parentRank r.myrank) with
          | .ok w => s.send c r w (packetOfSlot { p with type := 1 } x)
          | .error e => s.readFails c coll round e

/-! ## Program 4: DISPATCH (R346, R347) -/

/-- Whether an entry is an EOL. -/
def OqEnt.eol (e : OqEnt) : Bool := e.pkt.type == 9

/-- Whether an entry is a REQ that has not been taken. -/
def OqEnt.req (e : OqEnt) : Bool := !e.eol && !e.taken

/-- Whether, among the entries of a round, the EOLs of `n` sources are in with all the REQs they announce when
those are counted (R342, R382). -/
def eolsIn (q : List OqEnt) (counted : Bool) (n : Nat) : Bool :=
  let reqs (pkg : BitVec 20) : Nat := (q.filter fun e => !e.eol && e.pkt.spkg == pkg).length
  let ok := (q.filter fun e => e.eol && (!counted || e.pkt.chunk.toNat ≤ reqs e.pkt.spkg)).map (·.pkt.spkg)
  n ≤ ok.eraseDups.length

/-- The order of a drain: ascending source package, then token (R342). -/
def reqBefore (a b : OqEnt) : Bool :=
  a.pkt.spkg.toNat < b.pkt.spkg.toNat || (a.pkt.spkg == b.pkt.spkg && a.pkt.chunk.toNat ≤ b.pkt.chunk.toNat)

/-- The `grant` of one row of a pair (R342): the row, when it fits, and the counters after. -/
def grantRow (ctrs : List Word) (j n : Nat) : Option Nat × List Word :=
  let nxt := (ctrs.getD (2 * j) 0).toNat
  let lim := (ctrs.getD (2 * j + 1) 0).toNat
  if 1 ≤ n && nxt + n ≤ lim then (some nxt, lmod ctrs (2 * j) fun _ => BitVec.ofNat 32 (nxt + n)) else (none, ctrs)

/-- The header of a GRANT: the row in SLOT + ROUND × 2^16. -/
def rowHeader (p : Packet) (v : Nat) : Packet :=
  { p with slot := BitVec.ofNat 12 v, round := BitVec.ofNat 16 (v / 65536) }

/-- Answers one REQ (R346, step 3): a GRANT with its row, or a NACK with the source's refusal ordinal. -/
def State.answerReq (s : State) (i c coll : Nat) (r : CollRec) (round : Nat) (seen : List (BitVec 20)) (p : Packet) :
    State × List (BitVec 20) :=
  match s.bindings[i]?, s.member c r p.srank.toNat with
  | some b, .ok w =>
    let h := { Packet.blank with coll := BitVec.ofNat 16 coll, chunk := p.chunk }
    match grantRow b.ctrs (p.slot.toNat % 128) 1 with
    | (some row, ctrs) =>
      let s := s.modBinding i fun b =>
        { b with ctrs := ctrs, fgrants := b.fgrants ++
          [({ coll := coll, round := round, rank := p.srank.toNat, token := p.chunk.toNat, row := row } : RowGrant)] }
      ((s.modRound c coll round fun x => { x with granted := x.granted + 1 }).send c r w (rowHeader { h with type := 7 } row),
        seen)
    | (none, _) =>
      let k := seen.count p.spkg
      (s.send c r w { h with type := 8, slot := BitVec.ofNat 12 k }, seen ++ [p.spkg])
  | _, .error e => (s.readFails c coll round e, seen)
  | none, _ => (s, seen)

/-- Drains the requests of a round once every EOL is in, in canonical order (R342, R347). -/
def State.firmDrain (s : State) (i c coll : Nat) (r : CollRec) : State :=
  match s.bindings[i]? with
  | none => s
  | some b =>
    let round := b.roundOf coll
    let mine (e : OqEnt) : Bool := e.pkt.coll.toNat == coll && e.pkt.round.toNat == round % 65536
    let q := b.fqueue.filter mine
    if !eolsIn q true r.nrank || !b.capDue.isEmpty then s
    else
      let l := sortBy reqBefore (q.filter (·.req))
      let s := s.modBinding i fun b => { b with fqueue := b.fqueue.filter fun e => !mine e }
      let s := (l.foldl (fun (a : State × List (BitVec 20)) e => a.1.answerReq i c coll r round a.2 e.pkt) (s, [])).1
      let s := (s.modRound c coll round fun x => { x with drained := true }).ackRows c coll round
      s.firmClose i c coll r 1

/-- Whether a chunk of a row belongs to a grant: its source, its token, and its place in the row. -/
def RowGrant.takes (g : RowGrant) (coll : Nat) (r : CollRec) (p : Packet) : Bool :=
  let v := p.slot.toNat + p.round.toNat * 65536
  let lo := g.row * r.nbytes / 256
  g.coll == coll && g.rank == p.srank.toNat && g.token == p.chunk.toNat && lo ≤ v && v < lo + (r.nbytes + 255) / 256

/-- A chunk of a granted row is written at its place (R346, step 4). One of a row that a completed round granted is discarded
with 0x1D (R441). -/
def State.firmRow (s : State) (i c coll : Nat) (r : CollRec) (p : Packet) : State :=
  match s.bindings[i]? with
  | none => s
  | some b =>
    let l := b.fgrants.filter fun g => g.takes coll r p
    match l.find? fun g => g.round == b.roundOf coll with
    | none => s.ctxEvent c (if l.isEmpty then 0x1C else 0x1D) coll p.type.toNat
    | some g =>
      let v := p.slot.toNat + p.round.toNat * 65536
      let k := v - g.row * r.nbytes / 256
      s.firmEmit i c coll r (b.roundOf coll) (r.dst + g.row * r.nbytes + 256 * k) (slotOf .w p.data) false

/-! ## The arrival of a packet (R329, R330, R335) -/

/-- Whether a firmware program takes a TYPE. -/
def firmTakes (ctype type : Nat) : Bool :=
  if ctype = 3 then type == 1 || type == 6 || type == 9 else type == 1 || type == 2

/-- The full number of a round from its 16 low bits, the nearest to a current round. -/
def fullRound (cur low : Nat) : Nat :=
  let d := (low + 65536 - cur % 65536) % 65536
  if d < 32768 then cur + d else cur + d - 65536

/-- Whether a packet of a collective carries its round in ROUND. -/
def carriesRound (r : CollRec) (p : Packet) : Bool :=
  if r.ctype = 3 then p.type == 6 || p.type == 9 else p.type == 1 || p.type == 2

/-- The heat stamp that this package's own GATHER chunk carries when it was read from memory (R164, R328). -/
def State.chunkStamp (s : State) (c coll : Nat) (r : CollRec) (round chunk : Nat) : Option (BitVec 48) :=
  let k := s.contrib c coll r
  if r.ctype = 2 && k.round == round then k.stamps.lookup chunk else none

/-- A firmware program takes a packet (R329, R335, R336, R346). -/
def State.firmTake (s : State) (i c coll : Nat) (r : CollRec) (p : Packet) (round : Nat) : State :=
  let chunk := p.chunk.toNat
  let x := slotOf p.form p.data
  if r.ctype = 3 then
    if p.type == 1 then s.firmRow i c coll r p
    else (s.modBinding i fun b => { b with fqueue := b.fqueue ++ [{ pkt := p, taken := false }] }).firmDrain i c coll r
  else if r.ctype = 0 then
    if p.type == 1 then
      (s.modBinding i fun b => { b with tree := b.tree ++
        [({ coll := coll, round := round, chunk := chunk, rank := p.srank.toNat, form := p.form, bytes := p.data } :
          TreeEnt)] }).firmReduce i c coll r round chunk
    else s.firmEmit i c coll r round (r.dst + chunk * r.chunk) x (narrows r x)
  else
    let base := if r.ctype = 2 then r.dst + p.srank.toNat * r.nbytes else r.dst
    let s := if r.ctype = 2 then
        s.modRound c coll round fun k => { k with stamp := if k.stamp < p.heat then p.heat else k.stamp }
      else s
    let s := if p.type == 1 then s.sendOthers c coll r round { p with type := 2 } (s.chunkStamp c coll r round chunk) else s
    s.firmEmit i c coll r round (base + chunk * r.chunk) { x with form := .w } false

/-- The request of a dispatch's source side that a GRANT or NACK answers. -/
def State.reqOf (s : State) (c coll rank token : Nat) : Option DReq :=
  s.dreqs.find? fun q => q.ctx == c && q.coll == coll && q.rank == rank && q.token == token && q.row.isNone

/-- Whether two requests are the same. -/
def DReq.same (a b : DReq) : Bool :=
  a.ctx == b.ctx && a.coll == b.coll && a.round == b.round && a.rank == b.rank && a.token == b.token

/-- The chunks of a granted row, from its `k`-th (R346, R381). -/
def State.sendRow (s : State) (c coll : Nat) (r : CollRec) (q : DReq) (row : Nat) (w : Word) : Nat → State
  | 0 => { s with dreqs := s.dreqs.map fun x => if x.same q then { x with row := some row } else x }
  | n + 1 =>
    let total := (r.nbytes + 255) / 256
    let k := total - (n + 1)
    let m := min 256 (r.nbytes - 256 * k)
    match s.vreadAcross c (q.rowa.toNat + 256 * k) m with
    | .error e => { s.readFails c coll q.round e with dreqs := s.dreqs.filter fun x => !x.same q }
    | .ok bs =>
      let p := rowHeader { Packet.blank with
        type := 1, coll := BitVec.ofNat 16 coll, chunk := BitVec.ofNat 32 q.token, last := n = 0, data := bs }
        (row * r.nbytes / 256 + k)
      ((s.spanKeep c (q.rowa.toNat + 256 * k) m).send c r w (p.ofFormat (r.opf.toNat / 16))).sendRow c coll r q row w n

/-- A GRANT or NACK for a request of no round that is open: its round has completed, and it is discarded (R441). -/
def State.lateAnswer (s : State) (p : Packet) : State := s.ctxEvent p.dctx.toNat 0x1D p.coll.toNat p.type.toNat

/-- Whether the row that a GRANT asks for has a line that cannot be reached (R443). -/
def State.rowShut (s : State) (p : Packet) : Bool :=
  let c := p.dctx.toNat
  p.type == 7 && ((s.ctx c).coll p.coll.toNat).any fun r =>
    (s.reqOf c p.coll.toNat p.srank.toNat p.chunk.toNat).any fun q => s.areaShut c q.rowa.toNat r.nbytes

/-- A GRANT reaches the source side (R346, step 4; R381). -/
def State.grantIn (s : State) (p : Packet) : State :=
  let c := p.dctx.toNat
  let coll := p.coll.toNat
  match (s.ctx c).coll coll, s.reqOf c coll p.srank.toNat p.chunk.toNat with
  | some r, some q =>
    match s.member c r q.rank with
    | .ok w => s.sendRow c coll r q (p.slot.toNat + p.round.toNat * 65536) w ((r.nbytes + 255) / 256)
    | .error e => { s.readFails c coll q.round e with dreqs := s.dreqs.filter fun x => !x.same q }
  | _, _ => s.lateAnswer p

/-- A NACK reaches the source side: the token is written into the list's refusal array (R346, step 4). -/
def State.nackIn (s : State) (p : Packet) : State :=
  let c := p.dctx.toNat
  let coll := p.coll.toNat
  match (s.ctx c).coll coll, s.reqOf c coll p.srank.toNat p.chunk.toNat with
  | some _, some q =>
    let s := { s with dreqs := s.dreqs.filter fun x => !x.same q }
    let s := s.modRound c coll q.round fun x => { x with refused := x.refused + 1 }
    match s.vwriteAcross c (q.nacks.toNat + 2 * p.slot.toNat) (leBytes 2 q.token) with
    | .ok s => s
    | .error e => s.failRound c coll q.round e
  | _, _ => s.lateAnswer p

/-- Whether a header is one that no unit takes, whatever its TYPE (R329). -/
def malformed (p : Packet) : Bool :=
  p.type == 0 || 10 < p.type.toNat || p.ver != 1 || p.resv || (p.bf && p.wrd) || 256 < p.data.length

/-- Why a packet of a collective is discarded, if it is (R329, R440). -/
def State.discards (s : State) (p : Packet) : Option Cause :=
  let c := p.dctx.toNat
  if malformed p then some 0x1C
  else match (s.ctx c).coll p.coll.toNat with
    | none => some 0x1C
    | some r =>
      if !s.isMember c r p.spkg then some 0x1D
      else match s.bindingOf c r.prog with
        | none => some 0x1C
        | some (_, b) =>
          if b.threads.isEmpty then some 0x1C
          else if r.prog ≤ 4 && !firmTakes r.ctype p.type.toNat && !(r.ctype = 3 && (p.type == 7 || p.type == 8)) then
            some 0x1C
          else if carriesRound r p && fullRound (b.roundOf p.coll.toNat) p.round.toNat < b.roundOf p.coll.toNat then
            some 0x1D
          else none

/-- Whether a TYPE travels to a unit other than a port engine (R329): deferred writes, snapshots, the quench. -/
def otherType (t : BitVec 4) : Bool := t == 3 || t == 4 || t == 5 || t == 10

/-- Whether firmware has no room for a packet: a full order queue withholds requests (R342), full slots the operands of a
tree (R348). -/
def Binding.fullFor (b : Binding) (r : CollRec) (p : Packet) : Bool :=
  if r.ctype = 3 then (p.type == 6 || p.type == 9) && Config.orderQueue ≤ b.fqueue.length
  else r.ctype = 0 && p.type == 1 && b.slots.length ≤ b.tree.length

/-- A packet reaches its binding's home engine: a firmware program takes it, unless it has stopped (R440), else the inbound
queue does; what is full leaves it outside. -/
def State.intoEngine (s : State) (i c coll : Nat) (r : CollRec) (b : Binding) (p : Packet) : State × Bool :=
  let round := if carriesRound r p then fullRound (b.roundOf coll) p.round.toNat else b.roundOf coll
  let t := s.touchRound c coll round
  if r.prog ≤ 4 then
    if b.threads.any (·.stopped) then (t, true)
    else if b.fullFor r p then (s, false)
    else (t.firmTake i c coll r p round, true)
  else if Config.inbound ≤ (vget s.inq b.engine []).length then (s, false)
  else ({ t with inq := vmod s.inq b.engine fun l => l ++ [p] }, true)

/-- Whether what a packet needs to be taken cannot be reached: the member list, or the row that a GRANT asks for (R443). -/
def State.packetHeld (s : State) (p : Packet) : Bool :=
  (((s.ctx p.dctx.toNat).coll p.coll.toNat).any fun r => s.membShut p.dctx.toNat r) || s.rowShut p

/-- A packet arrives: it is discarded with an event, taken by the source side, or by its home engine; what is full, or what it
needs and cannot reach, leaves it outside. The second result says whether it was taken. -/
def State.arrive (s : State) (p : Packet) : State × Bool :=
  let c := p.dctx.toNat
  let coll := p.coll.toNat
  if malformed p then (s.ctxEvent c 0x1C coll p.type.toNat, true)
  else if otherType p.type || s.packetHeld p then (s, false)
  else match s.discards p with
    | some e => (s.ctxEvent c e coll p.type.toNat, true)
    | none =>
      match ((s.ctx c).coll coll).bind fun r => (s.bindingOf c r.prog).map fun b => (r, b) with
      | none => (s, true)
      | some (r, i, b) =>
        if r.ctype = 3 && p.type == 7 then (s.grantIn p, true)
        else if r.ctype = 3 && p.type == 8 then (s.nackIn p, true)
        else s.intoEngine i c coll r b p

/-! ## Completion of a round (R338, R339, R384) -/

/-- The stagger of this package, in ticks (R162, R363). -/
def State.stagger (s : State) : Nat := s.pkg.toNat % (s.groups.toNat + 1) * (s.delta.toNat * Config.staggerTicks)

/-- The round of a collective that completes next: the earliest whose `barup` is in. -/
def State.dueRound (s : State) (c coll : Nat) : Option Round :=
  (s.rounds.filter fun r => r.ctx == c && r.coll == coll && r.barup.isSome).foldl
    (fun a r => match a with
      | none => some r
      | some x => if r.round < x.round then some r else a) none

/-- Whether the source side of a round has ended (R346, R384): of a DISPATCH, the lists for all NRANK destinations are
stored, and every request is answered and its row acknowledged. -/
def State.sourceOver (s : State) (r : CollRec) (x : Round) : Bool :=
  r.ctype != 3 ||
    (((s.contrib x.ctx x.coll r).round == x.round && (s.contrib x.ctx x.coll r).launched.length == r.nrank) &&
      s.dreqs.all fun q => !(q.ctx == x.ctx && q.coll == x.coll && q.round == x.round))

/-- Whether the completion of a round may run: the source side has ended, unless the round is over, every write of the round is
acknowledged (R338, step 1), and the stagger has passed (R363). -/
def State.roundReady (s : State) (r : CollRec) (x : Round) : Bool :=
  (x.ended || s.sourceOver r x) && s.settled x.ctx && (!s.stagB || x.upAt + s.stagger ≤ s.tick)

/-- The status of a round: the first failure, else that of `barup`. -/
def Round.status (x : Round) : Cause := if x.fail == 0 then x.barup.getD 0 else x.fail

/-- The completion word (R338, R384). -/
def Round.word (x : Round) (dispatch : Bool) : Word :=
  x.status ++ BitVec.ofNat 24 (if dispatch then min x.granted 0xFFF + min x.refused 0xFFF * 4096 else x.round)

/-- The result bytes a round was to write at this package. -/
def Round.due (x : Round) (r : CollRec) : Nat :=
  if r.ctype = 2 then r.nrank * r.nbytes else if r.ctype = 3 then x.granted * r.nbytes else r.nbytes

/-- The barrier updates of a completed round (R338, step 3): at once in resident blocks, held for saved ones (R339). -/
def State.roundBars (s : State) (c : Nat) (r : CollRec) (x : Round) : State :=
  if r.cbar.toNat / 16 = 0 then s
  else
    let n := r.cbar.toNat % 16
    let err := x.status != 0
    let signal (b : Block) : Block :=
      if b.ctx == c && !b.barSaved && b.aliasIn.contains (x.coll, x.round) then
        b.modBar n fun k => k.engine (x.due r) err
      else b
    let held (p : Nat × Nat) : Nat × Nat × Nat × Int × Bool := (p.1, p.2, n, (x.due r : Int), err)
    let away := (s.blocks.filter fun b => b.ctx == c && b.barSaved && b.aliasIn.contains (x.coll, x.round)).map
      fun b => (b.seq, b.bid)
    let s := { s with blocks := s.blocks.map signal }
    s.modCtx c fun k => { k with heldBars := k.heldBars ++ away.map held ++
      (k.saved.filter fun (v : Saved) => v.aliasIn.contains (x.coll, x.round)).map fun v => held (v.seq, v.bid) }

/-- A GATHER raises the STAMP of its alias window (R335, R164). -/
def Context.raiseStamps (k : Context) (coll : Nat) (h : BitVec 48) : Context :=
  { k with windows := k.windows.map fun p =>
      if p.2.kind == 6 && p.2.key.toNat == coll && p.2.stamp < h then (p.1, { p.2 with stamp := h }) else p }

/-- Completes a round at this package: the completion word, the barrier updates, and the contributions that waited. -/
def State.completeRound (s : State) (c coll : Nat) (r : CollRec) (x : Round) : State :=
  let s := if r.cdone = 0 then s
    else match s.vwriteAcross c r.cdone (leBytes 4 (x.word (r.ctype == 3)).toNat) with
      | .ok s => s
      | .error _ => s
  let s := s.roundBars c r x
  let s := if r.ctype = 2 then s.modCtx c fun k => k.raiseStamps coll x.stamp else s
  let s := { s with
    rounds := s.rounds.filter fun y => !(y.ctx == c && y.coll == coll && y.round == x.round)
    dreqs := s.dreqs.filter fun q => !(q.ctx == c && q.coll == coll && q.round == x.round) }
  let k := s.contrib c coll r
  let s := if k.round ≤ x.round then
      s.setContrib { k with round := x.round + 1, bytes := [], misuse := false, launched := [], stamps := [] }
    else s
  s.resumeAlias c coll r

end Sys2Proof.Machine
end

