-- ==== Sys2Proof/Machine/Home.lean ====
section
/-! DEFINITION. The events of the memory system: page-table walks (R70, R418), accesses at their home slice and the order
they keep (R121 to R130, R250), the directory's invalidations and acknowledgements (R125, R126), values that return to
threads (R248), REPLICATE commits (R135, R136, R428), lost acknowledgements (R426, R427) and the stack cache (R90). -/

namespace Sys2Proof.Machine

/-! ## Order among the accesses of a thread (R121, R123, R129, R130, R250) -/

/-- Bytes of an access of global memory. -/
def Req.size (r : Req) : Nat :=
  match r.kind with
  | .load _ n _ _ _ => n
  | .store bs _ _ => bs.length
  | .atomic _ _ _ n _ _ _ => n
  | .snap _ n _ _ _ _ _ _ => n
  | .clean n => n
  | .own _ _ | .buf _ _ _ _ | .stk _ _ | .lock | .defer _ => 0

/-- Whether an access is an `ld.nc`, which no order binds (R141). -/
def Req.noOrder (r : Req) : Bool :=
  match r.kind with
  | .load _ _ _ _ nc => nc
  | .store _ _ _ | .atomic _ _ _ _ _ _ _ | .snap _ _ _ _ _ _ _ _ | .clean _ | .own _ _ | .buf _ _ _ _ | .stk _ _ | .lock | .defer _ => false

/-- The address space that an access still has to reach, its place there and its bytes. -/
def Req.span (r : Req) : Option (Option Buf × Nat × Nat) :=
  match r.kind with
  | .load _ _ _ _ _ | .store _ _ _ | .atomic _ _ _ _ _ _ _ | .clean _ => some (none, r.pa, r.size)
  | .buf k p bs _ => some (some k, p, bs.length)
  | .snap _ _ _ _ _ _ _ _ | .own _ _ | .stk _ _ | .lock | .defer _ => none

/-- Whether two accesses share a byte. -/
def Req.overlaps (a b : Req) : Bool :=
  match a.span, b.span with
  | some (j, x, n), some (k, y, m) => j == k && x < y + m && y < x + n
  | _, _ => false

/-- Whether a write has its place in coherence order. -/
def Req.placed (r : Req) : Bool :=
  match r.st with
  | .issued => false
  | .home _ _ | .locked _ | .done | .aborted _ _ => true

/-- The scope at which an access is a release. -/
def Req.releases (r : Req) : Option Scope :=
  match r.kind with
  | .store _ _ rel => rel
  | .buf _ _ _ rel => if rel then some .blk else none
  | .load _ _ _ _ _ | .atomic _ _ _ _ _ _ _ | .snap _ _ _ _ _ _ _ _ | .clean _ | .own _ _ | .stk _ _ | .lock | .defer _ => none

/-- Whether two accesses of a thread go one behind the other wherever they lead: two stores to its stack, or two deferred
writes, which take sequences in program order (R153). -/
def Req.sameQueue (a b : Req) : Bool :=
  match a.kind, b.kind with
  | .stk _ _, .stk _ _ | .defer _, .defer _ => true
  | _, _ => false

/-- Whether an earlier access of the same thread lets a later one reach its home. -/
def Req.lets (e r : Req) : Bool :=
  e.noOrder ||
  ((!e.acquire || e.bound) &&
   (!(e.reads && r.reads && e.overlaps r) || e.bound) &&
   (!(e.reads && r.writes) || e.bound) &&
   (!(e.writes && r.writes && e.overlaps r) || e.placed) && (!e.sameQueue r || e.placed) &&
   (match r.releases with
    | some sc => e.performed sc
    | none => true))

/-- Whether a thread of the bundle of a write, of a lower `%tid`, has still to make its write (R250). -/
def State.lowerWaits (s : State) (r : Req) : Bool :=
  r.writes && (s.block r.blk).any fun b => b.whos.any fun w =>
    (tidOf w).toNat < (tidOf r.who).toNat && (b.thread w).any fun t =>
      t.live && !t.parked && t.issue == r.issue && t.wait.inIssue

/-- Whether every order that binds an access lets it reach its home: that of its thread, that of its bundle, in which writes of
one byte follow one another in ascending `%tid`, and for a release that of its source (R134, R250). -/
def State.mayPlace (s : State) (r : Req) : Bool :=
  r.noOrder || !r.ofThread || ((s.reqs.all fun e =>
    if e.blk != r.blk || !e.ofThread then true
    else if e.who == r.who then r.id ≤ e.id || e.lets r
    else !(e.issue == r.issue && (tidOf e.who).toNat < (tidOf r.who).toNat && e.writes && r.writes && e.overlaps r) ||
      e.placed) && !s.lowerWaits r && r.fences.all fun p => s.sourceDone r.core p.2 p.1)

/-! ## Values -/

/-- Whether a write of a thread is not yet visible to others, so that the thread alone reads it (R122). -/
def Req.hidden (r : Req) : Bool :=
  match r.kind, r.st with
  | .store _ _ _, .issued => true
  | .store _ ack _, .home _ _ => ack
  | .store _ _ _, .locked _ => true
  | .atomic _ _ _ _ _ _ ack, .home _ _ => ack
  | _, _ => false

/-- The bytes that a request writes: of an atomic, those it makes of the value it has bound. -/
def Req.newBytes (r : Req) : Option (List Byte) :=
  match r.kind with
  | .store d _ _ => some d
  | .atomic op _ _ n v c _ => r.value.bind fun old => (atomicNew op (8 * n) (leNat old) v c).map (leBytes n)
  | .load _ _ _ _ _ | .snap _ _ _ _ _ _ _ _ | .clean _ | .own _ _ | .buf _ _ _ _ | .stk _ _ | .lock | .defer _ => none

/-- Lays the bytes of a hidden write over the bytes of a load. -/
def overlay (pa : Nat) (bs : List Byte) (e : Req) : List Byte :=
  match e.newBytes with
  | some d => bs.mapIdx fun i b => if e.pa ≤ pa + i && pa + i < e.pa + d.length then d.getD (pa + i - e.pa) b else b
  | none => bs

/-- The bytes that a load reads, and whether it meets a bad sector: from the L1 of its core or the near tier of its die when
the line has a copy there, else from the home; the thread's own hidden writes lie over them (R72, R122). -/
def State.readFor (s : State) (r : Req) (n : Nat) : List Byte × Bool :=
  let own := s.reqs.filter fun e => e.blk == r.blk && e.who == r.who && e.id < r.id && e.hidden && e.overlaps r
  let v := s.cachedRead r.core r.pa n
  (own.foldl (overlay r.pa) v.1, v.2)

/-- Keeps the line of a load: in the near tier of its home, and in the L1 of the core when the line is homed on its die or
lies on a REPLICATE page, else in the near tier of its die. A load with NT keeps the line in its home's near tier alone, and
no L1 holds a line of a HEAT page (R15, R72, R252). -/
def State.keepLine (s : State) (r : Req) : State :=
  let line := lineOf r.pa
  let die := dieOf r.core
  if s.lineMoving r.pa || s.physBad (line * 128) 128 then s
  else
    let bs := s.physRead (line * 128) 128
    let s := if pteRepl r.pte then s else s.nearAdd (homeDie r.pa) line bs
    if r.nt then s
    else if die == homeDie r.pa || pteRepl r.pte then (if pteHeat r.pte then s else s.l1Add r.core line bs)
    else s.nearAdd die line bs

/-- A request by its name. -/
def State.req (s : State) (id : Nat) : Option Req := s.reqs.find? (·.id == id)

/-- Whether a commit holds the lock of a line (R136). -/
def State.lineLocked (s : State) (pa : Nat) : Bool :=
  s.reqs.any fun e => lineOf e.pa == lineOf pa && (match e.st with
    | .locked _ => true
    | _ => false)

/-- Whether a line can be reached at its home: not frozen, and its home die answers (R426, R443). -/
def State.lineOpen (s : State) (r : Req) : Bool :=
  (s.frozenLines.all fun f => f.line != lineOf r.pa) && (s.die (homeDie r.pa)).st == .up

/-! ## Writes at the home (R121, R124 to R127) -/

/-- Makes the write of a request visible; an atomic works on the word as it stands. A write that passed its checks at issue
is made though a format range has been enabled over it since (DESIGN CHOICE, log entry 106). -/
def State.showWrite (s : State) (r : Req) : State :=
  match r.kind with
  | .store bs _ _ => s.homeWrite r.pa bs
  | .atomic op _ _ n v c _ =>
    match atomicNew op (8 * n) (leNat (s.physRead r.pa n)) v c with
    | some w => s.homeWrite r.pa (leBytes n w)
    | none => s
  | .load _ _ _ _ _ | .snap _ _ _ _ _ _ _ _ | .clean _ | .own _ _ | .buf _ _ _ _ | .stk _ _ | .lock | .defer _ => s

/-- Whether a request writes once it is placed: every store, and an atomic whose compare does not fail. -/
def State.willWrite (s : State) (r : Req) : Bool :=
  match r.kind with
  | .store _ _ _ => true
  | .atomic op _ _ n v c _ => (atomicNew op (8 * n) (leNat (s.physRead r.pa n)) v c).isSome
  | .load _ _ _ _ _ | .snap _ _ _ _ _ _ _ _ | .clean _ | .own _ _ | .buf _ _ _ _ | .stk _ _ | .lock | .defer _ => false

/-- Binds the old value of an atomic. -/
def State.bindOld (s : State) (r : Req) : State :=
  match r.kind with
  | .atomic _ _ _ n _ _ _ =>
    let bs := s.physRead r.pa n
    s.modReq r.id fun r => { r with value := some bs }
  | _ => s

/-- The dies other than its home that hold a near-tier copy of a line: those that the directory invalidates (R125). -/
def State.copyDies (s : State) (pa : Nat) : List Nat :=
  (s.near.filter fun k => k.line == lineOf pa && k.die != homeDie pa).map (·.die)

/-- Places a write that must be visible at one instant to the whole package (R125): while other dies hold copies, their
invalidations come first. -/
def State.placeAck (s : State) (r : Req) : State :=
  let dies := s.copyDies r.pa
  let now := s.tick
  if dies.isEmpty then (s.showWrite r).modReq r.id fun r => { r with st := .done }
  else s.modReq r.id fun r => { r with st := .home dies now }

/-- Places a write that is visible at once to the issuing die and the home die (R126): the issuing die's copy goes, and
the copies of the other dies are still to be invalidated. -/
def State.placeFwd (s : State) (r : Req) : State :=
  let own := dieOf r.core
  let s := { s with near := s.near.filter fun (k : NearCopy) => !(k.die == own && k.line == lineOf r.pa) }
  let dies := s.copyDies r.pa
  let now := s.tick
  (s.showWrite r).modReq r.id fun r => { r with st := if dies.isEmpty then .done else .home dies now }

/-- A write that reads an uncorrectable word writes nothing, and its thread parks with its bundle's fault group (R405,
R430). -/
def State.badWrite (s : State) (r : Req) : State := s.modReq r.id fun r => { r with st := .done, bad := some 0x13 }

/-- A store or atomic reaches its home slice. -/
def State.placeWrite (s : State) (r : Req) (ack : Bool) : State :=
  if r.reads && s.physBad r.pa r.size then s.badWrite r
  else
    let w := s.willWrite r
    let s := (s.pinNear r.pte (lineOf r.pa)).bindOld r
    if !w then s.modReq r.id fun r => { r with st := .done } else if ack then s.placeAck r else s.placeFwd r

/-- A store to a buffer reaches the buffer of its core. -/
def State.placeBuf (s : State) (r : Req) (k : Buf) (p : Nat) (bs : List Byte) : State :=
  (s.modCore r.core fun c => c.writeBuf k p bs).modReq r.id fun r => { r with st := .done }

/-- A store to the stack is made, once its line can be reached. -/
def State.placeStack (s : State) (r : Req) (pa : Nat) (bs : List Byte) : State :=
  if (s.block r.blk).any fun b => s.stackShut b r.va pa then s
  else (s.stackWrite r.blk r.va r.pte pa bs).modReq r.id fun r => { r with st := .done }

/-- A deferred write reaches the Anvil, which holds it until it leaves the package. -/
def State.placeDefer (s : State) (r : Req) (o : Outbound) : State :=
  (s.modCtx r.ctx fun x => { x with outbound := x.outbound ++ [o] }).modReq r.id fun r => { r with st := .done }

/-- HOME_SLICE_ACCESS: an access reaches its home slice, its core's buffer or stack cache, or the Anvil. A load binds its value, and `keep` says
whether caches keep its line; a write takes its place in coherence order. -/
def execHomeSliceAccess (req : Nat) (keep : Bool) (s : State) : Result :=
  match s.req req with
  | none => .next s
  | some r =>
    let shut := !s.lineOpen r
    if r.st != .issued || r.value.isSome || r.bad.isSome || !s.mayPlace r then .next s
    else match r.kind with
      | .load _ n _ _ _ =>
        if shut || s.lineLocked r.pa then .next s
        else
          let (bs, bad) := s.readFor r n
          let s := if keep then s.keepLine r else s
          let s := s.pinNear r.pte (lineOf r.pa)
          .next (s.modReq req fun r => { r with value := some bs, bad := if bad then some 0x13 else none })
      | .store _ ack _ => .next (if shut || pteRepl r.pte || s.lineBusy r.pa then s else s.placeWrite r ack)
      | .atomic _ _ _ _ _ _ ack => .next (if shut || pteRepl r.pte || s.lineBusy r.pa then s else s.placeWrite r ack)
      | .buf k p bs _ => .next (s.placeBuf r k p bs)
      | .stk pa bs => .next (s.placeStack r pa bs)
      | .defer o => .next (s.placeDefer r o)
      | .snap _ _ _ _ _ _ _ _ => .next s
      | .clean _ => .next s
      | .own _ _ => .next s
      | .lock => .next s

/-- A die answers an invalidation: its copy is gone, and after the last answer a `.ack` write becomes visible (R125,
R126). -/
def State.answer (s : State) (r : Req) (die : Nat) : State :=
  let s := { s with near := s.near.filter fun (k : NearCopy) => !(k.die == die && k.line == lineOf r.pa) }
  match r.st with
  | .home dies since =>
    let rest := dies.filter (· != die)
    if !rest.isEmpty then s.modReq r.id fun r => { r with st := .home rest since }
    else
      let ack : Bool := match r.kind with
        | .store _ ack _ => ack
        | .atomic _ _ _ _ _ _ ack => ack
        | .load _ _ _ _ _ | .snap _ _ _ _ _ _ _ _ | .clean _ | .own _ _ | .buf _ _ _ _ | .stk _ _ | .lock | .defer _ => false
      (if ack then s.showWrite r else s).modReq r.id fun r => { r with st := .done }
  | .issued | .locked _ | .done | .aborted _ _ => s

/-- Whether a request awaits the answer of a die. -/
def Req.awaits (r : Req) (die : Nat) : Bool :=
  match r.st with
  | .home dies _ => dies.contains die
  | .issued | .locked _ | .done | .aborted _ _ => false

/-- DIRECTORY_INVALIDATE: a die's copy is invalidated, and the die acknowledges. -/
def execDirectoryInvalidate (req die : Nat) (s : State) : Result :=
  match s.req req with
  | none => .next s
  | some r =>
    if !r.awaits die || (s.frozenLines.any fun f => f.line == lineOf r.pa) then .next s else .next (s.answer r die)

/-- STORE_ACK: the acknowledgement of a write reaches its core, which frees the request (R71, R125). -/
def execStoreAck (req : Nat) (s : State) : Result :=
  match s.req req with
  | none => .next s
  | some r =>
    if r.st != .done || r.owesValue then .next s else .next { s with reqs := s.reqs.filter fun (e : Req) => e.id != req }

/-! ## Values that return (R248, R251, R405, R420) -/

/-- Returns a value to its thread, or parks the thread with the fault group of its bundle, once that is whole and the thread
can park; a thread that has ended receives nothing (R234). -/
def State.returnValue (s : State) (r : Req) (d : Reg) (n : Nat) (sx : Bool) : State :=
  match r.bad, r.value with
  | some _, _ =>
    if !s.liveThread r.blk r.who then (s.logLate r).endValue r
    else if s.issueOpen r.blk r.issue then s
    else s.closeGroup r.blk r.issue
  | none, some bs =>
    ((s.endValue r).sampleWait r.core 0x001 r.since).modThread r.blk r.who fun t => if t.live then t.putLoad d n sx bs else t
  | none, none => s.endValue r

/-- LOAD_RETURN: a bound value reaches its thread; that of a `.ack` atomic with its acknowledgement (R258). -/
def execLoadReturn (req : Nat) (s : State) : Result :=
  match s.req req with
  | none => .next s
  | some r =>
    if !r.bound || !r.owesValue then .next s
    else match r.kind with
      | .load d n sx _ _ => .next (s.returnValue r d n sx)
      | .snap d n sx _ _ _ _ _ => .next (s.returnValue r d n sx)
      | .atomic _ _ d n _ _ ack => .next (if ack && r.st != .done && r.bad.isNone then s else s.returnValue r d n false)
      | .own d ws =>
        .next (((s.endValue r).sampleWait r.core 0x001 r.since).modThread r.blk r.who fun t =>
          if t.live then t.setGs d.toNat ws else t)
      | .store _ _ _ => .next s
      | .clean _ => .next s
      | .buf _ _ _ _ => .next s
      | .stk _ _ | .lock | .defer _ => .next s

/-! ## REPLICATE commits (R135, R136, R428) -/

/-- Drops a line from every L1 (R135). -/
def State.dropL1 (s : State) (pa : Nat) : State :=
  { s with l1 := s.l1.filter fun (k : L1Line) => k.line != lineOf pa }

/-- REPLICA_COMMIT: the directory takes a write into the line's order, locks the line's replicas, and invalidates the line in
every L1. -/
def execReplicaCommit (req : Nat) (s : State) : Result :=
  match s.req req with
  | none => .next s
  | some r =>
    let now := s.tick
    if r.st != .issued || !r.sends || !pteRepl r.pte || !s.mayPlace r || !s.lineOpen r || s.lineBusy r.pa then .next s
    else .next ((s.dropL1 r.pa).modReq req fun r => { r with st := .locked now })

/-- REPLICA_UPDATE: after eight acknowledgements the write is applied to every replica and to the far copy. The write under the
lock of an engine or an agent is made by its command. -/
def execReplicaUpdate (req : Nat) (s : State) : Result :=
  match s.req req with
  | none => .next s
  | some r =>
    match r.st with
    | .locked _ =>
      if r.kind == .lock then .next s
      else if r.reads && s.physBad r.pa r.size then .next (s.badWrite r)
      else
        let s := (s.pinNear r.pte (lineOf r.pa)).bindOld r
        .next ((s.showWrite r).modReq req fun r => { r with st := .done })
    | .issued => .next s
    | .home _ _ => .next s
    | .done => .next s
    | .aborted _ _ => .next s

/-- Ticks of the wait for an acknowledgement or a lock (R426, R428). -/
def lossTicks : Nat := Config.ackCycles * Config.anvilTicks

/-- REPLICA_LOCK_TIMEOUT: the directory aborts a commit; the die that kept silent is free. -/
def execReplicaLockTimeout (req : Nat) (s : State) : Result :=
  match s.req req with
  | none => .next s
  | some r =>
    match r.st with
    | .locked since =>
      if s.tick < since + lossTicks then .next s
      else
        let (d, s) := s.pick 8
        .next (s.modReq req fun r => { r with st := .aborted 0x15 d, value := some [], returned := true })
    | .issued => .next s
    | .home _ _ => .next s
    | .done => .next s
    | .aborted _ _ => .next s

/-! ## Lost acknowledgements (R426, R427) -/

/-- ACK_LOST_TIMEOUT: a die has not answered; the directory freezes the line. -/
def execAckLostTimeout (req : Nat) (s : State) : Result :=
  match s.req req with
  | none => .next s
  | some r =>
    match r.st with
    | .home (d :: _) since =>
      if s.tick < since + lossTicks || s.frozenLines.any fun f => f.line == lineOf r.pa then .next s
      else .next { s with frozenLines := s.frozenLines ++ [({ line := lineOf r.pa, die := d } : Frozen)] }
    | .home [] _ => .next s
    | .issued => .next s
    | .locked _ => .next s
    | .done => .next s
    | .aborted _ _ => .next s

/-- Thaws a line: the silent die has answered every write that awaits it. -/
def State.thaw (s : State) (f : Frozen) : State :=
  let s := { s with frozenLines := s.frozenLines.filter fun (x : Frozen) => x != f }
  (s.reqs.filter fun r => lineOf r.pa == f.line && r.awaits f.die).foldl (fun s r => s.answer r f.die) s

/-- LINE_THAW: the silent die answers, or has been reset. -/
def execLineThaw (line : Nat) (s : State) : Result :=
  match s.frozenLines.find? fun f => f.line == line with
  | none => .next s
  | some f => .next (s.thaw f)

/-! ## Page-table walks (R70, R418) -/

/-- A thread that waits for a walk. -/
structure Walker where
  blk : Nat
  who : Who
  va  : DWord
  wr  : Bool
  rd  : Bool
  pc  : Word
  iss : Nat
  core : Nat
  since : Nat
  deriving DecidableEq, Repr

/-- The threads of some blocks that wait for a walk. -/
def State.missesOf (s : State) (p : Block → Bool) : List Walker :=
  (s.blocks.filter p).flatMap fun b => b.whos.filterMap fun w =>
    (b.thread w).bind fun t =>
      match t.wait with
      | .walk va wr rd =>
        if t.live && !t.parked then some ⟨b.id, w, va, wr, rd, t.pc, t.issue, b.core, t.since⟩ else none
      | _ => none

/-- The misses that a die holds waiting for walks: at most 4,096, the oldest first; the others are still in their cores
(R70). -/
def State.queued (s : State) (die : Nat) : List Walker :=
  (sortBy (fun (p q : Walker) => p.since ≤ q.since) (s.missesOf fun b => dieOf b.core == die)).take Config.walkQueue

/-- The threads of a context whose misses a walk can answer. -/
def State.walkers (s : State) (c : Nat) : List Walker :=
  ((List.range Config.dies).flatMap s.queued).filter fun w => (s.block w.blk).any fun b => b.ctx == c

/-- The walkers that a walk refuses fault, each with the rest of its bundle (R42, R418). -/
def State.failWalks (s : State) (c : Cause) (l : List Walker) : State :=
  ((l.map (·.blk)).eraseDups).foldl (fun s k =>
    match s.block k with
    | none => s
    | some b =>
      s.raise k ((l.filter fun w => w.blk == k).map fun w =>
        (w.iss, { who := w.who, cause := c, pc := w.pc, word := s.wordAt b.core b.ctx w.pc, addr := some w.va }))) s

/-- A walk answers a thread: the translation is installed, and the access goes on. -/
def State.answerWalk (s : State) (c : Nat) (pte : DWord) (big : Bool) (w : Walker) : State :=
  (s.tlbInstall w.core { ctx := c, page := pageOf w.va, pte := pte, big := big }).modThread w.blk w.who fun t =>
    { t with wait := .again true }

/-- PAGE_WALK: one walk answers every access that waits for the same leaf entry, and a failed walk fails them all. -/
def execPageWalk (ctx page : Nat) (s : State) : Result :=
  let va : DWord := BitVec.ofNat 64 (page * 65536)
  let big := s.bigLeaf ctx va
  let mine := (s.walkers ctx).filter fun w => if big then pageOf w.va / 512 == page / 512 else pageOf w.va == page
  match s.walk ctx va with
  | .fail c => .next (s.failWalks c mine)
  | .leaf pte big =>
    let (good, poor) := mine.partition fun w => permits pte w.wr w.rd
    .next ((good.foldl (fun s w => s.answerWalk ctx pte big w) s).failWalks 0x09 poor)

/-! ## The stack cache (R90) -/

/-- Whether a line is the least recently used one of a full stack cache, which alone may leave (R90). -/
def State.mayLeave (s : State) (b : Block) (line : Nat) : Bool :=
  let l := s.stackLines b.core
  Config.stackLines ≤ l.length && (l.head?).any fun p => p.1.id == b.id && p.2.line == line

/-- An older line of a stack is read into the stack cache while it has room. -/
def State.backFill (s : State) (b : Block) (line : Nat) : State :=
  let va : DWord := BitVec.ofNat 64 (line * 128)
  match s.coreXlat b.core b.ctx va false with
  | .fail _ => s
  | .ok pte pa =>
    if (s.readRefused pte pa 128).isSome || s.shut pa 128 || Config.stackLines ≤ (s.stackLines b.core).length then s
    else (s.tlbKeep b.core b.ctx va false true).putLine b pte pa 0 (s.stackFill b va pa)

/-- STACK_CACHE_SPILL: the background activity of the stack cache with one line. -/
def execStackCacheSpill (blk line : Nat) (mode : SpillMode) (s : State) : Result :=
  match s.block blk with
  | none => .next s
  | some b =>
    match b.stackLine (line * 128), mode with
    | some l, .spillDrop =>
      match s.spillLine b l with
      | some s' =>
        .next (if s.mayLeave b line then
          s'.modBlock blk fun b => { b with stack := b.stack.filter fun (x : StkLine) => x.line != line } else s)
      | none => .next s
    | some l, .spillKeep =>
      match s.spillLine b l with
      | some s => .next (s.modBlock blk fun b =>
          { b with stack := b.stack.map fun (x : StkLine) => if x.line == line then { x with dirty := false } else x })
      | none => .next s
    | some _, .fill => .next s
    | none, .fill => .next (s.backFill b line)
    | none, .spillDrop => .next s
    | none, .spillKeep => .next s

end Sys2Proof.Machine
end

