-- ==== Sys2Proof/Machine/Placement.lean ====
section
/-! DEFINITION. Room on a core and on a die (R55, R56, R91) and the placement of blocks (R50, R57, R63, R77, R186). -/

namespace Sys2Proof.Machine

/-! ## Launch records (R48, R49, R51) -/

/-- The number in `n` bytes of a record. -/
def recField (bs : List Byte) (off n : Nat) : Nat := leNat ((bs.drop off).take n)

/-- Whether some byte of a range of a record is not 0. -/
def recDirty (bs : List Byte) (off n : Nat) : Bool := ((bs.drop off).take n).any (· != 0)

/-- Reads a launch record. -/
def readLaunch (bs : List Byte) : LaunchRec :=
  let f := recField bs
  let flag (i : Nat) : Bool := natBit (f 0x21 1) i
  { ovl := BitVec.ofNat 8 (f 0x00 1), vent := BitVec.ofNat 8 (f 0x01 1), cent := BitVec.ofNat 8 (f 0x02 1),
    hovl := BitVec.ofNat 8 (f 0x03 1), gdim := BitVec.ofNat 32 (f 0x04 4), bdim := f 0x08 2, gang := f 0x0A 1,
    greg := f 0x0B 1, wq := f 0x0C 2, aq := f 0x0E 2, cq := f 0x10 2, nbar := f 0x12 1, isq := f 0x13 1,
    ntile := f 0x14 2, stk := f 0x16 2, stkbase := BitVec.ofNat 64 (f 0x18 8), prio := f 0x20 1 % 4,
    heatF := flag 0, cond := flag 1, csense := flag 2, irq := flag 3, collF := flag 4, ser := flag 5,
    chdl := BitVec.ofNat 16 (f 0x22 2), npred := f 0x24 2, predaddr := BitVec.ofNat 64 (f 0x28 8),
    succ := BitVec.ofNat 64 (f 0x30 8), nsucc := f 0x38 2, done := BitVec.ofNat 64 (f 0x40 8),
    sext := BitVec.ofNat 64 (f 0x48 8),
    resv := f 0x20 1 / 4 != 0 || f 0x21 1 / 64 != 0 || recDirty bs 0x26 2 || recDirty bs 0x3A 6 || recDirty bs 0x58 40,
    sinit := (List.range 32).map fun i => BitVec.ofNat 32 (f (0x80 + 4 * i) 4) }

/-- Blocks of a launch. -/
def LaunchRec.blocks (r : LaunchRec) : Nat := r.gdim.toNat + 1

/-- Threads of a block with its helper lanes (R27, R56). -/
def LaunchRec.padded (r : LaunchRec) : Nat := (r.bdim + 3) / 4 * 4

/-- Windows that a number of threads takes in a lane group (R25). -/
def windowsIn (n lg : Nat) : Nat := ((List.range ((n + 31) / 32)).filter fun w => w % 4 == lg).length

/-- Whether every field of a record lies in its range and every address is aligned as its field says. -/
def LaunchRec.inRange (r : LaunchRec) : Bool :=
  1 ≤ r.bdim && r.bdim ≤ 1024 && r.gang ≤ 20 && 8 ≤ r.greg && r.greg ≤ 112 && r.greg % 8 == 0 && r.wq ≤ 512 &&
    r.aq ≤ 256 && r.cq ≤ 256 && r.nbar ≤ 16 && 1 ≤ r.isq && r.isq ≤ 64 && r.ntile ≤ 256 && r.nsucc ≤ 64 &&
    r.stkbase.toNat % 256 == 0 && r.done.toNat % 4 == 0 && (!r.cond || r.predaddr.toNat % 4 == 0)

/-! ## Room (R55, R56, R91) -/

/-- An empty core. -/
def CoreRes.empty : CoreRes :=
  { blocks := Config.blockSlots, nslots := Config.threadSlots, wins := List.replicate 4 Config.windowsPerGroup,
    regs := Config.coreRegs, wFree := List.range Config.wUnits, aFree := List.range Config.aUnits,
    cFree := List.range Config.cUnits, bars := Config.coreBars, tiles := Config.coreTiles, launches := [] }

/-- The first units of the contiguous runs of `n` units in a list of free units. -/
def runsIn (free : List Nat) (n : Nat) : List Nat :=
  free.filter fun i => (List.range n).all fun k => free.contains (i + k)

/-- Takes the lowest contiguous run of `n` units. -/
def takeRun (free : List Nat) (n : Nat) : Option (List Nat) :=
  if n = 0 then some free
  else match runsIn free n with
    | [] => none
    | i :: _ => some (free.filter fun u => u < i || i + n ≤ u)

/-- Slots of the instruction store that some launches reserve. -/
def slotSum (l : List (Nat × Nat × Nat)) : Nat := l.foldl (fun n e => n + e.2.2) 0

/-- What is left of a core when one more block of a launch is on it, when it fits (R56). -/
def CoreRes.take (r : CoreRes) (hslots c seq : Nat) (lr : LaunchRec) : Option CoreRes :=
  let n := lr.padded
  let held := r.launches.any fun e => e.1 == c && e.2.1 == seq
  let room : Bool := held || (slotSum (r.launches.filter fun e => e.1 == c) + lr.isq ≤ hslots &&
    slotSum r.launches + lr.isq ≤ Config.storeSlots)
  if 0 < r.blocks && n ≤ r.nslots && (r.wins.zipIdx.all fun p => windowsIn n p.2 ≤ p.1) && n * lr.greg ≤ r.regs &&
      lr.nbar ≤ r.bars && lr.ntile ≤ r.tiles && room then
    match takeRun r.wFree lr.wq, takeRun r.aFree lr.aq, takeRun r.cFree lr.cq with
    | some w, some a, some k =>
      some { blocks := r.blocks - 1, nslots := r.nslots - n, wins := r.wins.mapIdx fun i x => x - windowsIn n i,
             regs := r.regs - n * lr.greg, wFree := w, aFree := a, cFree := k, bars := r.bars - lr.nbar,
             tiles := r.tiles - lr.ntile,
             launches := if held then r.launches else r.launches ++ [(c, seq, lr.isq)] }
    | _, _, _ => none
  else none

/-- Blocks of a launch that fit on a core at once. -/
def CoreRes.count (hslots c seq : Nat) (lr : LaunchRec) : Nat → CoreRes → Nat
  | 0, _ => 0
  | n + 1, r =>
    match r.take hslots c seq lr with
    | some r => 1 + CoreRes.count hslots c seq lr n r
    | none => 0

/-- The resident blocks of a core. -/
def State.blocksOn (s : State) (core : Nat) : List Block := s.blocks.filter (·.core == core)

/-- The launches that reserve slots on a core: those of its blocks, and what remains of reservations that have ended
(R308). -/
def State.reservations (s : State) (core : Nat) : List (Nat × Nat × Nat) :=
  let own := ((s.blocksOn core).map fun b => (b.ctx, b.seq, b.lr.isq)).eraseDups
  let rest := (s.core core).copies.filter fun k => own.all fun e => e.2.1 != k.seq
  own ++ rest.map fun k => (((k.refs.head?).map (·.ctx)).getD 0, k.seq + 2 ^ 48, k.nslots)

/-- Units of 0 to `total` outside some ranges. -/
def unitsFree (total : Nat) (held : List (Nat × Nat)) : List Nat :=
  (List.range total).filter fun u => held.all fun h => u < h.1 || h.1 + h.2 ≤ u

/-- The free resources of a core. -/
def State.coreRes (s : State) (core : Nat) : CoreRes :=
  let bs := s.blocksOn core
  let sum (f : Block → Nat) : Nat := bs.foldl (fun n b => n + f b) 0
  { blocks := Config.blockSlots - bs.length, nslots := Config.threadSlots - sum fun b => b.threads.length,
    wins := (List.range 4).map fun g => Config.windowsPerGroup - sum fun b => windowsIn b.threads.length g,
    regs := Config.coreRegs - sum fun b => b.threads.length * b.lr.greg,
    wFree := unitsFree Config.wUnits (bs.map fun b => (b.wBase, b.lr.wq)),
    aFree := unitsFree Config.aUnits (bs.map fun b => (b.aBase, b.lr.aq)),
    cFree := unitsFree Config.cUnits (bs.flatMap fun b => (b.cBase, b.lr.cq) :: b.regions),
    bars := Config.coreBars - sum fun b => b.lr.nbar, tiles := Config.coreTiles - sum fun b => b.lr.ntile,
    launches := s.reservations core }

/-- The cores of a die. -/
def coresOf (die : Nat) : List Nat := (List.range Config.coresPerDie).map (die * Config.coresPerDie + ·)

/-- A die's fit count for a launch (R55): from its advertised figures, less the blocks sent to it since. -/
def State.fitCount (s : State) (die : Nat) (l : Launch) : Nat :=
  let d := s.die die
  if d.st != .up then 0
  else
    d.adv.foldl (fun n r => n + r.count (s.ctx l.ctx).hslots l.ctx l.seq l.lr Config.blockSlots) 0 -
      d.sent.foldl (fun n e => n + e.2) 0

/-- RESOURCE_ADVERTISE: every 64 Anvil cycles a die advertises its free resources. -/
def execResourceAdvertise (die : Nat) (s : State) : Result :=
  if (s.die die).st == .up && s.tick % (64 * Config.anvilTicks) = 0 then
    let figures := (coresOf die).map s.coreRes
    .next (s.modDie die fun d => { d with adv := figures, sent := [] })
  else .next s

/-! ## Gangs and batches (R55, R57, R63) -/

/-- Cuts a list of blocks into gangs, in order; without gangs each block stands alone. -/
def gangsOf (gang : Nat) : List Nat → List (List Nat)
  | [] => []
  | b :: bs =>
    match gangsOf gang bs with
    | (x :: g) :: gs => if gang != 0 && b / gang = x / gang then (b :: x :: g) :: gs else [b] :: (x :: g) :: gs
    | gs => [b] :: gs

/-- Whether a block of a launch is one that pre-emption saved. -/
def Context.savedBlock (x : Context) (seq bid : Nat) : Option Saved :=
  x.saved.find? fun v => v.seq == seq && v.bid == bid

/-! ## Placement of one block (R50, R57, R77, R186) -/

/-- The stack pointer and the stack limit of a thread (R50). -/
def LaunchRec.stack (lr : LaunchRec) (index : Nat) : Word × DWord :=
  if lr.stk = 0 then (0, 0)
  else
    let n := lr.stk * 256
    let lo := lr.stkbase + BitVec.ofNat 64 (index * n)
    ((lo + BitVec.ofNat 64 n).setWidth 32, lo)

/-- A thread as placement makes it: its slot, its stack, and the cause with which it parks when it starts. -/
def LaunchRec.newThread (lr : LaunchRec) (index slot : Nat) (helper : Bool) (bad : Option Cause) : Thread :=
  let k := lr.stack index
  { (Thread.fresh slot).setG 111 k.1 with stklim := k.2, helper := helper, badStart := bad }

/-- The 32 words of SEXT, or the cause that they could not be read with (R57). -/
def State.readSext (s : State) (c : Nat) (lr : LaunchRec) : List Word × Option Cause :=
  let zeros : List Word := List.replicate 32 0
  if lr.sext = 0 then (zeros, none)
  else match s.vreadAcross c lr.sext.toNat 128 with
    | .ok bs => ((List.range 32).map fun i => BitVec.ofNat 32 (recField bs (4 * i) 4), none)
    | .error e => (zeros, some e)

/-- The cores of a die on which a block fits, by descending free slots: the first is the one taken (R57). -/
def State.bestCore (s : State) (die : Nat) (l : Launch) : Option Nat :=
  let fits := ((coresOf die).map fun k => (k, s.coreRes k)).filter fun p =>
    (p.2.take (s.ctx l.ctx).hslots l.ctx l.seq l.lr).isSome
  (fits.foldl (fun (best : Option (Nat × CoreRes)) p =>
    match best with
    | none => some p
    | some q => if q.2.nslots < p.2.nslots then some p else some q) none).map (·.1)

/-- Resident-thread slots of a core that no thread holds. -/
def State.threadSlots (s : State) (core : Nat) : List Nat :=
  let used := (s.blocksOn core).flatMap fun b => b.threads.map (·.slot)
  (List.range Config.threadSlots).filter fun i => !used.contains i

/-- Resident-block slots of a core that no block holds. -/
def State.bslots (s : State) (core : Nat) : List Nat :=
  (List.range Config.blockSlots).filter fun i => (s.blocksOn core).all fun b => b.bslot != i

/-- Takes one of some free places, freely. -/
def State.choose (s : State) (l : List Nat) : Nat × State :=
  let (k, s) := s.pick l.length
  (l.getD k 0, s)

/-- Clears the shares of a block (R77). -/
def Core.clearShares (k : Core) (b : Block) : Core :=
  { k with
    wmem := memClear k.wmem (b.wBase * 4096) (b.lr.wq * 4096), wbad := clearSectors k.wbad b.wBase b.lr.wq,
    amem := memClear k.amem (b.aBase * 4096) (b.lr.aq * 4096), abad := clearSectors k.abad b.aBase b.lr.aq,
    cmem := memClear k.cmem (b.cBase * 4096) (b.lr.cq * 4096), cbad := clearSectors k.cbad b.cBase b.lr.cq }

/-- Starts the threads of a placed block at its entries, with OVL and HOVL loaded first: each window, then
the control thread (R57); a restored block at the restore entry of HOVL, in handler mode (R63, R388). -/
def State.startBlock (s : State) (b : Block) (restored : Bool) : State :=
  let wins : List (List Who) := (List.range ((b.threads.length + 31) / 32)).map fun w =>
    ((List.range b.threads.length).filter fun t => t / 32 == w).map Who.vec
  let ovl := if restored then b.lr.hovl else b.lr.ovl
  let s := (s.startLoad b.core b.ctx ovl b.seq b.lr.isq none).2
  let s := (s.startLoad b.core b.ctx (if restored then b.lr.ovl else b.lr.hovl) b.seq b.lr.isq none).2
  let s := wins.foldl (fun s ws => s.startAt b.id ovl (if restored then 1 else b.lr.vent.toNat) ws) s
  if b.ctl.isSome then s.startAt b.id ovl (if restored then 1 else b.lr.cent.toNat) [.ctl] else s

/-- A thread of a restored block: in handler mode for PREEMPT, with `%hpc` 0 until `frload` sets it (R388), and with the
park record it was saved with (R402). -/
def Thread.forRestore (t : Thread) (v : Saved) (w : Who) : Thread :=
  { t.intoHandler 0x1F 0 0 with hpcHw := false, recAt := (v.records.lookup w).getD 0 }

/-- The value of `%hsave` that the runtime writes for a new block: not stated (R315). -/
def State.newHsave (s : State) (v : Option Saved) : DWord × State :=
  match v with
  | some v => (v.hsave, s)
  | none =>
    let (lo, s) := s.free
    let (hi, s) := s.free
    (joinPair lo hi, s)

/-- Places a block of a launch on a core. -/
def State.placeBlock (s : State) (core : Nat) (l : Launch) (bid : Nat) : State :=
  let lr := l.lr
  let saved := (s.ctx l.ctx).savedBlock l.seq bid
  let n := lr.padded
  let r := s.coreRes core
  let free := s.threadSlots core
  let (rot, s) := s.pick free.length
  let slots := (free.rotateLeft rot).take n
  let (bslot, s) := s.choose (s.bslots core)
  let (w, s) := s.choose (runsIn r.wFree lr.wq)
  let (a, s) := s.choose (runsIn r.aFree lr.aq)
  let (k, s) := s.choose (runsIn r.cFree lr.cq)
  let (ext, bad) := s.readSext l.ctx lr
  let s := if lr.sext = 0 then s else s.spanKeep l.ctx lr.sext.toNat 128
  let s := if bad == some 0x13 then
      s.logRecord l.ctx 0x13 (BitVec.ofNat 8 core) 1 (BitVec.ofNat 32 bid) 0 0xFFFF
    else s
  let (hsave, s) := s.newHsave saved
  let (id, s) := s.take
  let make (w : Who) (t : Thread) : Thread := match saved with
    | some v => t.forRestore v w
    | none => t
  let words := (lr.sinit ++ ext).toArray
  let b : Block :=
    { id := id, ctx := l.ctx, seq := l.seq, bid := bid, core := core, bslot := bslot, lr := lr,
      threads := slots.mapIdx fun i slot => make (.vec i) (lr.newThread (core * 2048 + slot) slot (lr.bdim ≤ i) bad),
      ctl := if lr.cent == 0xFF then none
        else some (make .ctl (lr.newThread (327680 + core * 16 + bslot) bslot false bad)),
      sregs := Vector.ofFn fun i => words.getD i.val 0, bars := List.replicate lr.nbar (Bar.init lr.bdim),
      flags := Vector.replicate 12 0, tiles := List.replicate lr.ntile Tile.unbound, wBase := w, aBase := a, cBase := k,
      regions := [], cands := [], rejoins := [], rdvs := [], areqs := [], stack := [], mCause := 0, mStop := false,
      mWd := 0, mStep := 0, mFault := none, hsave := hsave, parks := [], faulted := [], hovlDue := false, killed := none,
      aliasIn := match saved with
        | some v => v.aliasIn
        | none => [],
      coop := none, launchF := saved.isSome, barSaved := saved.isSome, saving := false, falls := [] }
  let s := ({ s with blocks := s.blocks ++ [b] }.modCore core fun x => x.clearShares b).modCtx l.ctx fun x =>
    { x with saved := x.saved.filter fun v => !(v.seq == l.seq && v.bid == bid), active := x.active || lr.heatF }
  s.startBlock b saved.isSome

/-- Places the blocks of a gang at once, or none of them. -/
def State.placeGang (s : State) (die : Nat) (l : Launch) : List Nat → Option State
  | [] => some s
  | bid :: bs =>
    match s.bestCore die l with
    | none => none
    | some core => (s.placeBlock core l bid).placeGang die l bs

/-- Whether the line of a launch's SEXT cannot be reached: its blocks wait (R426, R443). -/
def State.sextShut (s : State) (l : Launch) : Bool := l.lr.sext != 0 && s.spanShut l.ctx l.lr.sext.toNat 128

/-- Whether the blocks of a launch are held back because its package has arrived at the quench (R449). -/
def State.heatHold (s : State) (l : Launch) : Bool := l.lr.heatF && (s.ctx l.ctx).closed

/-- The first batch of a die whose next block, or gang, fits; it is placed. -/
def State.placeNext (s : State) (die : Nat) (done : List (Nat × List Nat)) : List (Nat × List Nat) → State
  | [] => s
  | e :: es =>
    match s.launch e.1, gangsOf (((s.launch e.1).map (·.lr.gang)).getD 0) e.2 with
    | some l, g :: gs =>
      if s.heatHold l || s.sextShut l then s.placeNext die (done ++ [e]) es
      else match s.placeGang die l g with
        | none => s.placeNext die (done ++ [e]) es
        | some s =>
          s.modDie die fun d => { d with queue := done ++ (if gs.isEmpty then es else (e.1, gs.flatten) :: es) }
    | _, _ => s.placeNext die (done ++ [e]) es

/-- BLOCK_PLACE: a die places the next block, or gang, of a batch that fits. -/
def execBlockPlace (die : Nat) (s : State) : Result :=
  if (s.die die).st == .up then .next (s.placeNext die [] (s.die die).queue) else .next s

end Sys2Proof.Machine
end

