-- ==== Sys2Proof/Machine/Launching.lean ====
section
/-! DEFINITION. Launches from their record to their completion: doorbells (R355), acceptance (R51, R52), readiness and
batches (R53 to R55), predicates (R60) and completion (R59, R61). -/

namespace Sys2Proof.Machine

/-! ## Readiness (R53, R449) -/

/-- Blocks of a launch that some die holds and has not placed. -/
def State.sentBlocks (s : State) (seq : Nat) : List Nat :=
  s.dies.toList.flatMap fun d => (d.queue.filter fun e => e.1 == seq).flatMap (·.2)

/-- The saved blocks of a launch that are still to be sent (R63). -/
def State.savedLeft (s : State) (l : Launch) : List Nat :=
  let sent := s.sentBlocks l.seq
  sortBy (fun a b => a ≤ b)
    ((((s.ctx l.ctx).saved.filter fun v => v.seq == l.seq).map (·.bid)).filter fun b => !sent.contains b)

/-- Blocks of a launch that have never been handed out. -/
def Launch.fresh (l : Launch) : Nat := l.lr.blocks - l.handed

/-- Blocks of a launch that a batch can carry. -/
def State.unsent (s : State) (l : Launch) : Nat := (s.savedLeft l).length + l.back.length + l.fresh

/-- Whether a launch is at the head of its queue. -/
def State.atHead (s : State) (l : Launch) : Bool :=
  !l.gone && s.launches.all fun k => k.gone || k.ctx != l.ctx || k.q != l.q || l.idx ≤ k.idx

/-- Whether the record before a launch in its queue has completed, where it asks for that. -/
def State.serialOk (s : State) (l : Launch) : Bool :=
  !l.lr.ser || s.launches.all fun k => k.ctx != l.ctx || k.q != l.q || k.idx + 1 != l.idx

/-- Whether a launch is ready (R53): a launch that has left the head is ready again for blocks that came back. -/
def State.launchReady (s : State) (l : Launch) : Bool :=
  l.skip.isNone && l.npred == 0 && l.judged && s.serialOk l && (s.ctx l.ctx).pre == .running && 0 < s.unsent l &&
    (s.atHead l || l.gone)

/-- A heat-bound launch that is ready is activity of its heat (R449). -/
def State.noteReady (s : State) : State :=
  s.launches.foldl (fun s l =>
    if l.lr.heatF && s.launchReady l then s.modCtx l.ctx fun x => { x with active := true } else s) s

/-! ## Batches (R54, R55) -/

/-- The die that a batch of a launch goes to, and the blocks that it can take: the die with the largest fit count. -/
def State.batchDie (s : State) (l : Launch) : Nat × Nat :=
  (List.range Config.dies).foldl (fun best d =>
    let n := s.fitCount d l
    if best.2 < n then (d, n) else best) (0, 0)

/-- Takes gangs from a list while they fit. -/
def takeGangs (room : Nat) : List (List Nat) → List Nat
  | [] => []
  | g :: gs => if g.length ≤ room then g ++ takeGangs (room - g.length) gs else []

/-- The blocks of the next batch of a launch: saved blocks, then blocks given back, then new ones, in whole gangs. -/
def State.nextBlocks (s : State) (l : Launch) (fit : Nat) : List Nat :=
  let gang := l.lr.gang
  let n := Nat.min l.fresh (if gang = 0 then 64 else 64 - 64 % gang)
  let new := (List.range n).map (l.handed + ·)
  takeGangs (Nat.min 64 fit) (gangsOf gang (s.savedLeft l ++ l.back ++ new))

/-- A batch that can be sent. -/
structure Batch where
  l    : Launch
  die  : Nat
  bids : List Nat

/-- The batches that the ready records allow. -/
def State.batches (s : State) : List Batch :=
  s.launches.filterMap fun l =>
    if s.launchReady l && !s.heatHold l && (s.ctx l.ctx).qos != 0 then
      let t := s.batchDie l
      let bids := s.nextBlocks l t.2
      if bids.isEmpty then none else some ⟨l, t.1, bids⟩
    else none

/-- The smallest of some virtual times. -/
def leastVt : List Rat → Option Rat
  | [] => none
  | v :: vs => match leastVt vs with
    | none => some v
    | some w => some (if v ≤ w then v else w)

/-- The contexts that have entered or left the set of those that can be served, with their virtual times (R54). -/
def State.updateAct (s : State) (act : List Nat) : State :=
  { s with ctxs := s.ctxs.mapIdx fun c x =>
      if act.contains c then
        let others := (act.filter (· != c)).map fun k => (s.ctx k).vt
        let vt := match leastVt others with
          | some m => if !x.inAct && x.vt < m then m else x.vt
          | none => x.vt
        { x with inAct := true, vt := vt }
      else { x with inAct := false } }

/-- The context that is served: the least virtual time, then the lowest number. -/
def State.servedCtx (s : State) : List Nat → Option Nat
  | [] => none
  | c :: cs => match s.servedCtx cs with
    | none => some c
    | some d => some (if (s.ctx c).vt < (s.ctx d).vt || ((s.ctx c).vt == (s.ctx d).vt && c ≤ d) then c else d)

/-- The batch that is sent of a context: the highest PRIO, then the lowest SEQ. -/
def bestBatch : List Batch → Option Batch
  | [] => none
  | b :: bs => match bestBatch bs with
    | none => some b
    | some k => some (if k.l.lr.prio < b.l.lr.prio || (k.l.lr.prio == b.l.lr.prio && b.l.seq ≤ k.l.seq) then b else k)

/-- Sends a batch to its die. -/
def State.sendBatch (s : State) (b : Batch) : State :=
  let old := s.savedLeft b.l
  let new := b.bids.filter fun i => !old.contains i && !b.l.back.contains i
  let handed := b.l.handed + new.length
  let s := s.modLaunch b.l.seq fun l =>
    { l with handed := handed, back := l.back.filter fun i => !b.bids.contains i,
             gone := l.gone || handed == l.lr.blocks }
  let s := s.modDie b.die fun d =>
    { d with queue := d.queue ++ [(b.l.seq, b.bids)], sent := d.sent ++ [(b.l.seq, b.bids.length)] }
  s.modCtx b.l.ctx fun x => { x with vt := x.vt + ((b.bids.length * 65536 : Nat) : Rat) / (x.qos.toNat : Rat) }

/-- BATCH_FORM: every 4 Anvil cycles the global dispatcher sends at most one batch. -/
def execBatchForm (s : State) : Result :=
  if s.boot != .done || s.tick < s.lastBatch + 4 * Config.anvilTicks then .next s
  else
    let s := s.noteReady
    let l := s.batches
    let s := s.updateAct (l.map (·.l.ctx)).eraseDups
    match s.servedCtx (l.map (·.l.ctx)).eraseDups with
    | none => .next s
    | some c =>
      match bestBatch (l.filter fun b => b.l.ctx == c) with
      | none => .next s
      | some b => .next { s.sendBatch b with lastBatch := s.tick }

/-! ## Predicates (R60) -/

/-- A launch is skipped, or refused: it leaves its queue and completes without a block. -/
def State.skipLaunch (s : State) (seq : Nat) (c : Cause) : State :=
  s.modLaunch seq fun l => { l with skip := some c, gone := true }

/-- Whether the predicate of a launch cannot be reached (R426, R443). -/
def State.predShut (s : State) (l : Launch) : Bool := l.lr.cond && s.spanShut l.ctx l.lr.predaddr.toNat 4

/-- The predicate of a launch is read, once, when its predecessor count has reached 0; the read waits while its line cannot be
reached. -/
def State.judge (s : State) (seq : Nat) : State :=
  match s.launch seq with
  | none => s
  | some l =>
    if l.judged || l.skip.isSome || l.npred != 0 || s.predShut l then s
    else
      let s := s.modLaunch seq fun l => { l with judged := true }
      if !l.lr.cond then s
      else match (s.spanKeep l.ctx l.lr.predaddr.toNat 4).vread l.ctx l.lr.predaddr 4 with
        | .ok bs => if (leNat bs == 0) == l.lr.csense then s else s.skipLaunch seq 0xFE
        | .error e => (if e == 0x13 then s.logEngine l.ctx 0x13 1 0 else s).skipLaunch seq e

/-! ## Acceptance (R51, R52) -/

/-- The record in a slot of a ring; a slot that nothing has been written to holds zeros. -/
def Queue.recordAt (k : Queue) (slot : Nat) : List Byte := (k.ring.lookup slot).getD (List.replicate 256 0)

/-- Writes a record into a slot of a ring. -/
def Queue.putRecord (k : Queue) (slot : Nat) (bs : List Byte) : Queue :=
  { k with ring := (slot, bs) :: k.ring.filter fun p => p.1 != slot }

/-- The next record of a queue is accepted. -/
def Queue.accept (k : Queue) : Queue :=
  let slot := k.acc % 2 ^ k.n
  { k with acc := k.acc + 1, spent := (slot, k.acc) :: k.spent.filter fun p => p.1 != slot }

/-- Whether the tail has passed a record of a slot that has not been accepted. -/
def Queue.offers (k : Queue) (slot : Nat) : Bool :=
  (List.range (k.tail - k.acc)).any fun i => (k.acc + i) % 2 ^ k.n == slot

/-- The count of the accepted record that a slot stands for; none where it holds a record still to be accepted. -/
def Queue.accepted (k : Queue) (slot : Nat) : Option Nat := if k.offers slot then none else k.spent.lookup slot

/-- Puts bytes into a record. -/
def patchRecord (bs : List Byte) (off : Nat) (new : List Byte) : List Byte :=
  bs.take off ++ new ++ bs.drop (off + new.length)

/-- Whether the dispatcher refuses a record (R51). -/
def State.refuses (s : State) (c : Nat) (lr : LaunchRec) : Bool :=
  lr.resv || !lr.inRange || (lr.gang != 0 && lr.blocks % lr.gang != 0) ||
    (CoreRes.empty.take (s.ctx c).hslots c 0 lr).isNone

/-- The address of a slot of a queue. -/
def Queue.slotAddr (k : Queue) (slot : Nat) : Nat := k.base + 256 * slot

/-- The launch that the dispatcher makes of the next record of a queue. -/
def makeLaunch (seq c q : Nat) (k : Queue) (lr : LaunchRec) : Launch :=
  { seq := seq, ctx := c, q := q, idx := k.acc, addr := k.slotAddr (k.acc % 2 ^ k.n), lr := lr, npred := lr.npred,
    handed := 0, back := [], ended := 0, status := 0, skip := none, judged := false, gone := false }

/-- LAUNCH_ACCEPT: the dispatcher accepts the next record of a queue, or refuses it. -/
def execLaunchAccept (ctx q : Nat) (s : State) : Result :=
  match (s.ctx ctx).queue q with
  | none => .next s
  | some k =>
    if s.boot != .done || k.tail ≤ k.acc || (s.ctx ctx).pre == .resetting then .next s
    else
      let slot := k.acc % 2 ^ k.n
      let bs := k.recordAt slot
      let lr := readLaunch bs
      let seq := s.seq.toNat
      let l := makeLaunch seq ctx q k lr
      let s := { s with seq := s.seq + 1, launches := s.launches ++ [l] }.modQueue ctx q fun k =>
        (k.putRecord slot (patchRecord bs 0x50 (leBytes 8 seq))).accept
      if s.refuses ctx lr then .next ((s.skipLaunch seq 0x01).ctxEvent ctx 0x01 l.addr 0)
      else .next (s.judge seq).noteReady

/-! ## Completion (R59, R61) -/

/-- Whether a launch completes: it was skipped or refused, or its last block has retired. -/
def State.completes (s : State) (l : Launch) : Bool :=
  l.skip.isSome || (l.ended == l.lr.blocks && s.boot == .done)

/-- The completion word. -/
def Launch.word (l : Launch) : Word := completionWord (l.skip.getD l.status) l.ended

/-- Whether a launch cannot complete yet: its completion word, or its list of successors, cannot be reached (R426, R443). -/
def State.doneShut (s : State) (l : Launch) : Bool :=
  (l.lr.done != 0 && (s.xlat l.ctx l.lr.done true).waits s 4) ||
    (l.lr.nsucc != 0 && s.areaShut l.ctx l.lr.succ.toNat (8 * l.lr.nsucc))

/-- Stores the completion word; one that cannot be stored is lost, with a context event. -/
def State.storeDone (s : State) (l : Launch) : State :=
  if l.lr.done = 0 then s
  else match s.vwrite l.ctx l.lr.done (leBytes 4 l.word.toNat) with
    | .ok s => s
    | .error e => s.ctxEvent l.ctx (refusedCause e) l.addr 0

/-- The queue whose ring holds an address, and the slot. -/
def State.ringAt (s : State) (a : Nat) : Option (Nat × Nat × Nat) :=
  ((List.range Config.contexts).flatMap fun c => (List.range 16).filterMap fun q =>
    match (s.ctx c).queue q with
    | some k =>
      if k.base ≤ a && a < k.base + 256 * 2 ^ k.n && (a - k.base) % 256 = 0 then some (c, q, (a - k.base) / 256) else none
    | none => none).head?

/-- The predecessor count of a record falls by one, not below 0 (R61): of an accepted record in its launch, where a launch
that has completed has none left, of another in the ring. -/
def State.decrement (s : State) (a : Nat) (own : Nat) : State :=
  match s.ringAt a with
  | none => s.ctxEvent own 0x03 a 0
  | some (c, q, slot) =>
    match (s.ctx c).queue q with
    | none => s
    | some k =>
      match k.accepted slot with
      | some idx =>
        match s.launches.find? fun l => l.ctx == c && l.q == q && l.idx == idx && l.npred != 0 with
        | some l => (s.modLaunch l.seq fun l => { l with npred := l.npred - 1 }).judge l.seq
        | none => s.ctxEvent c 0x03 a 0
      | none =>
        let bs := k.recordAt slot
        let n := recField bs 0x24 2
        if n = 0 then s.ctxEvent c 0x03 a 0
        else s.modQueue c q fun k => k.putRecord slot (patchRecord bs 0x24 (leBytes 2 (n - 1)))

/-- Every successor of a launch loses a predecessor. An address of the list that cannot be read is reported: an uncorrectable
error in the log (R405), any other cause with a context event (DEDUCED, log entry 75). -/
def State.decrementAll (s : State) (l : Launch) : State :=
  (List.range l.lr.nsucc).foldl (fun s i =>
    match s.vreadAcross l.ctx (l.lr.succ.toNat + 8 * i) 8 with
    | .ok bs => (s.spanKeep l.ctx (l.lr.succ.toNat + 8 * i) 8).decrement (leNat bs) l.ctx
    | .error e => if e == 0x13 then s.logEngine l.ctx 0x13 1 0 else s.ctxEvent l.ctx (refusedCause e) l.addr 0) s

/-- PREDICATE_READ, a step of the model's own: a predicate whose line could not be reached is read. -/
def State.judgeDue (s : State) (seq : Nat) : State := (s.judge seq).noteReady

/-- LAUNCH_COMPLETE: the completion word, then the successors, then the interrupt. -/
def execLaunchComplete (seq : Nat) (s : State) : Result :=
  match s.launch seq with
  | none => .next s
  | some l =>
    if !s.completes l || s.doneShut l then .next s
    else
      let s := (s.storeDone l).decrementAll l
      let s := if l.lr.irq then s.raiseVector l.ctx l.q else s
      .next ({ s with launches := s.launches.filter fun (k : Launch) => k.seq != seq } : State).noteReady

/-! ## Doorbells (R354, R355) -/

/-- Whether the host reaches the functions: the link is connected, and the package is not in recovery (R14, R350). -/
def State.hostUp (s : State) : Bool := s.hostLink && s.boot == .done

/-- DOORBELL_WRITE: a write of the host to a doorbell register is forwarded as a release store to the doorbell word, where it waits
while the line cannot be reached (R426, R443). -/
def execDoorbellWrite (ctx q : Nat) (tail : Word) (s : State) : Result :=
  if !s.hostUp then .next s
  else match s.doorbellAt ctx with
  | none => .next s
  | some d =>
    if 16 ≤ q || s.dead (d + 4 * q) 4 then .next s else .next (s.postWrite ctx (d + 4 * q) (leBytes 4 tail.toNat))

end Sys2Proof.Machine
end

