-- ==== Sys2Proof/Machine/Heats.lean ====
section
/-! DEFINITION. Heats (R151 to R166, R431 to R437, R449): domains, deferred writes as they leave and as they are accepted,
snapshot reads, and frozen windows. The quench is in Quench. -/

namespace Sys2Proof.Machine

/-! ## Domains (R151, R435) -/

/-- The members of a domain that are not suspended. -/
def Context.present (x : Context) : List (BitVec 20) := x.members.filter fun p => !x.susp.contains p

/-- Whether a package is the root of a domain's quench tree: the lowest member that is not suspended. -/
def Context.isRoot (x : Context) (p : BitVec 20) : Bool :=
  x.present.contains p && x.present.all fun k => p.toNat ≤ k.toNat

/-- Whether some resident block of a context is heat-bound (R449). -/
def State.heatBlocks (s : State) (c : Nat) : Bool := s.blocks.any fun b => b.ctx == c && b.lr.heatF

/-- The domain's context as the runtime forms it: heat 0, with some members suspended. What becomes of an earlier domain's
state, the spec leaves open: its deferred writes that are on their way and its accepted records are dropped, while those not yet
sent stay, with the heat they were held for (DESIGN CHOICE, log entry 136); its registered ranges are dropped, although FRZ of
the windows that registered them stays set (DESIGN CHOICE, log entry 137); its skew limit is kept (DESIGN CHOICE, log entry
138). -/
def Context.formed (x : Context) (pkg : BitVec 20) (members susp : List (BitVec 20)) : Context :=
  { x with heat := 0, members := members, susp := susp, closed := false, arrivals := [], actRep := false, active := false,
           applied := false, dones := [], tq := none, void := false, skewAt := none, readmit := [],
           selfSusp := susp.contains pkg, seqNo := 0, budgets := [], torn := [], reports := [], portBad := false, qcause := 0,
           inFlight := [], buffer := [], stamps := [], frozen := [] }

/-! ## Reports (R404, R431, R438) -/

/-- The sequence of a report that no deferred write makes. -/
def noSeq : Nat := 2 ^ 32 - 1

/-- A report that no deferred write makes. -/
def plainReport (c : Cause) (pkg : BitVec 20) (a : Nat) : Report :=
  { cause := c, pkg := pkg, seq := noSeq, win := 0xFFFF, addr := BitVec.ofNat 64 a }

/-- A report of a heat at this package: it enters the heat's status and forms a log record. -/
def State.reportHeat (s : State) (c h : Nat) (r : Report) : State :=
  (s.modCtx c fun x => { x with reports := x.reports ++ [(h, r)] }).logRecord c r.cause 0xFF 1 0xFFFFFFFF r.addr 0xFFFF
    (some (BitVec.ofNat 48 h))

/-- Whether a port has lost its link and is not up again, or sends nothing for want of a key (R438, R439). -/
def Port.lost (p : Port) : Bool := p.starved || (p.st == .down && p.peer.isSome)

/-- A member that has a port down or key-starved in its heat reports 0x1B, once for each heat (R438). -/
def State.reportPort (s : State) (c : Nat) : State :=
  let x := s.ctx c
  if x.portBad || x.fn.isNone then s
  else (s.modCtx c fun x => { x with portBad := true }).reportHeat c x.heat.toNat (plainReport 0x1B s.pkg 0)

/-- A heat begins: a port that is still lost is reported in it. -/
def State.beginHeat (s : State) (c : Nat) : State := if s.ports.toList.any (·.lost) then s.reportPort c else s

/-- HEAT_DOMAIN_FORM: the runtime forms a domain with this package's context as a member. A package that joins a domain that goes
on elsewhere, after its reset, is suspended from it until it is readmitted (R444; log entry 139). -/
def execHeatDomainForm (ctx : Nat) (d : DomainForm) (s : State) : Result :=
  s.byRuntime (
    if !d.members.contains s.pkg then .next s
    else
      let blocks := s.blocks.map fun b =>
        if b.ctx == ctx then
          { b with threads := b.threads.map fun t => { t with arrived := none },
                   ctl := b.ctl.map fun t => { t with arrived := none } }
        else b
      .next (({ s with blocks := blocks }.modCtx ctx fun x =>
        { x.formed s.pkg d.members d.susp with active := s.heatBlocks ctx }).beginHeat ctx))

/-! ## Deferred writes leave (R153, R158, R268, R432) -/

/-- The write of a context that waits under a name. -/
def State.outboundOf (s : State) (id : Nat) : Option (Nat × Outbound) :=
  ((List.range Config.contexts).filterMap fun c => ((s.ctx c).outbound.find? (·.id == id)).map fun o => (c, o)).head?

/-- The heat that stamps a write that leaves now: the next one when the package has closed its heat. -/
def Context.stampNow (x : Context) : Nat := if x.closed then x.heat.toNat + 1 else x.heat.toNat

/-- Whether a write may leave: its thread's earlier writes have left, and it is not held for a later heat. -/
def Context.mayLeave (x : Context) (o : Outbound) : Bool :=
  (!o.bound || o.heat ≤ x.heat.toNat) &&
    x.outbound.all fun e => o.id ≤ e.id || !(e.seq == o.seq && e.bid == o.bid && e.who == o.who)

/-- Whether the budget of a write's window, as the write read it at issue, admits it in the heat; a local write needs
none. -/
def Context.inBudget (x : Context) (o : Outbound) : Bool :=
  o.budget.all fun b => (x.budgets.lookup o.w.win.toNat).getD 0 + o.w.data.length ≤ b

/-- A window that is refused a write is torn for the heat, and reported once. A package that has used every sequence is
torn whole. -/
def State.tear (s : State) (c h : Nat) (win : Option (BitVec 16)) (addr : Nat) : State :=
  let x := s.ctx c
  if x.torn.contains (h, s.pkg, win) then s
  else
    (s.modCtx c fun x => { x with torn := x.torn ++ [(h, s.pkg, win)] }).reportHeat c h
      { cause := 0x18, pkg := s.pkg, seq := Nat.min x.seqNo noSeq, win := win.getD 0xFFFF, addr := BitVec.ofNat 64 addr }

/-- The write that leaves, stamped. -/
def Outbound.stamped (o : Outbound) (pkg : BitVec 20) (h seq : Nat) : Outbound :=
  { o with heat := h, w := { o.w with spkg := pkg, heat := BitVec.ofNat 48 h, seq := BitVec.ofNat 32 seq } }

/-- Stamps a write and lets it leave. -/
def State.stampWrite (s : State) (c : Nat) (o : Outbound) : State :=
  s.modCtx c fun x =>
    let win := o.w.win.toNat
    { x with
      seqNo := x.seqNo + 1, active := true,
      budgets := if o.budget.isNone then x.budgets
        else (win, (x.budgets.lookup win).getD 0 + o.w.data.length) :: x.budgets.filter fun p => p.1 != win
      inFlight := x.inFlight ++ [o.stamped s.pkg x.stampNow x.seqNo] }

/-- DWRITE_SEND: a deferred write leaves the package, or is refused for its budget. One for another package waits while no port
is UP (R351, R438, R439). -/
def execDwriteSend (id : Nat) (s : State) : Result :=
  match s.outboundOf id with
  | none => .next s
  | some (c, o) =>
    let x := s.ctx c
    if !x.mayLeave o || !s.pathFrom (BitVec.ofNat 20 o.peer) then .next s
    else
      let s := s.modCtx c fun x => { x with outbound := x.outbound.filter fun (e : Outbound) => e.id != id }
      if 2 ^ 32 ≤ x.seqNo then .next (s.tear c x.stampNow none o.w.addr)
      else if !x.inBudget o then .next (s.tear c x.stampNow (some o.w.win) o.w.addr)
      else .next (s.stampWrite c o)

/-! ## Deferred writes arrive (R158, R160, R165, R436, R437) -/

/-- Bytes that a record of the heat buffers takes. -/
def recordCost (w : DWrite) : Nat := 16 + (w.data.length + 15) / 16 * 16

/-- Bytes of the heat buffers in use. -/
def State.bufferUsed (s : State) : Nat :=
  s.ctxs.toList.foldl (fun n x => n + (x.buffer.map recordCost).foldl (· + ·) 0) 0

/-- Whether the heat buffers and the spill area have room for a record. -/
def State.bufferRoom (s : State) (w : DWrite) : Bool := s.bufferUsed + recordCost w ≤ Config.heatBuffer + s.spill

/-- Whether a write meets a registered range of a context. -/
def Context.isFrozen (x : Context) (a n : Nat) : Bool := x.frozen.any fun f => f.base < a + n && a < f.limit

/-- Why the page table or a format range refuses a deferred write. -/
def State.deferRefused (s : State) (c a n : Nat) : Option Cause :=
  let at_ (i : Nat) : Option Cause :=
    match s.xlat c (BitVec.ofNat 64 (a + i)) true with
    | .fail e => some e
    | .ok _ pa => if s.inRange pa 1 then some 0x09 else none
  (List.range n).findSome? at_

/-- What the destination finds when it checks a deferred write (R158, R165, R436, R437): a cause, with the heat in whose
status it is reported. -/
def State.checkWrite (s : State) (w : DWrite) : Option (Cause × Nat) :=
  let c := w.dctx.toNat
  let x := s.ctx c
  let n := w.data.length
  if w.heat < x.heat then some (0x1A, x.heat.toNat)
  else if x.susp.contains w.spkg || x.selfSusp then some (0x1D, w.heat.toNat)
  else if !(w.direct && w.spkg == s.pkg) && w.key != x.ikey then some (0x0A, w.heat.toNat)
  else match s.deferRefused c w.addr n with
    | some e => some (e, w.heat.toNat)
    | none => if x.isFrozen w.addr n then some (0x17, w.heat.toNat) else none

/-- A write of this package that is on its way: to itself, or to another package. -/
def State.inFlightOf (s : State) (w : DWrite) (home : Bool) : Bool :=
  s.ctxs.toList.any fun x => x.inFlight.any fun o => o.w == w && (o.peer == s.pkg.toNat) == home

/-- A write of this package has been accepted or discarded at its destination. -/
def State.landed (s : State) (w : DWrite) (home : Bool) : State :=
  { s with ctxs := s.ctxs.map fun x =>
      { x with inFlight := x.inFlight.filter fun (o : Outbound) => !(o.w == w && (o.peer == s.pkg.toNat) == home) } }

/-- DWRITE_ACCEPT: a deferred write arrives; it is recorded, discarded with a report, or waits for room. A write that this
package sent to another has been accepted or discarded there (R161). A packet of another package comes through a port that
is UP (R351). -/
def execDwriteAccept (w : DWrite) (s : State) : Result :=
  if w.spkg == s.pkg && !s.inFlightOf w true then .next (if s.hasPath then s.landed w false else s)
  else if !s.pathFrom w.spkg then .next s
  else match s.checkWrite w with
    | some (e, h) =>
      .next ((s.landed w true).reportHeat w.dctx.toNat h
        { cause := e, pkg := s.pkg, seq := w.seq.toNat, win := w.win, addr := BitVec.ofNat 64 w.addr })
    | none =>
      if !s.bufferRoom w then .next s
      else .next ((s.landed w true).modCtx w.dctx.toNat fun x => { x with buffer := x.buffer ++ [w] })

/-! ## Snapshot reads (R159, R164, R420, R437) -/

/-- The answer to a snapshot read. -/
def State.answerSnap (s : State) (r : SnapReq) : SnapRsp :=
  let c := r.dctx.toNat
  let x := s.ctx c
  let bad (e : Cause) : SnapRsp := { req := r.req, cause := e, data := [], stamp := 0 }
  if x.selfSusp then bad 0x1D
  else if r.key != x.ikey then bad 0x0A
  else match s.vreadAcross c r.addr r.size with
    | .error e => bad e
    | .ok bs => { req := r.req, cause := 0, data := bs, stamp := x.stampOf r.addr r.size }

/-- Whether a snapshot read waits: its bytes cannot be reached, and nothing else refuses it (R426, R443). -/
def State.snapWaits (s : State) (r : SnapReq) : Bool :=
  let x := s.ctx r.dctx.toNat
  !x.selfSusp && r.key == x.ikey && s.spanShut r.dctx.toNat r.addr r.size

/-- Whether this package has a snapshot read of its own on its way to itself. -/
def State.ownSnap (s : State) (r : SnapReq) : Bool :=
  match s.req r.req with
  | none => false
  | some q =>
    match q.kind with
    | .snap _ n _ _ _ peer pctx key =>
      q.st == .issued && peer == s.pkg && r.dctx == pctx && r.key == key && r.addr == q.va.toNat && r.size == n &&
        q.value.isNone && q.bad.isNone && s.answers.all fun a => a.req != r.req
    | .load _ _ _ _ _ | .store _ _ _ | .atomic _ _ _ _ _ _ _ | .clean _ | .own _ _ | .buf _ _ _ _ | .stk _ _ | .lock | .defer _ => false

/-- SNAPSHOT_READ: this package serves a snapshot read; one of another package comes through a port that is UP (R351). -/
def execSnapshotRead (r : SnapReq) (s : State) : Result :=
  if (r.spkg == s.pkg && !s.ownSnap r) || !s.pathFrom r.spkg || s.snapWaits r then .next s
  else
    let a := s.answerSnap r
    let s := if a.cause == 0x13 then s.logEngine r.dctx.toNat 0x13 1 0 else s
    let s := if a.cause == 0 then s.spanKeep r.dctx.toNat r.addr r.size else s
    .next { s with answers := s.answers ++ [a] }

/-- Raises the STAMP of a window (R164). -/
def Context.raiseStamp (x : Context) (win : BitVec 16) (h : BitVec 48) : Context :=
  { x with windows := x.windows.map fun p =>
      if p.1 == win.toNat && p.2.stamp < h then (p.1, { p.2 with stamp := h }) else p }

/-- Takes the first answer that equals another from a list. -/
def dropAnswer (r : SnapRsp) : List SnapRsp → List SnapRsp
  | [] => []
  | a :: l => if a == r then l else a :: dropAnswer r l

/-- SNAPSHOT_RESPONSE: a reply reaches its waiting load, with the value or a cause. -/
def execSnapshotResponse (r : SnapRsp) (s : State) : Result :=
  match s.req r.req with
  | none => .next s
  | some q =>
    match q.kind with
    | .snap _ n _ _ win peer _ _ =>
      if q.value.isSome || q.bad.isSome || !s.mayPlace q || (peer == s.pkg && !s.answers.contains r) || !s.pathFrom peer then .next s
      else
        let s := if peer == s.pkg then { s with answers := dropAnswer r s.answers } else s
        if r.cause != 0 then .next (s.modReq r.req fun q => { q with bad := some r.cause })
        else if r.data.length != n then .next s
        else .next ((s.modReq r.req fun q => { q with value := some r.data }).modCtx q.ctx fun x =>
          x.raiseStamp win r.stamp)
    | .load _ _ _ _ _ => .next s
    | .store _ _ _ => .next s
    | .atomic _ _ _ _ _ _ _ => .next s
    | .clean _ => .next s
    | .own _ _ => .next s
    | .buf _ _ _ _ => .next s
    | .stk _ _ | .lock | .defer _ => .next s

/-! ## Frozen windows (R165) -/

/-- Registers a range with a context of this package. -/
def State.registerRange (s : State) (c : Nat) (f : FrozenRange) : State :=
  s.modCtx c fun x => { x with frozen := f :: x.frozen.filter (· != f) }

/-- Removes the registrations of a window of a package's context from the next heat on. -/
def State.releaseRange (s : State) (c : Nat) (pkg : BitVec 20) (sctx : BitVec 6) (h : BitVec 16) : State :=
  s.modCtx c fun x => { x with frozen := x.frozen.map fun f =>
    if f.pkg == pkg && f.sctx == sctx && f.handle == h then { f with thawed := true } else f }

/-- The range that a window of a context of this package freezes. -/
def State.frozenBy (s : State) (c : Nat) (h : BitVec 16) (w : Window) : FrozenRange :=
  { pkg := s.pkg, sctx := BitVec.ofNat 6 c, handle := h, base := w.base.toNat, limit := w.limit.toNat, thawed := false }

/-- Sets FRZ of a window. -/
def Context.setFrz (x : Context) (h : Nat) (v : Bool) : Context :=
  { x with windows := x.windows.map fun p => if p.1 == h then (p.1, { p.2 with frz := v }) else p }

/-- Whether a window can be frozen: it is no alias window, whose FRZ is ignored. -/
def freezable (w : Window) : Bool := 1 ≤ w.kind.toNat && w.kind.toNat ≤ 3

/-- WINDOW_FREEZE: FRZ is set, and the range is registered with the peer, or a registration arrives. -/
def execWindowFreeze (f : Freeze) (s : State) : Result :=
  match f with
  | .own c h =>
    s.byRuntime (match (s.ctx c).window h.toNat with
    | none => .next s
    | some w =>
      if !freezable w then .next s
      else
        let s := s.modCtx c fun x => x.setFrz h.toNat true
        .next (if w.peer == s.pkg then s.registerRange w.pctx.toNat (s.frozenBy c h w) else s))
  | .inbound pkg k h c base limit =>
    .next (if s.pathFrom pkg then
      s.registerRange c { pkg := pkg, sctx := k, handle := h, base := base, limit := limit, thawed := false } else s)

/-- WINDOW_THAW: FRZ is cleared, and the registration ends with the heat. -/
def execWindowThaw (f : Freeze) (s : State) : Result :=
  match f with
  | .own c h =>
    s.byRuntime (match (s.ctx c).window h.toNat with
    | none => .next s
    | some w =>
      let s := s.modCtx c fun x => x.setFrz h.toNat false
      .next (if w.peer == s.pkg then s.releaseRange w.pctx.toNat s.pkg (BitVec.ofNat 6 c) h else s))
  | .inbound pkg k h c _ _ => .next (if s.pathFrom pkg then s.releaseRange c pkg k h else s)

end Sys2Proof.Machine
end

