-- ==== Sys2Proof/Machine/Lanes.lean ====
section
/-! DEFINITION. The meanings of class 0x4 (R237 to R246): each thread of the bundle arrives at an instance, and the
instances that then await nobody complete. -/

namespace Sys2Proof.Machine

/-- The guard that is always true (R179). -/
def always : Guard := { p := 7, neg := false }

/-- A thread's arrival: its mask with its own lane, and the sources it reads now (R238, R246). -/
def arrivalOf (s : State) (w : Who) (t : Thread) (g : Guard) (mask : Reg) (val : Reg) (p : BitVec 3) (src : Nat) :
    Arrival :=
  { who := w, lane := laneOf w, guard := t.guard g, mask := t.src mask ||| (1#32 <<< laneOf w), val := t.src val,
    pred := t.q p, src := src, since := s.tick }

/-- A thread arrives at the instance of its window and code address, opening it when none is open; it waits when
eight are open (R238). -/
def arriveAt (i : Instr) (make : State → Who → Thread → Arrival) : State → Site → Act :=
  withThread fun s x b t =>
    let a := make s x.who t
    let key (r : Rdv) : Bool := r.win == winOf x.who && r.pc == t.pc
    let joined (r : Rdv) : Rdv := if key r then { r with arrs := r.arrs ++ [a] } else r
    if b.rdvs.any key then
      .stall (s.modBlock x.blk fun b => { b with rdvs := b.rdvs.map joined }) .rendezvous
    else if (b.rdvs.filter fun r => r.win == winOf x.who).length < Config.openInstances then
      .stall (s.modBlock x.blk fun b =>
        { b with rdvs := b.rdvs ++ [{ win := winOf x.who, pc := t.pc, ins := i, arrs := [a] }] }) .rendezvous
    else .stall s .rdvSlot

/-- Issues a cross-lane instruction: all threads of the bundle arrive, whatever their guards, then what is complete
completes. -/
def State.meet (s : State) (i : Instr) (g : Guard) (make : State → Who → Thread → Arrival) : Result :=
  s.issueThen i g (arriveAt i make) fun s blk => s.completeRdvs blk

/-- `vote.all` (R241). -/
def execVoteAll (g : Guard) (d a : BitVec 3) (b : Reg) (s : State) : Result :=
  s.meet (.voteAll g d a b) g fun s w t => arrivalOf s w t g b b a 0

/-- `vote.any` (R241). -/
def execVoteAny (g : Guard) (d a : BitVec 3) (b : Reg) (s : State) : Result :=
  s.meet (.voteAny g d a b) g fun s w t => arrivalOf s w t g b b a 0

/-- `vote.bal` (R241). -/
def execVoteBal (g : Guard) (d : Reg) (a : BitVec 3) (b : Reg) (s : State) : Result :=
  s.meet (.voteBal g d a b) g fun s w t => arrivalOf s w t g b b a 0

/-- `shfl.idx` (R242). -/
def execShflIdx (g : Guard) (o : Shfl) (src : LaneSrc) (s : State) : Result :=
  s.meet (.shflIdx g o src) g fun s w t =>
    arrivalOf s w t g o.b o.a 7 (match src with
      | .reg r => (t.src r).toNat % 32
      | .lane l => l.toNat)

/-- `shfl.up` (R242). -/
def execShflUp (g : Guard) (o : Shfl) (n : BitVec 5) (s : State) : Result :=
  s.meet (.shflUp g o n) g fun s w t => arrivalOf s w t g o.b o.a 7 0

/-- `shfl.dn` (R242). -/
def execShflDn (g : Guard) (o : Shfl) (n : BitVec 5) (s : State) : Result :=
  s.meet (.shflDn g o n) g fun s w t => arrivalOf s w t g o.b o.a 7 0

/-- `shfl.xor` (R242). -/
def execShflXor (g : Guard) (o : Shfl) (n : BitVec 5) (s : State) : Result :=
  s.meet (.shflXor g o n) g fun s w t => arrivalOf s w t g o.b o.a 7 0

/-- `qx.h` (R242). -/
def execQxH (g : Guard) (o : Shfl) (s : State) : Result :=
  s.meet (.qxH g o) g fun s w t => arrivalOf s w t g o.b o.a 7 0

/-- `qx.v` (R242). -/
def execQxV (g : Guard) (o : Shfl) (s : State) : Result :=
  s.meet (.qxV g o) g fun s w t => arrivalOf s w t g o.b o.a 7 0

/-- `qx.d` (R242). -/
def execQxD (g : Guard) (o : Shfl) (s : State) : Result :=
  s.meet (.qxD g o) g fun s w t => arrivalOf s w t g o.b o.a 7 0

/-- `lred.add` (R243). -/
def execLredAdd (g : Guard) (o : LaneRed) (s : State) : Result :=
  s.meet (.lredAdd g o) g fun s w t => arrivalOf s w t g o.b o.a 7 0

/-- `lred.max` (R243). -/
def execLredMax (g : Guard) (o : LaneRed) (s : State) : Result :=
  s.meet (.lredMax g o) g fun s w t => arrivalOf s w t g o.b o.a 7 0

/-- `lred.min` (R243). -/
def execLredMin (g : Guard) (o : LaneRed) (s : State) : Result :=
  s.meet (.lredMin g o) g fun s w t => arrivalOf s w t g o.b o.a 7 0

/-- `lscan.add` (R244). -/
def execLscanAdd (g : Guard) (o : LaneRed) (s : State) : Result :=
  s.meet (.lscanAdd g o) g fun s w t => arrivalOf s w t g o.b o.a 7 0

/-- `match` (R245). -/
def execMatchLanes (g : Guard) (d a b : Reg) (s : State) : Result :=
  s.meet (.matchLanes g d a b) g fun s w t => arrivalOf s w t g b a 7 0

end Sys2Proof.Machine
end

