-- ==== Sys2Proof/Machine/Ports.lean ====
section
/-! DEFINITION. Port threads: their fetch and round robin (R325, R327), the fault that stops them (R343, R440), and the
operations of R341 and R342. An instruction that waits leaves its thread where it stands and issues again. -/

namespace Sys2Proof.Machine

/-! ## Threads of a binding -/

/-- A port thread at its entry (R327). -/
def PThread.start (n entry : Nat) : PThread :=
  { n := n, pc := entry, entry := entry, v := Vector.replicate 16 0, cp := none, stopped := false, bound := none,
    half := false }

/-- A register of a port thread. -/
def PThread.reg (t : PThread) (r : BitVec 4) : Word := vget t.v r.toNat 0

/-- A register a few after another. -/
def PThread.regPlus (t : PThread) (r : BitVec 4) (k : Nat) : Word := vget t.v (r.toNat + k) 0

/-- Writes a register. -/
def PThread.setReg (t : PThread) (r : BitVec 4) (x : Word) : PThread := { t with v := vset t.v r.toNat x }

/-- The slot number in a register (R326, R341). -/
def PThread.slotNo (t : PThread) (r : BitVec 4) : Nat := (t.reg r).toNat % 4096

/-- Changes a slot of a binding. -/
def State.modSlot (s : State) (x : PSite) (i : Nat) (f : Slot → Slot) : State :=
  s.modBinding x.bind fun b => { b with slots := lmod b.slots i f }

/-- What an operation does: the thread passes on, jumps, waits, or stops with 0x1C. -/
inductive PAct where
  | done (s : State)
  | jump (s : State) (pc : Nat)
  | waits (s : State)
  | stop

/-! ## Issue -/

/-- Fetches the word of a port thread. A PC past the program, or a word that names no operation, stops the thread. -/
def State.fetchPort (s : State) (i k : Nat) : State × Option Instr :=
  let halt : State × Option Instr := (({ s with cur := none }).stopPort ⟨i, k⟩, none)
  match s.bindings[i]? with
  | none => ({ s with cur := none }, none)
  | some b =>
    match b.threads[k]? with
    | none => ({ s with cur := none }, none)
    | some t =>
      match b.words[t.pc]? with
      | none => halt
      | some w =>
        match decodePort w with
        | .ok i => (s, some i)
        | .error _ => halt

/-- Threads of an engine that have not stopped: the binding, its place there and its number. Firmware has no words: its
programs run when a packet arrives (R327). -/
def State.portThreads (s : State) (engine : Nat) : List (PSite × Nat) :=
  (s.bindings.zipIdx.filter fun (p : Binding × Nat) => p.1.engine == engine && 4 < p.1.prog).flatMap fun p =>
    (p.1.threads.zipIdx.filter fun (q : PThread × Nat) => !q.1.stopped).map fun q => (⟨p.2, q.2⟩, q.1.n)

/-- A port engine takes its next thread in round robin (R325). -/
def State.selectPort (s : State) (engine : Nat) : State :=
  let from_ := vget s.robin engine 0
  let d (n : Nat) : Nat := (n + 8 - from_) % 8
  let best := (s.portThreads engine).foldl (fun (acc : Option (PSite × Nat)) p =>
    match acc with
    | none => some p
    | some a => if d p.2 < d a.2 then some p else some a) none
  match best with
  | none => s
  | some p => { s with robin := vset s.robin engine ((p.2 + 1) % 8), cur := some (.port p.1.bind p.1.thr) }

/-- Issues an operation in the port thread that holds the slot; without one it does nothing. -/
def State.portIssue (s : State) (f : State → PSite → Binding → PThread → PAct) : Result :=
  match s.cur with
  | some (.port i k) =>
    let s := { s with cur := none }
    let x : PSite := ⟨i, k⟩
    match s.bindings[i]? with
    | none => .next s
    | some b =>
      match b.threads[k]? with
      | none => .next s
      | some t =>
        match f s x b t with
        | .done s => .next (s.modPort x fun t => { t with pc := t.pc + 1 })
        | .jump s pc => .next (s.modPort x fun t => { t with pc := pc })
        | .waits s => .next s
        | .stop => .next (s.stopPort x)
  | some (.bundle _ _) => .next s
  | some (.control _) => .next s
  | none => .next s

/-- An operation that only changes the thread. -/
def State.portPlain (s : State) (f : PThread → PThread) : Result :=
  s.portIssue fun s x _ _ => .done (s.modPort x f)

/-! ## Packets of a binding -/

/-- Whether an inbound packet is for a binding. -/
def State.routed (s : State) (b : Binding) (p : Packet) : Bool :=
  p.dctx.toNat == b.ctx && ((s.ctx b.ctx).coll p.coll.toNat).any fun r => r.prog == b.prog

/-- The SLOT and ROUND of a packet in one word (R341). -/
def packetSlotWord (p : Packet) : Word := p.round ++ (BitVec.ofNat 16 p.slot.toNat)

/-- Binds a packet as CP and writes the four registers of `match` (R341). -/
def PThread.takePacket (t : PThread) (b : Binding) (d : BitVec 4) (p : Packet) : PThread :=
  let v := vset t.v d.toNat ((BitVec.ofNat 16 p.type.toNat) ++ p.coll)
  let v := vset v (d.toNat + 1) p.chunk
  let v := vset v (d.toNat + 2) (p.srank.setWidth 32)
  let v := vset v (d.toNat + 3) (packetSlotWord p)
  { t with v := v, cp := some p, bound := some (p.coll.toNat, b.roundOf p.coll.toNat) }

/-- Removes the first element that meets a condition. -/
def dropFirst {α : Type} (p : α → Bool) : List α → List α
  | [] => []
  | x :: xs => if p x then xs else x :: dropFirst p xs

/-- The header that the four registers from vB name (R341). -/
def PThread.header (t : PThread) (b : BitVec 4) : Packet :=
  let h0 := t.reg b
  let h1 := t.regPlus b 1
  let h3 := t.regPlus b 3
  { Packet.blank with
    type := h0.extractLsb' 0 4, last := h0.getLsbD 8, bf := h0.getLsbD 9, wrd := h0.getLsbD 10,
    coll := h1.extractLsb' 0 16, dctx := h1.extractLsb' 16 6, chunk := t.regPlus b 2, slot := h3.extractLsb' 0 12,
    round := h3.extractLsb' 16 16,
    resv := h0.extractLsb' 11 5 != 0 || h1.extractLsb' 22 10 != 0 }

/-- Whether a member index lies in the collective that a header names (R343). -/
def State.inRanks (s : State) (c : Nat) (p : Packet) (i : Nat) : Bool :=
  ((s.ctx c).coll p.coll.toNat).any fun r => i < r.nrank

/-- The grant of a row that a program sends is kept until the row is acknowledged (R346). -/
def State.noteGrant (s : State) (b : Binding) (p : Packet) (i : Nat) : State :=
  let coll := p.coll.toNat
  let g : RowGrant := { coll := coll, round := b.roundOf coll, rank := i, token := p.chunk.toNat,
                        row := p.slot.toNat + p.round.toNat * 65536 }
  { s with bindings := s.bindings.map fun k =>
      if k.ctx == b.ctx && k.prog == b.prog && p.type == 7 then { k with fgrants := k.fgrants ++ [g] } else k }

/-- Sends a packet of a port thread to a member, with the context that the header names; a member list that cannot be
read fails the round. -/
def State.portSend (s : State) (b : Binding) (p : Packet) (i : Nat) : State :=
  match (s.ctx b.ctx).coll p.coll.toNat with
  | none => s
  | some r =>
    match s.member b.ctx r i with
    | .ok w => (s.noteGrant b p i).sendAs b.ctx r w p
    | .error e => s.readFails b.ctx p.coll.toNat (b.roundOf p.coll.toNat) e

/-- Whether the member list that a send of a port thread reads has a line that cannot be reached: the send waits (R443). -/
def State.sendHeld (s : State) (c : Nat) (p : Packet) : Bool := ((s.ctx c).coll p.coll.toNat).any (s.membShut c)

/-- The collective of a binding's context that a register names: an index of 65,536 or more names none (R341). -/
def State.collAt (s : State) (b : Binding) (v : Word) : Option CollRec := (s.ctx b.ctx).coll v.toNat

/-! ## The operations -/

/-- `nop`. -/
def execMcfNop (s : State) : Result := s.portIssue fun s _ _ _ => .done s

/-- `match`: a CP that is held is discarded first. -/
def execMcfMatch (d ty : BitVec 4) (s : State) : Result :=
  s.portIssue fun s x b _ =>
    let s := s.modPort x fun t => { t with cp := none }
    let mine (p : Packet) : Bool := s.routed b p && p.type == ty
    match (vget s.inq b.engine []).find? mine with
    | none => .waits s
    | some p => .done ({ s with inq := vmod s.inq b.engine (dropFirst mine) }.modPort x fun t => t.takePacket b d p)

/-- `lookup`: a word of a collective record. -/
def execMcfLookup (d a w : BitVec 4) (s : State) : Result :=
  s.portIssue fun s x b t =>
    let v : Word := match s.collAt b (t.reg a) with
      | some r => r.word w.toNat
      | none => 0xFFFFFFFF
    .done (s.modPort x fun t => t.setReg d v)

/-- `lookup.m`: a member word. A list that cannot be read fails the round (R405). -/
def execMcfLookupM (d a i : BitVec 4) (s : State) : Result :=
  s.portIssue fun s x b t =>
    let c := (t.reg a).toNat
    let put (s : State) (v : Word) : PAct := .done (s.modPort x fun t => t.setReg d v)
    match s.collAt b (t.reg a) with
    | none => put s 0xFFFFFFFF
    | some r =>
      if s.membShut b.ctx r then .waits s
      else match s.member b.ctx r (t.reg i).toNat with
        | .ok w => put s w
        | .error e => put (if (t.reg i).toNat < r.nrank then s.readFails b.ctx c (b.roundOf c) e else s) 0xFFFFFFFF

/-- `hold`: CP's data goes into an EMPTY slot. -/
def execMcfHold (a : BitVec 4) (s : State) : Result :=
  s.portIssue fun s x b t =>
    match t.cp, b.slots[t.slotNo a]? with
    | some p, some k =>
      if k.full then .stop
      else .done ((s.modSlot x (t.slotNo a) fun k => k.fill p.form p.data).modPort x fun t => { t with cp := none })
    | _, _ => .stop

/-- `comb`. -/
def execMcfComb (d a b op : BitVec 4) (s : State) : Result :=
  s.portIssue fun s x k t =>
    let i := t.slotNo a
    let j := t.slotNo b
    let n := t.slotNo d
    match k.slots[i]?, k.slots[j]?, k.slots[n]? with
    | some l, some r, some old =>
      if !combOk op.toNat l r then .stop
      else
        let s := s.modSlot x i fun y => { y with full := false }
        let s := s.modSlot x j fun y => { y with full := false }
        let s := s.modSlot x n fun _ => combSlot op.toNat l r old
        .done (s.logComb k.ctx (combAll op.toNat l r) (BitVec.ofNat 64 (k.engine * 65536 + t.pc)))
    | _, _, _ => .stop

/-- `wait`: until one slot has been FULL, then until the other is. -/
def execMcfWait (a b : BitVec 4) (s : State) : Result :=
  s.portIssue fun s x k t =>
    match k.slots[t.slotNo a]?, k.slots[t.slotNo b]? with
    | some l, some r =>
      if !t.half && !l.full then .waits s
      else if r.full then .done (s.modPort x fun t => { t with half := false })
      else .waits (s.modPort x fun t => { t with half := true })
    | _, _ => .stop

/-- `fwd`: the slot's data goes to one member. -/
def execMcfFwd (d a b : BitVec 4) (keep : Bool) (s : State) : Result :=
  s.portIssue fun s x k t =>
    match k.slots[t.slotNo d]? with
    | none => .stop
    | some y =>
      let p := { t.header b with data := y.bytes.take y.len }
      if !y.full || !s.inRanks k.ctx p (t.reg a).toNat then .stop
      else if s.sendHeld k.ctx p then .waits s
      else .done ((s.portSend k p (t.reg a).toNat).modSlot x (t.slotNo d) fun y => { y with full := keep })

/-- `repl`: the slot's data goes to the members that the words of a slot name. -/
def execMcfRepl (d a b : BitVec 4) (keep : Bool) (n : BitVec 6) (s : State) : Result :=
  s.portIssue fun s x k t =>
    match k.slots[t.slotNo d]?, k.slots[t.slotNo a]? with
    | some y, some l =>
      let p := { t.header b with data := y.bytes.take y.len }
      let ms := byteElems 4 (n.toNat + 1) l.bytes
      if !y.full || ms.any (fun i => !s.inRanks k.ctx p i) then .stop
      else if s.sendHeld k.ctx p then .waits s
      else .done ((ms.foldl (fun s i => s.portSend k p i) s).modSlot x (t.slotNo d) fun y => { y with full := keep })
    | _, _ => .stop

/-- `emit`: the slot's bytes are written in the round of the packet bound last. -/
def execMcfEmit (d a : BitVec 4) (rnd : Bool) (s : State) : Result :=
  s.portIssue fun s _ k t =>
    match k.slots[t.slotNo d]?, t.bound with
    | some y, some (coll, round) =>
      if !y.full || (rnd && y.form != .f) then .stop
      else
        let s := s.logComb k.ctx (emitCauses y rnd) (BitVec.ofNat 64 (k.engine * 65536 + t.pc))
        .done (s.emitTo k.ctx coll round (joinPair (t.reg a) (t.regPlus a 1)).toNat (emitBytes y rnd))
    | _, _ => .stop

/-- `barup`. -/
def execMcfBarup (a b : BitVec 4) (s : State) : Result :=
  s.portIssue fun s x k t =>
    match s.collAt k (t.reg a) with
    | some r => .done (s.barup x.bind k.ctx (t.reg a).toNat r ((t.reg b).extractLsb' 0 8))
    | none => .done s

/-- The DISPATCH collective that a binding serves. -/
def State.dispatchOf (s : State) (b : Binding) : Option Nat := ((s.served b).find? fun p => p.2.ctype == 3).map (·.1)

/-- `grant`: rows of a counter pair; the rows granted are counted for the completion word (R384). -/
def execMcfGrant (d a b : BitVec 4) (s : State) : Result :=
  s.portIssue fun s x k t =>
    let j := (t.reg a).toNat % 128
    let n := (t.reg b).toNat
    if k.ctrs.length ≤ 2 * j + 1 then .stop
    else if !k.capDue.isEmpty then .waits s
    else match grantRow k.ctrs j n with
      | (some row, ctrs) =>
        let s := s.modBinding x.bind fun k => { k with ctrs := ctrs }
        let s := match s.dispatchOf k with
          | some c => s.modRound k.ctx c (k.roundOf c) fun r => { r with granted := r.granted + n }
          | none => s
        .done (s.modPort x fun t => t.setReg d (BitVec.ofNat 32 row))
      | (none, _) => .done (s.modPort x fun t => t.setReg d 0xFFFFFFFF)

/-- `nack`: a NACK without data goes to a member; a CP must be held. -/
def execMcfNack (a b : BitVec 4) (s : State) : Result :=
  s.portIssue fun s _ k t =>
    let p := { t.header b with type := 8 }
    if t.cp.isNone || !s.inRanks k.ctx p (t.reg a).toNat then .stop
    else if s.sendHeld k.ctx p then .waits s
    else .done (s.portSend k p (t.reg a).toNat)

/-- `cnt`: reads a counter, and sets it or adds to it. -/
def execMcfCnt (d a b : BitVec 4) (set : Bool) (s : State) : Result :=
  s.portIssue fun s x k t =>
    let i := (t.reg a).toNat % 256
    match k.ctrs[i]? with
    | none => .stop
    | some old =>
      if !k.capDue.isEmpty then .waits s else
      let v := if set then t.reg b else old + t.reg b
      .done ((s.modBinding x.bind fun k => { k with ctrs := lmod k.ctrs i fun _ => v }).modPort x fun t => t.setReg d old)

/-- A jump within the program; beyond it the thread stops (R343). -/
def portJump (s : State) (k : Binding) (i : BitVec 14) : PAct :=
  if i.toNat < k.words.length then .jump s i.toNat else .stop

/-- `jmp`. -/
def execMcfJmp (i : BitVec 14) (s : State) : Result := s.portIssue fun s _ k _ => portJump s k i

/-- `jz`. -/
def execMcfJz (a : BitVec 4) (i : BitVec 14) (s : State) : Result :=
  s.portIssue fun s _ k t => if t.reg a = 0 then portJump s k i else .done s

/-- `jnz`. -/
def execMcfJnz (a : BitVec 4) (i : BitVec 14) (s : State) : Result :=
  s.portIssue fun s _ k t => if t.reg a = 0 then .done s else portJump s k i

/-- `set`. -/
def execMcfSet (d : BitVec 4) (i : BitVec 18) (s : State) : Result := s.portPlain fun t => t.setReg d (i.setWidth 32)

/-- `set.hi`. -/
def execMcfSetHi (d : BitVec 4) (i : BitVec 14) (s : State) : Result :=
  s.portPlain fun t => t.setReg d (i ++ (t.reg d).extractLsb' 0 18)

/-- `add` of two registers and a constant. -/
def execMcfAdd (d a b : BitVec 4) (i : BitVec 13) (s : State) : Result :=
  s.portPlain fun t => t.setReg d (t.reg a + t.reg b + i.signExtend 32)

/-- `add` of a register and a constant. -/
def execMcfAddImm (d a : BitVec 4) (i : BitVec 13) (s : State) : Result :=
  s.portPlain fun t => t.setReg d (t.reg a + i.signExtend 32)

/-- `ld`: a word of a slot, whatever its state. -/
def execMcfLd (d a : BitVec 4) (w : BitVec 6) (s : State) : Result :=
  s.portIssue fun s x k t =>
    match k.slots[t.slotNo a]? with
    | none => .stop
    | some y =>
      .done (s.modPort x fun t => t.setReg d (BitVec.ofNat 32 (leNat ((y.bytes.drop (4 * w.toNat)).take 4))))

/-- `st`: writes a word of a slot; its state and LEN stay. -/
def execMcfSt (d a : BitVec 4) (w : BitVec 6) (s : State) : Result :=
  s.portIssue fun s x k t =>
    match k.slots[t.slotNo a]? with
    | none => .stop
    | some _ =>
      .done (s.modSlot x (t.slotNo a) fun y =>
        { y with bytes := y.bytes.take (4 * w.toNat) ++ leBytes 4 (t.reg d).toNat ++ y.bytes.drop (4 * w.toNat + 4) })

/-- `order`: CP, a REQ or an EOL, joins an order queue; a full queue makes the thread wait. -/
def execMcfOrder (a : BitVec 4) (s : State) : Result :=
  s.portIssue fun s x k t =>
    let q := (t.reg a).toNat % 16
    match t.cp, k.oqs[q]? with
    | some p, some l =>
      if p.type != 6 && p.type != 9 then .stop
      else if Config.orderQueue ≤ (l.filter fun (e : OqEnt) => !e.taken).length then .waits s
      else
        .done ((s.modBinding x.bind fun k =>
          { k with oqs := lmod k.oqs q fun l => l ++ [({ pkt := p, taken := false } : OqEnt)] }).modPort x fun t =>
            { t with cp := none })
    | _, _ => .stop

/-- Whether an entry belongs to the round its binding is in (R382). -/
def Binding.current (b : Binding) (e : OqEnt) : Bool :=
  e.pkt.round.toNat == b.roundOf e.pkt.coll.toNat % 65536

/-- The REQ that a drain takes: the smallest source package, then token. -/
def firstReq (l : List OqEnt) : Option OqEnt := (sortBy reqBefore (l.filter (·.req))).head?

/-- Marks the first entry of a packet as taken. -/
def markTaken (p : Packet) : List OqEnt → List OqEnt
  | [] => []
  | e :: es => if !e.taken && e.pkt == p then { e with taken := true } :: es else e :: markTaken p es

/-- `drain` (R342, R382): a CP that is held is discarded first. -/
def execMcfDrain (d a b : BitVec 4) (s : State) : Result :=
  s.portIssue fun s x k t =>
    let q := (t.reg a).toNat % 16
    match k.oqs[q]? with
    | none => .stop
    | some l =>
      let s := s.modPort x fun t => { t with cp := none }
      let disp := (s.dispatchOf k).isSome
      let mine := l.filter fun e => k.current e || (!disp && !e.eol)
      if !eolsIn mine disp (t.reg b).toNat then .waits s
      else match firstReq mine with
        | some e =>
          .done ((s.modBinding x.bind fun k => { k with oqs := lmod k.oqs q (markTaken e.pkt) }).modPort x fun t =>
            t.takePacket k d e.pkt)
        | none =>
          .done ((s.modBinding x.bind fun k => { k with oqs := lmod k.oqs q fun l => l.filter fun e => !k.current e }).modPort
            x fun t => t.setReg d 0xFFFFFFFF)

/-- `log`. -/
def execMcfLog (a : BitVec 4) (cause : BitVec 8) (s : State) : Result :=
  s.portIssue fun s _ k t =>
    .done (s.logEngine k.ctx cause ((t.reg a).toNat % 65536) (BitVec.ofNat 64 (k.engine * 65536 + t.pc)))

/-- `end`: the thread goes back to its entry without a CP. -/
def execMcfEnd (s : State) : Result :=
  s.portIssue fun s x _ t => .jump (s.modPort x fun t => { t with cp := none }) t.entry

end Sys2Proof.Machine
end

