-- ==== Sys2Proof/Machine/PortEvents.lean ====
section
/-! DEFINITION. The events of port engines and collectives: binding and unbinding a program (R327, R383, R442), packets that
arrive (R329, R381), acknowledged rows (R346), the completion of a round (R338, R384) and its time limit (R441). -/

namespace Sys2Proof.Machine

/-! ## Binding (R327) -/

/-- Whether two runs share no number. -/
def apart (a n b m : Nat) : Bool := n = 0 || m = 0 || a + n ≤ b || b + m ≤ a

/-- Whether a binding asked for is apart from one that the engine holds. -/
def Binding.apartFrom (k : Binding) (b : BindReq) : Bool :=
  !(k.ctx == b.ctx && k.prog == b.prog) &&
    (k.engine != b.engine ||
      (apart k.slotBase k.slots.length b.slotBase b.slotN && apart k.ctrBase k.ctrs.length b.ctrBase b.ctrN &&
        apart k.oqBase k.oqs.length b.oqBase b.oqN &&
        k.threads.all fun t => b.entries.all fun e => e.1 != t.n))

/-- Whether every word of a program is one that a thread does not stop at by itself (R343). -/
def programOk (ws : List Word) : Bool :=
  ws.all fun w =>
    match decodePort w with
    | .ok (.mcfJmp i) => i.toNat < ws.length
    | .ok (.mcfJz _ i) => i.toNat < ws.length
    | .ok (.mcfJnz _ i) => i.toNat < ws.length
    | .ok _ => true
    | .error _ => false

/-- Words of an engine's program store that are taken: firmware programs are not held in it. -/
def State.storeUsed (s : State) (engine : Nat) : Nat :=
  (s.bindings.filter fun k => k.engine == engine && 4 < k.prog).foldl (fun n k => n + k.words.length) 0

/-- Whether the runtime may bind a program as asked (R324, R327, R343). -/
def State.bindable (s : State) (b : BindReq) : Bool :=
  let firm : Bool := 1 ≤ b.prog && b.prog ≤ 4
  let disp := (s.ctx b.ctx).colls.any fun p => ((s.ctx b.ctx).coll p.1).any fun r => r.prog == b.prog && r.ctype == 3
  b.ctx < Config.contexts && 1 ≤ b.prog && b.prog ≤ 63 && b.engine < Config.engines &&
    1 ≤ b.entries.length && b.entries.length ≤ 8 && (b.entries.all fun e => e.1 < 8) &&
    (b.entries.map (·.1)).eraseDups.length == b.entries.length &&
    (firm || (s.storeUsed b.engine + b.words.length ≤ Config.programStore && programOk b.words &&
      b.entries.all fun e => e.2 < b.words.length)) &&
    b.slotBase + b.slotN ≤ 4096 && b.ctrBase + b.ctrN ≤ 256 && b.oqBase + b.oqN ≤ 16 && (!disp || b.ctrN == 256) &&
    s.bindings.all fun k => k.apartFrom b

/-- The binding made: its slots EMPTY, its counters 0, its queues empty (R326), its threads at their entries. -/
def BindReq.make (b : BindReq) : Binding :=
  { ctx := b.ctx, prog := b.prog, engine := b.engine, words := b.words,
    threads := b.entries.map fun e => PThread.start e.1 e.2,
    slotBase := b.slotBase,
    slots := List.replicate b.slotN { full := false, form := .f, bytes := List.replicate 256 0, len := 0 },
    ctrBase := b.ctrBase, ctrs := List.replicate b.ctrN 0, oqBase := b.oqBase, oqs := List.replicate b.oqN [],
    rounds := [], tree := [], fqueue := [], fgrants := [], capDue := [] }

/-- The runtime binds a program: contributions collected and not sent are discarded, counters are loaded, and alias stores
that waited belong to round 0 (R383, R442). A request that the rules of R327 exclude does nothing. -/
def execProgramBind (b : BindReq) (s : State) : Result :=
  s.byRuntime (
    if !s.bindable b then .next s
    else
      let i := s.bindings.length
      let k := BindReq.make b
      let s := { s with bindings := s.bindings ++ [k] }
      let colls := s.served k
      let s := { s with contribs := s.contribs.filter fun (x : Contrib) =>
        !(x.ctx == b.ctx && colls.any fun p => p.1 == x.coll) }
      let s := colls.foldl (fun s p => if p.2.ctype = 3 then s.loadCapacity i b.ctx p.1 p.2 0 else s) s
      .next (colls.foldl (fun s p => s.resumeAlias b.ctx p.1 p.2) s))

/-- The runtime unbinds a program: its rounds, its requests and its inbound packets end, and so do the packets that the package
has sent to itself for it: nothing of them reaches a later binding (R442). -/
def execProgramUnbind (ctx prog : Nat) (s : State) : Result :=
  s.byRuntime (
    match s.bindingOf ctx prog with
    | none => .next s
    | some (i, b) =>
      let colls := (s.served b).map (·.1)
      let mine (c k : Nat) : Bool := c == ctx && colls.contains k
      .next { s with
        bindings := s.bindings.eraseIdx i
        rounds := s.rounds.filter fun (x : Round) => !mine x.ctx x.coll
        contribs := s.contribs.filter fun (x : Contrib) => !mine x.ctx x.coll
        dreqs := s.dreqs.filter fun (x : DReq) => !mine x.ctx x.coll
        outbox := s.outbox.filter fun (o : OutPkt) => !(o.dst == s.pkg && s.routed b o.pkt)
        rowAcks := s.rowAcks.filter fun (a : RowAck) => !(a.dst == s.pkg && mine a.ctx a.coll)
        inq := vmod s.inq b.engine fun l => l.filter fun (p : Packet) => !s.routed b p })

/-! ## Packets that arrive (R328, R329) -/

/-- A packet that the package sent to itself leaves the outbox when it arrives. -/
def State.leaveOutbox (s : State) (p : Packet) : State :=
  if p.spkg == s.pkg then
    { s with outbox := dropFirst (fun (o : OutPkt) => o.dst == s.pkg && o.pkt == p) s.outbox }
  else s

/-- Whether a packet can arrive: one from another package needs a port that is UP (R351). -/
def State.reaches (s : State) (p : Packet) : Bool := s.pathFrom p.spkg

/-- PACKET_RECEIVE: a packet arrives; one that its full inbound queue withholds does not. -/
def execPacketReceive (p : Packet) (s : State) : Result :=
  if !s.reaches p then .next s
  else match s.arrive p with
    | (t, true) => .next (t.leaveOutbox p)
    | (_, false) => .next s

/-- Whether an answer goes to the source side of a dispatch: those of any other collective go to its home engine (R341). -/
def State.forSource (s : State) (p : Packet) : Bool :=
  (((s.ctx p.dctx.toNat).coll p.coll.toNat).any fun r => r.ctype == 3) && s.reaches p && !s.packetHeld p

/-- GRANT_RECEIVE: a GRANT reaches the source side of a dispatch. -/
def execGrantReceive (p : Packet) (s : State) : Result :=
  if p.type != 7 || !s.forSource p then .next s
  else match s.discards p with
    | some _ => .next s
    | none => .next ((s.grantIn p).leaveOutbox p)

/-- NACK_RECEIVE: a NACK reaches the source side of a dispatch. -/
def execNackReceive (p : Packet) (s : State) : Result :=
  if p.type != 8 || !s.forSource p then .next s
  else match s.discards p with
    | some _ => .next s
    | none => .next ((s.nackIn p).leaveOutbox p)

/-- Whether the rows this package sends itself have been written (R346, step 5). -/
def State.rowHere (s : State) (q : DReq) (r : CollRec) : Bool :=
  match q.row, s.round q.ctx q.coll q.round with
  | some row, some x => s.settled q.ctx && emitted x.emits (r.dst + row * r.nbytes) r.nbytes
  | some _, none => true
  | none, _ => false

/-- ROW_ACK: a destination acknowledges a row to its source, whose request ends. The acknowledgement of another package needs a
port that is UP (R351). -/
def execRowAck (ctx : Nat) (coll : BitVec 16) (round : BitVec 16) (rank token : Nat) (s : State) : Result :=
  match (s.ctx ctx).coll coll.toNat with
  | none => .next s
  | some r =>
    let mine (q : DReq) : Bool :=
      q.ctx == ctx && q.coll == coll.toNat && q.round % 65536 == round.toNat && q.rank == rank && q.token == token &&
        q.row.isSome
    match s.dreqs.find? mine with
    | none => .next s
    | some q => if (if rank = r.myrank then !s.rowHere q r else !s.hasPath) then .next s else .next { s with dreqs := dropFirst mine s.dreqs }

/-! ## The completion of a round -/

/-- ALIAS_RESUME, a step of the model's own: the alias stores of a collective that nothing holds any more go on. -/
def State.aliasMove (s : State) (c coll : Nat) : State :=
  match (s.ctx c).coll coll with
  | some r => s.resumeAlias c coll r
  | none => s

/-- ROW_WRITTEN, a step of the model's own: the rows of a round whose writes are acknowledged are acknowledged to their sources. -/
def State.rowsWritten (s : State) (c coll round : Nat) : State := s.ackRows c coll round

/-- CAPACITY_LOAD, a step of the model's own: a capacity table that could not be reached is read, and a firmware binding goes on
with its requests. -/
def State.capacityDue (s : State) (i : Nat) : State :=
  match s.bindings[i]? with
  | none => s
  | some b =>
    match b.capDue.find? fun p => ((s.ctx b.ctx).coll p.1).any fun r => !s.areaShut b.ctx r.inbase 1024 with
    | none => s
    | some p =>
      match (s.ctx b.ctx).coll p.1 with
      | none => s
      | some r =>
        let s := s.readCapacity i b.ctx p.1 r p.2
        if b.prog = 4 then s.firmDrain i b.ctx p.1 r else s

/-- ROUND_COMPLETE: the earliest round whose `barup` is in completes once its source side has ended. -/
def execRoundComplete (ctx : Nat) (coll : BitVec 16) (s : State) : Result :=
  match (s.ctx ctx).coll coll.toNat, s.dueRound ctx coll.toNat with
  | some r, some x => .next (if s.roundReady r x then s.completeRound ctx coll.toNat r x else s)
  | _, _ => .next s

/-- Whether the time limit of a round has passed (R441). -/
def State.roundLate (s : State) (x : Round) : Bool :=
  let n := (s.ctx x.ctx).ctmo
  n != 0 && x.begun.any fun b => b + 2 ^ n * Config.msTicks ≤ s.tick

/-- A round that has not completed ends with 0x1D as its failure, unless it has one (R359, R441): its binding goes on to the
next round, the requests of its source side end, and it completes when the stagger has passed (R363). -/
def State.expireRound (s : State) (c coll : Nat) (r : CollRec) (round : Nat) : State :=
  let now := s.tick
  let s := (s.failRound c coll round 0x1D).modRound c coll round fun x =>
    { x with ended := true, upAt := if x.barup.isSome then x.upAt else now, barup := some (x.barup.getD 0x1D) }
  let s := match s.bindingOf c r.prog with
    | some (i, b) =>
      if round < b.roundOf coll then s
      else
        let s := s.modBinding i fun b => b.setRound coll (round + 1)
        if r.ctype = 3 then s.loadCapacity i c coll r (round + 1) else s
    | none => s
  let s := { s with dreqs := s.dreqs.filter fun (q : DReq) => !(q.ctx == c && q.coll == coll && q.round == round) }
  match s.round c coll round with
  | some x => if s.roundReady r x then s.completeRound c coll r x else s
  | none => s

/-- COLLECTIVE_TIMEOUT: the earliest late round completes with 0x1D. -/
def execCollectiveTimeout (ctx : Nat) (coll : BitVec 16) (s : State) : Result :=
  let c := coll.toNat
  let late := (s.rounds.filter fun (x : Round) => x.ctx == ctx && x.coll == c && !x.ended && s.roundLate x).foldl
    (fun (a : Option Round) x => match a with
      | none => some x
      | some y => if x.round < y.round then some x else some y) none
  match (s.ctx ctx).coll c, late with
  | some r, some x => .next (s.expireRound ctx c r x.round)
  | _, _ => .next s

end Sys2Proof.Machine
end

