-- ==== Sys2Proof/Machine/Sha3.lean ====
section
/-! DEFINITION. SHA3-256, which R305, R307, R327 and R350 name. PRESUMED: the function is that of FIPS 202; the spec
states no part of it. The state is five rows of five words; the constants are computed as that standard defines them. -/

namespace Sys2Proof.Machine

/-- Words that stand side by side. -/
abbrev Row := List DWord

/-! ## Constants -/

/-- One step of the shift register that gives the round constants: its polynomial is x^8 + x^6 + x^5 + x^4 + 1. -/
def shiftStep (r : Nat) : Nat := if r < 128 then 2 * r else Nat.xor (2 * r) 0x171

/-- The next bits that the shift register gives. -/
def shiftBits : Nat → Nat → List Nat
  | 0, _ => []
  | n + 1, r => r % 2 :: shiftBits n (shiftStep r)

/-- The constant of a round: bit j of its seven bits stands at place 2^j - 1. -/
def sevenBits (b : List Nat) : DWord := BitVec.ofNat 64 (b.zipIdx.foldl (fun n p => n + p.1 * 2 ^ (2 ^ p.2 - 1)) 0)

/-- The constants of rounds, from a state of the shift register on. -/
def roundWords : Nat → List Nat → List DWord
  | 0, _ => []
  | n + 1, b => sevenBits (b.take 7) :: roundWords n (b.drop 7)

/-- The places that the walk through the rows visits after the corner, each with its rotation: step t turns a word by
(t + 1) (t + 2) / 2. -/
def turnWalk : Nat → Nat → Nat → Nat → List ((Nat × Nat) × Nat)
  | 0, _, _, _ => []
  | n + 1, t, x, y => ((x, y), (t + 1) * (t + 2) / 2 % 64) :: turnWalk n (t + 1) y ((2 * x + 3 * y) % 5)

/-- The rotation of the word at a place. -/
def turnOf (x y : Nat) : Nat := ((turnWalk 24 0 1 0).lookup (x, y)).getD 0

/-! ## The permutation -/

/-- A list turned left by some places. -/
def turned {α : Type} (n : Nat) (l : List α) : List α := l.drop n ++ l.take n

/-- Two rows combined bit by bit. -/
def xorRow (a b : Row) : Row := a.zipWith (fun x y => x ^^^ y) b

/-- Every row takes in the parities of the columns beside it. -/
def mixColumns (rows : List Row) : List Row :=
  let c := rows.foldl xorRow (List.replicate 5 0)
  let d := xorRow (turned 4 c) ((turned 1 c).map fun w => w.rotateLeft 1)
  rows.map (xorRow d)

/-- The words are turned and change places. -/
def moveWords (rows : List Row) : List Row :=
  (List.range 5).map fun y => (List.range 5).map fun x =>
    let k := (x + 3 * y) % 5
    ((rows.getD x []).getD k 0).rotateLeft (turnOf k x)

/-- Every word of a row takes in its two neighbours. -/
def mixRow (r : Row) : Row := xorRow r ((turned 1 r).zipWith (fun x y => ~~~x &&& y) (turned 2 r))

/-- The corner takes in the constant of the round. -/
def markCorner (w : DWord) : List Row → List Row
  | (x :: xs) :: rows => ((x ^^^ w) :: xs) :: rows
  | rows => rows

/-- The permutation of FIPS 202: 24 rounds. -/
def permuteRows (rows : List Row) : List Row :=
  (roundWords 24 (shiftBits 168 1)).foldl (fun a w => markCorner w ((moveWords (mixColumns a)).map mixRow)) rows

/-! ## The digest -/

/-- The rows of a block of 136 bytes: 17 words, then words of 0. -/
def blockRows (bs : List Byte) : List Row :=
  (List.range 5).map fun y => (List.range 5).map fun x =>
    let i := 5 * y + x
    if i < 17 then BitVec.ofNat 64 (leNat ((bs.drop (8 * i)).take 8)) else 0

/-- Takes in some blocks, one after another. -/
def takeBlocks : Nat → List Byte → List Row → List Row
  | 0, _, rows => rows
  | n + 1, bs, rows => takeBlocks n (bs.drop 136) (permuteRows (rows.zipWith xorRow (blockRows bs)))

/-- A message with its padding, which fills its last block. -/
def padded (m : List Byte) : List Byte :=
  let gap := 136 - m.length % 136
  if gap = 1 then m ++ [0x86] else m ++ [0x06] ++ List.replicate (gap - 2) 0 ++ [0x80]

/-- SHA3-256: 32 bytes. -/
def sha3 (bs : List Byte) : List Byte :=
  let m := padded bs
  let rows := takeBlocks (m.length / 136) m (List.replicate 5 (List.replicate 5 0))
  ((rows.getD 0 []).take 4).flatMap fun w => leBytes 8 w.toNat

end Sys2Proof.Machine
end

