-- ==== Sys2Proof/Machine/Links.lean ====
section
/-! DEFINITION. Ethernet ports (R348, R349, R351 to R353, R438, R439): enabling and training, the join exchange, attestation,
frames, the loss of a link, and the refresh of keys. -/

namespace Sys2Proof.Machine

/-- A port by its number. -/
def State.port (s : State) (p : Nat) : Port := vget s.ports p Port.reset

/-- Changes a port. -/
def State.modLink (s : State) (p : Nat) (f : Port → Port) : State := { s with ports := vmod s.ports p f }

/-- Refuses a port, with an event that names it and the reason (R352). -/
def State.refusePort (s : State) (p : Nat) (why : Refused) : State :=
  let s := s.modLink p fun k => { k with st := .refused }
  { s with portEvents := s.portEvents ++ [(p, why)] }

/-- A port presents this package's half of the join exchange: its id, its firmware digest, a new key encapsulation and a
new nonce (R19, R351). -/
def State.present (s : State) (p : Nat) : State :=
  let n := Config.nonce s.fresh
  let m : JoinMsg := { pkg := s.pkg, digest := s.digest, encap := Config.encap s.fresh, nonce := n }
  { s with fresh := s.fresh + 1, joinOut := s.joinOut ++ [(p, m)] }.modLink p fun k => { k with nonce := n }

/-- A port begins to join. -/
def State.beginJoin (s : State) (p : Nat) : State := (s.present p).modLink p fun k => { k with st := .joining }

/-- The bytes that a report's signature covers. -/
def reportBytes (m : AttestMsg) : List Byte := leBytes 3 m.pkg.toNat ++ m.digest ++ m.config ++ leBytes 32 m.nonce.toNat

/-- The bytes that an id certificate's signature covers (R353). -/
def certBytes (m : AttestMsg) : List Byte := leBytes 3 m.certPkg.toNat ++ m.certKey

/-- This package's report over a peer's nonce, signed with its identity key, with its certificate (R351, R353). -/
def State.report (s : State) (nonce : BitVec 256) : AttestMsg :=
  let m : AttestMsg := { pkg := s.pkg, digest := s.digest, config := s.config, nonce := nonce, key := s.idKey, sig := [],
                         certPkg := s.certPkg, certKey := s.certKey, certSig := s.certSig, podKey := s.certPod }
  { m with sig := Config.sign s.idSecret (reportBytes m) }

/-- A port begins to attest: it sends this package's report. -/
def State.beginAttest (s : State) (p : Nat) (m : JoinMsg) (key : Nat) : State :=
  { s with attestOut := s.attestOut ++ [(p, s.report m.nonce)] }.modLink p fun k =>
    { k with st := .attesting, peer := some m.pkg, digest := m.digest, key := key, pn := 1, peerNonce := m.nonce,
             refreshing := false, newKey := none }

/-! ## States of a port (R351) -/

/-- PORT_ENABLE: the runtime enables a port. -/
def execPortEnable (p : Nat) (s : State) : Result :=
  let now := s.tick
  s.byRuntime (
    if (s.port p).st == .down then .next (s.modLink p fun k => { k with st := .training now })
    else .next s)

/-- Ticks of the limit on training: 500 ms. -/
def trainTicks : Nat := 500 * Config.msTicks

/-- TRAINING_COMPLETE: the link is trained. -/
def execTrainingComplete (p : Nat) (s : State) : Result :=
  match (s.port p).st with
  | .training since => if s.tick < since + trainTicks then .next (s.beginJoin p) else .next s
  | .down => .next s
  | .joining => .next s
  | .attesting => .next s
  | .up => .next s
  | .refused => .next s

/-- TRAINING_TIMEOUT: training has not succeeded in 500 ms. -/
def execTrainingTimeout (p : Nat) (s : State) : Result :=
  match (s.port p).st with
  | .training since =>
    if since + trainTicks ≤ s.tick then .next (s.modLink p fun k => { k with st := .down }) else .next s
  | .down => .next s
  | .joining => .next s
  | .attesting => .next s
  | .up => .next s
  | .refused => .next s

/-- JOIN_EXCHANGE: the peer's id, digest and key encapsulation arrive; on a port that is UP, a new encapsulation is a key
refresh (R439). -/
def execJoinExchange (p : Nat) (m : JoinMsg) (s : State) : Result :=
  match (s.port p).st with
  | .joining =>
    if !s.accepted.contains m.digest then .next (s.refusePort p .digest)
    else match Config.kemKey m.encap with
      | none => .next (s.refusePort p .key)
      | some key => .next (s.beginAttest p m key)
  | .up =>
    (match Config.kemKey m.encap with
     | none => .next (s.refusePort p .key)
     | some key => .next (s.modLink p fun k => { k with newKey := some key, pn := 1, refreshing := false }))
  | .down => .next s
  | .training _ => .next s
  | .attesting => .next s
  | .refused => .next s

/-- Why an attestation is refused, if it is (R352, R353). -/
def State.attestFault (s : State) (p : Nat) (m : AttestMsg) : Option Refused :=
  let k := s.port p
  if k.peer != some m.pkg || k.digest != m.digest || m.nonce != k.nonce ||
      !Config.sigVerifies m.key (reportBytes m) m.sig then some .report
  else if m.certPkg != m.pkg || m.certKey != sha3 m.key || !s.podKeys.contains m.podKey ||
      !Config.sigVerifies m.podKey (certBytes m) m.certSig then some .certificate
  else if s.ports.toList.any fun o => o.st == .up && o.peer == some m.pkg && o.idKey != m.key then some .duplicate
  else none

/-- ATTESTATION_REPORT: the peer's report and certificate arrive. -/
def execAttestationReport (p : Nat) (m : AttestMsg) (s : State) : Result :=
  if (s.port p).st != .attesting then .next s
  else match s.attestFault p m with
    | some why => .next (s.refusePort p why)
    | none =>
      let s := s.modLink p fun k => { k with st := .up, idKey := m.key, starved := false }
      .next { s with pathLost := none, pathTold := [] }

/-- PORT_CLEAR: the runtime clears a refused port. -/
def execPortClear (p : Nat) (s : State) : Result :=
  s.byRuntime (if (s.port p).st == .refused then .next (s.modLink p fun _ => Port.reset) else .next s)

/-! ## Frames (R348, R349) -/

/-- What a frame delivers: a packet goes to its unit; unreliable delivery is not supported, and such a packet is
discarded (R348), as is a payload that holds no packet. -/
def State.deliver (s : State) (m : Delivery × List Byte) : State :=
  match m.1, packetOf m.2 with
  | .unreliable, _ => s
  | .reliableOrdered, none => s
  | .reliableUnordered, none => s
  | .reliableOrdered, some p => (s.arrive p).1
  | .reliableUnordered, some p => (s.arrive p).1

/-- FRAME_RECEIVE: a frame arrives on a port that is UP. One that authenticates brings its packet; the first one under a new
key retires the old key (R439); any other is dropped and replayed. -/
def execFrameReceive (p : Nat) (f : Frame) (s : State) : Result :=
  let k := s.port p
  let now := s.tick
  let drop : Result := .next (s.modLink p fun k => { k with replays := addRecent now k.replays })
  if k.st != .up then .next s
  else match Config.frameOpen k.key f.pn f.bytes with
    | some m => .next (s.deliver m)
    | none =>
      match k.newKey with
      | none => drop
      | some key =>
        match Config.frameOpen key f.pn f.bytes with
        | some m => .next ((s.modLink p fun k => { k with key := key, newKey := none }).deliver m)
        | none => drop

/-! ## Lost links and keys (R438, R439) -/

/-- Whether traffic of a context for a package waits at its source. -/
def State.trafficWaits (s : State) (c : Nat) (pkg : BitVec 20) : Bool :=
  (s.ctx c).outbound.any (fun o => o.peer == pkg.toNat) || s.reqs.any fun r =>
    r.ctx == c && r.value.isNone && r.bad.isNone && (match r.kind with
      | .snap _ _ _ _ _ peer _ _ => peer == pkg
      | .load _ _ _ _ _ | .store _ _ _ | .atomic _ _ _ _ _ _ _ | .clean _ | .own _ _ | .buf _ _ _ _ | .stk _ _ | .lock | .defer _ => false)

/-- Whether a context has sent something to a package that may not have been acknowledged. -/
def State.trafficSent (s : State) (c : Nat) (pkg : BitVec 20) : Bool :=
  (s.ctx c).inFlight.any (fun o => o.peer == pkg.toNat) || s.outbox.any fun o => o.dst == pkg && o.pkt.dctx.toNat == c

/-- A context event 0x1B for each context whose traffic for a package waits; whether what has left is still
unacknowledged is free. -/
def State.tellWaiting (s : State) (pkg : BitVec 20) : State :=
  (List.range Config.contexts).foldl (fun s c =>
    if s.trafficWaits c pkg then s.ctxEvent c 0x1B pkg.toNat 0
    else if s.trafficSent c pkg then
      let (n, s) := s.pick 2
      if n = 1 then s.ctxEvent c 0x1B pkg.toNat 0 else s
    else s) s

/-- A port goes down or is key-starved: every heat in progress reports it (R438). -/
def State.noteBadPort (s : State) : State := (List.range Config.contexts).foldl State.reportPort s

/-- The time without a path begins when no port is UP any more (R438). -/
def State.losePath (s : State) : State :=
  let now := s.tick
  if s.hasPath || s.pathLost.isSome then s else { s with pathLost := some now, pathTold := [] }

/-- LINK_LOSS: a port that was UP goes down; when it was the last, packets wait at their source. -/
def execLinkLoss (p : Nat) (s : State) : Result :=
  if (s.port p).st != .up then .next s
  else
    .next (s.modLink p fun k => { k with st := .down, refreshing := false, newKey := none }).losePath.noteBadPort

/-- NO_PATH_TIMEOUT: 100 ms have passed without a path; the contexts whose traffic for a package waits are told, once. -/
def execNoPathTimeout (pkg : BitVec 20) (s : State) : Result :=
  match s.pathLost with
  | none => .next s
  | some since =>
    if s.hasPath || s.tick < since + 100 * Config.msTicks || s.pathTold.contains pkg || pkg == s.pkg then .next s
    else .next ({ s with pathTold := s.pathTold ++ [pkg] }.tellWaiting pkg)

/-- The packet number at which a port starts a key refresh. -/
def refreshPn : Nat := 2 ^ 64 - 2 ^ 32

/-- KEY_REFRESH: a port's packet numbers have reached 2^64 - 2^32: it sends a new encapsulation. -/
def execKeyRefresh (p : Nat) (s : State) : Result :=
  if (s.port p).st == .up && !(s.port p).refreshing then
    .next ((s.present p).modLink p fun k => { k with refreshing := true, pn := refreshPn })
  else .next s

/-- KEY_STARVED: the last packet number of the key is used before the refresh has completed: the port joins again. -/
def execKeyStarved (p : Nat) (s : State) : Result :=
  if (s.port p).st != .up || !(s.port p).refreshing then .next s
  else
    let s := ((s.beginJoin p).modLink p fun k => { k with starved := true, pn := 2 ^ 64 }).losePath.noteBadPort
    match (s.port p).peer with
    | some pkg => .next (s.tellWaiting pkg)
    | none => .next s

end Sys2Proof.Machine
end

