-- ==== Sys2Proof/Machine/Sequencer.lean ====
section
/-! DEFINITION. The matrix engine and its sequencer: operand fields and shapes (R294), formats (R296), the steps (R297,
R300 to R302), the ends and failures of operations (R298, R304, R425), and the events that run them. -/

namespace Sys2Proof.Machine

/-! ## Operands and shapes (R294, R299) -/

/-- C tile of gA. -/
def tileC (ga : Word) : Nat := natBits ga.toNat 7 0
/-- A tile of gA. -/
def tileA (ga : Word) : Nat := natBits ga.toNat 15 8
/-- B tile of gA. -/
def tileB (ga : Word) : Nat := natBits ga.toNat 23 16
/-- A-scale tile of gC. -/
def scaleA (gc : Word) : Nat := natBits gc.toNat 7 0
/-- B-scale tile of gC. -/
def scaleB (gc : Word) : Nat := natBits gc.toNat 15 8
/-- First step of gC. -/
def firstStep (gc : Word) : Nat := natBits gc.toNat 28 16
/-- M / 64 of gB. -/
def rowTiles (gb : Word) : Nat := natBits gb.toNat 2 0 + 1
/-- N / 64 of gB. -/
def colTiles (gb : Word) : Nat := natBits gb.toNat 5 3 + 1
/-- K / 32 of gB. -/
def kBlocks (gb : Word) : Nat := natBits gb.toNat 13 6 + 1
/-- Steps of one output tile: ⌈K / 64⌉. -/
def kSteps (gb : Word) : Nat := (kBlocks gb + 1) / 2

/-- Whether a kind of operation takes scales (R296). SCL = 1 in an `mma.coop` of KIND 0 or 1 is accepted and changes nothing: the
spec says neither that it is refused nor what it does (DESIGN CHOICE, log entry 143). -/
def MatKind.scaled : MatKind → Bool
  | .bs => true
  | .np scl => scl
  | .coop .bs _ _ _ => true
  | .coop .np scl _ _ => scl
  | .mma | .coop .mma _ _ _ | .zero | .drain | .csel => false

/-- Participants of an operation. -/
def MatKind.parts : MatKind → Nat
  | .coop _ _ p _ => p
  | .mma | .bs | .np _ | .zero | .drain | .csel => 1

/-- Row tiles of one participant. -/
def MatKind.rows (k : MatKind) (gb : Word) : Nat := rowTiles gb / k.parts

/-- Steps of a product on one participant (R297, R299). -/
def MatKind.products (k : MatKind) (gb : Word) : Nat := k.rows gb * colTiles gb * kSteps gb

/-- The arithmetic of R296: a combination of the formats of A, B and C for a kind of product. -/
def matFormats (k : MatKind) (fa fb fc : Nat) : Bool :=
  let act : Bool := fa == 0x02 || fa == 0x03 || fa == 0x04
  let npi : Bool := 0x12 ≤ fb && fb ≤ 0x18
  let plain : Bool := (fa == 0x01 && fb == 0x01 && fc == 0x00) || (fa == 0x04 && fb == 0x04 && fc == 0x08)
  let blockScaled : Bool := act && (fb == 0x02 || fb == 0x03 || fb == 0x04) && fc == 0x00
  let planes (scl : Bool) : Bool := npi && (if scl then act && fc == 0x00
    else (fa == 0x04 && fc == 0x08) || ((fa == 0x02 || fa == 0x03) && fc == 0x00))
  match k with
  | .mma => plain
  | .bs => blockScaled
  | .np scl => planes scl
  | .coop .mma _ _ _ => plain
  | .coop .bs _ _ _ => blockScaled
  | .coop .np scl _ _ => planes scl
  | .zero | .drain | .csel => true

/-! ## One product element (R297) -/

/-- The value of an element of A or B. -/
def operandVal (fmt code : Nat) : FVal :=
  match efmt fmt with
  | some (.flt f) => fval f code
  | some (.int g n) => intVal (intElem g n code)
  | some (.npi k) => intVal (npiValue k code)
  | none => .nan

/-- The integer of an element of A or B. -/
def operandInt (fmt code : Nat) : Int :=
  match efmt fmt with
  | some (.int g n) => intElem g n code
  | some (.npi k) => npiValue k code
  | _ => 0

/-- Reads several elements; the first that cannot be read ends it. -/
def readAll (f : Nat → Except Halt Nat) : List Nat → Except Halt (List Nat)
  | [] => .ok []
  | i :: is =>
    match f i, readAll f is with
    | .ok v, .ok vs => .ok (v :: vs)
    | .error e, _ => .error e
    | _, .error e => .error e

/-- An element of a tile of a block, by its own format. -/
def State.matElem (s : State) (b : Block) (i i0 i1 : Nat) : Except Halt Nat :=
  let t := b.tile i
  s.tileElem b t ((efmt t.lay.fmt).getD (.flt .f32)) i0 i1 0

/-- Writes an element of a tile of a block. -/
def State.putMat (s : State) (b : Block) (i i0 i1 v : Nat) : Except Halt State :=
  let t := b.tile i
  s.putTileElem b t ((efmt t.lay.fmt).getD (.flt .f32)) i0 i1 0 v

/-- A scale, or 1.0 without scales. -/
def State.scaleOf (s : State) (scaled : Bool) (b : Block) (i i0 i1 : Nat) : Except Halt FVal :=
  if !scaled then .ok (.num false 1 0)
  else match s.matElem b i i0 i1 with
    | .ok v => .ok (fval .bf16 v)
    | .error e => .error e

/-- The new accumulator of one element for one K-block, and the cause it logs (R106, R297). -/
def dotUpdate (fa fb fc acc : Nat) (a b : List Nat) (sa sb : FVal) : Nat × Option Cause :=
  if fc = 0x08 then
    let r := accInt acc (blockDotInt (a.map (operandInt fa)) (b.map (operandInt fb)))
    (r.1, if r.2 then some 0x45 else none)
  else
    let x := a.map (operandVal fa)
    let y := b.map (operandVal fb)
    (accFloat acc sa sb (blockDot x y) (anyNan x || anyNan y)).pair

/-- One element (m, n) of C takes K-block `k`: A and C are tiles of block `b`, B of block `w`. -/
def State.productElem (s : State) (m : MatOp) (b w : Block) (gaB gcB : Word) (k row col : Nat) :
    Except Halt (State × List Cause) :=
  let ks := (List.range 32).map (32 * k + ·)
  let fmt (x : Block) (i : Nat) : Nat := (x.tile i).lay.fmt
  match readAll (fun i => s.matElem b (tileA m.ga) i row) ks, readAll (fun i => s.matElem w (tileB gaB) i col) ks,
      s.matElem b (tileC m.ga) col row, s.scaleOf m.kind.scaled b (scaleA m.gc) k row,
      s.scaleOf m.kind.scaled w (scaleB gcB) k col with
  | .ok a, .ok y, .ok acc, .ok sa, .ok sb =>
    let r := dotUpdate (fmt b (tileA m.ga)) (fmt w (tileB gaB)) (fmt b (tileC m.ga)) acc a y sa sb
    match s.putMat b (tileC m.ga) col row r.1 with
    | .ok s => .ok (s, r.2.toList)
    | .error e => .error e
  | .error e, _, _, _, _ => .error e
  | _, .error e, _, _, _ => .error e
  | _, _, .error e, _, _ => .error e
  | _, _, _, .error e, _ => .error e
  | _, _, _, _, .error e => .error e

/-- A run that has not moved. -/
def State.run0 (s : State) : Run := { st := s, n := 0, halt := none, logs := [] }

/-- One element of C takes some K-blocks, in order. -/
def State.productElems (s : State) (m : MatOp) (b w : Block) (gaB gcB : Word) (row col : Nat) :
    List Nat → Except Halt (State × List Cause)
  | [] => .ok (s, [])
  | k :: ks =>
    match s.productElem m b w gaB gcB k row col with
    | .error e => .error e
    | .ok (s, cs) =>
      match s.productElems m b w gaB gcB row col ks with
      | .error e => .error e
      | .ok (s, ds) => .ok (s, cs ++ ds)

/-- Step `step` of a product: the K-blocks 2ks and 2ks + 1 of one output tile of 64 × 64 elements. -/
def State.productStep (s : State) (m : MatOp) (b w : Block) (gaB gcB : Word) : Run :=
  let ksn := kSteps m.gb
  let t := m.step / ksn
  let ks := m.step % ksn
  let mt := t / colTiles m.gb
  let nt := t % colTiles m.gb
  let blocks := Nat.min 2 (kBlocks m.gb - 2 * ks)
  runElems (fun s n => s.productElems m b w gaB gcB (64 * mt + n / 64) (64 * nt + n % 64)
    ((List.range blocks).map (2 * ks + ·))) 4096 s.run0

/-! ## `mzero`, `mdrain` and `csel` (R300 to R302) -/

/-- Every byte of a tile becomes 0. -/
def State.zeroTile (s : State) (b : Block) (t : Tile) : Except Halt State :=
  s.tileWrite b t t.lay.base (List.replicate t.size 0)

/-- The tile of an `mzero` at its issue (R80). -/
def State.clearTile (s : State) (b : Block) (t : Tile) : State :=
  match s.zeroTile b t with
  | .ok s => s
  | .error _ => s

/-- `mzero`: every byte of the C tile. -/
def State.zeroStep (s : State) (m : MatOp) (b : Block) : Run :=
  match s.zeroTile b (b.tile (tileC m.ga)) with
  | .ok s => s.run0
  | .error e => { s.run0 with halt := some e }

/-- Destination format of `mdrain`. -/
def drainFmt (gb : Word) : Nat := natBits gb.toNat 10 6
/-- SHIFT of `mdrain`. -/
def drainShift (gb : Word) : Nat := natBits gb.toNat 16 12

/-- The conversions that `mdrain` has (R301). -/
def drainPair (fc fd shift : Nat) : Bool :=
  (fc == 0x00 && fd ≤ 0x03 && shift == 0) || (fc == 0x08 && (fd == 0x04 || fd == 0x06 || fd == 0x08 || fd == 0x00))

/-- One element of `mdrain`. -/
def drainElem (fc fd shift : Nat) (sat : Bool) (code : Nat) : Nat × Option Cause :=
  match efmt fc, efmt fd with
  | some (.flt f), some (.flt g) => (convert g .rne sat (fval f code)).pair
  | some (.int g n), some (.flt f) =>
    let v := intElem g n code
    (roundDy f .rne false (v < 0) v.natAbs (-(shift : Int))).pair
  | some (.int g n), some (.int h k) =>
    let v := intElem g n code
    narrowInt h k sat (signed (v < 0) (roundInt .rne (v < 0) v.natAbs (2 ^ shift)))
  | _, _ => (0, none)

/-- `mdrain`. -/
def State.drainStep (s : State) (m : MatOp) (b : Block) : Run :=
  let cols := 64 * colTiles m.gb
  let fc := (b.tile (tileC m.ga)).lay.fmt
  runElems (fun s n =>
    match s.matElem b (tileC m.ga) (n % cols) (n / cols) with
    | .error e => .error e
    | .ok v =>
      let r := drainElem fc (drainFmt m.gb) (drainShift m.gb) (natBit m.gb.toNat 11) v
      match s.putMat b (tileA m.ga) (n % cols) (n / cols) r.1 with
      | .ok s => .ok (s, r.2.toList)
      | .error e => .error e) (64 * rowTiles m.gb * cols) s.run0

/-- Value tile of `csel`. -/
def tileV (ga : Word) : Nat := natBits ga.toNat 23 16
/-- Rows of `csel`. -/
def selRows (gb : Word) : Nat := natBits gb.toNat 15 0 + 1
/-- Columns of `csel`. -/
def selCols (gb : Word) : Nat := natBits gb.toNat 23 16 + 1
/-- k of `csel`. -/
def selK (gb : Word) : Nat := natBits gb.toNat 29 24 + 1

/-- Whether a score ranks above another, equal rows apart: larger first, every NaN below -inf. -/
def outranks (x y : Nat) : Bool :=
  match fval .f32 x, fval .f32 y with
  | .nan, _ => false
  | _, .nan => true
  | a, b => fcompare a b == .gt

/-- The k rows of highest rank of a column: score and row. -/
def rankColumn (k : Nat) (scores : List Nat) : List (Nat × Nat) :=
  (sortBy (fun (p q : Nat × Nat) => !outranks q.1 p.1) scores.zipIdx).take k

/-- One output element of `csel`: rank `r` of column `c`. -/
def State.selectElem (s : State) (m : MatOp) (b : Block) (l : List (Nat × Nat)) (c r : Nat) :
    Except Halt (State × List Cause) :=
  let (v, i) := (l[r]?).getD (0x7FC00000, 0xFFFF)
  let v := if (fval .f32 v).isNan then 0x7FC00000 else v
  match s.putMat b (tileA m.ga) c r i with
  | .error e => .error e
  | .ok s =>
    match s.putMat b (tileV m.ga) c r v with
    | .ok s => .ok (s, [])
    | .error e => .error e

/-- One column of `csel`. -/
def State.selectColumn (s : State) (m : MatOp) (b : Block) (c : Nat) : Except Halt (State × List Cause) :=
  match readAll (fun r => s.matElem b (tileC m.ga) c r) (List.range (selRows m.gb)) with
  | .error e => .error e
  | .ok scores =>
    let l := rankColumn (selK m.gb) scores
    (List.range (selK m.gb)).foldl (fun (x : Except Halt (State × List Cause)) r =>
      match x with
      | .error e => .error e
      | .ok p => p.1.selectElem m b l c r) (.ok (s, []))

/-- `csel`. -/
def State.selectStep (s : State) (m : MatOp) (b : Block) : Run :=
  runElems (fun s c => s.selectColumn m b c) (selCols m.gb) s.run0

/-! ## The queue (R298) -/

/-- The operations of the package, over all cores. -/
def State.matOps (s : State) : List MatOp := s.cores.toList.flatMap (·.seq)

/-- Changes an operation. -/
def State.modOp (s : State) (core id : Nat) (f : MatOp → MatOp) : State :=
  s.modCore core fun k => { k with seq := k.seq.map fun m => if m.id == id then f m else m }

/-- Removes an operation from its queue. -/
def State.dropOp (s : State) (core id : Nat) : State :=
  s.modCore core fun k => { k with seq := k.seq.filter fun m => m.id != id }

/-- The tiles an operation writes wholly, which are FILLING until it ends (R80). -/
def MatOp.writes (m : MatOp) : List Nat :=
  match m.kind with
  | .drain => [tileA m.ga]
  | .csel => [tileA m.ga, tileV m.ga]
  | .mma | .bs | .np _ | .coop _ _ _ _ | .zero => []

/-- An operation lets its tiles go: a written tile is READY with owner E, the others lose a user. -/
def Block.release1 (b : Block) (m : MatOp) : Block :=
  m.used.foldl (fun b u => b.modTile u.1 fun t =>
    if t.epoch ≠ u.2 then t
    else
      let t := { t with users := t.users - 1 }
      if t.st == .filling && m.writes.contains u.1 then { t with st := .ready, ownerE := true } else t) b

/-- Flags of a matrix operation fall: a release of its core at block scope, which waits for the writes that the core has sent
before it (R134, R174). -/
def State.lowerAfter (s : State) (blk core : Nat) (fs : List Nat) : State :=
  s.modBlock blk fun b =>
    if fs.isEmpty || s.sourceDone core s.nextId .blk then b.lower fs else { b with falls := b.falls ++ [(s.nextId, fs)] }

/-- FLAGS_FALL, a step of the model's own: flags of ended operations whose release waited fall. -/
def State.landFalls (s : State) (blk : Nat) : State :=
  s.modBlock blk fun b =>
    let due (p : Nat × List Nat) : Bool := s.sourceDone b.core p.1 .blk
    { ((b.falls.filter due).foldl (fun b p => b.lower p.2) b) with falls := b.falls.filter fun p => !due p }

/-- An operation lets its tiles and its flags go. -/
def State.releaseOp (s : State) (core : Nat) (m : MatOp) : State :=
  (s.modBlock m.blk fun b => b.release1 m).lowerAfter m.blk core m.flags

/-- The records of an operation: one for each cause (R116). -/
def State.logOp (s : State) (core : Nat) (b : Block) (m : MatOp) : State :=
  m.logs.foldl (fun s p =>
    s.logRecord b.ctx p.1 (BitVec.ofNat 8 core) p.2 (BitVec.ofNat 32 b.bid) (m.hdr.setWidth 64) 0xFFFF) s

/-- The operation at the head of each queue begins: it is its block's latest (R303). -/
def State.beginHead (s : State) (core : Nat) : State :=
  match (s.core core).seq with
  | [] => s
  | m :: _ =>
    if m.begun then s
    else (s.modOp core m.id fun m => { m with begun := true, since := s.tick }).modBlock m.blk fun b => { b with mStep := m.step % 8192 }

/-- An operation ends: its tiles and flags are released, its records formed, and it leaves the queue. -/
def State.endOp (s : State) (core : Nat) (m : MatOp) : State :=
  match s.block m.blk with
  | none => (s.dropOp core m.id).beginHead core
  | some b => (((s.logOp core b m).releaseOp core m).dropOp core m.id).beginHead core

/-- Withdraws operations unstarted: their flags fall, and their tiles are released (R304, R425). -/
def State.withdrawOps (s : State) (core : Nat) (l : List MatOp) : State :=
  l.foldl (fun s m => (s.releaseOp core m).dropOp core m.id) s

/-- An operation stops before its next step with a cause, which the sequencer records; the block's later operations are
withdrawn (R298, R425). -/
def State.stopOp (s : State) (core : Nat) (m : MatOp) (c : Cause) (tile : Nat) : State :=
  let later := (s.core core).seq.filter fun k => k.blk == m.blk && k.id != m.id
  ((s.withdrawOps core later).modBlock m.blk fun b =>
    { b with mCause := c, mStop := true, mStep := m.step % 8192, mWd := Nat.min 3 later.length,
             mFault := some (c, tile) }).endOp core m

/-- An operation completes a step; after its last one it ends, and before that at the boundary where a pre-emption stops it
(R304). -/
def State.passStep (s : State) (core : Nat) (m : MatOp) : State :=
  let n := m.step + 1
  let s := s.modBlock m.blk fun b => { b with mStep := n % 8192 }
  if n < m.steps then
    if m.halts then (s.modBlock m.blk fun b => { b with mStop := true }).endOp core { m with step := n }
    else s.modOp core m.id fun k => { k with step := n, logs := m.logs, seen := m.seen, since := s.tick }
  else (s.modBlock m.blk fun b => { b with mStop := false }).endOp core { m with step := n }

/-! ## One step (R297, R299) -/

/-- The tiles an operation reads that are not READY yet: their fill is under way. -/
def Block.filling (b : Block) (m : MatOp) : Bool :=
  m.used.any fun u => (b.tile u.1).st == .filling && !m.writes.contains u.1

/-- Why an operation cannot go on: a failed fill, or a tile freed under it (R82, R298). -/
def Block.opFault (b : Block) (m : MatOp) : Option (Cause × Nat) :=
  match m.fail with
  | some f => some f
  | none => if m.used.any fun u => (b.tile u.1).epoch != u.2 then some (0x0C, 0) else none

/-- The block and the words that give B and its scale: participant L's for a cooperative operation. -/
def State.sourceB (s : State) (b : Block) (m : MatOp) : Option (Block × Word × Word) :=
  match m.kind with
  | .coop _ _ _ l =>
    match s.mate b (b.partBid l 0) with
    | none => none
    | some w =>
      if w.id == b.id then some (w, m.ga, m.gc)
      else (s.matOps.find? fun k => k.blk == w.id && k.group == m.group).map fun k => (w, k.ga, k.gc)
  | .mma | .bs | .np _ | .zero | .drain | .csel => some (b, m.ga, m.gc)

/-- Runs the next step of an operation. -/
def State.runStep (s : State) (m : MatOp) (b : Block) : Run :=
  match m.kind with
  | .zero => s.zeroStep m b
  | .drain => s.drainStep m b
  | .csel => s.selectStep m b
  | .mma | .bs | .np _ | .coop _ _ _ _ =>
    match s.sourceB b m with
    | some (w, ga, gc) => s.productStep m b w ga gc
    | none => { s.run0 with halt := some (.status 0x0C) }

/-- The operations that run together with one: the participants of its cooperative operation, by core. -/
def State.groupOps (s : State) (m : MatOp) : List (Nat × MatOp) :=
  (List.range 160).flatMap fun c => ((s.core c).seq.filter fun k => k.group == m.group).map fun k => (c, k)

/-- Whether an operation has its turn: only operations of its own group stand before it. -/
def Core.hasTurn (k : Core) (m : MatOp) : Bool :=
  (k.seq.takeWhile fun x => x.id != m.id).all fun x => x.group == m.group

/-- An operation after a step: an element counts once for a cause, in however many steps of its output tile it raised it
(R115). -/
def MatOp.count (m : MatOp) (raised : List (Cause × Nat)) : MatOp :=
  let seen := if m.step % kSteps m.gb = 0 then [] else m.seen
  let fresh := raised.filter fun p => !seen.contains p
  { m with logs := fresh.foldl (fun l p => addCause l p.1) m.logs, seen := seen ++ fresh }

/-- What one round of steps has come to: the state, the operations with their causes, or why the group stops. -/
structure Together where
  st   : State
  done : List (Nat × MatOp)
  halt : Option (Cause × Nat)

/-- Runs the step of one more operation of a group. -/
def stepOne (g : Together) (x : Nat × MatOp) : Together :=
  match g.halt, g.st.block x.2.blk with
  | some _, _ => g
  | none, none => g
  | none, some b =>
    let r := g.st.runStep x.2 b
    match r.halt with
    | none => { g with st := r.st, done := g.done ++ [(x.1, x.2.count r.raised)] }
    | some (.status c) => { g with halt := some (c, 0) }
    | some .wait | some (.lock _ _ _) => { g with halt := some (0x14, 0) }

/-- The first fault among the operations of a group. -/
def State.groupFault (s : State) (l : List (Nat × MatOp)) : Option (Cause × Nat) :=
  (l.filterMap fun x => (s.block x.2.blk).bind fun b => b.opFault x.2).head?

/-- One log record for an uncorrectable error that the engine met (R405). -/
def State.logBad (s : State) (x : Nat × MatOp) (c : Cause) : State :=
  match s.block x.2.blk with
  | some b => if c = 0x13 then s.logOp x.1 b { x.2 with logs := [(0x13, 1)] } else s
  | none => s

/-- Whether the sequencer of a core has had an issue slot since a tick, in which a step that could start from then on has
started (R361): the first core cycles of every window are slots. -/
def State.stepStarts (s : State) (core since : Nat) : Bool :=
  let d := s.die (dieOf core)
  let from_ := since / Config.coreTicks
  d.st == .up && s.boot == .done && (s.cycle / 16 != from_ / 16 || from_ % 16 < (vget d.shape (d.levelAt since) 1).toNat)

/-- The tick from which the next step of operations that run together may start: that of the last of them. -/
def startFrom (l : List (Nat × MatOp)) : Nat := l.foldl (fun n x => Nat.max n x.2.since) 0

/-- SEQUENCER_ERROR, a step of the model's own: the operation that a core's engine runs meets a sequencer error (R298); it
stops at its next boundary. The spec gives the error no cause code: it is a free value (log entry 109). -/
def State.sequencerError (s : State) (core : Nat) : State :=
  match (s.core core).seq with
  | [] => s
  | m :: _ =>
    if m.begun && m.fail.isNone then
      let (w, s) := s.free
      s.modOp core m.id fun k => { k with fail := some (w.extractLsb' 0 8, 0) }
    else s

/-- MATRIX_STEP_COMPLETE: the operation at the head of a core's queue completes a step, every participant of a cooperative
one with it; or it stops at the boundary before the step (R298). -/
def execMatrixStepComplete (core : Nat) (s : State) : Result :=
  match (s.core core).seq with
  | [] => .next s
  | m :: _ =>
    let l := s.groupOps m
    let stop (s : State) (f : Cause × Nat) : State :=
      l.foldl (fun s x => (s.logBad x f.1).stopOp x.1 x.2 f.1 f.2) s
    if !l.all fun x => (s.core x.1).hasTurn x.2 then .next s
    else match s.groupFault l with
      | some f => .next (stop s f)
      | none =>
        if l.any fun x => !s.stepStarts x.1 (startFrom l) || (s.block x.2.blk).any fun b => b.filling x.2 then .next s
        else
          let g := l.foldl stepOne { st := s, done := [], halt := none }
          match g.halt with
          | some f => .next (stop s f)
          | none => .next (g.done.foldl (fun s x => s.passStep x.1 x.2) g.st)

/-! ## Pre-emption (R304) -/

/-- Whether an operation is a product, which can stop at a step boundary. -/
def MatKind.product : MatKind → Bool
  | .mma | .bs | .np _ | .coop _ _ _ _ => true
  | .zero | .drain | .csel => false

/-- Whether an operation is running (R304): it is its core's head, and every participant has its turn with it. -/
def State.runsNow (s : State) (m : MatOp) : Bool :=
  m.begun && (s.groupOps m).all fun x => (s.core x.1).hasTurn x.2 && x.2.begun

/-- The matrix operations of a block at its pre-emption: the running one of a product stops at its next step boundary, a
running one of another kind goes on to its end, and the others are withdrawn. `running` names the operations that run. -/
def State.preemptMatrix (s : State) (running : List Nat) (blk core : Nat) : State :=
  let mine := (s.core core).seq.filter fun m => m.blk == blk
  if mine.isEmpty then s
  else
    let queued := mine.filter fun m => !running.contains m.id
    let (wd, s) : Nat × State := if queued.length ≤ 3 then (queued.length, s) else s.pick 4
    let s := (s.withdrawOps core queued).modBlock blk fun b => { b with mCause := 0x1F, mStop := false, mWd := wd }
    (mine.filter fun m => running.contains m.id && m.kind.product).foldl
      (fun s m => s.modOp core m.id fun m => { m with halts := true }) s

/-- The matrix operations of a context at its pre-emption (R304). -/
def State.preemptAll (s : State) (c : Nat) : State :=
  let running := (s.matOps.filter fun m => s.runsNow m).map (·.id)
  let l := s.blocks.filter (·.ctx == c)
  l.foldl (fun s b => s.beginHead b.core) (l.foldl (fun s b => s.preemptMatrix running b.id b.core) s)

end Sys2Proof.Machine
end

