-- ==== Sys2Proof/Machine/Matrix.lean ====
section
/-! DEFINITION. The matrix instructions as the control thread issues them (R40, R294 to R303): the checks made at issue, the
waits, the entry into the sequencer's queue, and `mma.coop`. -/

namespace Sys2Proof.Machine

/-! ## Checks at issue (R298) -/

/-- A tile as an operand of an operation: bound, in a buffer, STRIDE0 = 1 (R79, R294). -/
def Block.matTile (b : Block) (i : Nat) (k : Buf) : Bool :=
  i < b.lr.ntile && (b.tile i).bound && (b.tile i).lay.buf == k && (b.tile i).lay.s0 == 1

/-- Whether the elements of a box lie inside a tile. -/
def Block.matBox (b : Block) (i e0 e1 : Nat) : Bool :=
  let t := b.tile i
  (efmt t.lay.fmt).any fun f => t.boxInside f e0 e1 1

/-- The format code of a tile. -/
def Block.fmt (b : Block) (i : Nat) : Nat := (b.tile i).lay.fmt

/-- A scale tile: BF16, one scale for each row and K-block. -/
def Block.scaleTile (b : Block) (i : Nat) (k : Buf) (blocks rows : Nat) : Bool :=
  b.matTile i k && b.fmt i == 0x01 && b.matBox i blocks rows

/-- The fields of gA, gB and gC of a product that must be 0, and its first step. -/
def productFields (k : MatKind) (ga gb gc : Word) : Bool :=
  natBits ga.toNat 31 24 == 0 && natBits gb.toNat 31 14 == 0 && natBits gc.toNat 31 29 == 0 &&
    (k.scaled || natBits gc.toNat 15 0 == 0) && firstStep gc < k.products gb

/-- The tiles of A and C that a block gives to a product. -/
def Block.ownTiles (b : Block) (k : MatKind) (ga gb gc : Word) : Bool :=
  let rows := 64 * k.rows gb
  b.matTile (tileA ga) .a && b.matTile (tileC ga) .c && b.matBox (tileA ga) (32 * kBlocks gb) rows &&
    b.matBox (tileC ga) (64 * colTiles gb) rows && (!k.scaled || b.scaleTile (scaleA gc) .a (kBlocks gb) rows)

/-- The tiles of B that a block gives to a product. -/
def Block.weightTiles (b : Block) (k : MatKind) (ga gb gc : Word) : Bool :=
  b.matTile (tileB ga) .w && b.matBox (tileB ga) (32 * kBlocks gb) (64 * colTiles gb) &&
    (!k.scaled || b.scaleTile (scaleB gc) .w (kBlocks gb) (64 * colTiles gb))

/-- The formats of a product, B being a tile of block `w` (R296). -/
def Block.productFormats (b w : Block) (k : MatKind) (ga gaB : Word) : Bool :=
  matFormats k (b.fmt (tileA ga)) (w.fmt (tileB gaB)) (b.fmt (tileC ga))

/-- The checks of a product on one block. -/
def Block.productOk (b : Block) (k : MatKind) (ga gb gc : Word) : Bool :=
  productFields k ga gb gc && b.ownTiles k ga gb gc && b.weightTiles k ga gb gc && b.productFormats b k ga ga

/-! ## Entering the queue (R298) -/

/-- An operation as it enters the queue. -/
structure MatEntry where
  kind  : MatKind
  ga    : Word
  gb    : Word
  gc    : Word
  steps : Nat
  conds : List (Nat × TileCond)        -- what its tiles must be
  deriving DecidableEq, Repr

/-- The entry of a product; `w` says whether the block gives B. -/
def productEntry (k : MatKind) (ga gb gc : Word) (w : Bool) : MatEntry :=
  let tiles := [tileC ga, tileA ga] ++ (if w then [tileB ga] else []) ++
    (if k.scaled then [scaleA gc] ++ (if w then [scaleB gc] else []) else [])
  { kind := k, ga := ga, gb := gb, gc := gc, steps := k.products gb, conds := tiles.eraseDups.map fun i => (i, .operand) }

/-- What an operation does to one of its tiles as it enters the queue: an EMPTY operand starts its fill (R85); a tile that
is written wholly is FILLING; the tile of `mzero` is READY with owner E, every byte 0 (R80); each counts one user. -/
def State.enterTile (s : State) (b : Block) (hdr : Word) (zero : Bool) (p : Nat × TileCond) : State :=
  let count (s : State) : State := s.modBlock b.id fun b => b.modTile p.1 fun t => { t with users := t.users + 1 }
  match p.2 with
  | .operand => count (if (b.tile p.1).st == .empty then s.autoFill b hdr p.1 else s)
  | .writable =>
    let t := b.tile p.1
    count (((if zero then s.clearTile b t else s)).modBlock b.id fun b => b.modTile p.1 fun t =>
      if zero then { t with st := .ready, ownerE := true } else { t with st := .filling })
  | .readable | .drainable | .bindable | .ready | .takable => s

/-- An operation of a block enters the queue of its core. -/
def State.enqueue (s : State) (b : Block) (hdr : Word) (fs : List Nat) (e : MatEntry) (group : Option Nat) : State :=
  let id := s.nextId
  let m : MatOp :=
    { id := id, blk := b.id, kind := e.kind, ga := e.ga, gb := e.gb, gc := e.gc,
      step := if e.kind.product then firstStep e.gc else 0, steps := e.steps,
      used := e.conds.map fun p => (p.1, (b.tile p.1).epoch), flags := fs, begun := false,
      since := s.tick, halts := false, group := group.getD id,
      fail := none, logs := [], seen := [], hdr := hdr }
  let s := { s with nextId := id + 1 }
  let s := e.conds.foldl (fun s p => s.enterTile b hdr (e.kind == .zero) p) s
  let s := s.modBlock b.id fun b => { (b.raise fs) with mCause := 0, mStop := false, mWd := 0 }
  (s.modCore b.core fun k => { k with seq := k.seq ++ [m] }).beginHead b.core

/-- Operations of a block that are queued or running. -/
def State.opsOf (s : State) (b : Block) : Nat := ((s.core b.core).seq.filter fun m => m.blk == b.id).length

/-- What a block still waits for before an operation may enter the queue. -/
def State.matWait (s : State) (b : Block) (e : MatEntry) (fs : List Nat) : Option Wait :=
  if Config.matrixOps ≤ s.opsOf b then some .matrixRoom
  else if !b.tilesReady e.conds then some (.tiles e.conds)
  else if !b.flagRoom fs then some (.flagRoom fs)
  else none

/-- A matrix instruction: a recorded sequencer fault first (R298, R425), then the checks, the waits and the queue. Once its
context is being pre-empted, and until its thread has taken PREEMPT, none enters the queue: `mseq` keeps what it says of the
operation that the pre-emption stopped (R62, R304; DEDUCED, log entry 128). -/
def matrixAct (f : State → Site → Block → Thread → Act) : State → Site → Act :=
  withThread fun s x b t =>
    match b.mFault with
    | some (c, i) => .failed (s.modBlock x.blk fun b => { b with mFault := none }) c none i
    | none => if s.preempted b.ctx t then .stall s .matrixRoom else f s x b t

/-- Enters an operation whose checks have been made, or waits. -/
def State.enterOp (s : State) (b : Block) (t : Thread) (ok : Bool) (e : MatEntry) : Act :=
  let fs := s.countedFlags b t none
  if !ok then .fault 0x0C none 0
  else match s.matWait b e fs with
    | some w => .stall s w
    | none => .done (s.enqueue b t.hdr fs e none) []

/-- A product of one block. -/
def productAct (k : MatKind) (a b c : Reg) : State → Site → Act :=
  matrixAct fun s _ n t =>
    let ga := t.src a
    let gb := t.src b
    let gc := t.src c
    s.enterOp n t (n.productOk k ga gb gc) (productEntry k ga gb gc true)

/-- `mma`. -/
def execMma (g : Guard) (a b c : Reg) (s : State) : Result := s.issue (.mma g a b c) g (productAct .mma a b c)

/-- `mma.bs`. -/
def execMmaBs (g : Guard) (a b c : Reg) (s : State) : Result := s.issue (.mmaBs g a b c) g (productAct .bs a b c)

/-- `mma.np`. -/
def execMmaNp (g : Guard) (a b c : Reg) (scl : Bool) (s : State) : Result :=
  s.issue (.mmaNp g a b c scl) g (productAct (.np scl) a b c)

/-- `mzero` (R300). -/
def execMzero (g : Guard) (a : Reg) (s : State) : Result :=
  s.issue (.mzero g a) g (matrixAct fun s _ b t =>
    let ga := t.src a
    s.enterOp b t (natBits ga.toNat 31 8 == 0 && b.matTile (tileC ga) .c)
      { kind := .zero, ga := ga, gb := 0, gc := 0, steps := 1, conds := [(tileC ga, .writable)] })

/-- `mdrain` (R301). -/
def execMdrain (g : Guard) (a b : Reg) (s : State) : Result :=
  s.issue (.mdrain g a b) g (matrixAct fun s _ k t =>
    let ga := t.src a
    let gb := t.src b
    let rows := 64 * rowTiles gb
    let cols := 64 * colTiles gb
    let ok := natBits ga.toNat 31 16 == 0 && natBits gb.toNat 31 17 == 0 && k.matTile (tileC ga) .c &&
      k.matTile (tileA ga) .a && drainPair (k.fmt (tileC ga)) (drainFmt gb) (drainShift gb) &&
      k.fmt (tileA ga) == drainFmt gb && k.matBox (tileC ga) cols rows && k.matBox (tileA ga) cols rows
    s.enterOp k t ok
      { kind := .drain, ga := ga, gb := gb, gc := 0, steps := 1,
        conds := [(tileC ga, .operand), (tileA ga, .writable)] })

/-- `csel` (R302). -/
def execCsel (g : Guard) (a b : Reg) (s : State) : Result :=
  s.issue (.csel g a b) g (matrixAct fun s _ k t =>
    let ga := t.src a
    let gb := t.src b
    let ok := natBits ga.toNat 31 24 == 0 && natBits gb.toNat 31 30 == 0 && k.matTile (tileC ga) .c &&
      k.matTile (tileA ga) .a && k.matTile (tileV ga) .a && k.fmt (tileC ga) == 0x00 &&
      (k.fmt (tileA ga) == 0x06 || k.fmt (tileA ga) == 0x07) && k.fmt (tileV ga) == 0x00 &&
      k.matBox (tileC ga) (selCols gb) (selRows gb) && k.matBox (tileA ga) (selCols gb) (selK gb) &&
      k.matBox (tileV ga) (selCols gb) (selK gb)
    s.enterOp k t ok
      { kind := .csel, ga := ga, gb := gb, gc := 0, steps := 1,
        conds := [(tileC ga, .operand), (tileA ga, .writable), (tileV ga, .writable)] })

/-! ## `mseq` (R303) -/

/-- The status word of a block's matrix operations. -/
def State.mseqWord (s : State) (b : Block) : Word :=
  BitVec.ofNat 32 (b.mCause.toNat * 2 ^ 24 + (if 0 < s.opsOf b then 2 ^ 16 else 0) + (if b.mStop then 2 ^ 15 else 0) +
    b.mWd % 4 * 2 ^ 13 + b.mStep % 8192)

/-- `mseq`. -/
def execMseq (g : Guard) (d : Reg) (wait : Bool) (s : State) : Result :=
  s.issue (.mseq g d wait) g (withThread fun s x b _ =>
    if wait && 0 < s.opsOf b then .stall s .matrixIdle
    else .done (s.setThread x fun t => t.setG d.toNat (s.mseqWord b)) [])

/-! ## `mma.coop` (R299) -/

/-- What a block does in a cooperative operation: its index among the participants, and the words it gave. -/
structure Part where
  blk : Block
  thr : Thread
  ga  : Word
  gb  : Word
  gc  : Word

/-- The words of the `mma.coop` at which a control thread stands. -/
def State.partAt (s : State) (b : Block) : Option Part :=
  b.ctl.bind fun t =>
    match decode (s.wordAt b.core b.ctx t.pc) 0 0 with
    | .ok (.mmaCoop _ x y z _ _ _ _) => some { blk := b, thr := t, ga := t.src x, gb := t.src y, gc := t.src z }
    | _ => none

/-- The participants of a cooperative operation that are registered, in order. -/
def State.coopParts (s : State) (b : Block) (p l : Nat) : List Part :=
  (List.range p).filterMap fun i => (s.mate b (b.partBid l i)).bind fun k => if k.coop.isSome then s.partAt k else none

/-- Parks the control threads of registered participants with a cause, and ends their waits. -/
def State.parkParts (s : State) (blks : List Nat) (c : Cause) : State :=
  blks.foldl (fun s id =>
    match s.block id with
    | none => s
    | some b =>
      match b.ctl with
      | none => s
      | some t =>
        (s.parkGroup id [{ who := .ctl, cause := c, pc := t.pc, word := s.wordAt b.core b.ctx t.pc }]).modBlock id fun b =>
          { b with coop := none }) s

/-- The other participants of a block that have issued a cooperative operation. -/
def State.coopOthers (s : State) (b : Block) (p l : Nat) : List Block :=
  (List.range p).filterMap fun i => (s.mate b (b.partBid l i)).bind fun k =>
    if k.id != b.id && k.coop.isSome then some k else none

/-- Whether two registrations are equal in gB, S0, M and IMM16. -/
def CoopWait.same (a b : CoopWait) : Bool := a.gb == b.gb && a.s0 == b.s0 && a.cfg == b.cfg

/-- The cooperative operation of every participant enters the queues at one instant, and the control threads that waited
pass on. -/
def State.launchCoop (s : State) (own : Nat) (k : MatKind) (parts : List Part) : State :=
  let group := s.nextId
  let s := (parts.zipIdx).foldl (fun s (q : Part × Nat) =>
    let e := productEntry k q.1.ga q.1.gb q.1.gc (q.2 == 0)
    let fs := s.countedFlags q.1.blk q.1.thr none
    (s.enqueue q.1.blk q.1.thr.hdr fs e (some group)).modBlock q.1.blk.id fun b => { b with coop := none }) s
  parts.foldl (fun s q => if q.blk.id == own then s else s.passAll q.blk.id [.ctl] 1) s

/-- What a participant still waits for. -/
def State.partWait (s : State) (k : MatKind) (q : Part × Nat) : Option Wait :=
  s.matWait q.1.blk (productEntry k q.1.ga q.1.gb q.1.gc (q.2 == 0)) (s.countedFlags q.1.blk q.1.thr none)

/-- The participants with a recorded sequencer fault park with it before the instruction takes effect, and the others wait on
(R425). -/
def State.parkFaulty (s : State) (parts : List Part) : State :=
  parts.foldl (fun s q =>
    match q.blk.mFault with
    | some (c, d) =>
      (s.parkGroup q.blk.id [{ who := .ctl, cause := c, pc := q.thr.pc, detail := d,
                               word := s.wordAt q.blk.core q.blk.ctx q.thr.pc }]).modBlock q.blk.id fun b =>
        { b with coop := none, mFault := none }
    | none => s) s

/-- Goes on once every participant has issued: one with a recorded fault parks, formats that do not match raise 0x0C in each,
and tiles that are not ready are waited for. -/
def State.joinCoop (s : State) (b : Block) (k : MatKind) (parts : List Part) : Act :=
  if parts.any fun q => q.blk.mFault.isSome then .stall (s.parkFaulty parts) .coop else
  let gaB := ((parts.head?).map (·.ga)).getD 0
  let w := ((parts.head?).map (·.blk)).getD b
  if parts.any fun q => !q.blk.productFormats w k q.ga gaB then
    .failed (((s.modBlock b.id fun b => { b with coop := none }).parkParts
      ((parts.map (·.blk.id)).filter (· != b.id)) 0x0C)) 0x0C none 0
  else match (parts.zipIdx.filter fun q => q.1.blk.id == b.id).findSome? (s.partWait k) with
    | some x => .stall s x
    | none => if parts.zipIdx.all fun q => (s.partWait k q).isNone then .done (s.launchCoop b.id k parts) [] else .stall s .coop

/-- `mma.coop` in the control thread. -/
def coopAct (a b c : Reg) (scl : Bool) (kind : CoopKind) (p l : Nat) : State → Site → Act :=
  matrixAct fun s x n t =>
    let k : MatKind := .coop kind scl p l
    let ga := t.src a
    let gb := t.src b
    let gc := t.src c
    let i := if n.lr.gang = 0 then 0 else n.bid % n.lr.gang
    let mine : CoopWait :=
      { gb := gb, s0 := firstStep gc,
        cfg := (if scl then 1 else 0) + 2 * (match kind with
          | .mma => 0
          | .bs => 1
          | .np => 2) + 64 * (p - 1 + 4 * l),
        p := p, l := l, since := s.tick }
    let ok := n.lr.gang ≠ 0 && l ≤ i && i < l + p && l + p ≤ n.lr.gang && rowTiles gb % p = 0 &&
      productFields k ga gb gc && n.ownTiles k ga gb gc && (i ≠ l || n.weightTiles k ga gb gc)
    if !ok then .fault 0x0C none 0
    else
      let others := s.coopOthers n p l
      let mine := match n.coop with
        | some o => { mine with since := o.since }
        | none => mine
      if others.any fun o => !(o.coop.any fun v => v.same mine) then
        .failed ((s.modBlock x.blk fun b => { b with coop := none }).parkParts (others.map (·.id)) 0x0C) 0x0C none 0
      else
        let s := s.modBlock x.blk fun b => { b with coop := some mine }
        match s.block x.blk with
        | none => .gone s
        | some n =>
          if s.coopFull n then s.joinCoop n k (s.coopParts n p l) else .stall s .coop

/-- `mma.coop`. -/
def execMmaCoop (g : Guard) (a b c : Reg) (scl : Bool) (kind : CoopKind) (p : BitVec 2) (l : BitVec 5) (s : State) :
    Result :=
  s.issue (.mmaCoop g a b c scl kind p l) g (coopAct a b c scl kind (p.toNat + 1) l.toNat)

/-- COOP_TIMEOUT: the participants that wait for one that has not issued within 65,536 core cycles of the first park with
0x10 (R299). -/
def execCoopTimeout (blk : Nat) (s : State) : Result :=
  match s.block blk with
  | none => .next s
  | some b =>
    match b.coop with
    | none => .next s
    | some c =>
      let all := b :: s.coopOthers b c.p c.l
      let first := all.foldl (fun n k => Nat.min n ((k.coop.map (·.since)).getD n)) c.since
      if s.coopFull b || s.tick < first + Config.rendezvousCycles * Config.coreTicks then .next s
      else .next (s.parkParts (all.map (·.id)) 0x10)

end Sys2Proof.Machine
end

