-- ==== Sys2Proof/Machine/Memory.lean ====
section
/-! DEFINITION. The meanings of classes 0x5 and 0x6 (R247 to R255): loads, stores, `pf`, `push` and `pop`. -/

namespace Sys2Proof.Machine

/-! ## Loads -/

/-- What kind of load an instruction is. -/
structure LoadKind where
  acq : Bool
  nc  : Bool
  deriving DecidableEq, Repr

/-- A load of global memory (R251): it takes a request entry and binds its value later; of the mapped window table, at
issue. -/
def State.loadGlobal (s : State) (x : Site) (b : Block) (t : Thread) (o : Mem) (q : LoadKind) : Act :=
  let n := sizeBytes o.size
  let va := t.memAddr o
  if va.toNat % n ≠ 0 then .fault 0x07 (some va) 0
  else match (s.ctx b.ctx).mapped va.toNat n with
    | some bs =>
      s.withEntry b.core fun s => s.afterAcquire x fun s =>
        .done (s.madeReq x b t va (.own o.d (loadWords n o.sx bs))) []
    | none => (s.reach b va false true).act fun pte pa =>
      match s.readRefused pte pa n with
      | some c => .fault c (some va) 0
      | none =>
        s.unlessLost x pa fun s =>
          s.newReq x b t va pa pte o.nt (.load o.d n o.sx q.acq q.nc) fun s => .done s []

/-- Lays a store of the thread that has not reached the buffer yet over bytes read from it (R122). -/
def overBuf (k : Buf) (p : Nat) (bs : List Byte) (r : Req) : List Byte :=
  match r.kind with
  | .buf j q d _ =>
    if j == k && r.st == .issued then
      bs.mapIdx fun i v => if q ≤ p + i && p + i < q + d.length then d.getD (p + i - q) v else v
    else bs
  | _ => bs

/-- A load of a buffer: it reads at issue, under the thread's own stores, and its value returns later. -/
def State.loadBuf (s : State) (x : Site) (b : Block) (t : Thread) (o : Mem) (k : Buf) : Act :=
  let n := sizeBytes o.size
  let a := t.memAddr o
  match b.bufReach k a n with
  | .error c => .fault c (some a) 0
  | .ok p =>
    s.withEntry b.core fun s => s.afterAcquire x fun s =>
      let c := s.core b.core
      if c.bufBad k p n then s.badLoad b x.who t a (dieOf b.core)
      else
        let bs := (s.reqsOf x.blk x.who).foldl (overBuf k p) (memRead (c.buf k) p n)
        .done (s.madeReq x b t a (.own o.d (loadWords n o.sx bs))) []

/-- A load of the thread's stack at a stack pointer; `aligned` is what must be a multiple of the size, and `f` what the
instruction makes of the words it read. -/
def State.loadStack (s : State) (x : Site) (b : Block) (t : Thread) (o : Mem) (sp : Word) (aligned : Nat)
    (f : List Word → List Word) (g : Thread → Thread) : Act :=
  let n := sizeBytes o.size
  let va := t.stackAddr sp
  (s.stackReach b t sp aligned n false).act fun pte pa =>
    s.withEntry b.core fun s => s.afterAcquire x fun s =>
      let (bs, bad) := s.stackRead b va pa n
      if s.stackShut b va pa then .stall s (.again false)
      else if bad then s.badLoad b x.who t va (homeDie pa)
      else
        let bs := (s.reqsOf x.blk x.who).foldl (overStack va.toNat) bs
        let s := (s.stackUse b va pte pa).madeReq x b t va (.own o.d (f (loadWords n o.sx bs)))
        .done (s.setThread x g) []

/-- A snapshot read through a window (R159). -/
def State.loadWin (s : State) (x : Site) (b : Block) (t : Thread) (o : Mem) (acq : Bool) : Act :=
  let n := sizeBytes o.size
  let off := t.winAddr o
  let h := t.handleNo o
  if off.toNat % n ≠ 0 then .fault 0x07 (some off) 0
  else match (s.ctx b.ctx).winReach h off.toNat n false with
    | .fault c => .fault c (some off) h
    | .alias_ _ => .fault 0x0B (some off) 0
    | .ok w =>
      s.newReq x b t (BitVec.ofNat 64 (w.base.toNat + off.toNat)) 0 0 o.nt
        (.snap o.d n o.sx acq (BitVec.ofNat 16 h) w.peer w.pctx w.key) fun s =>
          .done (s.modCtx b.ctx fun k => { k with active := true }) []

/-- A load (R248, R249). -/
def loadMem (o : Mem) (q : LoadKind) : State → Site → Act :=
  withThread fun s x b t =>
    match o.space with
    | .glob => s.loadGlobal x b t o q
    | .w => s.loadBuf x b t o .w
    | .a => s.loadBuf x b t o .a
    | .c => s.loadBuf x b t o .c
    | .stack => s.loadStack x b t o (t.stackPtr o) (t.stackAddr (t.stackPtr o)).toNat id id
    | .win => s.loadWin x b t o q.acq

/-- `ld`. -/
def execLd (g : Guard) (o : Mem) (s : State) : Result := s.issue (.ld g o) g (loadMem o ⟨false, false⟩)

/-- `ld.acq`. -/
def execLdAcq (g : Guard) (o : Mem) (s : State) : Result := s.issue (.ldAcq g o) g (loadMem o ⟨true, false⟩)

/-- `ld.nc` (R141, R255). -/
def execLdNc (g : Guard) (o : Mem) (s : State) : Result := s.issue (.ldNc g o) g (loadMem o ⟨false, true⟩)

/-- The line of an address is fetched into the L1 of the core, or with NT into the near tier of its home alone (R254).
Whether the fetch completes is free. -/
def State.prefetch (s : State) (core : Nat) (pte : DWord) (pa : Nat) (nt : Bool) : State :=
  let (w, s) := s.pick 2
  if w = 0 || pteHeat pte || s.lineMoving pa || s.physBad (lineOf pa * 128) 128 then s
  else
    let line := lineOf pa
    let bs := s.physRead (line * 128) 128
    let s := if pteRepl pte then s else (s.pinNear pte line).nearAdd (homeDie pa) line bs
    if nt || (homeDie pa != dieOf core && !pteRepl pte) then s else s.l1Add core line bs

/-- `pf` (R254): it uses the translation buffers, and a translation that is absent or refused ends it silently. -/
def execPf (g : Guard) (o : Mem) (s : State) : Result :=
  s.issue (.pf g o) g (withThread fun s _ b t =>
    if o.space != .glob then .done s []
    else s.withEntry b.core fun s =>
      let va := t.memAddr o
      match s.coreXlat b.core b.ctx va false with
      | .fail _ => .done s []
      | .ok pte pa => .done ((s.tlbKeep b.core b.ctx va false true).prefetch b.core pte pa o.nt) [])

/-- What `pop` leaves in a run of registers from `d`: g111 has moved after the value was written (R248). -/
def popWords (d : Reg) (n : Nat) (ws : List Word) : List Word :=
  ws.mapIdx fun i w => if d.toNat + i = 111 then w + BitVec.ofNat 32 n else w

/-- `pop` (R253). -/
def execPop (g : Guard) (o : Mem) (s : State) : Result :=
  s.issue (.pop g o) g (withThread fun s x b t =>
    let sp := t.g 111
    let n := sizeBytes o.size
    s.loadStack x b t o sp sp.toNat (popWords o.d n) fun t => t.setG 111 (sp + BitVec.ofNat 32 n))

/-! ## Stores -/

/-- A store to global memory: it takes a request entry; to a HEAT page it is a deferred write (R152, R251). `rel` is the
scope of a release. -/
def State.storeGlobal (s : State) (x : Site) (b : Block) (t : Thread) (o : Mem) (rel : Option Scope) : Act :=
  let n := sizeBytes o.size
  let va := t.memAddr o
  let bs := t.storeBytes o.d n
  if va.toNat % n ≠ 0 then .fault 0x07 (some va) 0
  else if ((s.ctx b.ctx).mapped va.toNat n).isSome then .fault 0x09 (some va) 0
  else (s.reach b va true false).act fun pte pa =>
    let rule := (s.ctx b.ctx).hrule
    if pteHeat pte && !ruleShape rule.toNat va.toNat n then .fault 0x17 (some va) 0
    else if s.inRange pa n then .fault 0x09 (some va) 0
    else if pteHeat pte then s.withEntry b.core fun s => .done (s.deferLocal x b t va (.store rule) bs) []
    else
      s.unlessLost x pa fun s =>
        match rel with
        | some sc =>
          match s.reportLost x (s.lostAt sc) with
          | some a => a
          | none => s.newReq x b t va pa pte o.nt (.store bs o.ack (some sc)) fun s => .done s []
        | none => s.newReq x b t va pa pte o.nt (.store bs o.ack none) fun s => .done s []

/-- A store to a buffer: it takes a request entry, and reaches the buffer when the order among its thread's accesses and
among the writes of its bundle lets it (R123, R129, R141, R250). -/
def State.storeBuf (s : State) (x : Site) (b : Block) (t : Thread) (o : Mem) (k : Buf) (rel : Bool) : Act :=
  let n := sizeBytes o.size
  let a := t.memAddr o
  match b.bufReach k a n with
  | .error c => .fault c (some a) 0
  | .ok p => s.newReq x b t a 0 0 o.nt (.buf k p (t.storeBytes o.d n) rel) fun s => .done s []

/-- A store to the thread's stack at a stack pointer, which no other thread observes; `f` is the thread as it makes it. Its
entry is held until its acknowledgement (R248). -/
def State.storeStack (s : State) (x : Site) (b : Block) (t : Thread) (o : Mem) (sp : Word) (aligned : Nat)
    (f : Thread → Thread) : Act :=
  let n := sizeBytes o.size
  let va := t.stackAddr sp
  (s.stackReach b t sp aligned n true).act fun pte pa =>
    s.withEntry b.core fun s => .done ((s.stackStore x b t va pte pa ((f t).storeBytes o.d n)).setThread x f) []

/-- A store through an alias window (R332, R333): an engine command that follows the thread's earlier accesses (R137). The thread
goes on. -/
def State.storeAlias (s : State) (x : Site) (b : Block) (t : Thread) (o : Mem) (w : Window) : Act :=
  let n := sizeBytes o.size
  let off := (t.winAddr o).toNat
  let h := t.handleNo o
  match s.aliasColl b.ctx w with
  | none => .fault 0x0A (some (t.winAddr o)) h
  | some (coll, r) =>
    if n = 1 || n < collUnit r || off % n ≠ 0 then .fault 0x0B (some (t.winAddr o)) 0
    else s.withEntry b.core fun s =>
      let a : AliasWait := { blk := some x.blk, who := x.who, upto := s.nextId, core := b.core, ctx := b.ctx, coll := coll,
                             off := off, data := t.storeBytes o.d n, stamp := none }
      .done (s.aliasStore a r) []

/-- A store through a window (R92, R93, R157). One that is not aligned raises 0x07 (R251), through an alias window 0x0B
(R332). A release has no effect here (R152). -/
def State.storeWin (s : State) (x : Site) (b : Block) (t : Thread) (o : Mem) : Act :=
  let n := sizeBytes o.size
  let off := t.winAddr o
  let h := t.handleNo o
  let odd := off.toNat % n != 0
  let alias_ := ((s.ctx b.ctx).window h).any fun w => 4 ≤ w.kind.toNat && w.kind.toNat ≤ 6
  match (s.ctx b.ctx).winReach h off.toNat n true with
    | .fault c => if odd then .fault (if alias_ then 0x0B else 0x07) (some off) 0 else .fault c (some off) h
    | .alias_ w => s.storeAlias x b t o w
    | .ok w =>
      if odd then .fault 0x07 (some off) 0
      else if !ruleShape w.rule.toNat (w.base.toNat + off.toNat) n then .fault 0x0A (some off) h
      else s.withEntry b.core fun s => .done (s.deferWin x b t h w off.toNat (.store w.rule) (t.storeBytes o.d n)) []

/-- A store (R248, R249). -/
def storeMem (o : Mem) (rel : Option Scope) : State → Site → Act :=
  withThread fun s x b t =>
    match o.space with
    | .glob => s.storeGlobal x b t o rel
    | .w => s.storeBuf x b t o .w rel.isSome
    | .a => s.storeBuf x b t o .a rel.isSome
    | .c => s.storeBuf x b t o .c rel.isSome
    | .stack => s.storeStack x b t o (t.stackPtr o) (t.stackAddr (t.stackPtr o)).toNat id
    | .win => s.storeWin x b t o

/-- `st`. -/
def execSt (g : Guard) (o : Mem) (s : State) : Result := s.issue (.st g o) g (exceptHelper id (storeMem o none))

/-- `st.rel`. -/
def execStRel (g : Guard) (o : Mem) (s : State) : Result :=
  s.issue (.stRel g o) g (exceptHelper id (storeMem o (some o.scope)))

/-- The stack pointer of a thread moves down by a push. -/
def Thread.pushed (n : Nat) (t : Thread) : Thread := t.setG 111 (t.g 111 - BitVec.ofNat 32 n)

/-- `push` (R253). In a helper lane it stores nothing; the move of g111, an effect inside the lane, stays (R28, log entry 95). -/
def execPush (g : Guard) (o : Mem) (s : State) : Result :=
  s.issue (.push g o) g (exceptHelper (Thread.pushed (sizeBytes o.size)) (withThread fun s x b t =>
    let sp := t.g 111 - BitVec.ofNat 32 (sizeBytes o.size)
    s.storeStack x b t o sp sp.toNat (Thread.pushed (sizeBytes o.size))))

end Sys2Proof.Machine
end

