-- ==== Sys2Proof/Machine/Overlays.lean ====
section
/-! DEFINITION. The meanings of class 0xC (R309 to R313), and the end of an overlay load (R307, R311, R413). -/

namespace Sys2Proof.Machine

/-- The overlay id of gA. -/
def Thread.ovlId (t : Thread) (a : Reg) : BitVec 8 := (t.src a).extractLsb' 0 8

/-! ## `ovld` -/

/-- The mask of slots of a resident overlay. -/
def State.slotsHeld (s : State) (core c : Nat) (ovl : BitVec 8) : DWord :=
  match s.residentCopy core c ovl with
  | some k => k.mask
  | none => 0

/-- SLOTS of an overlay's entry. -/
def Context.ovlSlots (x : Context) (ovl : BitVec 8) : Nat := ((x.overlays.lookup ovl.toNat).map (·.slots)).getD 0

/-- The progress of an `ovld` whose load has ended: its status, its mask, and the writes of the core that its completion
follows, as a release at core scope (R134, R310). -/
def loadOver (c : Cause) (mask : DWord) (upto : Nat) : Progress :=
  { Progress.start with fail := some c, vals := [mask.toNat], gate := some upto }

/-- `ovld` in one thread: a load that ends at once completes the handle, once the earlier writes of the core are performed at
core scope; one under way is a command. -/
def State.ovld (s : State) (x : Site) (b : Block) (t : Thread) (h : Nat) (ovl : BitVec 8) : Act :=
  let n := (s.ctx b.ctx).ovlSlots ovl
  let fs := s.countedFlags b t none
  let sig : Signal := { hdl := some h, own := none, bar := none, scope := .core }
  let put (s : State) (c : Cause) (mask : DWord) : Act :=
    if s.sourceDone b.core s.nextId .core then
      .done (s.setThread x fun t => t.setH h { pending := false, op := 0, word := completionWord c n, result := mask }) []
    else s.startCmd x b t sig 0 (.ovld ovl none n) (loadOver c mask s.nextId)
  if !b.flagRoom fs then .stall s (.flagRoom fs)
  else match s.startLoad b.core b.ctx ovl b.seq b.lr.isq (some (x.blk, x.who)) with
    | (.failed c, s) => put s c 0
    | (.now, s) => put s 0 (s.slotsHeld b.core b.ctx ovl)
    | (.joined id, s) => s.startCmd x b t sig 0 (.ovld ovl (some id) n)

/-- `ovld`. -/
def execOvld (g : Guard) (d : BitVec 4) (a : Reg) (s : State) : Result :=
  s.issue (.ovld g d a) g (exceptHelper (fun t => t.clearH d.toNat) (withThread fun s x b t =>
    s.ovld x b t d.toNat (t.ovlId a)))

/-! ## Pins and evictions (R311) -/

/-- Gives one token on a copy to a block. -/
def OvlCopy.addToken (k : OvlCopy) (own : Nat × BitVec 8) : OvlCopy :=
  if k.pins.any (·.1 == own) then { k with pins := k.pins.map fun p => if p.1 == own then (p.1, p.2 + 1) else p }
  else { k with pins := k.pins ++ [(own, 1)] }

/-- Takes one token on a copy from a block. -/
def OvlCopy.dropToken (k : OvlCopy) (own : Nat × BitVec 8) : OvlCopy :=
  { k with pins := (k.pins.map fun p => if p.1 == own then (p.1, p.2 - 1) else p).filter (0 < ·.2) }

/-- Tokens that a block holds on an overlay. -/
def OvlCopy.tokens (k : OvlCopy) (own : Nat × BitVec 8) : Nat := (k.pins.lookup own).getD 0

/-- An overlay instruction other than `ovld` and `ovq` on an entry that must be valid (R309). -/
def onOverlay (a : Reg) (f : State → Site → Block → BitVec 8 → Act) : State → Site → Act :=
  withThread fun s x b t =>
    if ((s.ctx b.ctx).overlay (t.ovlId a)).isSome then f s x b (t.ovlId a) else .fault 0x09 none 0

/-- `ovpin`. -/
def execOvpin (g : Guard) (d : BitVec 3) (a : Reg) (s : State) : Result :=
  s.issue (.ovpin g d a) g (exceptHelper (fun t => t.setQ d false) (onOverlay a fun s x b ovl =>
    match s.copyOf b.core b.ctx ovl with
    | none => .done (s.setThread x fun t => t.setQ d false) []
    | some k =>
      if k.loading then .stall s (.ovpin ovl)
      else if k.pinCount < 65535 then
        .done (((s.modCopy b.core k.id fun k => k.addToken (b.id, ovl)).cancelEvict b.core b.ctx ovl).setThread x fun t =>
          t.setQ d true) []
      else .done (s.setThread x fun t => t.setQ d false) []))

/-- `ovunpin`: without a token it forms a log record and raises nothing. -/
def execOvunpin (g : Guard) (a : Reg) (s : State) : Result :=
  s.issue (.ovunpin g a) g (exceptHelper id (onOverlay a fun s _ b ovl =>
    match s.copyOf b.core b.ctx ovl with
    | some k =>
      if 0 < k.tokens (b.id, ovl) then .done ((s.modCopy b.core k.id fun k => k.dropToken (b.id, ovl)).settle b.core) []
      else .done s [(0x0F, 1)]
    | none => .done s [(0x0F, 1)]))

/-- Marks a context's reference to a copy. -/
def OvlCopy.markRef (k : OvlCopy) (c : Nat) (ovl : BitVec 8) (f : OvlRef → OvlRef) : OvlCopy :=
  { k with refs := k.refs.map fun r => if r.ctx == c && r.ovl == ovl then f r else r }

/-- `ovevict`. -/
def execOvevict (g : Guard) (d : BitVec 3) (a : Reg) (s : State) : Result :=
  s.issue (.ovevict g d a) g (exceptHelper (fun t => t.setQ d false) (onOverlay a fun s x b ovl =>
    let answer (s : State) (v : Bool) : Act := .done (s.setThread x fun t => t.setQ d v) []
    match s.copyOf b.core b.ctx ovl with
    | none => answer s true
    | some k =>
      if k.loading then
        answer (s.modCopy b.core k.id fun k => k.markRef b.ctx ovl fun r => { r with atEnd := true }) false
      else if (k.ref b.ctx ovl).any fun r => s.unused b.core k r then
        answer (s.modCore b.core fun c =>
          { c with copies := dropRefs c.copies k.id fun r => r.ctx == b.ctx && r.ovl == ovl }) true
      else answer (s.modCopy b.core k.id fun k => k.markRef b.ctx ovl fun r => { r with evicting := true }) false))

/-- Live threads whose PC lies in a copy, over every context that refers to it (R306, R313). -/
def State.copyPcs (s : State) (core : Nat) (k : OvlCopy) : Nat :=
  k.refs.foldl (fun n r => n + s.pcInside core r.ctx r.ovl) 0

/-- The word of `ovq`. -/
def State.ovqWord (s : State) (core c : Nat) (ovl : BitVec 8) : Word :=
  match s.copyOf core c ovl with
  | none => BitVec.ofNat 32 (s.pcInside core c ovl % 4096 * 16)
  | some k =>
    BitVec.ofNat 32 (s.ovlState core c ovl + (if k.refs.any (·.ctx != c) then 4 else 0) +
      s.copyPcs core k % 4096 * 16 + k.pinCount % 65536 * 65536)

/-- `ovq`. -/
def execOvq (g : Guard) (d a : Reg) (s : State) : Result :=
  s.issue (.ovq g d a) g (withThread fun s x b t =>
    .done (s.setThread x fun t' => t'.setG d.toNat (s.ovqWord b.core b.ctx (t.ovlId a))) [])

/-! ## The end of a load (R307, R310, R311, R413) -/

/-- The 64-bit words of an image. -/
def leWords : Nat → List Byte → List DWord
  | 0, _ => []
  | n + 1, bs => BitVec.ofNat 64 (leNat (bs.take 8)) :: leWords n (bs.drop 8)

/-- Reads and verifies the image of a copy with the translations of its core: its words, or the status. -/
def State.readImage (s : State) (core c : Nat) (k : OvlCopy) : Except Cause (List DWord) :=
  match s.coreSpan core c k.addr (k.nslots * 256) with
  | .error e => .error e
  | .ok bs => if sha3 bs == k.digest then .ok (leWords (k.nslots * 512) bs) else .error 0x09

/-- The accesses that a load follows as an engine command does: those that its thread made before it (R137, R307). -/
def State.loadAfter (s : State) (k : OvlCopy) : List Req :=
  match k.loader with
  | none => []
  | some (blk, w) => (s.reqsOf blk w).filter fun r => r.id < k.order

/-- Whether the image of a copy can be read: the accesses before it have been performed or are lost, and its lines can be
reached. -/
def State.imageOpen (s : State) (c : Nat) (k : OvlCopy) : Bool :=
  ((s.loadAfter k).all fun r => r.performed .pkg || s.lostAt .pkg r) && !s.areaShut c k.addr (k.nslots * 4096)

/-- The threads of a block that wait for the load of an overlay. -/
def Block.loadWaiters (b : Block) (ovl : BitVec 8) (starting : Bool) : List (Who × Thread) :=
  b.whos.filterMap fun w => (b.thread w).bind fun t =>
    if t.live && t.wait == .overlay ovl && t.start.isSome == starting then some (w, t) else none

/-- Threads that wait to start at an entry of a loaded overlay start, or park with the status of the load; those that
waited for the block's other overlay go on, whatever became of it (R57, R413). -/
def State.startWaiters (s : State) (b : Block) (ovl : BitVec 8) (k : Option OvlCopy) (c : Cause) : State :=
  let l := b.loadWaiters ovl true
  let ents : List (Option Nat × Option (BitVec 8 × BitVec 8)) := (l.map fun p => (winOf p.1, p.2.start)).eraseDups
  ents.foldl (fun (s : State) (e : Option Nat × Option (BitVec 8 × BitVec 8)) =>
    let ws := (l.filter fun (p : Who × Thread) => winOf p.1 == e.1 && p.2.start == e.2).map (·.1)
    match e.2 with
    | none => s
    | some (own, ent) =>
      if own != ovl then s.startAt b.id own ent.toNat ws
      else match k with
        | some k => s.startResident b.id k ovl ent.toNat ws
        | none => s.parkForRuntime b.id (ws.map (startPark ovl ent.toNat c))) s

/-- Threads that wait at a transfer into an overlay park with the status of its load (R232, R414): the threads of one
window at one word park as one group. -/
def State.failWaiters (s : State) (b : Block) (ovl : BitVec 8) (c : Cause) : State :=
  let l := b.loadWaiters ovl false
  let keys : List (Option Nat × Word) := (l.map fun p => (winOf p.1, p.2.pc)).eraseDups
  keys.foldl (fun (s : State) (e : Option Nat × Word) =>
    s.parkGroup b.id ((l.filter fun p => winOf p.1 == e.1 && p.2.pc == e.2).map fun p =>
      { who := p.1, cause := c, pc := p.2.pc, enter := p.2.entering, word := s.wordAt b.core b.ctx p.2.pc,
        detail := ovl.toNat })) s

/-- The event of a block that found its handler not resident, and whose load of it has failed, goes to the runtime (R413). -/
def State.failHandler (s : State) (b : Block) (ovl : BitVec 8) (c : Cause) : State :=
  match b.parks with
  | e :: _ =>
    if b.lr.hovl == ovl && b.hovlDue then (s.dropEvent b.id).tellRuntime b e.who e.cause e.hrec c.toNat else s
  | [] => s

/-- The `ovld` commands that wait for a load end with it: what remains is their completion. -/
def State.endLoads (s : State) (core copy : Nat) (c : Cause) (mask : DWord) : State :=
  let joins (x : Cmd) : Bool := x.core == core && (match x.kind with
    | .ovld _ (some id) _ => id == copy && x.run.gate.isNone
    | _ => false)
  { s with cmds := s.cmds.map fun x => if joins x then { x with run := loadOver c mask s.nextId } else x }

/-- The completion of an `ovld` whose load has ended: the slots that its word counts, its status and its mask. -/
def Cmd.loadEnd (c : Cmd) : Option Done :=
  match c.kind, c.run.gate with
  | .ovld _ _ n, some _ =>
    some { status := c.run.fail.getD 0, count := n, result := BitVec.ofNat 64 (c.run.vals.headD 0) }
  | _, _ => none

/-- Whether an `ovld` completes: its load has ended, and the writes that its core sent before are performed at core scope
(R134, R310). -/
def State.loadCloses (s : State) (c : Cmd) : Bool :=
  c.loadEnd.isSome && s.sourceDone c.core (c.run.gate.getD 0) .core

/-- OVLD_DONE, a step of the model's own: the oldest `ovld` that can completes. -/
def State.closeLoads (s : State) : State :=
  match s.cmds.find? s.loadCloses with
  | some c => s.closeCmd c (c.loadEnd.getD { status := 0, count := 0 })
  | none => s

/-- The requests to evict that waited for the load: a waiting transfer cancels them (R311). -/
def State.endRequests (s : State) (core copy : Nat) : State :=
  (s.modCopy core copy fun k =>
    { k with refs := k.refs.map fun r =>
        if r.atEnd then { r with atEnd := false, evicting := s.pcComing core r.ctx r.ovl == 0 } else r }).settle core

/-- The load of a copy ends for one reference: a good image lets its threads start, a failed one parks them. -/
def State.endLoadRef (s : State) (core : Nat) (r : OvlRef) (k : Option OvlCopy) (c : Cause) : State :=
  (s.blocks.filter fun b => b.core == core && b.ctx == r.ctx).foldl (fun s b =>
    let s := s.startWaiters b r.ovl k c
    if k.isNone then (s.failWaiters b r.ovl c).failHandler b r.ovl c else s) s

/-- A load ends (OVERLAY_LOAD_COMPLETE): the image is read and its digest compared, once the accesses that the load follows
are performed and its lines can be reached. -/
def execOverlayLoadComplete (core copy : Nat) (s : State) : Result :=
  .next (match (s.core core).copies.find? fun k => k.id == copy && (k.loading || k.reload) with
    | none => s
    | some k =>
      match k.refs with
      | [] => s
      | r :: _ =>
        if !s.imageOpen r.ctx k then s
        else
        let whole := s.coreKeepSpan core r.ctx k.addr (k.nslots * 256)
        match s.readImage core r.ctx k with
        | .ok ws =>
          let done (k : OvlCopy) : OvlCopy := { k with loading := false, words := ws, bad := [], reload := false }
          let k' := done k
          let s := (whole.modCopy core copy done).endLoads core copy 0 k.mask
          (k.refs.foldl (fun s r => s.endLoadRef core r (some k') 0) s).endRequests core copy
        | .error c =>
          let s := whole.modCore core fun x => { x with copies := x.copies.filter (·.id != copy) }
          let s := if c == 0x13 then s.logRecord r.ctx 0x13 (BitVec.ofNat 8 core) 1 0xFFFFFFFF 0 0xFFFF else s
          let s := s.endLoads core copy c 0
          k.refs.foldl (fun s r => s.endLoadRef core r none c) s)

end Sys2Proof.Machine
end

