-- ==== Sys2Proof/Machine/Quench.lean ====
section
/-! DEFINITION. The quench (R161 to R163, R166, R404, R434, R435, R437, R449): arrival and activity, the apply of a heat's
deferred writes, the release with the quench status, the skew limit, and readmission. -/

namespace Sys2Proof.Machine

/-! ## The units of an apply (R157, R163) -/

/-- The byte that a write puts at an address. -/
def writeByte (w : DWrite) (a : Nat) : Option Byte :=
  if w.addr ≤ a && a < w.addr + w.data.length then w.data[a - w.addr]? else none

/-- The rule of a deferred store; none for a `red`. -/
def storeRule (w : DWrite) : Option Nat :=
  match w.kind with
  | .store r => some r.toNat
  | .redAdd _ | .redMin _ | .redMax _ | .redOr _ => none

/-- The rule that a deferred write carries (R154). -/
def writeRule (w : DWrite) : BitVec 4 :=
  match w.kind with
  | .store r | .redAdd r | .redMin r | .redMax r | .redOr r => r

/-- Whether a store combines 32-bit elements. -/
def wordRule (r : Nat) : Bool := 2 ≤ r && r ≤ 8

/-- Whether a write touches some bytes. -/
def writeTouches (a n : Nat) (w : DWrite) : Bool := w.addr < a + n && a < w.addr + w.data.length

/-- What becomes of a unit: it is not written, it is in conflict, or it takes a value, with the causes met. -/
inductive UnitEnd where
  | keep
  | conflict
  | value (v : Nat) (cs : List Cause)
  deriving DecidableEq, Repr

/-- Whether the writes of a unit conflict: stores under two rules, or two writes under FAULT. The rule of a unit without
stores is that of its first reduce operation. -/
def inConflict (ws reds : List DWrite) : Bool :=
  match (ws.filterMap storeRule).eraseDups with
  | [] => (reds.head?.map writeRule) == some 9 && 2 ≤ reds.length
  | [r] => r == 9 && 2 ≤ ws.length + reds.length
  | _ => true

/-- Folds values into a first one, keeping the causes. -/
def foldComb (f : Nat → Nat → Combined) (v : Nat) (cs : List Cause) : List Nat → Nat × List Cause
  | [] => (v, cs)
  | d :: ds => let r := f v d; foldComb f r.1 (cs ++ r.2.toList) ds

/-- One byte as its own unit, under rules 0, 1 and 9. -/
def byteUnit (ws : List DWrite) (a : Nat) : UnitEnd :=
  let mine := ws.filter (writeTouches a 1)
  let data := mine.filterMap fun w => writeByte w a
  if inConflict mine [] then .conflict
  else match (mine.head?.bind storeRule), data with
    | none, _ => .keep
    | _, [] => .keep
    | some 0, d :: ds => .value (((d :: ds).getLast?.getD d).toNat) []
    | some _, d :: _ => .value d.toNat []

/-- The stores of a word that is one unit: the value they leave over the old one (R163). -/
def wordStores (old : Nat) (ws reds : List DWrite) (a : Nat) : UnitEnd :=
  if inConflict ws reds then .conflict
  else match ws.head?.bind storeRule with
    | none => .value old []
    | some r =>
      if wordRule r then
        match ws.map fun w => leNat ((w.data.drop (a - w.addr)).take 4) with
        | [] => .value old []
        | v :: vs => let f := foldComb (ruleComb r) v [] vs; .value f.1 f.2
      else
        .value (leNat ((List.range 4).map fun i =>
          let l := ws.filterMap fun w => writeByte w (a + i)
          (if r = 0 then l.getLast? else l.head?).getD (BitVec.ofNat 8 (old / 2 ^ (8 * i))))) []

/-- A 64-bit deferred `red` on a value. -/
def redComb64 (k : DKind) (v d : Nat) : Nat :=
  match k with
  | .store _ => d
  | .redAdd _ => (v + d) % 2 ^ 64
  | .redMin _ => if natSigned 64 d < natSigned 64 v then d else v
  | .redMax _ => if natSigned 64 v < natSigned 64 d then d else v
  | .redOr _ => Nat.lor v d

/-- The reduce operations of a word, in canonical order. -/
def redFold (v : Nat) (cs : List Cause) : List DWrite → Nat × List Cause
  | [] => (v, cs)
  | w :: ws => let r := redComb w.kind v (leNat w.data); redFold r.1 (cs ++ r.2.toList) ws

/-- The reduce operations of two adjacent words when some are of 64 bits: each works on its own part. -/
def redFold64 (a v : Nat) (cs : List Cause) : List DWrite → Nat × List Cause
  | [] => (v, cs)
  | w :: ws =>
    if w.data.length = 8 then redFold64 a (redComb64 w.kind v (leNat w.data)) cs ws
    else
      let sh := if w.addr = a then 1 else 2 ^ 32
      let part := v / sh % 2 ^ 32
      let r := redComb w.kind part (leNat w.data)
      redFold64 a (v - part * sh + r.1 * sh) (cs ++ r.2.toList) ws

/-- What an apply has found: bytes to write, units in conflict, causes met. -/
structure Applied where
  writes : List (Nat × List Byte)
  clash  : List Nat
  causes : List Cause

/-- Adds the end of a unit of `n` bytes. -/
def Applied.add (x : Applied) (a n : Nat) (e : UnitEnd) : Applied :=
  match e with
  | .keep => x
  | .conflict => { x with clash := x.clash ++ [a] }
  | .value v cs => { x with writes := x.writes ++ [(a, leBytes n v)], causes := x.causes ++ cs }

/-- One aligned word. -/
def applyWord (read : Nat → Nat → Nat) (ws : List DWrite) (x : Applied) (a : Nat) : Applied :=
  let mine := ws.filter (writeTouches a 4)
  let stores := mine.filter fun w => (storeRule w).isSome
  let reds := mine.filter fun w => (storeRule w).isNone
  if reds.isEmpty && stores.all fun w => (storeRule w).all fun r => !wordRule r then
    (List.range 4).foldl (fun x i => x.add (a + i) 1 (byteUnit stores (a + i))) x
  else x.add a 4 (match wordStores (read a 4) stores reds a with
    | .value v cs => let f := redFold v cs reds; .value f.1 f.2
    | e => e)

/-- One aligned pair of words: together when a `red` of 64 bits works on them. -/
def applyPair (read : Nat → Nat → Nat) (ws : List DWrite) (x : Applied) (a : Nat) : Applied :=
  let mine := ws.filter (writeTouches a 8)
  let reds := mine.filter fun w => (storeRule w).isNone
  if reds.any fun w => w.data.length = 8 then
    let part (b : Nat) : UnitEnd :=
      let stores := (mine.filter (writeTouches b 4)).filter fun w => (storeRule w).isSome
      wordStores (read b 4) stores (reds.filter (writeTouches b 4)) b
    match part a, part (a + 4) with
    | .value lo c0, .value hi c1 =>
      let f := redFold64 a (lo + hi * 2 ^ 32) (c0 ++ c1) reds
      x.add a 8 (.value f.1 f.2)
    | _, _ => x.add a 8 .conflict
  else [a, a + 4].foldl (applyWord read mine) x

/-- The canonical order: source package, then source sequence. -/
def canonical (ws : List DWrite) : List DWrite :=
  sortBy (fun a b => a.spkg.toNat < b.spkg.toNat || (a.spkg == b.spkg && a.seq.toNat ≤ b.seq.toNat)) ws

/-- The aligned 8-byte addresses that some writes touch, ascending. -/
def pairsOf (ws : List DWrite) : List Nat :=
  sortBy (fun a b => a ≤ b) ((ws.flatMap fun w =>
    (List.range ((w.addr % 8 + w.data.length + 7) / 8)).map fun i => (w.addr / 8 + i) * 8).eraseDups)

/-- The old value of a unit; a byte of a bad sector is a free value (DESIGN CHOICE, log entry 140). -/
def State.unitOld (s : State) (c a n : Nat) : Nat :=
  leNat ((List.range n).map fun i =>
    match s.xlat c (BitVec.ofNat 64 (a + i)) true with
    | .ok _ pa => if s.physBad pa 1 then (Config.freeWord (s.fresh + a + i)).setWidth 8 else memGet s.mem pa
    | .fail _ => 0)

/-- Everything that an apply does to a context's units. -/
def State.applied (s : State) (c : Nat) (ws : List DWrite) : Applied :=
  let l := canonical ws
  (pairsOf l).foldl (applyPair (s.unitOld c) l) { writes := [], clash := [], causes := [] }

/-! ## Arrival and activity (R161, R449) -/

/-- Whether a heat-bound block has arrived: every launched thread and the control thread that is live has, and none of them
is parked (R43, R161). -/
def Block.atQuench (b : Block) (h : Nat) : Bool :=
  let here (t : Thread) : Bool := t.arrived == some h && !t.parked
  (b.threads.all fun t => !t.live || t.helper || here t) && b.ctl.all fun t => !t.live || here t

/-- Whether a request is a snapshot read that has not returned. -/
def Req.snapOut (r : Req) : Bool :=
  match r.kind with
  | .snap _ _ _ _ _ _ _ _ => !r.returned
  | .load _ _ _ _ _ | .store _ _ _ | .atomic _ _ _ _ _ _ _ | .clean _ | .own _ _ | .buf _ _ _ _ | .stk _ _ | .lock | .defer _ => false

/-- Whether a request is a deferred write of a heat that has not reached the Anvil yet. -/
def Req.defersBy (r : Req) (h : Nat) : Bool :=
  match r.kind with
  | .defer o => r.st == .issued && o.bound && o.heat ≤ h
  | _ => false

/-- Whether the package may arrive at the quench of a context's heat. -/
def State.arrives (s : State) (c : Nat) : Bool :=
  let x := s.ctx c
  let h := x.heat.toNat
  !x.closed && !x.selfSusp &&
    (s.blocks.all fun b => b.ctx != c || !b.lr.heatF || b.atQuench h) &&
    (s.launches.all fun l => l.ctx != c || !l.lr.heatF || l.skip.isSome ||
      (s.unsent l == 0 && (s.sentBlocks l.seq).isEmpty)) &&
    (s.reqs.all fun r => r.ctx != c || (!r.snapOut && !r.defersBy h)) &&
    (x.inFlight.all fun o => o.heat != h) &&
    x.outbound.all fun o => !o.bound || h < o.heat

/-- Whether every member has arrived, as this package knows. -/
def Context.allArrived (x : Context) : Bool := x.present.all fun p => x.arrivals.contains p

/-- The skew starts when the first arrival and the first report of activity have both been seen (R166). -/
def Context.startSkew (x : Context) (now : Nat) : Context :=
  if x.skewAt.isNone && x.actRep && !x.arrivals.isEmpty then { x with skewAt := some now } else x

/-- A member's arrival is seen; the last one ends the skew, which the root samples. -/
def State.seeArrival (s : State) (c : Nat) (p : BitVec 20) : State :=
  let now := s.tick
  let s := s.modCtx c fun x =>
    { x with arrivals := if x.arrivals.contains p then x.arrivals else x.arrivals ++ [p] }.startSkew now
  let x := s.ctx c
  if x.isRoot s.pkg && x.allArrived then s.sampleAnvil 0x102 0 ((now - x.skewAt.getD now) / usTicks) else s

/-- PACKAGE_ARRIVE: the package closes its heat; its later writes are stamped with the next one. -/
def execPackageArrive (ctx : Nat) (s : State) : Result :=
  if !s.arrives ctx then .next s
  else
    let s := s.modCtx ctx fun x =>
      { x with closed := true, seqNo := 0, budgets := [] }
    .next (s.seeArrival ctx s.pkg)

/-- ACTIVITY_REPORT: a member reports that something has happened in the heat: this package with its arrival, or later. -/
def execActivityReport (ctx : Nat) (pkg : BitVec 20) (s : State) : Result :=
  let x := s.noteReady.ctx ctx
  let now := s.tick
  if !s.pathFrom pkg || !x.present.contains pkg || (pkg == s.pkg && !(x.active && x.closed)) then .next s
  else .next (s.noteReady.modCtx ctx fun x => { x with actRep := true }.startSkew now)

/-- QUENCH_ARRIVAL_REPORT: another member has arrived, with the windows it tore and its reports. A suspended member does
not arrive, and only its reports count (R437). -/
def execQuenchArrivalReport (ctx : Nat) (pkg : BitVec 20) (torn : List (Option (BitVec 16))) (reports : List Report)
    (s : State) : Result :=
  let x := s.ctx ctx
  let h := x.heat.toNat
  if pkg == s.pkg || !s.hasPath || !(x.present.contains pkg || x.susp.contains pkg) || x.arrivals.contains pkg then .next s
  else
    let s := s.modCtx ctx fun x =>
      { x with torn := x.torn ++ torn.map fun w => (h, pkg, w), reports := x.reports ++ reports.map fun r => (h, r) }
    .next (if x.present.contains pkg then s.seeArrival ctx pkg else s)

/-! ## Apply (R163, R434) -/

/-- Whether the apply of a context's heat may run here: the heat is closed, and at the root every member has arrived and
one has reported activity. -/
def State.applies (s : State) (c : Nat) : Bool :=
  let x := s.ctx c
  x.closed && !x.applied && x.tq.isNone && !x.void &&
    (if x.isRoot s.pkg then x.allArrived && x.actRep else s.hasPath)

/-- Whether a window of a package is torn: it, or the package whole (R432). -/
def isTorn (torn : List (BitVec 20 × Option (BitVec 16))) (w : DWrite) : Bool :=
  torn.contains (w.spkg, none) || (!w.direct && torn.contains (w.spkg, some w.win))

/-- The records of a heat that an apply uses: those of no torn window. -/
def Context.heatWrites (x : Context) (torn : List (BitVec 20 × Option (BitVec 16))) : List DWrite :=
  x.buffer.filter fun w => w.heat == x.heat && !isTorn torn w

/-- Writes the bytes of one unit and stamps its region (R164). A unit of a die that has failed is refused (DESIGN CHOICE, log
entry 130). -/
def State.applyUnit (s : State) (c h : Nat) (e : Nat × List Byte) : State :=
  match s.xlat c (BitVec.ofNat 64 e.1) true with
  | .fail x => s.reportHeat c h (plainReport x s.pkg e.1)
  | .ok pte pa =>
    if s.inRange pa e.2.length || s.dead pa e.2.length then s.reportHeat c h (plainReport 0x09 s.pkg e.1)
    else ((s.pinLines pte pa e.2.length).landWrite pa e.2).modCtx c fun x =>
      let r := e.1 / 2 ^ 21
      { x with stamps := (r, BitVec.ofNat 48 (h + 1)) :: x.stamps.filter fun p => p.1 != r }

/-- The bytes of far memory that the units of an apply write. -/
def State.applyBytes (s : State) (c : Nat) (l : List (Nat × List Byte)) : List Nat :=
  l.flatMap fun e =>
    match s.xlat c (BitVec.ofNat 64 e.1) true with
    | .ok _ pa => (List.range e.2.length).map (pa + ·)
    | .fail _ => []

/-- An apply that covers a bad sector whole clears its mark (R430): a line is updated as one event. -/
def State.mendSectors (s : State) (pas : List Nat) : State :=
  { s with bad := s.bad.filter fun k => !((List.range 16).all fun i => pas.contains (16 * k + i)) }

/-- The units that combine into their old value and lie in a bad sector: each read is an uncorrectable error (R405, R430). -/
def State.applyBad (s : State) (c : Nat) (ws : List DWrite) : List Nat :=
  (pairsOf ws).filter fun a =>
    (ws.any fun w => (storeRule w).isNone && writeTouches a 8 w) &&
      (match s.xlat c (BitVec.ofNat 64 a) true with
       | .ok _ pa => s.physBad pa 8
       | .fail _ => false)

/-- Whether every line that an apply writes can be reached, and no write of it waits (R121, R426, R443). -/
def State.applyOpen (s : State) (c : Nat) (l : List (Nat × List Byte)) : Bool :=
  l.all fun e =>
    match s.xlat c (BitVec.ofNat 64 e.1) true with
    | .ok _ pa => !s.shut pa e.2.length
    | .fail _ => true

/-- The arithmetic causes of an apply, each with its count. -/
def State.logApply (s : State) (c : Nat) (cs : List Cause) : State :=
  cs.eraseDups.foldl (fun s e => s.logEngine c e (cs.filter (· == e)).length 0) s

/-- QUENCH_APPLY: this package applies the records of the heat. -/
def execQuenchApply (ctx : Nat) (torn : List (BitVec 20 × Option (BitVec 16))) (s : State) : Result :=
  if !s.applies ctx then .next s
  else
    let x := s.ctx ctx
    let h := x.heat.toNat
    let own := (x.torn.filter fun t => t.1 == h).map (·.2)
    let ws := x.heatWrites (own ++ torn)
    let a := s.applied ctx ws
    if !s.applyOpen ctx a.writes then .next s
    else
      let s := (s.applyBad ctx ws).foldl (fun s _ => s.logEngine ctx 0x13 1 0) s
      let s := (a.writes.foldl (fun s e => s.applyUnit ctx h e) s).mendSectors (s.applyBytes ctx a.writes)
      let s := a.clash.foldl (fun s e => s.reportHeat ctx h (plainReport 0x19 s.pkg e)) s
      .next ((s.logApply ctx a.causes).modCtx ctx fun x => { x with applied := true })

/-- QUENCH_DONE: a destination has applied the heat; with the last one T_q is fixed. The reports are those of another
member. -/
def execQuenchDone (ctx : Nat) (pkg : BitVec 20) (reports : List Report) (s : State) : Result :=
  let x := s.ctx ctx
  let h := x.heat.toNat
  let now := s.tick
  if !s.pathFrom pkg || !x.closed || x.void || x.tq.isSome || !x.present.contains pkg || x.dones.contains pkg ||
      (pkg == s.pkg && !x.applied) || (x.isRoot s.pkg && !(x.allArrived && x.actRep)) then .next s
  else .next (s.modCtx ctx fun x =>
    let x := { x with dones := x.dones ++ [pkg],
                      reports := if pkg == s.pkg then x.reports else x.reports ++ reports.map fun r => (h, r) }
    if x.present.all fun p => x.dones.contains p then { x with tq := some now } else x)

/-! ## Release (R162, R404, R437) -/

/-- The reports of a heat in their order: package, sequence, address (R404, R431). -/
def orderReports (l : List Report) : List Report :=
  sortBy (fun a b =>
    a.pkg.toNat < b.pkg.toNat || (a.pkg == b.pkg && (a.seq < b.seq || (a.seq == b.seq && a.addr.toNat ≤ b.addr.toNat)))) l

/-- The 32 bytes of the quench status (R404). -/
def quenchStatus (h : Nat) (l : List Report) : List Byte :=
  let first := l.head?
  let mask := l.foldl (fun (m : Word) r =>
    if 8 ≤ r.cause.toNat && r.cause.toNat ≤ 31 then m ||| (1#32 <<< (r.cause.toNat - 8)) else m) 0
  leBytes 6 h ++ [(first.map (·.cause)).getD 0, 0] ++ leBytes 4 mask.toNat ++
    leBytes 3 ((first.map (·.pkg.toNat)).getD 0) ++ [0] ++ leBytes 2 ((first.map (·.win.toNat)).getD 0xFFFF) ++
    leBytes 2 0 ++ leBytes 4 (Nat.min l.length 0xFFFFFFFF) ++ leBytes 8 ((first.map (·.addr.toNat)).getD 0)

/-- Writes the quench status; one that cannot be written is lost, and the first such failure is reported. -/
def State.writeStatus (s : State) (c : Nat) (bs : List Byte) : State :=
  let x := s.ctx c
  if x.qstat = 0 then s
  else match s.vwrite c x.qstat bs with
    | .ok s => s
    | .error e =>
      if x.qstatFail then s
      else (s.modCtx c fun x => { x with qstatFail := true }).ctxEvent c (refusedCause e) x.qstat.toNat 0

/-- What a context keeps into its next heat: the registrations not thawed, the reports, tears and records of later heats,
and the members readmitted. -/
def Context.nextHeat (x : Context) (next : BitVec 48) (cause : Cause) (bound : Bool) : Context :=
  let h := x.heat.toNat
  { x with
    heat := next, closed := false, arrivals := [], actRep := false, active := bound, applied := false, dones := [],
    tq := none, void := false, skewAt := none, susp := x.susp.filter fun p => !x.readmit.contains p, readmit := [],
    torn := x.torn.filter fun t => h < t.1, reports := x.reports.filter fun r => h < r.1, portBad := false,
    qcause := cause, buffer := x.buffer.filter fun w => h < w.heat.toNat && next ≤ w.heat,
    frozen := x.frozen.filter fun f => !f.thawed }

/-- The release of a package from the quench. -/
def State.releaseHeat (s : State) (c : Nat) : State :=
  let x := s.ctx c
  let h := x.heat.toNat
  let l := orderReports ((x.reports.filter fun r => r.1 == h).map (·.2))
  (((s.writeStatus c (quenchStatus h l)).modCtx c fun x =>
    x.nextHeat (x.heat + 1) ((l.head?.map (·.cause)).getD 0) (s.heatBlocks c)).beginHeat c).noteReady

/-- A suspended member is readmitted: it takes the domain's heat and the members that are suspended there, and `heat.wait`
returns with its predicate set. -/
def State.readmitSelf (s : State) (c : Nat) (heat : BitVec 48) (susp : List (BitVec 20)) : State :=
  (s.modCtx c fun x =>
    { (x.nextHeat heat 0x1A (s.heatBlocks c)) with
      seqNo := 0, budgets := [], selfSusp := false, susp := susp.filter (· != s.pkg) }).beginHeat c

/-- Whether the quench status cannot be written yet: its line cannot be reached (R426, R443). -/
def State.statusShut (s : State) (c : Nat) : Bool :=
  let a := (s.ctx c).qstat
  a != 0 && (s.xlat c a true).waits s 32

/-- QUENCH_RELEASE: after T_q, the tree's latency and the stagger, the package is released. To a suspended member whose request
the root has, the release carries the domain's new `%heat` and its suspended members (R437; log entry 139); a later heat than the
member's own. -/
def execQuenchRelease (r : HeatRelease) (s : State) : Result :=
  let ctx := r.ctx
  let x := s.ctx ctx
  if (!x.isRoot s.pkg && !s.hasPath) || s.statusShut ctx then .next s
  else if x.selfSusp then .next (if x.readmit.contains s.pkg && x.heat < r.heat then s.readmitSelf ctx r.heat r.susp else s)
  else match x.tq with
    | none => .next s
    | some t =>
      if s.tick < t + Config.treeLatency s.pkg.toNat + s.stagger then .next s else .next (s.releaseHeat ctx)

/-! ## Skew and readmission (R166, R435, R437) -/

/-- The members that have not arrived. -/
def Context.missing (x : Context) : List (BitVec 20) := x.present.filter fun p => !x.arrivals.contains p

/-- A heat becomes void: its records are discarded without a report, the late members are suspended, and each of them is
reported by itself, here beside the other members' reports: this package reports itself, with a log record and a context event
(R431, R435 to R437). -/
def State.voidHeat (s : State) (c : Nat) (late : List (BitVec 20)) (reports : List Report) : State :=
  let h := (s.ctx c).heat.toNat
  let now := s.tick
  let others := (late.filter (· != s.pkg)).map fun p => plainReport 0x1A p 0
  let s := s.modCtx c fun x =>
    { x with
      void := true, tq := some now, susp := x.susp ++ late, selfSusp := late.contains s.pkg,
      buffer := x.buffer.filter fun w => h < w.heat.toNat,
      reports := x.reports ++ (others ++ reports).map fun r => (h, r) }
  if late.contains s.pkg then (s.reportHeat c h (plainReport 0x1A s.pkg 0)).ctxEvent c 0x1A 0 0 else s

/-- QUENCH_SKEW_TIMEOUT: the skew limit has passed with a member unarrived, and the heat is aborted: at the root by its own
clock, at another member, which has applied nothing of the heat, when the root's abort arrives with the members that are late.
Reports of other members, but for those of being late, come up the tree with it. -/
def execQuenchSkewTimeout (a : HeatAbort) (s : State) : Result :=
  let ctx := a.ctx
  let x := s.ctx ctx
  let late := x.present.filter fun p => a.late.contains p
  if x.void || x.applied || x.tq.isSome || x.selfSusp then .next s
  else if x.isRoot s.pkg then
    match x.skewAt with
    | none => .next s
    | some t =>
      if x.missing.isEmpty || s.tick < t + x.skewMs * Config.msTicks then .next s else .next (s.voidHeat ctx x.missing a.reports)
  else if !s.hasPath || late.isEmpty || !(x.closed || late.contains s.pkg) then .next s
  else .next (s.voidHeat ctx late a.reports)

/-- READMISSION_REQUEST: the runtime of a suspended member asks for it to be admitted again at the next release. -/
def execReadmissionRequest (ctx : Nat) (pkg : BitVec 20) (s : State) : Result :=
  s.byRuntime (
    if (s.ctx ctx).susp.contains pkg && s.pathFrom pkg then
      .next (s.modCtx ctx fun x => { x with readmit := if x.readmit.contains pkg then x.readmit else x.readmit ++ [pkg] })
    else .next s)

end Sys2Proof.Machine
end

