-- ==== Sys2Proof/Machine/Records.lean ====
section
/-! DEFINITION. What the runtime writes into a context record and into the tables it names (R10, R155, R305, R331, R354,
R357, R358, R398, R403, R404, R441), and the end of a translation removal (R323). -/

namespace Sys2Proof.Machine

/-! ## Control structures (R10) -/

/-- Bytes of a control structure of a size; none when the size lies outside its range. -/
def structBytes (st : CtlStruct) (n : Nat) : Option Nat :=
  match st with
  | .queue q => if q < 16 && 4 ≤ n && n ≤ 12 then some (2 ^ n * 256) else none
  | .windows => if n ≤ 16 then some (2 ^ n * 32) else none
  | .overlays => some 16384
  | .collectives => if n ≤ 65536 then some (n * 64) else none

/-- A queue that has not been placed. -/
def Queue.blank : Queue := { base := 0, n := 0, ring := [], tail := 0, acc := 0, spent := [] }

/-- The queues of a context with one of them placed: its records lie in the new ring, which holds none. -/
def placeQueue (l : List Queue) (q base n : Nat) : List Queue :=
  (l ++ List.replicate (q + 1 - l.length) Queue.blank).modify q fun k => { k with base := base, n := n, ring := [], spent := [] }

/-- A control structure takes its place. -/
def Context.place (x : Context) (st : CtlStruct) (base n : Nat) : Context :=
  match st with
  | .queue q => { x with queues := placeQueue x.queues q base n }
  | .windows => { x with winBase := base, winN := some n, windows := [] }
  | .overlays => { x with ovlBase := some base, overlays := [] }
  | .collectives => { x with collBase := base, collN := n, colls := [] }

/-- The control structures of a context that have a place, with their bases and sizes in bytes. -/
def Context.structs (x : Context) : List (CtlStruct × Nat × Nat) :=
  ((x.queues.zipIdx.filter fun k => k.1.n != 0).map fun k => (CtlStruct.queue k.2, k.1.base, 2 ^ k.1.n * 256)) ++
  (match x.winN with
   | some n => [(CtlStruct.windows, x.winBase, 2 ^ n * 32)]
   | none => []) ++
  (match x.ovlBase with
   | some b => [(CtlStruct.overlays, b, 16384)]
   | none => []) ++
  [(.collectives, x.collBase, x.collN * 64)]

/-- Whether two ranges of the control region share no byte. -/
def ctlApart (a n b k : Nat) : Bool := n = 0 || k = 0 || a + n ≤ b || b + k ≤ a

/-- Whether a place in the control region is free for a structure of a context: the structures of all contexts, and what
the signed image set there, must fit in the region together (R10). -/
def State.ctlFree (s : State) (c : Nat) (st : CtlStruct) (base bytes : Nat) : Bool :=
  base + bytes ≤ Config.controlRegion && ctlApart base bytes s.ctlBase s.ctlBytes &&
    (List.range Config.contexts).all fun k => (s.ctx k).structs.all fun p =>
      (k == c && p.1 == st) || ctlApart base bytes p.2.1 p.2.2

/-- The runtime gives a control structure its base and size; one that would not lie in the control region, or that would
overlap what lies there, is refused with a context event 0x09 (an overlap: DEDUCED, log entry 110). -/
def State.placeStruct (s : State) (c : Nat) (st : CtlStruct) (base n : Nat) : State :=
  match structBytes st n with
  | some bytes => if s.ctlFree c st base bytes then s.modCtx c fun x => x.place st base n else s.ctxEvent c 0x09 base n
  | none => s.ctxEvent c 0x09 base n

/-! ## Fields of a record (R4, R354, R358) -/

/-- Whether a context may be assigned to a function: PF 0, or a VF that no other context has. -/
def State.assignable (s : State) (c : Nat) (fn : Option Nat) : Bool :=
  match fn with
  | none => true
  | some 0 => true
  | some v => v < 64 && ((List.range Config.contexts).all fun k => k == c || (s.ctx k).fn != some v)

/-- Whether a window of this package is frozen at this package (R165). -/
def State.freezesHere (s : State) (w : Window) : Bool := w.frz && freezable w && w.peer == s.pkg

/-- The runtime writes a window entry: STAMP becomes 0. FRZ registers the range of a window to this package, and an entry
that no longer freezes what it froze ends that registration with the heat (R165). -/
def State.putWindow (s : State) (c : Nat) (h : BitVec 16) (w : Window) : State :=
  if (s.ctx c).winN.any fun n => h.toNat < 2 ^ n then
    let s := match (s.ctx c).window h.toNat with
      | some old =>
        if s.freezesHere old && !(s.freezesHere w && w.pctx == old.pctx && w.base == old.base && w.limit == old.limit) then
          s.releaseRange old.pctx.toNat s.pkg (BitVec.ofNat 6 c) h
        else s
      | none => s
    let s := s.modCtx c fun x =>
      { x with windows := (h.toNat, { w with stamp := 0 }) :: x.windows.filter fun p => p.1 != h.toNat }
    if s.freezesHere w then s.registerRange w.pctx.toNat (s.frozenBy c h w) else s
  else s

/-- Whether a collective record may stand: a binding that serves a DISPATCH collective holds all 256 counters of its engine
(R327), so no other binding's record becomes one (a write that would make it one is refused: DESIGN CHOICE, log entry 141). -/
def State.servable (s : State) (c : Nat) (r : CollRec) : Bool :=
  r.ctype != 3 || s.bindings.all fun b => !(b.ctx == c && b.prog == r.prog) || b.ctrs.length == 256

/-- The runtime writes a record into a ring. -/
def State.putRing (s : State) (c q slot : Nat) (bs : List Byte) : State :=
  s.modQueue c q fun k => if slot < 2 ^ k.n && bs.length = 256 then
    { k.putRecord slot bs with spent := k.spent.filter fun p => p.1 != slot } else k

/-- CONTEXT_RECORD_WRITE: the runtime writes a field of a context record or an entry of one of its tables; a reserved value
leaves the field unchanged. -/
def execContextRecordWrite (ctx : Nat) (f : CtxField) (s : State) : Result :=
  s.byRuntime (
    let set (ok : Bool) (g : Context → Context) : State := if ok then s.modCtx ctx g else s
    .next (match f with
    | .assign fn => set (s.assignable ctx fn) fun x => { x with fn := fn }
    | .qos v => set true fun x => { x with qos := v }
    | .nq v => set (v.toNat ≤ 16) fun x => { x with nq := v.toNat }
    | .dbaddr v => set (v.toNat % 64 == 0) fun x => { x with dbaddr := v }
    | .hrule v => set (v.toNat ≤ 9) fun x => { x with hrule := v }
    | .log base n =>
      set true fun x =>
        { x with logbase := if base.toNat % 32 = 0 then base else x.logbase,
                 logn := if 4 ≤ n.toNat && n.toNat ≤ 24 then n.toNat else x.logn, logFail := false }
    | .hslots v => set (1 ≤ v.toNat && v.toNat ≤ 64) fun x => { x with hslots := v.toNat }
    | .ikey v => set true fun x => { x with ikey := v }
    | .mapWindows v => set (v.all fun a => a.toNat % 32 == 0) fun x => { x with winMap := v }
    | .ptroot v => set (v.toNat % 65536 == 0 && v.toNat < Config.farBytes) fun x => { x with ptroot := v }
    | .parkbase v => set (v.toNat % 64 == 0) fun x => { x with parkbase := v, parkFail := false }
    | .qstat v => set (v.toNat % 32 == 0) fun x => { x with qstat := v, qstatFail := false }
    | .wdog v => set true fun x => { x with wdog := v.toNat }
    | .ctmo v => set true fun x => { x with ctmo := v.toNat }
    | .skewMs v => set (1 ≤ v && v ≤ 1000) fun x => { x with skewMs := v }
    | .brken v => set true fun x => { x with brken := v }
    | .region st base n => s.placeStruct ctx st base n
    | .window h w => s.putWindow ctx h w
    | .overlay id e =>
      set (s.ctx ctx).ovlBase.isSome fun x =>
        { x with overlays := (id.toNat, e) :: x.overlays.filter fun p => p.1 != id.toNat }
    | .collective id r =>
      set (id.toNat < (s.ctx ctx).collN && s.servable ctx r) fun x =>
        { x with colls := (id.toNat, r) :: x.colls.filter fun p => p.1 != id.toNat }
    | .ring q slot bs => s.putRing ctx q slot bs))

/-! ## The end of a translation removal (R323) -/

/-- Whether a removal covers an entry. -/
def TlbInv.removes (i : TlbInv) (e : TlbEnt) : Bool :=
  if i.mode = 0 then e.covers i.ctx (pageOf i.va) else if i.mode = 1 then e.ctx == i.ctx else true

/-- TLBINV_REMOVAL_COMPLETE: the entries are gone from every buffer, and the thread goes on. -/
def execTlbinvRemovalComplete (id : Nat) (s : State) : Result :=
  match s.invs.find? fun i => i.id == id with
  | none => .next s
  | some i =>
    let s := { s with invs := s.invs.filter fun (k : TlbInv) => k.id != id }.tlbRemove i.removes
    .next (if (s.thread i.blk i.who).any fun t => t.live && t.wait == .tlbinv id then s.passAll i.blk [i.who] 1 else s)

end Sys2Proof.Machine
end

