-- ==== Sys2Proof/Machine/Retire.lean ====
section
/-! DEFINITION. The end of blocks (R41, R59, R62, R90, R176, R306, R308, R334), the stall of accumulator space (R65), and
pre-emption and resume (R62, R63, R142). -/

namespace Sys2Proof.Machine

/-! ## Retirement -/

/-- Whether an access of a block that ends has done what it does: a write is visible to the package, a deferred one is at the
Anvil, one to the stack or to a buffer is made. -/
def Req.left (r : Req) : Bool :=
  match r.kind with
  | .defer _ => r.st != .issued
  | .stk _ _ => r.st != .issued
  | _ => !r.writes || r.performed .pkg

/-- Whether a block has nothing left to run or to complete (R41): its threads have ended, its commands and matrix
operations have completed, and its stores are visible to the package or lost (R59, R142). -/
def State.retires (s : State) (b : Block) : Bool :=
  b.whos.all (fun w => !b.liveWho w) && s.cmds.all (fun c => c.blk != b.id) &&
    (s.core b.core).seq.all (fun m => m.blk != b.id) && b.falls.isEmpty &&
    s.reqs.all fun r => r.blk != b.id || r.left || s.lostAt .pkg r

/-- Whether the contribution of a retiring block cannot be read now (R443). -/
def State.boundShut (s : State) (b : Block) : Bool :=
  b.lr.collF && (((s.ctx b.ctx).window b.lr.chdl.toNat).bind (s.aliasColl b.ctx)).any fun p => s.contribShut b.ctx p.1 b.bid

/-- The contribution of a retiring block of a launch bound to a collective (R334). A handle that names none gives no
contribution, and R395 no report of it (DESIGN CHOICE, log entry 135). -/
def State.launchBound (s : State) (b : Block) : State :=
  if !b.lr.collF || (s.ctx b.ctx).pre == .resetting then s
  else
    let x := s.ctx b.ctx
    match (x.window b.lr.chdl.toNat).bind (s.aliasColl b.ctx) with
    | some (coll, _) => s.contribute b.ctx coll b.bid
    | none => s

/-- The dirty lines of a saved block's stack cache are written back (R90). -/
def State.spillAll (s : State) (b : Block) : State :=
  b.stack.foldl (fun s l => (s.spillLine b l).getD s) s

/-- The reservation of a launch on a core ends with its last block there (R308): overlays in use become EVICTING, and
one that is loading becomes so when its load ends; another context's reference to a shared copy stays (R313). -/
def State.endReservation (s : State) (core c seq : Nat) : State :=
  if (s.blocksOn core).any fun b => b.ctx == c && b.seq == seq then s
  else s.modCore core fun k => { k with copies := k.copies.map fun x =>
    if x.seq == seq then
      { x with refs := x.refs.map fun r =>
          if r.ctx != c then r
          else if x.loading then { r with atEnd := true } else { r with evicting := true, atEnd := false } }
    else x }

/-- Frees what a block holds on its core: its tokens and HINT pins, its reservation, its part of C (R64, R176). -/
def State.freeBlock (s : State) (b : Block) : State :=
  let s := { s with blocks := s.blocks.filter fun (k : Block) => k.id != b.id }
  let s := s.modCore b.core fun k => { k with copies := k.copies.map fun x =>
    { x with pins := x.pins.filter fun p => p.1.1 != b.id, hints := x.hints.filter fun p => p.1 != b.id } }
  (((s.endReservation b.core b.ctx b.seq).settle b.core).grantC b.core)

/-- Where the park records of a block's threads lie. -/
def Block.records (b : Block) : List (Who × DWord) :=
  (b.whos.filterMap fun w => (b.thread w).map fun t => (w, t.recAt)).filter (·.2 != 0)

/-- A block ends: a saved one is kept for its context's resume, any other is counted in its launch. -/
def State.endBlock (s : State) (b : Block) : State :=
  if s.savesBlock b then
    let v : Saved := { seq := b.seq, bid := b.bid, hsave := b.hsave, records := b.records, aliasIn := b.aliasIn }
    ((s.spillAll b).modCtx b.ctx fun x => { x with saved := x.saved ++ [v] }).freeBlock b
  else
    ((s.launchBound b).modLaunch b.seq fun l => { l with ended := l.ended + 1 }).freeBlock b

/-- BLOCK_RETIRE: a block whose threads have ended and whose operations have completed retires. -/
def execBlockRetire (blk : Nat) (s : State) : Result :=
  match s.block blk with
  | none => .next s
  | some b =>
    let waits := if s.savesBlock b then b.stack.any (s.spillWaits b) else s.boundShut b
    if s.retires b && !waits then .next (s.endBlock b) else .next s

/-! ## The stall of accumulator space (R65) -/

/-- Whether a core is stalled: requests wait, none fits, and every block that holds pool space waits too. -/
def State.stalled (s : State) (core : Nat) : Bool :=
  let l := s.areqsOn core
  !l.isEmpty && (l.all fun e => (freeRuns Config.cUnits (s.cHeld core) e.2.units).isEmpty) &&
    (s.blocksOn core).all fun b => b.regions.isEmpty || !b.areqs.isEmpty

/-- AALLOC_STALL_FAIL: the youngest waiting request of a stalled core fails. -/
def execAallocStallFail (core : Nat) (s : State) : Result :=
  if !s.stalled core then .next s
  else match (s.areqsOn core).getLast? with
    | none => .next s
    | some (blk, a) =>
      let s := s.modBlock blk fun b =>
        Block.modThread { b with areqs := b.areqs.filter fun (x : AReq) => x.order != a.order } a.who fun t =>
          t.aallocFail a.d a.c
      .next (s.passAll blk [a.who] 1)

/-! ## Pre-emption (R62) -/

/-- The blocks of a context that a die holds and has not placed return to their records; a saved block stays saved. -/
def State.returnBatches (s : State) (c : Nat) : State :=
  let mine (seq : Nat) : Bool := s.launches.any fun l => l.seq == seq && l.ctx == c
  let back (l : Launch) : List Nat :=
    (s.sentBlocks l.seq).filter fun b => ((s.ctx c).savedBlock l.seq b).isNone
  { s with
    launches := s.launches.map fun l =>
      if l.ctx == c then { l with back := sortBy (fun a b => a ≤ b) (l.back ++ back l) } else l
    dies := s.dies.map fun d => { d with queue := d.queue.filter fun e => !mine e.1 } }

/-- Whether a thread takes PREEMPT at once: it is parked, held or waiting, and not in handler mode. -/
def State.trapsNow (s : State) (b : Block) (w : Who) (t : Thread) : Bool :=
  t.live && !t.hmode &&
    ((t.parked && s.recordOpen b w t) || (!t.parked && t.start.isNone && (t.held || (t.wait.traps && !s.ready b w t))))

/-- The threads of a block that wait take PREEMPT, all at one instant: the instances in which they wait are dissolved (R240). -/
def State.trapBlock (s : State) (b : Block) : State :=
  let ws := b.whos.filter fun w => (b.thread w).any (s.trapsNow b w)
  let s := s.modBlock b.id fun b => ws.foldl (fun b w => b.withdraw w) b
  (ws.foldl (fun s w => s.takePreempt b.id w) s).completeRdvs b.id

/-- PREEMPT_CONTEXT: the runtime starts a pre-emption, which traps the threads that wait and ends the context's matrix
operations; the same event traps threads that begin to wait later. -/
def execPreemptContext (ctx : Nat) (s : State) : Result :=
  s.byRuntime (
    let pre := (s.ctx ctx).pre
    if Config.contexts ≤ ctx || (pre != .running && pre != .stopping) then .next s
    else
      let trap (s : State) : State := (s.blocks.filter fun b => b.ctx == ctx).foldl State.trapBlock s
      .next (if pre == .running then
        (trap ((s.modCtx ctx fun x => { x with pre := .stopping }).returnBatches ctx)).preemptAll ctx
      else trap s))

/-- Whether an overlay load that a context issued is in flight. -/
def State.loadsInFlight (s : State) (c : Nat) : Bool :=
  s.cores.toList.any fun k => k.copies.any fun x => x.loading && x.refs.any fun r => r.ctx == c

/-- PREEMPTION_COMPLETE: no block of the context is resident, none of its commands or loads is in flight (R62), and every
store of its threads is acknowledged or lost (R142). -/
def execPreemptionComplete (ctx : Nat) (s : State) : Result :=
  if (s.ctx ctx).pre == .stopping && (s.blocks.all fun b => b.ctx != ctx) && (s.cmds.all fun c => c.ctx != ctx) &&
      !s.loadsInFlight ctx &&
      s.reqs.all fun r => r.ctx != ctx || r.left || s.lostAt .pkg r then
    .next (s.modCtx ctx fun x => { x with pre := .stopped })
  else .next s

/-- CONTEXT_RESUME: the context dispatches again, its saved blocks first (R63). -/
def execContextResume (ctx : Nat) (s : State) : Result :=
  s.byRuntime (
    if (s.ctx ctx).pre == .stopped then .next (s.modCtx ctx fun x => { x with pre := .running }).noteReady else .next s)

end Sys2Proof.Machine
end

