-- ==== Sys2Proof/Machine/Resets.lean ====
section
/-! DEFINITION. Resets (R11, R350, R359, R443, R444): of a context, of a hearth die with its rejoin, and of the package. -/

namespace Sys2Proof.Machine

/-! ## The reset of a context (R359) -/

/-- Launches, batches, saved blocks and queues of a context end: nothing of them completes. -/
def State.dropLaunches (s : State) (c : Nat) : State :=
  let mine (seq : Nat) : Bool := s.launches.any fun l => l.seq == seq && l.ctx == c
  let dies := s.dies.map fun (d : Die) => { d with queue := d.queue.filter fun e => !mine e.1 }
  let s := { s with dies := dies, launches := s.launches.filter fun (l : Launch) => l.ctx != c }
  s.modCtx c fun x =>
    { x with saved := [], heldBars := [], queues := x.queues.map fun (k : Queue) => { k with acc := k.tail } }

/-- The rounds of a context's collectives complete with 0x1D at this package; what was contributed and not sent goes. -/
def State.dropRounds (s : State) (c : Nat) : State :=
  let open_ := (s.rounds.filter fun x => x.ctx == c).map fun x => (x.coll, x.round)
  let s := { s with aliasWaits := s.aliasWaits.filter fun w => w.ctx != c }
  let s := open_.foldl (fun s p =>
    match (s.ctx c).coll p.1 with
    | some r => s.expireRound c p.1 r p.2
    | none => { s with rounds := s.rounds.filter fun x => !(x.ctx == c && x.coll == p.1 && x.round == p.2) }) s
  { s with
    contribs := s.contribs.filter fun x => x.ctx != c
    dreqs := s.dreqs.filter fun q => q.ctx != c }

/-- The deferred writes of a context that have not been applied are discarded: those that wait or are on their way, and
those that this package holds for any of its contexts. -/
def State.dropDeferred (s : State) (c : Nat) : State :=
  let mine (w : DWrite) : Bool := w.spkg == s.pkg && w.sctx == some (BitVec.ofNat 6 c)
  let s := s.modCtx c fun x => { x with outbound := [], inFlight := [] }
  { s with ctxs := s.ctxs.map fun x => { x with buffer := x.buffer.filter fun w => !mine w } }

/-- The overlays of a context are evicted from every core, and its commands that wait for a load end. -/
def State.dropOverlays (s : State) (c : Nat) : State :=
  { s with
    cores := s.cores.map fun k =>
      { k with copies := (k.copies.map fun x => { x with refs := x.refs.filter fun r => r.ctx != c }).filter fun x =>
          !x.refs.isEmpty }
    cmds := s.cmds.filter fun x => !(x.ctx == c && (match x.kind with
      | .ovld _ _ _ => true
      | .copy _ _ _ _ _ _ _ _ | .badCopy _ _ _ _ | .fill _ _ _ _ _ | .drain _ _ _ _ _ | .chain _ _ _ _ _ _ _ | .nmcas _ _ _
      | .nmenq _ | .nmchase _ _ => false)) }

/-- The reset of a context begins. -/
def State.beginReset (s : State) (c : Nat) : State :=
  let s := s.modCtx c fun x => { x with pre := .resetting, log := 0 }
  let s := s.dropLaunches c
  let s := (s.blocks.filter fun b => b.ctx == c).foldl (fun s b => s.killBlock b.id 0) s
  let s := ((s.dropRounds c).dropDeferred c).dropOverlays c
  { s with invs := s.invs.filter fun i => i.ctx != c }.tlbRemove fun e => e.ctx == c

/-- Whether nothing of a context that resets is left: its blocks have retired and its commands have completed. -/
def State.resetDone (s : State) (c : Nat) : Bool :=
  (s.ctx c).pre == .resetting && (s.blocks.all fun b => b.ctx != c) && (s.cmds.all fun x => x.ctx != c) &&
    s.rounds.all fun x => !(x.ctx == c && x.ended)

/-- CONTEXT_RESET: the reset begins, or ends when nothing of the context is left; its end raises vector 16. -/
def execContextReset (ctx : Nat) (s : State) : Result :=
  s.byRuntime (
    if Config.contexts ≤ ctx then .next s
    else
      let s := if (s.ctx ctx).pre == .resetting then s else s.beginReset ctx
      if s.resetDone ctx then .next ((s.modCtx ctx fun x => { x with pre := .running, log := 0 }).ctxEvent ctx 0 0 0)
      else .next s)

/-! ## The reset of a hearth die (R359, R427, R429, R443) -/

/-- The blocks that a die holds and has not placed return to their records; a saved block stays saved. -/
def State.returnDie (s : State) (die : Nat) : State :=
  let held (seq : Nat) : List Nat := ((s.die die).queue.filter fun e => e.1 == seq).flatMap (·.2)
  let back (l : Launch) : List Nat := (held l.seq).filter fun b => ((s.ctx l.ctx).savedBlock l.seq b).isNone
  { s with launches := s.launches.map fun l =>
      { l with back := sortBy (fun a b => a ≤ b) (l.back ++ back l) } }

/-- The home die of the word that an agent operation works on. -/
def State.agentHome (s : State) (c : Cmd) : Option Nat :=
  match c.kind with
  | .nmcas _ _ _ | .nmenq _ | .nmchase _ _ =>
    (match s.walk c.ctx c.va with
     | .leaf pte big => some (homeDie (physOf pte big c.va))
     | .fail _ => none)
  | .copy _ _ _ _ _ _ _ _ | .badCopy _ _ _ _ | .fill _ _ _ _ _ | .drain _ _ _ _ _ | .chain _ _ _ _ _ _ _ | .ovld _ _ _ => none

/-- A block of a die that resets is killed and retires at once: its copies and matrix operations end with the
die, its loads are lost, and its stores and agent operations go on. -/
def State.endDieBlock (s : State) (b : Block) : State :=
  let (c, s) := s.free
  let s := s.killBlock b.id (c.extractLsb' 0 8)
  let reqs := (s.reqs.filter fun (r : Req) => r.blk != b.id || r.sends).map fun (r : Req) =>
    if r.blk == b.id then { r with returned := true } else r
  let s := { s with
    cmds := s.cmds.filter fun (x : Cmd) => x.blk != b.id || (s.agentHome x).isSome
    invs := s.invs.filter fun (i : TlbInv) => i.blk != b.id
    reqs := reqs }.dropLocks
  match s.block b.id with
  | some b => s.endBlock b
  | none => s

/-- The agent operations of a die that are in flight end with 0x14 (R429). -/
def State.endAgents (s : State) (die : Nat) : State :=
  (s.cmds.filter fun c => s.agentHome c == some die).foldl (fun s c =>
    s.endCmd c c.tid { status := 0x14, count := 0 }) s

/-- The directory drops a die's copies and acknowledges on its behalf; lines that it froze thaw. -/
def State.dropDieCopies (s : State) (die : Nat) : State :=
  let s := (s.frozenLines.filter fun f => f.die == die).foldl (fun s f => s.thaw f) s
  let s := (s.reqs.filter fun r => r.awaits die).foldl (fun s r => s.answer r die) s
  { s with near := s.near.filter fun k => k.die != die, nearHome := s.nearHome.filter fun p => p.1 != die }

/-- A die stops: its cores, its buffers and its registers are as at reset (R11). -/
def State.stopDie (s : State) (die : Nat) : State :=
  let now := s.tick
  { s with
    cores := s.cores.mapIdx fun i k => if dieOf i == die then Core.reset else k
    l1 := s.l1.filter fun k => dieOf k.core != die }.modDie die fun _ => { Die.reset with st := .resetting now }

/-- HEARTH_DIE_RESET: the die's blocks are killed, its copies go, and it is away until it rejoins. -/
def execHearthDieReset (die : Nat) (s : State) : Result :=
  s.byRuntime (
    match (s.die die).st with
    | .resetting _ => .next s
    | .up | .failed =>
      if Config.dies ≤ die then .next s
      else
        let mine := s.blocks.filter fun b => dieOf b.core == die
        let ctxs := (mine.map (·.ctx)).eraseDups
        let s := s.returnDie die
        let s := mine.foldl (fun s b => s.endDieBlock b) s
        let s := ((s.endAgents die).dropDieCopies die).stopDie die
        .next (ctxs.foldl (fun s c => s.ctxEvent c 0 die 0) s))

/-- DIE_REJOIN: the die advertises its free resources, and the accesses that waited go on. -/
def execDieRejoin (die : Nat) (s : State) : Result :=
  match (s.die die).st with
  | .resetting _ =>
    let figures := (coresOf die).map s.coreRes
    .next (s.modDie die fun d => { d with st := .up, adv := figures, sent := [] })
  | .up => .next s
  | .failed => .next s

/-- An access homed on a failed die: a value is 0x13, a store is reported with 0x14 at its release. -/
def Req.failAt (r : Req) (die : Nat) : Req :=
  if homeDie r.pa != die || r.st != .issued || r.bad.isSome then r
  else match r.kind with
    | .load _ _ _ _ _ => if r.value.isSome then r else { r with bad := some 0x13 }
    | .atomic _ ret _ _ _ _ _ =>
      if ret then { r with st := .done, bad := some 0x13 }
      else { r with st := .aborted 0x14 die, value := some [], returned := true }
    | .store _ _ _ => { r with st := .aborted 0x14 die }
    | .snap _ _ _ _ _ _ _ _ => r
    | .clean _ | .own _ _ | .buf _ _ _ _ | .stk _ _ | .lock | .defer _ => r

/-- DIE_FAIL_TIMEOUT: a die that has not rejoined within 1 s is marked failed; the accesses that wait for it end. -/
def execDieFailTimeout (die : Nat) (s : State) : Result :=
  let fail (s : State) : State := { s with reqs := s.reqs.map fun r => r.failAt die }
  match (s.die die).st with
  | .resetting since =>
    if s.tick < since + 1000 * Config.msTicks then .next s
    else .next (fail (s.modDie die fun d => { d with st := .failed }))
  | .failed => .next (fail s)
  | .up => .next s

/-! ## The reset of the package (R350) -/

/-- Whether the configuration of an image can be applied: the fixed partition of the Anvil SRAM stack (R9), its own part of
the control region (R10), NEARMAX (R73) and the spill area (R160). -/
def imageFits (i : Image) : Bool :=
  i.regions == Config.stackRegions && i.ctlBytes ≤ Config.imageShare && i.ctlBase + i.ctlBytes ≤ Config.controlRegion &&
    i.nearMax ≤ 8192 && i.spillSize ≤ Config.spillMax && i.spillBase + i.spillSize ≤ Config.farBytes

/-- The identity key pair with which the boot sequence succeeds, if it does (R350, steps 1 to 3). -/
def imageBoots (i : Image) : Option (List Byte × List Byte) :=
  if Config.sigVerifies Config.romKey (sha3 i.body) i.signature && imageFits i then
    Config.idPair i.body Config.pufResponse
  else none

/-- The package after the boot sequence: the configuration of the image is applied, and the application cores run. Its
firmware digest is the digest of the image body (DEDUCED, log entry 112). -/
def State.booted (z : State) (img : Image) (keys : List Byte × List Byte) : State :=
  { z with
    boot := .done, pkg := img.pkgId, digest := sha3 img.body, config := Config.configDigest img.body, idKey := keys.1,
    idSecret := keys.2, certPkg := img.certPkg, certKey := img.certKey, certSig := img.certSig, certPod := img.certPod,
    ctlBase := img.ctlBase, ctlBytes := img.ctlBytes, nearMax := img.nearMax, spillBase := img.spillBase,
    spill := img.spillSize, accepted := img.accepted, podKeys := img.podKeys,
    ctxs := Vector.replicate 64 (Context.reset img.pkgId) }

/-- PACKAGE_RESET: everything starts again, and the boot sequence runs with the image in flash; on a failure the package
stays in recovery. The host link stays as the board has it. -/
def execPackageReset (img : Image) (s : State) : Result :=
  let z := { State.reset with fresh := s.fresh, nextId := s.nextId, agenda := s.agenda, hostLink := s.hostLink }
  match imageBoots img with
  | some keys => .next (z.booted img keys)
  | none => .next { z with boot := .recovery }

end Sys2Proof.Machine
end

