-- ==== Sys2Proof/Machine/Tiles.lean ====
section
/-! DEFINITION. The tile instructions (R79 to R82, R86, R286, R291 to R293). -/

namespace Sys2Proof.Machine

/-! ## Layout words and view records -/

/-- Reads a layout word; none when it fails R86 or R87. -/
def layoutOf (w0 w1 w2 : Word) : Option Layout :=
  let a := w0.toNat
  let b := w1.toNat
  let c := w2.toNat
  let buf : Option Buf := match natBits a 22 21 with
    | 0 => some .w
    | 1 => some .a
    | 2 => some .c
    | _ => none
  match buf, efmt (natBits a 27 23) with
  | some k, some f =>
    let l : Layout :=
      { fmt := natBits a 27 23, buf := k, base := natBits a 20 0, s0 := natBits b 15 0, s1 := natBits b 31 16,
        s2 := natBits c 27 0, perm := natBits c 31 28 }
    if natBits a 31 28 ≠ 0 then none
    else if f.width < 8 && !(l.s0 = 1 && l.s1 % 32 = 0 && l.s2 % 32 = 0) then none
    else some l
  | _, _ => none

/-- Reads a view record; none when a reserved bit is set or an extent is 0 (R286, R292). -/
def viewOf (bs : List Byte) : Option View :=
  let ctl := fieldAt bs 0x15 1
  let v : View :=
    { addr := BitVec.ofNat 64 (fieldAt bs 0 8), e0 := fieldAt bs 8 4, e1 := fieldAt bs 12 4, e2 := fieldAt bs 16 4,
      gfmt := fieldAt bs 0x14 1 % 32, sat := natBit ctl 0, frs := natBit ctl 1, frn := fieldAt bs 0x16 1 % 32,
      gs1 := natSigned 64 (fieldAt bs 0x18 8), gs2 := natSigned 64 (fieldAt bs 0x20 8), pstr := fieldAt bs 0x28 8 }
  if fieldAt bs 0x14 1 < 32 && ctl < 4 && fieldAt bs 0x16 1 < 32 && fieldAt bs 0x17 1 == 0 && fieldAt bs 0x30 16 == 0 &&
      v.e0 ≠ 0 && v.e1 ≠ 0 && v.e2 ≠ 0 then some v
  else none

/-! ## `tbind` (R292) -/

/-- What `tbind` makes of its tile. -/
def Tile.bind (t : Tile) (l : Layout) (size : Nat) (v : Option View) (rdy : Bool) : Tile :=
  { t with bound := true, lay := l, size := size, view := v, st := if rdy then .ready else .empty, ownerE := false }

/-- The tile is bound once it is free. -/
def State.bindTile (s : State) (x : Site) (b : Block) (i : Nat) (l : Layout) (size : Nat) (v : Option View) (rdy : Bool) :
    Act :=
  if b.tilesReady [(i, .bindable)] then .done (s.modBlock x.blk fun b => b.modTile i fun t => t.bind l size v rdy) []
  else .stall s (.tiles [(i, .bindable)])

/-- `tbind` with the view record of an address. -/
def State.bindView (s : State) (x : Site) (b : Block) (t : Thread) (va : DWord) (f : State → Option View → Act) : Act :=
  if va.toNat % 64 ≠ 0 then .fault 0x07 (some va) 0
  else s.released x .blk fun s =>
    s.readRecord b va 64 fun s r =>
      match r with
      | .error e => s.readFault b x.who t e va
      | .ok bs =>
        match viewOf bs with
        | some v => f s (some v)
        | none => .fault 0x0C none 0

/-- `tbind` in one thread. -/
def tbindAct (a b c : Reg) (view rdy : Bool) : State → Site → Act :=
  withThread fun s x k t =>
    let gb := (t.src b).toNat
    let i := natBits gb 7 0
    let n := natBits gb 21 8
    match layoutOf (t.g a.toNat) (t.g (a.toNat + 1)) (t.g (a.toNat + 2)) with
    | none => .fault 0x01 none 0
    | some l =>
      if k.lr.ntile ≤ i || n = 0 || 8192 < n || l.base % 256 ≠ 0 || natBits gb 31 22 ≠ 0 ||
          ((k.tile i).bound && (k.tile i).lay.buf != l.buf) then .fault 0x0C none 0
      else if (k.bufPhys l.buf l.base (n * 256)).isNone then .fault 0x09 none 0
      else if view then s.bindView x k t (t.pair c.toNat) fun s v => s.bindTile x k i l (n * 256) v rdy
      else s.bindTile x k i l (n * 256) none rdy

/-- `tbind`. -/
def execTbind (g : Guard) (a b c : Reg) (view rdy : Bool) (s : State) : Result :=
  s.issue (.tbind g a b c view rdy) g (exceptHelper id (tbindAct a b c view rdy))

/-! ## The owner bit and the state (R80 to R82, R293) -/

/-- A tile instruction on tile gA[7:0]; `bound` asks for a bound tile. -/
def onTile (a : Reg) (bound : Bool) (f : State → Site → Block → Nat → Act) : State → Site → Act :=
  withThread fun s x b t =>
    let i := (t.src a).toNat % 256
    if b.lr.ntile ≤ i || (bound && !(b.tile i).bound) then .fault 0x0C none 0 else f s x b i

/-- Whether a thread has made every store to a buffer that it has issued. -/
def State.bufsMade (s : State) (x : Site) : Bool :=
  (s.reqsOf x.blk x.who).all fun r => match r.kind with
    | .buf _ _ _ _ => r.st != .issued
    | .load _ _ _ _ _ | .store _ _ _ | .atomic _ _ _ _ _ _ _ | .snap _ _ _ _ _ _ _ _ | .clean _ | .own _ _ | .stk _ _ | .lock
    | .defer _ => true

/-- Sets the owner of a tile once a condition holds. Owner E comes after the stores to buffers that the thread has issued, so
that every engine operation after the flip sees them (R81). -/
def ownTile (a : Reg) (c : TileCond) (e : Bool) : State → Site → Act :=
  onTile a true fun s x b i =>
    if e && !s.bufsMade x then .stall s (.order .blk)
    else if b.tilesReady [(i, c)] then .done (s.modBlock x.blk fun b => b.modTile i fun t => { t with ownerE := e }) []
    else .stall s (.tiles [(i, c)])

/-- `tgive`. -/
def execTgive (g : Guard) (a : Reg) (s : State) : Result :=
  s.issue (.tgive g a) g (exceptHelper id (ownTile a .ready true))

/-- `ttake`. -/
def execTtake (g : Guard) (a : Reg) (s : State) : Result :=
  s.issue (.ttake g a) g (exceptHelper id (ownTile a .takable false))

/-- The word of `tstat`. -/
def Tile.word (t : Tile) : Word :=
  let st : Nat := match t.st with
    | .empty => 0
    | .filling => 1
    | .ready => 2
    | .draining => 3
  BitVec.ofNat 32 (st + (if t.ownerE then 4 else 0) + (if t.view.isSome then 8 else 0))

/-- `tstat`. -/
def execTstat (g : Guard) (d a : Reg) (s : State) : Result :=
  s.issue (.tstat g d a) g (onTile a false fun s x b i =>
    .done (s.setThread x fun t => t.setG d.toNat (b.tile i).word) [])

/-- A freed tile: EMPTY with owner T, and no engine operation goes on with it (R82). -/
def Tile.free (t : Tile) : Tile :=
  if t.bound then { t with st := .empty, ownerE := false, users := 0, epoch := t.epoch + 1 } else t

/-- `tfree`. -/
def execTfree (g : Guard) (a : Reg) (s : State) : Result :=
  s.issue (.tfree g a) g (exceptHelper id (onTile a false fun s x _ i =>
    .done (s.modBlock x.blk fun b => b.modTile i Tile.free) []))

end Sys2Proof.Machine
end

