-- ==== Sys2Proof/Machine/Dispatch.lean ====
section
/-! DEFINITION. The meaning of each constructor of `Instr`, one arm for each. -/

namespace Sys2Proof.Machine

def exec (i : Instr) (s : State) : Host.Outcome State Fault Refusal :=
  match i with
  | .add g o => Sys2Proof.Machine.execAdd g o s
  | .sub g o => Sys2Proof.Machine.execSub g o s
  | .mul g o => Sys2Proof.Machine.execMul g o s
  | .mulhi g o => Sys2Proof.Machine.execMulhi g o s
  | .mad g o => Sys2Proof.Machine.execMad g o s
  | .madw g o => Sys2Proof.Machine.execMadw g o s
  | .min g o => Sys2Proof.Machine.execMin g o s
  | .max g o => Sys2Proof.Machine.execMax g o s
  | .abs g o => Sys2Proof.Machine.execAbs g o s
  | .neg g o => Sys2Proof.Machine.execNeg g o s
  | .and g o => Sys2Proof.Machine.execAnd g o s
  | .or g o => Sys2Proof.Machine.execOr g o s
  | .xor g o => Sys2Proof.Machine.execXor g o s
  | .not g o => Sys2Proof.Machine.execNot g o s
  | .shl g o => Sys2Proof.Machine.execShl g o s
  | .shr g o => Sys2Proof.Machine.execShr g o s
  | .sar g o => Sys2Proof.Machine.execSar g o s
  | .rol g o => Sys2Proof.Machine.execRol g o s
  | .bfx g o => Sys2Proof.Machine.execBfx g o s
  | .bfi g o => Sys2Proof.Machine.execBfi g o s
  | .popc g o => Sys2Proof.Machine.execPopc g o s
  | .clz g o => Sys2Proof.Machine.execClz g o s
  | .brev g o => Sys2Proof.Machine.execBrev g o s
  | .sel g o => Sys2Proof.Machine.execSel g o s
  | .setp g o => Sys2Proof.Machine.execSetp g o s
  | .mov g o => Sys2Proof.Machine.execMov g o s
  | .lea g o => Sys2Proof.Machine.execLea g o s
  | .div g o => Sys2Proof.Machine.execDiv g o s
  | .rem g o => Sys2Proof.Machine.execRem g o s
  | .sadd g o => Sys2Proof.Machine.execSadd g o s
  | .ssub g o => Sys2Proof.Machine.execSsub g o s
  | .addi g o => Sys2Proof.Machine.execAddi g o s
  | .andi g o => Sys2Proof.Machine.execAndi g o s
  | .ori g o => Sys2Proof.Machine.execOri g o s
  | .xori g o => Sys2Proof.Machine.execXori g o s
  | .movi g o => Sys2Proof.Machine.execMovi g o s
  | .movhi g o => Sys2Proof.Machine.execMovhi g o s
  | .setpi g o => Sys2Proof.Machine.execSetpi g o s
  | .pand g o => Sys2Proof.Machine.execPand g o s
  | .por g o => Sys2Proof.Machine.execPor g o s
  | .pxor g o => Sys2Proof.Machine.execPxor g o s
  | .pnot g d a => Sys2Proof.Machine.execPnot g d a s
  | .movs g d n => Sys2Proof.Machine.execMovs g d n s
  | .wrs g a n => Sys2Proof.Machine.execWrs g a n s
  | .fadd g o => Sys2Proof.Machine.execFadd g o s
  | .fsub g o => Sys2Proof.Machine.execFsub g o s
  | .fmul g o => Sys2Proof.Machine.execFmul g o s
  | .ffma g o => Sys2Proof.Machine.execFfma g o s
  | .fmin g o => Sys2Proof.Machine.execFmin g o s
  | .fmax g o => Sys2Proof.Machine.execFmax g o s
  | .fabs g o => Sys2Proof.Machine.execFabs g o s
  | .fneg g o => Sys2Proof.Machine.execFneg g o s
  | .fsetp g o => Sys2Proof.Machine.execFsetp g o s
  | .frcp g o => Sys2Proof.Machine.execFrcp g o s
  | .frsq g o => Sys2Proof.Machine.execFrsq g o s
  | .fsqrt g o => Sys2Proof.Machine.execFsqrt g o s
  | .fex2 g o => Sys2Proof.Machine.execFex2 g o s
  | .flg2 g o => Sys2Proof.Machine.execFlg2 g o s
  | .fsin g o => Sys2Proof.Machine.execFsin g o s
  | .fcos g o => Sys2Proof.Machine.execFcos g o s
  | .ftanh g o => Sys2Proof.Machine.execFtanh g o s
  | .fdiv g o => Sys2Proof.Machine.execFdiv g o s
  | .fclass g o => Sys2Proof.Machine.execFclass g o s
  | .fround g o => Sys2Proof.Machine.execFround g o s
  | .fscale g o => Sys2Proof.Machine.execFscale g o s
  | .cvt g o => Sys2Proof.Machine.execCvt g o s
  | .pkBf16 g o => Sys2Proof.Machine.execPkBf16 g o s
  | .upkBf16 g o => Sys2Proof.Machine.execUpkBf16 g o s
  | .pkF8 g o => Sys2Proof.Machine.execPkF8 g o s
  | .upkF8 g o => Sys2Proof.Machine.execUpkF8 g o s
  | .npiEnc g o => Sys2Proof.Machine.execNpiEnc g o s
  | .npiDec g o => Sys2Proof.Machine.execNpiDec g o s
  | .bscale g o => Sys2Proof.Machine.execBscale g o s
  | .bquant g o => Sys2Proof.Machine.execBquant g o s
  | .bdot g o => Sys2Proof.Machine.execBdot g o s
  | .bra g off => Sys2Proof.Machine.execBra g off s
  | .mbr g o => Sys2Proof.Machine.execMbr g o s
  | .call g off => Sys2Proof.Machine.execCall g off s
  | .callo g ovl ent => Sys2Proof.Machine.execCallo g ovl ent s
  | .calli g a => Sys2Proof.Machine.execCalli g a s
  | .ret g => Sys2Proof.Machine.execRet g s
  | .exit g => Sys2Proof.Machine.execExit g s
  | .yield g => Sys2Proof.Machine.execYield g s
  | .nop g => Sys2Proof.Machine.execNop g s
  | .bri g a => Sys2Proof.Machine.execBri g a s
  | .brk g n => Sys2Proof.Machine.execBrk g n s
  | .voteAll g d a b => Sys2Proof.Machine.execVoteAll g d a b s
  | .voteAny g d a b => Sys2Proof.Machine.execVoteAny g d a b s
  | .voteBal g d a b => Sys2Proof.Machine.execVoteBal g d a b s
  | .shflIdx g o src => Sys2Proof.Machine.execShflIdx g o src s
  | .shflUp g o n => Sys2Proof.Machine.execShflUp g o n s
  | .shflDn g o n => Sys2Proof.Machine.execShflDn g o n s
  | .shflXor g o n => Sys2Proof.Machine.execShflXor g o n s
  | .qxH g o => Sys2Proof.Machine.execQxH g o s
  | .qxV g o => Sys2Proof.Machine.execQxV g o s
  | .qxD g o => Sys2Proof.Machine.execQxD g o s
  | .lredAdd g o => Sys2Proof.Machine.execLredAdd g o s
  | .lredMax g o => Sys2Proof.Machine.execLredMax g o s
  | .lredMin g o => Sys2Proof.Machine.execLredMin g o s
  | .lscanAdd g o => Sys2Proof.Machine.execLscanAdd g o s
  | .matchLanes g d a b => Sys2Proof.Machine.execMatchLanes g d a b s
  | .ld g o => Sys2Proof.Machine.execLd g o s
  | .ldAcq g o => Sys2Proof.Machine.execLdAcq g o s
  | .ldNc g o => Sys2Proof.Machine.execLdNc g o s
  | .pf g o => Sys2Proof.Machine.execPf g o s
  | .pop g o => Sys2Proof.Machine.execPop g o s
  | .st g o => Sys2Proof.Machine.execSt g o s
  | .stRel g o => Sys2Proof.Machine.execStRel g o s
  | .push g o => Sys2Proof.Machine.execPush g o s
  | .atomAdd g o => Sys2Proof.Machine.execAtomAdd g o s
  | .atomMin g o => Sys2Proof.Machine.execAtomMin g o s
  | .atomMax g o => Sys2Proof.Machine.execAtomMax g o s
  | .atomAnd g o => Sys2Proof.Machine.execAtomAnd g o s
  | .atomOr g o => Sys2Proof.Machine.execAtomOr g o s
  | .atomXor g o => Sys2Proof.Machine.execAtomXor g o s
  | .atomXchg g o => Sys2Proof.Machine.execAtomXchg g o s
  | .atomCas g o => Sys2Proof.Machine.execAtomCas g o s
  | .atomInc g o => Sys2Proof.Machine.execAtomInc g o s
  | .redAdd g o => Sys2Proof.Machine.execRedAdd g o s
  | .redMin g o => Sys2Proof.Machine.execRedMin g o s
  | .redMax g o => Sys2Proof.Machine.execRedMax g o s
  | .redOr g o => Sys2Proof.Machine.execRedOr g o s
  | .nmcas g o => Sys2Proof.Machine.execNmcas g o s
  | .nmenq g o => Sys2Proof.Machine.execNmenq g o s
  | .nmchase g o => Sys2Proof.Machine.execNmchase g o s
  | .fence g scope => Sys2Proof.Machine.execFence g scope s
  | .barInit g n a => Sys2Proof.Machine.execBarInit g n a s
  | .barArr g d n => Sys2Proof.Machine.execBarArr g d n s
  | .barExp g n a => Sys2Proof.Machine.execBarExp g n a s
  | .barWait g d n a => Sys2Proof.Machine.execBarWait g d n a s
  | .waitany g d a b => Sys2Proof.Machine.execWaitany g d a b s
  | .barTst g d c n a => Sys2Proof.Machine.execBarTst g d c n a s
  | .heatArr g d => Sys2Proof.Machine.execHeatArr g d s
  | .heatWait g d a => Sys2Proof.Machine.execHeatWait g d a s
  | .fwait g mask => Sys2Proof.Machine.execFwait g mask s
  | .aalloc g d c a => Sys2Proof.Machine.execAalloc g d c a s
  | .afree g a => Sys2Proof.Machine.execAfree g a s
  | .cpy g k a => Sys2Proof.Machine.execCpy g k a s
  | .cpyRed g k a => Sys2Proof.Machine.execCpyRed g k a s
  | .cpyBc g k a => Sys2Proof.Machine.execCpyBc g k a s
  | .chain g o => Sys2Proof.Machine.execChain g o s
  | .cpyT g k a => Sys2Proof.Machine.execCpyT g k a s
  | .cpyD g k a keep => Sys2Proof.Machine.execCpyD g k a keep s
  | .tbind g a b c view rdy => Sys2Proof.Machine.execTbind g a b c view rdy s
  | .tgive g a => Sys2Proof.Machine.execTgive g a s
  | .ttake g a => Sys2Proof.Machine.execTtake g a s
  | .tstat g d a => Sys2Proof.Machine.execTstat g d a s
  | .tfree g a => Sys2Proof.Machine.execTfree g a s
  | .mma g a b c => Sys2Proof.Machine.execMma g a b c s
  | .mmaBs g a b c => Sys2Proof.Machine.execMmaBs g a b c s
  | .mmaNp g a b c scl => Sys2Proof.Machine.execMmaNp g a b c scl s
  | .mmaCoop g a b c scl kind p l => Sys2Proof.Machine.execMmaCoop g a b c scl kind p l s
  | .mzero g a => Sys2Proof.Machine.execMzero g a s
  | .mdrain g a b => Sys2Proof.Machine.execMdrain g a b s
  | .csel g a b => Sys2Proof.Machine.execCsel g a b s
  | .mseq g d wait => Sys2Proof.Machine.execMseq g d wait s
  | .hwait g mask => Sys2Proof.Machine.execHwait g mask s
  | .htest g d a => Sys2Proof.Machine.execHtest g d a s
  | .hcancel g a => Sys2Proof.Machine.execHcancel g a s
  | .hpass g d a => Sys2Proof.Machine.execHpass g d a s
  | .hget g d a => Sys2Proof.Machine.execHget g d a s
  | .ovld g d a => Sys2Proof.Machine.execOvld g d a s
  | .ovpin g d a => Sys2Proof.Machine.execOvpin g d a s
  | .ovunpin g a => Sys2Proof.Machine.execOvunpin g a s
  | .ovevict g d a => Sys2Proof.Machine.execOvevict g d a s
  | .ovq g d a => Sys2Proof.Machine.execOvq g d a s
  | .trap g n => Sys2Proof.Machine.execTrap g n s
  | .rdsr g d n => Sys2Proof.Machine.execRdsr g d n s
  | .wrsr g a n => Sys2Proof.Machine.execWrsr g a n s
  | .eret g => Sys2Proof.Machine.execEret g s
  | .park g d a => Sys2Proof.Machine.execPark g d a s
  | .resume g d a => Sys2Proof.Machine.execResume g d a s
  | .kill g d a => Sys2Proof.Machine.execKill g d a s
  | .frsave g a => Sys2Proof.Machine.execFrsave g a s
  | .frload g a => Sys2Proof.Machine.execFrload g a s
  | .bsave g a => Sys2Proof.Machine.execBsave g a s
  | .brest g a => Sys2Proof.Machine.execBrest g a s
  | .logpush g a => Sys2Proof.Machine.execLogpush g a s
  | .tlbinv g a mode => Sys2Proof.Machine.execTlbinv g a mode s
  | .mcfNop => Sys2Proof.Machine.execMcfNop s
  | .mcfMatch d t => Sys2Proof.Machine.execMcfMatch d t s
  | .mcfLookup d a w => Sys2Proof.Machine.execMcfLookup d a w s
  | .mcfLookupM d a b => Sys2Proof.Machine.execMcfLookupM d a b s
  | .mcfHold a => Sys2Proof.Machine.execMcfHold a s
  | .mcfComb d a b op => Sys2Proof.Machine.execMcfComb d a b op s
  | .mcfWait a b => Sys2Proof.Machine.execMcfWait a b s
  | .mcfFwd d a b keep => Sys2Proof.Machine.execMcfFwd d a b keep s
  | .mcfRepl d a b keep n => Sys2Proof.Machine.execMcfRepl d a b keep n s
  | .mcfEmit d a f => Sys2Proof.Machine.execMcfEmit d a f s
  | .mcfBarup a b => Sys2Proof.Machine.execMcfBarup a b s
  | .mcfGrant d a b => Sys2Proof.Machine.execMcfGrant d a b s
  | .mcfNack a b => Sys2Proof.Machine.execMcfNack a b s
  | .mcfCnt d a b set => Sys2Proof.Machine.execMcfCnt d a b set s
  | .mcfJmp v => Sys2Proof.Machine.execMcfJmp v s
  | .mcfJz a v => Sys2Proof.Machine.execMcfJz a v s
  | .mcfJnz a v => Sys2Proof.Machine.execMcfJnz a v s
  | .mcfSet d v => Sys2Proof.Machine.execMcfSet d v s
  | .mcfSetHi d v => Sys2Proof.Machine.execMcfSetHi d v s
  | .mcfAdd d a b v => Sys2Proof.Machine.execMcfAdd d a b v s
  | .mcfAddImm d a v => Sys2Proof.Machine.execMcfAddImm d a v s
  | .mcfLd d a w => Sys2Proof.Machine.execMcfLd d a w s
  | .mcfSt d a w => Sys2Proof.Machine.execMcfSt d a w s
  | .mcfOrder a => Sys2Proof.Machine.execMcfOrder a s
  | .mcfDrain d a b => Sys2Proof.Machine.execMcfDrain d a b s
  | .mcfLog a cause => Sys2Proof.Machine.execMcfLog a cause s
  | .mcfEnd => Sys2Proof.Machine.execMcfEnd s
  | .blockHeaderEntry blk win addr => Sys2Proof.Machine.execBlockHeaderEntry blk win addr s
  | .issueSlot core lg => Sys2Proof.Machine.execIssueSlot core lg s
  | .controlCoreIssue core => Sys2Proof.Machine.execControlCoreIssue core s
  | .rejoinHoldTimeout blk win j out => Sys2Proof.Machine.execRejoinHoldTimeout blk win j out s
  | .rendezvousTimeout blk win pc => Sys2Proof.Machine.execRendezvousTimeout blk win pc s
  | .handlerEntry blk => Sys2Proof.Machine.execHandlerEntry blk s
  | .runtimeResume blk who => Sys2Proof.Machine.execRuntimeResume blk who s
  | .runtimeKill blk who => Sys2Proof.Machine.execRuntimeKill blk who s
  | .blockKill blk cause => Sys2Proof.Machine.execBlockKill blk cause s
  | .watchdogTimeout blk who => Sys2Proof.Machine.execWatchdogTimeout blk who s
  | .preemptContext ctx => Sys2Proof.Machine.execPreemptContext ctx s
  | .preemptionComplete ctx => Sys2Proof.Machine.execPreemptionComplete ctx s
  | .contextResume ctx => Sys2Proof.Machine.execContextResume ctx s
  | .blockRetire blk => Sys2Proof.Machine.execBlockRetire blk s
  | .doorbellWrite ctx q tail => Sys2Proof.Machine.execDoorbellWrite ctx q tail s
  | .launchAccept ctx q => Sys2Proof.Machine.execLaunchAccept ctx q s
  | .batchForm => Sys2Proof.Machine.execBatchForm s
  | .resourceAdvertise die => Sys2Proof.Machine.execResourceAdvertise die s
  | .blockPlace die => Sys2Proof.Machine.execBlockPlace die s
  | .launchComplete seq => Sys2Proof.Machine.execLaunchComplete seq s
  | .aallocStallFail core => Sys2Proof.Machine.execAallocStallFail core s
  | .pageWalk ctx page => Sys2Proof.Machine.execPageWalk ctx page s
  | .homeSliceAccess req keep => Sys2Proof.Machine.execHomeSliceAccess req keep s
  | .directoryInvalidate req die => Sys2Proof.Machine.execDirectoryInvalidate req die s
  | .storeAck req => Sys2Proof.Machine.execStoreAck req s
  | .loadReturn req => Sys2Proof.Machine.execLoadReturn req s
  | .replicaCommit req => Sys2Proof.Machine.execReplicaCommit req s
  | .replicaUpdate req => Sys2Proof.Machine.execReplicaUpdate req s
  | .ackLostTimeout req => Sys2Proof.Machine.execAckLostTimeout req s
  | .lineThaw line => Sys2Proof.Machine.execLineThaw line s
  | .replicaLockTimeout req => Sys2Proof.Machine.execReplicaLockTimeout req s
  | .stackCacheSpill blk line mode => Sys2Proof.Machine.execStackCacheSpill blk line mode s
  | .copyComplete cmd stop => Sys2Proof.Machine.execCopyComplete cmd stop s
  | .chainComplete cmd stop => Sys2Proof.Machine.execChainComplete cmd stop s
  | .matrixStepComplete core => Sys2Proof.Machine.execMatrixStepComplete core s
  | .coopTimeout blk => Sys2Proof.Machine.execCoopTimeout blk s
  | .nmAgentExecute cmd => Sys2Proof.Machine.execNmAgentExecute cmd s
  | .overlayLoadComplete core copy => Sys2Proof.Machine.execOverlayLoadComplete core copy s
  | .frctlWrite n v => Sys2Proof.Machine.execFrctlWrite n v s
  | .frctlErrClear n => Sys2Proof.Machine.execFrctlErrClear n s
  | .moncfgWrite m v => Sys2Proof.Machine.execMoncfgWrite m v s
  | .monitorClear m => Sys2Proof.Machine.execMonitorClear m s
  | .monitorLevelSample m => Sys2Proof.Machine.execMonitorLevelSample m s
  | .registerWrite r v => Sys2Proof.Machine.execRegisterWrite r v s
  | .contextRecordWrite ctx f => Sys2Proof.Machine.execContextRecordWrite ctx f s
  | .powerControlInterval est => Sys2Proof.Machine.execPowerControlInterval est s
  | .shapingWindowBoundary => Sys2Proof.Machine.execShapingWindowBoundary s
  | .dwriteSend id => Sys2Proof.Machine.execDwriteSend id s
  | .dwriteAccept w => Sys2Proof.Machine.execDwriteAccept w s
  | .snapshotRead r => Sys2Proof.Machine.execSnapshotRead r s
  | .snapshotResponse r => Sys2Proof.Machine.execSnapshotResponse r s
  | .packageArrive ctx => Sys2Proof.Machine.execPackageArrive ctx s
  | .activityReport ctx pkg => Sys2Proof.Machine.execActivityReport ctx pkg s
  | .quenchArrivalReport ctx pkg torn reports => Sys2Proof.Machine.execQuenchArrivalReport ctx pkg torn reports s
  | .quenchApply ctx torn => Sys2Proof.Machine.execQuenchApply ctx torn s
  | .quenchDone ctx pkg reports => Sys2Proof.Machine.execQuenchDone ctx pkg reports s
  | .quenchRelease r => Sys2Proof.Machine.execQuenchRelease r s
  | .quenchSkewTimeout a => Sys2Proof.Machine.execQuenchSkewTimeout a s
  | .readmissionRequest ctx pkg => Sys2Proof.Machine.execReadmissionRequest ctx pkg s
  | .windowFreeze f => Sys2Proof.Machine.execWindowFreeze f s
  | .windowThaw f => Sys2Proof.Machine.execWindowThaw f s
  | .programBind b => Sys2Proof.Machine.execProgramBind b s
  | .programUnbind ctx prog => Sys2Proof.Machine.execProgramUnbind ctx prog s
  | .packetReceive p => Sys2Proof.Machine.execPacketReceive p s
  | .grantReceive p => Sys2Proof.Machine.execGrantReceive p s
  | .nackReceive p => Sys2Proof.Machine.execNackReceive p s
  | .rowAck ctx coll round rank token => Sys2Proof.Machine.execRowAck ctx coll round rank token s
  | .roundComplete ctx coll => Sys2Proof.Machine.execRoundComplete ctx coll s
  | .collectiveTimeout ctx coll => Sys2Proof.Machine.execCollectiveTimeout ctx coll s
  | .packageReset img => Sys2Proof.Machine.execPackageReset img s
  | .contextReset ctx => Sys2Proof.Machine.execContextReset ctx s
  | .hearthDieReset die => Sys2Proof.Machine.execHearthDieReset die s
  | .dieRejoin die => Sys2Proof.Machine.execDieRejoin die s
  | .dieFailTimeout die => Sys2Proof.Machine.execDieFailTimeout die s
  | .portEnable p => Sys2Proof.Machine.execPortEnable p s
  | .trainingComplete p => Sys2Proof.Machine.execTrainingComplete p s
  | .trainingTimeout p => Sys2Proof.Machine.execTrainingTimeout p s
  | .joinExchange p m => Sys2Proof.Machine.execJoinExchange p m s
  | .attestationReport p m => Sys2Proof.Machine.execAttestationReport p m s
  | .linkLoss p => Sys2Proof.Machine.execLinkLoss p s
  | .portClear p => Sys2Proof.Machine.execPortClear p s
  | .frameReceive p f => Sys2Proof.Machine.execFrameReceive p f s
  | .noPathTimeout pkg => Sys2Proof.Machine.execNoPathTimeout pkg s
  | .keyRefresh p => Sys2Proof.Machine.execKeyRefresh p s
  | .keyStarved p => Sys2Proof.Machine.execKeyStarved p s
  | .heatDomainForm ctx d => Sys2Proof.Machine.execHeatDomainForm ctx d s
  | .tlbinvRemovalComplete id => Sys2Proof.Machine.execTlbinvRemovalComplete id s

end Sys2Proof.Machine
end

