-- ==== Sys2Proof/Machine/HostLink.lean ====
section
/-! DEFINITION. The register file of a function, as the host sees it through BAR0 (R354): the context number, the doorbells,
the MSI-X table and the pending bits. -/

namespace Sys2Proof.Machine

/-- The context of a function: PF 0 may have several, of which BAR0 shows the lowest (PRESUMED, log entry 113). -/
def State.contextOf (s : State) (fn : Nat) : Option Nat := (List.range Config.contexts).find? fun c => (s.ctx c).fn == some fn

/-- A read of 4 bytes by the host at a multiple of 4: what a doorbell register reads is not stated. Until the boot sequence has
completed no register file answers: in recovery the host link exposes the PF with a status alone, whose form is not stated
(R350). -/
def State.bar0Read (s : State) (fn offset : Nat) : Option Word :=
  if !s.hostUp then none
  else if offset = 0 then
    some (match s.contextOf fn with
      | some c => BitVec.ofNat 32 c
      | none => 0xFFFFFFFF)
  else if 0x1000 ≤ offset && offset < 0x1040 then none
  else if 0x2000 ≤ offset && offset < 0x2110 then some (s.msixWord fn ((offset - 0x2000) / 4))
  else if offset = 0x3000 then some ((vget s.msixPend fn 0).setWidth 32)
  else some 0

/-- A write of a word of the MSI-X table: a vector that is no longer masked is sent, and its pending bit falls. -/
def State.msixWrite (s : State) (fn w : Nat) (v : Word) : State :=
  let s := { s with msixTab := vmod s.msixTab fn fun t => vset t w v }
  if w % 4 = 3 && !v.getLsbD 0 then
    { s with msixPend := vmod s.msixPend fn fun p => p &&& ~~~BitVec.ofNat 17 (2 ^ (w / 4)) }
  else s

/-- A write of 4 bytes by the host to a function's BAR0: a doorbell or a word of the MSI-X table; every other offset is
read-only. -/
def State.hostWrite (s : State) (fn offset : Nat) (v : Word) : Result :=
  if !s.hostUp || offset % 4 ≠ 0 then .next s
  else if 0x1000 ≤ offset && offset < 0x1040 then
    match s.contextOf fn with
    | some c => execDoorbellWrite c ((offset - 0x1000) / 4) v s
    | none => .next s
  else if 0x2000 ≤ offset && offset < 0x2110 then .next (s.msixWrite fn ((offset - 0x2000) / 4) v)
  else .next s

end Sys2Proof.Machine
end

