-- ==== Sys2Proof/Machine/Candidates.lean ====
section
/-! DEFINITION. What may move next when nothing outside says (R450): the events that the package performs by itself, each
with the operands that the state names. One that is not yet enabled changes nothing. The operands that the spec leaves free
come from the free values. -/

namespace Sys2Proof.Machine

/-- What the package does by itself: an event, the choice of a port engine, or a tick of time. -/
inductive Move where
  | tick
  | port (engine : Nat)
  | blockHeaderEntry (blk : Nat) (win : Option Nat) (addr : Word)
  | issueSlot (core lg : Nat)
  | controlCoreIssue (core : Nat)
  | rejoinHoldTimeout (blk win : Nat) (j : Word) (out : Option Word)
  | rendezvousTimeout (blk win : Nat) (pc : Word)
  | handlerEntry (blk : Nat)
  | watchdogTimeout (blk : Nat) (who : Who)
  | preemptContext (ctx : Nat)
  | preemptionComplete (ctx : Nat)
  | blockRetire (blk : Nat)
  | launchAccept (ctx q : Nat)
  | batchForm
  | resourceAdvertise (die : Nat)
  | blockPlace (die : Nat)
  | launchComplete (seq : Nat)
  | judgeDue (seq : Nat)
  | aallocStallFail (core : Nat)
  | pageWalk (ctx page : Nat)
  | homeSliceAccess (req : Nat) (keep : Bool)
  | directoryInvalidate (req die : Nat)
  | storeAck (req : Nat)
  | loadReturn (req : Nat)
  | replicaCommit (req : Nat)
  | replicaUpdate (req : Nat)
  | ackLostTimeout (req : Nat)
  | lineThaw (line : Nat)
  | replicaLockTimeout (req : Nat)
  | stackCacheSpill (blk line : Nat) (mode : SpillMode)
  | copyComplete (cmd stop : Nat)
  | engineAdvance (cmd : Nat)
  | engineFlush (cmd n : Nat)
  | engineTake (cmd k : Nat)
  | agentHop (cmd : Nat)
  | sequencerError (core : Nat)
  | chainComplete (cmd stop : Nat)
  | matrixStepComplete (core : Nat)
  | coopTimeout (blk : Nat)
  | nmAgentExecute (cmd : Nat)
  | overlayLoadComplete (core copy : Nat)
  | monitorLevelSample (m : MonId)
  | powerControlInterval (est : List PowerEst)
  | shapingWindowBoundary
  | dwriteSend (id : Nat)
  | dwriteAccept (w : DWrite)
  | snapshotRead (r : SnapReq)
  | snapshotResponse (r : SnapRsp)
  | packageArrive (ctx : Nat)
  | activityReport (ctx : Nat) (pkg : BitVec 20)
  | quenchApply (ctx : Nat) (torn : List (BitVec 20 × Option (BitVec 16)))
  | quenchDone (ctx : Nat) (pkg : BitVec 20) (reports : List Report)
  | quenchRelease (ctx : Nat) (heat : BitVec 48) (susp : List (BitVec 20))
  | quenchSkewTimeout (ctx : Nat) (late : List (BitVec 20)) (reports : List Report)
  | packetReceive (p : Packet)
  | grantReceive (p : Packet)
  | nackReceive (p : Packet)
  | rowAck (ctx : Nat) (coll : BitVec 16) (round : BitVec 16) (rank token : Nat)
  | roundComplete (ctx : Nat) (coll : BitVec 16)
  | collectiveTimeout (ctx : Nat) (coll : BitVec 16)
  | contextReset (ctx : Nat)
  | dieRejoin (die : Nat)
  | dieFailTimeout (die : Nat)
  | trainingTimeout (p : Nat)
  | tlbinvRemovalComplete (id : Nat)
  | noPathTimeout (pkg : BitVec 20)
  | landPosted
  | raiseDue
  | closeFaults (blk : Nat)
  | landFalls (blk : Nat)
  | aliasMove (ctx coll : Nat)
  | rowsWritten (ctx coll round : Nat)
  | capacityDue (binding : Nat)
  | closeLoads

/-- A move is the event of its name. -/
def Move.perform (m : Move) (s : State) : Result :=
  match m with
  | .tick => .next (s.advance 1)
  | .port e => .next (s.selectPort e)
  | .blockHeaderEntry blk win addr => execBlockHeaderEntry blk win addr s
  | .issueSlot core lg => execIssueSlot core lg s
  | .controlCoreIssue core => execControlCoreIssue core s
  | .rejoinHoldTimeout blk win j out => execRejoinHoldTimeout blk win j out s
  | .rendezvousTimeout blk win pc => execRendezvousTimeout blk win pc s
  | .handlerEntry blk => execHandlerEntry blk s
  | .watchdogTimeout blk who => execWatchdogTimeout blk who s
  | .preemptContext ctx => execPreemptContext ctx s
  | .preemptionComplete ctx => execPreemptionComplete ctx s
  | .blockRetire blk => execBlockRetire blk s
  | .launchAccept ctx q => execLaunchAccept ctx q s
  | .batchForm => execBatchForm s
  | .resourceAdvertise die => execResourceAdvertise die s
  | .blockPlace die => execBlockPlace die s
  | .launchComplete seq => execLaunchComplete seq s
  | .judgeDue seq => .next (s.judgeDue seq)
  | .aallocStallFail core => execAallocStallFail core s
  | .pageWalk ctx page => execPageWalk ctx page s
  | .homeSliceAccess req keep => execHomeSliceAccess req keep s
  | .directoryInvalidate req die => execDirectoryInvalidate req die s
  | .storeAck req => execStoreAck req s
  | .loadReturn req => execLoadReturn req s
  | .replicaCommit req => execReplicaCommit req s
  | .replicaUpdate req => execReplicaUpdate req s
  | .ackLostTimeout req => execAckLostTimeout req s
  | .lineThaw line => execLineThaw line s
  | .replicaLockTimeout req => execReplicaLockTimeout req s
  | .stackCacheSpill blk line mode => execStackCacheSpill blk line mode s
  | .copyComplete cmd stop => execCopyComplete cmd stop s
  | .engineAdvance cmd => .next (s.engineAdvance cmd)
  | .engineFlush cmd n => .next (s.engineFlush cmd n)
  | .engineTake cmd k => .next (s.engineTake cmd k)
  | .agentHop cmd => .next (s.agentHop cmd)
  | .sequencerError core => .next (s.sequencerError core)
  | .chainComplete cmd stop => execChainComplete cmd stop s
  | .matrixStepComplete core => execMatrixStepComplete core s
  | .coopTimeout blk => execCoopTimeout blk s
  | .nmAgentExecute cmd => execNmAgentExecute cmd s
  | .overlayLoadComplete core copy => execOverlayLoadComplete core copy s
  | .monitorLevelSample m => execMonitorLevelSample m s
  | .powerControlInterval est => execPowerControlInterval est s
  | .shapingWindowBoundary => execShapingWindowBoundary s
  | .dwriteSend id => execDwriteSend id s
  | .dwriteAccept w => execDwriteAccept w s
  | .snapshotRead r => execSnapshotRead r s
  | .snapshotResponse r => execSnapshotResponse r s
  | .packageArrive ctx => execPackageArrive ctx s
  | .activityReport ctx pkg => execActivityReport ctx pkg s
  | .quenchApply ctx torn => execQuenchApply ctx torn s
  | .quenchDone ctx pkg reports => execQuenchDone ctx pkg reports s
  | .quenchRelease ctx heat susp => execQuenchRelease ⟨ctx, heat, susp⟩ s
  | .quenchSkewTimeout ctx late reports => execQuenchSkewTimeout ⟨ctx, late, reports⟩ s
  | .packetReceive p => execPacketReceive p s
  | .grantReceive p => execGrantReceive p s
  | .nackReceive p => execNackReceive p s
  | .rowAck ctx coll round rank token => execRowAck ctx coll round rank token s
  | .roundComplete ctx coll => execRoundComplete ctx coll s
  | .collectiveTimeout ctx coll => execCollectiveTimeout ctx coll s
  | .contextReset ctx => execContextReset ctx s
  | .dieRejoin die => execDieRejoin die s
  | .dieFailTimeout die => execDieFailTimeout die s
  | .trainingTimeout p => execTrainingTimeout p s
  | .tlbinvRemovalComplete id => execTlbinvRemovalComplete id s
  | .noPathTimeout pkg => execNoPathTimeout pkg s
  | .landPosted => .next s.landPosted
  | .raiseDue => .next s.raiseDue
  | .closeFaults blk => .next (s.closeFaults blk)
  | .landFalls blk => .next (s.landFalls blk)
  | .aliasMove ctx coll => .next (s.aliasMove ctx coll)
  | .rowsWritten ctx coll round => .next (s.rowsWritten ctx coll round)
  | .capacityDue binding => .next (s.capacityDue binding)
  | .closeLoads => .next s.closeLoads

/-- The steps of threads: issue slots, headers, limits on waits, handlers. -/
def blockMoves (b : Block) : List Move :=
  let live := b.whos.filter fun w => b.liveWho w
  let before := (live.filterMap fun w => (b.thread w).bind fun t =>
    if t.entering then some (winOf w, t.pc) else none).eraseDups
  let waits := (live.filterMap fun w => (b.thread w).bind fun t =>
    match winOf w with
    | some n => if t.wait == .rdvSlot then some (n, t.pc) else none
    | none => none).eraseDups
  let watched := live.filter fun w => (b.thread w).any fun t => t.wait.watched
  before.map (fun p => Move.blockHeaderEntry b.id p.1 p.2) ++
    b.rejoins.map (fun r => Move.rejoinHoldTimeout b.id r.win r.j r.out) ++
    b.rdvs.filterMap (fun r => r.win.map fun n => Move.rendezvousTimeout b.id n r.pc) ++
    waits.map (fun p => Move.rendezvousTimeout b.id p.1 p.2) ++
    watched.map (fun w => Move.watchdogTimeout b.id w) ++
    b.stack.flatMap (fun l => [Move.stackCacheSpill b.id l.line .spillDrop, Move.stackCacheSpill b.id l.line .spillKeep]) ++
    live.filterMap (fun w => (b.thread w).map fun t => Move.stackCacheSpill b.id ((t.g 111).toNat / 128) .fill) ++
    [Move.handlerEntry b.id, Move.coopTimeout b.id, Move.blockRetire b.id, Move.closeFaults b.id, Move.landFalls b.id]

/-- The steps of the cores that have a block. -/
def State.coreMoves (s : State) : List Move :=
  (s.blocks.map (·.core)).eraseDups.flatMap fun k =>
    (List.range 4).map (fun lg => Move.issueSlot k lg) ++ [Move.controlCoreIssue k, Move.matrixStepComplete k,
      Move.sequencerError k, Move.aallocStallFail k]

/-- The ends of overlay loads. -/
def State.loadMoves (s : State) : List Move :=
  s.cores.toList.zipIdx.flatMap fun p =>
    (p.1.copies.filter fun k => k.loading || k.reload).map fun k => Move.overlayLoadComplete p.2 k.id

/-- The steps of an access. -/
def Req.tasks (r : Req) : List Move :=
  [Move.homeSliceAccess r.id true, Move.homeSliceAccess r.id false, Move.storeAck r.id, Move.loadReturn r.id, Move.replicaCommit r.id,
   .replicaUpdate r.id, Move.ackLostTimeout r.id, Move.replicaLockTimeout r.id] ++
  (match r.st with
   | .home dies _ => dies.map fun d => Move.directoryInvalidate r.id d
   | .issued | .locked _ | .done | .aborted _ _ => [])

/-- The steps of the memory system. -/
def State.memoryMoves (s : State) : List Move :=
  s.reqs.flatMap Req.tasks ++ (s.frozenLines.map fun f => Move.lineThaw f.line) ++
    ((List.range Config.contexts).flatMap fun c => ((s.walkers c).map fun w => pageOf w.va).eraseDups.map fun p =>
      .pageWalk c p) ++
    (s.invs.map fun i => Move.tlbinvRemovalComplete i.id) ++ [Move.landPosted, Move.raiseDue, Move.closeLoads]

/-- The targets of a `cpy.bc`, by their places in its list. -/
def Cmd.targetList (c : Cmd) : List Nat :=
  match c.kind with
  | .copy _ _ _ _ _ _ _ (some l) => List.range l.length
  | .copy _ _ _ _ _ _ _ none | .badCopy _ _ _ _ | .fill _ _ _ _ _ | .drain _ _ _ _ _ | .chain _ _ _ _ _ _ _ | .nmcas _ _ _
  | .nmenq _ | .nmchase _ _ | .ovld _ _ _ => []

/-- The steps of engine commands: their elements, the writes of their elements in any order, the tiles that a broadcast
takes, and their ends; the boundary at which a stop takes one is free. -/
def State.engineMoves (s : State) : List Move :=
  let stop := Config.pick s.fresh
  s.cmds.flatMap fun c =>
    [Move.engineAdvance c.id, Move.agentHop c.id, Move.copyComplete c.id stop, Move.chainComplete c.id stop, Move.nmAgentExecute c.id] ++
    (c.run.pend.map fun e => Move.engineFlush c.id e.1) ++ c.targetList.map fun k => Move.engineTake c.id k

/-- The steps of launches and dies, and of a pre-emption or reset that has begun. -/
def State.launchMoves (s : State) : List Move :=
  ((List.range Config.contexts).flatMap fun c =>
    let x := s.ctx c
    ((List.range x.nq).map fun q => Move.launchAccept c q) ++
    (match x.pre with
     | .stopping => [Move.preemptContext c, Move.preemptionComplete c]
     | .resetting => [Move.contextReset c]
     | .running | .stopped => [])) ++
  (s.launches.flatMap fun l => [Move.launchComplete l.seq, Move.judgeDue l.seq]) ++
  ((List.range Config.dies).flatMap fun d =>
    [Move.resourceAdvertise d, Move.blockPlace d] ++
    (match (s.die d).st with
     | .up => []
     | .resetting _ | .failed => [Move.dieRejoin d, Move.dieFailTimeout d])) ++
  [Move.batchForm]

/-- The steps of a heat domain that this package takes by itself. The apply, and the end of a heat that has exceeded its
skew, are the root's: a member takes them when they come down the tree (R162, R166). -/
def State.heatMoves (s : State) (c : Nat) : List Move :=
  let x := s.ctx c
  (x.outbound.map fun o => Move.dwriteSend o.id) ++ (x.inFlight.map fun o => Move.dwriteAccept o.w) ++
  [Move.packageArrive c, Move.activityReport c s.pkg, Move.quenchDone c s.pkg [], Move.quenchRelease c (x.heat + 1) x.susp] ++
  (if x.isRoot s.pkg then [Move.quenchApply c [], Move.quenchSkewTimeout c [] []] else [])

/-- The snapshot reads that this package makes of itself, and their replies. -/
def State.snapMoves (s : State) : List Move :=
  (s.reqs.filterMap fun r =>
    match r.kind with
    | .snap _ n _ _ _ peer pctx key =>
      if peer == s.pkg && r.value.isNone && r.bad.isNone then
        some (Move.snapshotRead { spkg := s.pkg, req := r.id, dctx := pctx, key := key, addr := r.va.toNat, size := n })
      else none
    | .load _ _ _ _ _ | .store _ _ _ | .atomic _ _ _ _ _ _ _ | .clean _ | .own _ _ | .buf _ _ _ _ | .stk _ _ | .lock | .defer _ => none) ++
  s.answers.map fun a => Move.snapshotResponse a

/-- The packets that this package sends to itself, and the steps of its rounds. -/
def State.anvilMoves (s : State) : List Move :=
  ((s.outbox.filter fun o => o.dst == s.pkg).flatMap fun o =>
    [Move.packetReceive o.pkt, Move.grantReceive o.pkt, Move.nackReceive o.pkt]) ++
  ((s.rowAcks.filter fun a => a.dst == s.pkg).map fun a =>
    .rowAck a.ctx (BitVec.ofNat 16 a.coll) (BitVec.ofNat 16 a.round) a.rank a.token) ++
  (s.rounds.flatMap fun x =>
    [Move.roundComplete x.ctx (BitVec.ofNat 16 x.coll), Move.collectiveTimeout x.ctx (BitVec.ofNat 16 x.coll),
     .rowsWritten x.ctx x.coll x.round]) ++
  (s.aliasWaits.map fun w => .aliasMove w.ctx w.coll) ++ (List.range s.bindings.length).map .capacityDue

/-- The steps of the power controller and of the monitors; what the controller estimates is free. -/
def State.powerMoves (s : State) : List Move :=
  let w := Config.freeWord s.fresh
  let est := (List.range Config.dies).map fun d =>
    ({ rise := if w.getLsbD d then 10 * s.slew.toNat + 1 else 0, back := w.getLsbD (d + 8) } : PowerEst)
  let on (m : Mon) (i : MonId) : Option Move := if m.en then some (Move.monitorLevelSample i) else none
  [Move.powerControlInterval est, Move.shapingWindowBoundary] ++
  (s.dies.toList.zipIdx.flatMap fun p => p.1.mons.toList.zipIdx.filterMap fun q => on q.1 (.die p.2 q.2)) ++
  s.amons.toList.zipIdx.filterMap fun q => on q.1 (.anvil q.2)

/-- The limits of the links, and of the time without a path. -/
def State.linkMoves (s : State) : List Move :=
  let peers := (s.ctxs.toList.flatMap fun x => x.outbound.map fun o => BitVec.ofNat 20 o.peer) ++ s.outbox.map (·.dst)
  (if s.pathLost.isSome then peers.eraseDups.map fun p => Move.noPathTimeout p else []) ++
  s.ports.toList.zipIdx.filterMap fun p =>
    match p.1.st with
    | .training _ => some (Move.trainingTimeout p.2)
    | .down | .joining | .attesting | .up | .refused => none

/-- Everything that may move next. -/
def State.candidates (s : State) : List Move :=
  .tick :: ((s.bindings.map (·.engine)).eraseDups.map Move.port ++ s.coreMoves ++ s.blocks.flatMap blockMoves ++ s.loadMoves ++
    s.memoryMoves ++ s.engineMoves ++ s.launchMoves ++ (List.range Config.contexts).flatMap s.heatMoves ++ s.snapMoves ++
    s.anvilMoves ++ s.powerMoves ++ s.linkMoves)

/-- One of them, chosen freely. -/
def State.nextMove (s : State) : Move × State :=
  let l := s.candidates
  (l.getD (Config.choose s.fresh % l.length) Move.tick, { s with fresh := s.fresh + 1 })

end Sys2Proof.Machine
end

