-- ==== Sys2Proof/Machine/Turn.lean ====
section
/-! DEFINITION. What moves next (R450): the word that the issue slot runs, the head of the agenda, or one of the things
that may move, chosen freely. -/

namespace Sys2Proof.Machine

/-- The instruction of the issue slot. -/
def State.fetch (s : State) : State × Option Instr :=
  match s.cur with
  | some (.bundle blk tids) => s.fetchCore blk (tids.map Who.vec)
  | some (.control blk) => s.fetchCore blk [.ctl]
  | some (.port i t) => s.fetchPort i t
  | none => (s, none)

/-- What moves next. -/
inductive Next where
  | task (t : Task)
  | move (m : Move)

/-- The head of the agenda, else a free choice. -/
def State.nextTurn (s : State) : Next × State :=
  match s.agenda with
  | t :: ts => (.task t, { s with agenda := ts })
  | [] =>
    let (m, s) := s.nextMove
    (.move m, s)

/-! ## An instruction placed for the next step -/

/-- A launch record with every field 0. -/
def LaunchRec.zero : LaunchRec :=
  { ovl := 0, vent := 0, cent := 0, hovl := 0, gdim := 0, bdim := 1, gang := 0, greg := 112, wq := 0, aq := 0, cq := 0,
    nbar := 0, isq := 1, ntile := 0, stk := 0, stkbase := 0, prio := 0, heatF := false, cond := false, csense := false,
    irq := false, collF := false, ser := false, chdl := 0, npred := 0, predaddr := 0, succ := 0, nsucc := 0, done := 0,
    sext := 0, resv := false, sinit := [] }

/-- The block whose control thread runs a placed instruction: the thread stands at the first word of overlay 1's first
basic block. -/
def placedBlock (id : Nat) : Block :=
  { id := id, ctx := 0, seq := 0, bid := 0, core := 0, bslot := 0, lr := LaunchRec.zero, threads := [],
    ctl := some { Thread.fresh 0 with pc := 0x01000018, hdr := 0x01000010 }, sregs := Vector.replicate 64 0, bars := [],
    flags := Vector.replicate 12 0, tiles := [], wBase := 0, aBase := 0, cBase := 0, regions := [], cands := [],
    rejoins := [], rdvs := [], areqs := [], stack := [], mCause := 0, mStop := false, mWd := 0, mStep := 0,
    mFault := none, hsave := 0, parks := [], faulted := [], hovlDue := false, killed := none, aliasIn := [], coop := none, launchF := false,
    barSaved := false, saving := false, falls := [] }

/-- The overlay that holds a placed instruction of `n` words: a head word with one entry, a header of `n` words with XL,
the words, and a basic block of one `nop` after them. -/
def placedCopy (id n w : Nat) : OvlCopy :=
  { id := id, loading := false, refs := [⟨0, 1, false, false⟩], addr := 0, nslots := 1, mask := 1,
    words := [1, 16, BitVec.ofNat 64 (15 * 2 ^ 60 + n * 2 ^ 52 + 112 * 2 ^ 45 + 2)] ++
      ((List.range n).map fun i => BitVec.ofNat 64 (w / 2 ^ (64 * i))) ++ [0xF01E000000000000, 0x3238000000000000],
    digest := [], shared := false, pins := [], hints := [], seq := 0, order := id, loader := none, bad := [],
    reload := false }

/-- The binding whose first port thread runs a placed word. -/
def placedBinding (w : Nat) : Binding :=
  { ctx := 0, prog := 5, engine := 0, words := [BitVec.ofNat 32 w],
    threads := [PThread.start 0 0],
    slotBase := 0, slots := [], ctrBase := 0, ctrs := [], oqBase := 0, oqs := [], rounds := [], tree := [], fqueue := [],
    fgrants := [], capDue := [] }

/-- The state with an instruction placed for the next step. A chain has three words and `mbr` two. -/
def State.placeWord (s : State) (nbits w : Nat) : State :=
  if nbits ≤ 32 then
    { s with boot := .done, bindings := placedBinding w :: s.bindings, cur := some (.port 0 0) }
  else
    let id := s.nextId
    let s := s.modCore 0 fun k => { k with copies := placedCopy id (wordCount (BitVec.ofNat 64 w)) w :: k.copies }
    { s with boot := .done, nextId := id + 1, blocks := placedBlock id :: s.blocks, cur := some (.control id) }

end Sys2Proof.Machine
end

