-- ==== Sys2Proof/Machine/Step.lean ====
section
/-! DEFINITION. One step of the package: the instruction that holds the issue slot, an event, the choice of a port
engine, or the passing of time. -/

namespace Sys2Proof.Machine

/-- One step: an instruction that holds the issue slot runs; else what is next on the agenda, or a free choice. -/
def step (s : State) : Host.Outcome State Fault Refusal :=
  match s.cur with
  | some _ =>
    match s.fetch with
    | (s, some i) => exec i s
    | (s, none) => .next s
  | none =>
    match s.nextTurn with
    | (.task (.event i), s) => exec i s
    | (.task (.port e), s) => .next (s.selectPort e)
    | (.task (.wait n), s) => .next (s.advance n)
    | (.task (.hostWrite fn off v), s) => s.hostWrite fn off v
    | (.move m, s) => m.perform s

/-- The state with an instruction placed where the next step fetches and runs it: in the issue slot of a control thread,
or of a port thread. It stands for the launch of a program or the binding of a port program. -/
def State.withFetchWord (s : State) (nbits w : Nat) : State := s.placeWord nbits w

end Sys2Proof.Machine
end

