-- ==== Sys2Proof/Safety.lean ====
section
/-! DEFINITION. What the claims speak of: invariants of the state that every step keeps, and a thread that issues alone. -/

namespace Sys2Proof.Safety

open Sys2Proof.Machine

/-- Far memory is in canonical form: addresses strictly rising, no byte 0 listed. -/
def MemOk (s : State) : Prop := Memory.wf s.mem = true

/-! ## A thread that issues alone -/

/-- What holds the issue slot when one thread of a block issues. -/
def holder (blk : Nat) : Who → Issue
  | .vec t => .bundle blk [t]
  | .ctl => .control blk

/-- Thread `w` of block `b` holds the issue slot alone with instruction `i`: the word is in its place (R178), the thread
may execute it (R40, R314), no operand is still to come (R185, R200), none that it reads is lost (R430), and its guard is known
and true (R179, R430). -/
structure Issues (s : State) (b : Block) (w : Who) (t : Thread) (i : Instr) (g : Guard) : Prop where
  slot    : s.cur = some (holder b.id w)
  block   : s.block b.id = some b
  thread  : b.thread w = some t
  placed  : s.wordFault b w t i = none
  allowed : threadFault w t i = none
  free    : s.lacks b w i = []
  idle    : t.pendings i = none
  sound   : t.lost i = false
  known   : t.guardLost g = false
  guard   : t.guard g = true

/-- Where the thread stands after `i`: at a word of its basic block, or, after the last one, before the header that follows
(R171). -/
def Inside (s : State) (b : Block) (t : Thread) (i : Instr) (pc : Onward) : Prop :=
  s.onward b.core b.ctx t.hdr t.pc (wordsOf i) = pc ∧ ∀ a, pc ≠ .astray a

/-- The state in which an instruction acts: the issue slot is empty, and the issue has its number. -/
def issued (s : State) : State := { s with cur := none, nextId := s.nextId + 1 }

/-- The number of an issue: that of the issue in whose middle the thread waited, else a new one (R42, R250). -/
def issueOf (s : State) (t : Thread) : Nat := t.issueNo s.nextId

/-- The place of an issue. -/
def site (s : State) (b : Block) (w : Who) (t : Thread) : Site := { blk := b.id, who := w, iss := issueOf s t }

/-- A thread stands before the header at `a`, having left its basic block. -/
def enters (s : State) (b : Block) (w : Who) (t : Thread) (a : Word) : State :=
  let s := if codeOvl a = codeOvl t.hdr then s else s.cancelEvict b.core b.ctx (codeOvl a)
  ((s.modThread b.id w fun t => { t with pc := a, entering := true, start := none, wait := .none }).modBlock b.id
    Block.sweep).settle b.core

/-- A thread that has completed its word passes on: within its basic block, or into the next. -/
def passes (s : State) (b : Block) (w : Who) (t : Thread) (pc : Onward) : State :=
  match pc with
  | .within pc => s.modThread b.id w fun t => { t with pc := pc, wait := .none }
  | .header a => enters s b w t a
  | .astray _ => s

/-- An issue whose one effect is that the thread becomes `t'`, and that passes on. -/
def becomes (s : State) (b : Block) (w : Who) (t : Thread) (pc : Onward) (t' : Thread) : State :=
  passes ((issued s).modThread b.id w fun _ => t') b w t pc

/-- A thread parks with what `p` says (R42): issued for the first time, as a fault group of its own; in an issue that it shared
before it waited, with the threads of that issue. -/
def parksWith (s : State) (b : Block) (w : Who) (t : Thread) (p : Parked) : State :=
  if t.alone [w] then s.parkGroup b.id [p] else s.raise b.id [(t.issue, p)]

/-- A thread parks at its word with a cause. -/
def parks (s : State) (b : Block) (w : Who) (t : Thread) (c : Cause) (addr : Option DWord) (detail : Nat) : State :=
  parksWith s b w t
    { who := w, cause := c, pc := t.pc, word := s.wordAt b.core b.ctx t.pc, addr := addr, detail := detail }

/-- A thread waits in an issue. -/
def waits (s z : State) (b : Block) (w : Who) (t : Thread) (x : Wait) : State := z.awaitIn b.id (issueOf s t) w x

/-- What an issue leaves whose thread does not pass on: at the end of a basic block the frontier is swept. -/
def rests (s : State) (b : Block) (t : Thread) (i : Instr) : State :=
  match s.onward b.core b.ctx t.hdr t.pc (wordsOf i) with
  | .within _ => s
  | .header _ => (s.modBlock b.id Block.sweep).settle b.core
  | .astray _ => (s.modBlock b.id Block.sweep).settle b.core

end Sys2Proof.Safety
end

