-- ==== Sys2Proof/Certificates/Slice0/Obligations.lean ====
section
/-! DEFINITION. The statements for the provers, with the words they are stated in. -/

open Sys2Proof Sys2Proof.Machine Sys2Proof.Safety

namespace Sys2Proof.Claims

/-! ## Shapes of completion -/

/-- A thread that issues `i` alone becomes `f` of itself and passes on, within its basic block or, from its last word, into the
next: nothing else of the package changes. -/
def Completes (i : Instr) (g : Guard) (f : Thread → Thread) : Prop :=
  ∀ s b w t pc, Issues s b w t i g → Inside s b t i pc → exec i s = .next (becomes s b w t pc (f t))

/-- The log records of one issue of one thread: each cause with its count of elements (R115, R116). -/
def records (s : State) (b : Block) (w : Who) (t : Thread) (logs : List (Cause × Nat)) : State :=
  s.logIssue b.ctx b.core (BitVec.ofNat 32 b.bid) t.hdr (logs.map fun p => (p.1, (tidOf w).toNat % 65536, p.2))

/-- As `Completes`, with the log records of the arithmetic causes that the issue raises. -/
def CompletesLogging (i : Instr) (g : Guard) (f : Thread → Thread) (logs : Thread → List (Cause × Nat)) : Prop :=
  ∀ s b w t pc, Issues s b w t i g → Inside s b t i pc →
    exec i s = .next (passes (records ((issued s).modThread b.id w fun _ => f t) b w t (logs t)) b w t pc)

end Sys2Proof.Claims

open Sys2Proof.Claims

namespace Sys2Proof.Claims

/-! ## Any issue (R33 to R42, R178 to R185, R397 to R400) -/

/-- No block of the package has a request for accumulator space that waits. -/
def NoneWaiting (s : State) : Prop := ∀ c ∈ s.blocks, c.areqs = []

/-- A core instruction, with its guard. -/
def Guarded (i : Instr) (g : Guard) : Prop := ∃ f, encodeFields i = some f ∧ guardOf f = g

/-- A core instruction other than a cross-lane one, with its guard. -/
def Plain (i : Instr) (g : Guard) : Prop := Guarded i g ∧ isCrossLane i = false

/-- Some threads of a block hold the issue slot: a bundle of vector threads, or the control thread. -/
def HoldsSlot (s : State) (b : Block) (ws : List Who) : Prop :=
  (∃ tids, ws = tids.map Who.vec ∧ s.cur = some (.bundle b.id tids)) ∨ (ws = [.ctl] ∧ s.cur = some (.control b.id))

/-- No instance of a block waits for its lanes, where the instruction is a cross-lane one. -/
def NoInstances (s : State) (b : Block) (i : Instr) : Prop :=
  isCrossLane i = true → ∀ c ∈ s.blocks, c.id = b.id → c.rdvs = []

/-- Thread `w` of block `b` holds the issue slot alone at a word that is in its place. -/
def Stands (s : State) (b : Block) (w : Who) (t : Thread) (i : Instr) : Prop :=
  s.cur = some (holder b.id w) ∧ s.block b.id = some b ∧ b.thread w = some t ∧ s.wordFault b w t i = none

/-- A cause raised at a word: the thread parks there with no other effect. -/
def FaultsAt (s : State) (b : Block) (w : Who) (t : Thread) (i : Instr) (c : Cause) : Prop :=
  exec i s = .next (rests (parks (issued s) b w t c none 0) b t i)

/-- The instructions that need handler mode (R314). -/
def Privileged (i : Instr) : Prop :=
  ∃ g, i = .eret g ∨ (∃ d a, i = .park g d a ∨ i = .resume g d a ∨ i = .kill g d a) ∨
    (∃ a, i = .frsave g a ∨ i = .frload g a ∨ i = .bsave g a ∨ i = .brest g a) ∨ (∃ a m, i = .tlbinv g a m) ∨
    ∃ a n, i = .wrsr g a n ∧ n ∈ [0x12, 0x13, 0x21, 0x22, 0x26]

/-- The instructions for control threads only (R40): class 0xA OP 05 to 0D. -/
def ControlOnly (i : Instr) : Prop :=
  ∃ g, (∃ a b c, i = .mma g a b c ∨ i = .mmaBs g a b c) ∨ (∃ a b c k, i = .mmaNp g a b c k) ∨
    (∃ a b c x k p l, i = .mmaCoop g a b c x k p l) ∨ (∃ a, i = .mzero g a) ∨
    (∃ a b, i = .mdrain g a b ∨ i = .csel g a b) ∨ ∃ d w, i = .mseq g d w

/-- The words that a transfer or an `eret` is (R178). -/
def Transfer (i : Instr) : Prop :=
  ∃ g, (∃ o, i = .bra g o ∨ i = .call g o) ∨ (∃ o, i = .mbr g o) ∨ (∃ o e, i = .callo g o e) ∨
    (∃ a, i = .calli g a ∨ i = .bri g a) ∨ i = .ret g ∨ i = .exit g ∨ i = .eret g

/-- A register field that a vector thread does not hold (R49), or a barrier number beyond NBAR (R188). -/
def NamesNothing (b : Block) (w : Who) (i : Instr) : Prop :=
  (w ≠ .ctl ∧ ∃ r ∈ names i, r < 112 ∧ b.lr.greg ≤ r + 2 ∧ r ≠ 110 ∧ r ≠ 111) ∨
    ∃ n, barOf i = some n ∧ b.lr.nbar ≤ n

/-- The offset of the word after the basic block of a thread. -/
def blockEnd (s : State) (b : Block) (t : Thread) : Nat :=
  codeOff t.hdr + 8 * ((s.headerAt b.core b.ctx t.hdr).len + 1)

/-- A word out of its place (R178): past its basic block, a transfer that is not the last word, a cross-lane word
without XL. -/
def Misplaced (s : State) (b : Block) (t : Thread) (i : Instr) : Prop :=
  blockEnd s b t < codeOff t.pc + 8 * wordsOf i ∨ (Transfer i ∧ codeOff t.pc + 8 * wordsOf i ≠ blockEnd s b t) ∨
  (isCrossLane i = true ∧ (s.headerAt b.core b.ctx t.hdr).xl = false)

/-- A number of `n` bytes at an offset of a record, low byte first. -/
def field (bs : List Byte) (o n : Nat) : Nat := leNat ((bs.drop o).take n)

/-- The thread as a park leaves it (R42, R398), with its record at `a`: it keeps its PC and its registers. -/
def parked (t : Thread) (x : Parked) (taken : Bool) (a : DWord) : Thread :=
  { t with parked := true, parkHand := t.hmode, keptPc := x.pc, keptCause := x.cause, taken := taken, recAt := a,
           entering := x.enter, pc := x.pc, wait := .none, badStart := none, restored := false }

/-- The context after a park: PSEQ counts it once. -/
def countsPark (s : State) (b : Block) : State := s.modCtx b.ctx fun k => { k with pseq := (s.ctx b.ctx).pseq + 1 }

/-- The block after the park of one thread, with its record at `a`. -/
def parkedIn (s : State) (b : Block) (x : Parked) (a : DWord) : State :=
  (countsPark s b).modBlock b.id fun k => (k.withdraw x.who).modThread x.who fun t => parked t x false a

/-- The event of a park, for the control thread's handler (R388, R399). -/
def queues (s : State) (b : Block) (x : Parked) (hrec : DWord) (order : Nat) : State :=
  s.modBlock b.id fun k =>
    { k with parks := k.parks ++ [{ who := x.who, cause := x.cause, hrec := hrec, order := order }] }

end Sys2Proof.Claims

/-- R171, R179, R227: in a thread whose guard is false, an instruction of any class but 0x4 does nothing, and the thread passes
on: within its basic block, or, from its last word, a transfer's place among them, before the next header. -/
def Sys2Proof.Claims.FalseGuardPassesOn : Prop :=
  ∀ i g s b w t pc, Plain i g → NoneWaiting s → Stands s b w t i → t.guardLost g = false → t.guard g = false →
    Inside s b t i pc → exec i s = .next (passes (issued s) b w t pc)

/-- R184, R185, R200, R430: a thread waits until the values and handles that its word names are there, and raises
0x13 where a register or a predicate that it reads, or the predicate of its guard, was lost. -/
def Sys2Proof.Claims.OperandsAwaited : Prop :=
  ∀ i g s b w t, Plain i g → NoneWaiting s → Stands s b w t i → threadFault w t i = none →
    (t.guard g = true → ∀ rs, (names i).filter (s.awaited b.id w).contains = rs → rs ≠ [] →
      exec i s = .next ((issued s).await b.id w (.results (rs.map fun r => (w, r))))) ∧
    ((∀ r ∈ names i, r ∉ s.awaited b.id w) →
      (g.p.toNat ∈ t.badPreds → FaultsAt s b w t i 0x13) ∧
      (g.p.toNat ∉ t.badPreds → t.guard g = true →
        ((∃ n, n < 16 ∧ 112 + n ∈ names i ∧ (t.h n).pending = true) →
          ∃ m : BitVec 16, (∀ n, m.getLsbD n = true ↔ n < 16 ∧ 112 + n ∈ names i ∧ (t.h n).pending = true) ∧
            exec i s = .next (rests ((issued s).await b.id w (.handles m)) b t i)) ∧
        ((∀ n, n < 16 → 112 + n ∈ names i → (t.h n).pending = false) →
          (∃ r ∈ reads i, r ∈ t.badRegs) ∨ (∃ p ∈ Machine.readPreds i, p ∈ t.badPreds) → FaultsAt s b w t i 0x13)))

/-- R40, R314, R397: outside handler mode a privileged instruction raises 0x04, and in a vector thread one for
control threads raises 0x05. -/
def Sys2Proof.Claims.ModesChecked : Prop :=
  ∀ i g s b w t, Plain i g → Stands s b w t i → t.guardLost g = false → t.guard g = true →
    (Privileged i → t.hmode = false → FaultsAt s b w t i 0x04) ∧
    (ControlOnly i → w ≠ .ctl → FaultsAt s b w t i 0x05)

/-- R40, R184, R185, R200, R314, R397, R430: what every guard-true thread of an instruction is checked for before it
acts. -/
def Sys2Proof.Claims.ThreadChecks : Prop := Claims.OperandsAwaited ∧ Claims.ModesChecked

/-- R49, R178, R188, R397: a word that names what the block does not have parks every thread of its bundle, or the control
thread, with 0x01, whatever its guards, and a word out of its place with 0x03, a cross-lane word without XL among them. -/
def Sys2Proof.Claims.WordChecks : Prop :=
  (∀ (s : State) b w t i, s.wordFault b w t i = some 0x01 ↔ NamesNothing b w i) ∧
  (∀ (s : State) b w t i, s.wordFault b w t i = some 0x03 ↔ ¬ NamesNothing b w i ∧ Misplaced s b t i) ∧
  (∀ (s : State) b v vs t i g c, Guarded i g → NoneWaiting s → NoInstances s b i → HoldsSlot s b (v :: vs) →
    s.block b.id = some b → b.thread v = some t → s.wordFault b v t i = some c →
    exec i s = .next ((issued s).parkGroup b.id ((v :: vs).map fun w =>
      { who := w, cause := c, pc := t.pc, word := s.wordAt b.core b.ctx t.pc })))

/-- R40, R49, R178, R179, R184, R185, R188, R200, R314, R397, R430: what an issue checks before its instruction acts.
A register whose load is out is awaited by a word that only writes it too (log entry 20, the model's reading). -/
def Obligations.IssueChecks : Prop :=
  FalseGuardPassesOn ∧ ThreadChecks ∧ WordChecks


/-- R42, R398 to R400: taking an exception. One thread that parks keeps its registers, and the other threads go on;
its park record holds the fields of R398; the event goes to the control thread, or, from a control thread, from a
block without one or from handler mode, to the runtime, with TAKEN set; PSEQ counts a fault group once (R448). With PARKBASE 0
the record is discarded (R398); that no context event is raised for it is the model's reading (log entry 84). -/
def Sys2Proof.Claims.ParksAreTaken : Prop :=
  (∀ (s : State) b t x mask taken n, n < 2 ^ 64 →
    let r := parkBytes s b t x mask taken n
    r.length = 64 ∧ r[0]? = some x.cause ∧ field r 4 4 = b.bid % 2 ^ 32 ∧ field r 8 4 = (tidOf x.who).toNat ∧
      field r 12 4 = x.pc.toNat ∧ field r 16 8 = x.word.toNat ∧ field r 24 8 = (x.addr.getD 0).toNat ∧
      field r 32 6 = (s.ctx b.ctx).heat.toNat ∧ field r 40 4 = mask.toNat ∧ field r 48 4 = x.detail % 2 ^ 32 ∧
      field r 56 8 = n ∧
      field r 1 1 = (if x.who = .ctl then 1 else 0) + (if t.hmode then 2 else 0) + (if t.helper then 4 else 0) +
        (if x.addr.isSome then 8 else 0) + (if taken then 16 else 0)) ∧
  (∀ (s : State) b t x, s.block b.id = some b → b.thread x.who = some t → b.ctx < 64 → (∀ p ∈ s.posted, p.ctx ≠ b.ctx) →
    (∀ s', (s.ctx b.ctx).parkbase ≠ 0 → b.toRuntime x.who = false →
      (parkedIn s b x (s.parkAddr b x.who t)).vwrite b.ctx (s.parkAddr b x.who t)
        (parkBytes (countsPark s b) b t x (groupMask [x]) false ((s.ctx b.ctx).pseq + 1)) = .ok s' →
      s.parkGroup b.id [x] = queues { s' with nextId := s'.nextId + 1 } b x (s.parkAddr b x.who t) s'.nextId) ∧
    ((s.ctx b.ctx).parkbase = 0 → b.toRuntime x.who = false →
      s.parkGroup b.id [x] =
        queues { parkedIn s b x (s.parkAddr b x.who t) with nextId := s.nextId + 1 } b x (s.parkAddr b x.who t) s.nextId) ∧
    ((s.ctx b.ctx).parkbase = 0 → b.toRuntime x.who = true →
      s.parkGroup b.id [x] = ((parkedIn s b x (s.parkAddr b x.who t)).modThread b.id x.who fun u =>
        { u with taken := true }).ctxEvent b.ctx x.cause (s.parkAddr b x.who t).toNat 0)) ∧
  (∀ (s : State) (b : Block) x l, s.block b.id = some b → b.ctx < 64 → (s.ctx b.ctx).parkbase = 0 →
    ((s.parkGroup b.id (x :: l)).ctx b.ctx).pseq = (s.ctx b.ctx).pseq + 1) ∧
  (∀ (b : Block) w t, b.thread w = some t → (b.toRuntime w = true ↔ w = .ctl ∨ b.ctlLive = false ∨ t.hmode = true)) ∧
  (∀ (s : State) (b : Block) t, s.parkAddr b .ctl t =
      (s.ctx b.ctx).parkbase + BitVec.ofNat 64 (64 * (327680 + b.core * 16 + t.slot)) ∧
    ∀ n, s.parkAddr b (.vec n) t = (s.ctx b.ctx).parkbase + BitVec.ofNat 64 (64 * (b.core * 2048 + t.slot)))

/-- R115, R116: the 32 bytes of a log record; `%log` counts every record, and record i lies at ring base + 32 × (i
mod 2^n); with LOGBASE 0 a record is counted and written nowhere (R416). The order of several records of one issue is log
entry 81, the model's reading, and no clause rests on it. -/
def Sys2Proof.Claims.LogRecords : Prop :=
  (∀ cause core count blk hdr heat thr rseq, thr < 2 ^ 16 →
    let r := logBytes cause core count blk hdr heat thr rseq
    r.length = 32 ∧ r[0]? = some cause ∧ r[1]? = some core ∧ field r 2 2 = min count 0xFFFF ∧ field r 4 4 = blk.toNat ∧
      field r 8 8 = hdr.toNat ∧ field r 16 6 = heat.toNat ∧ field r 22 2 = thr ∧ field r 24 4 = rseq.toNat ∧
      field r 28 4 = 0) ∧
  (∀ (s : State) c cause core count blk hdr thr, c < 64 →
    let x := s.ctx c
    let s' := s.modCtx c fun k => { k with log := x.log + 1 }
    (x.logbase = 0 → s.logRecord c cause core count blk hdr thr = s') ∧
    ∀ z, x.logbase ≠ 0 → s'.vwrite c (x.logbase + BitVec.ofNat 64 (32 * (x.log.toNat % 2 ^ x.logn)))
        (logBytes cause core count blk hdr x.heat thr x.log) = .ok z →
      s.logRecord c cause core count blk hdr thr = z ∧ (z.ctx c).log = x.log + 1)

/-- R42, R115, R116, R398 to R400, R416, R448: taking an exception, its park record, and log records. That PARKBASE 0 discards
the record is R398, and that LOGBASE 0 discards and counts it R416; that PARKBASE 0 raises no context event is the model's reading
of R398 (log entry 84). -/
def Obligations.ParksAndRecords : Prop :=
  ParksAreTaken ∧ LogRecords


namespace Sys2Proof.Claims

/-! ## Class 0x0: integers (R204 to R212) -/

/-- An operation on exact integers, element by element, modulo 2^n. -/
def eachInt2 (o : Alu) (f : Int → Int → Int) (t : Thread) : Thread :=
  t.setElems o.ty o.d (((t.elems o.ty o.a).zip (t.elems o.ty o.b)).map fun p =>
    (f (elemInt o.ty p.1) (elemInt o.ty p.2) % 2 ^ tyBits o.ty).toNat)

/-- As `eachInt2`, of one operand. -/
def eachInt1 (o : Alu) (f : Int → Int) (t : Thread) : Thread :=
  t.setElems o.ty o.d ((t.elems o.ty o.a).map fun a => (f (elemInt o.ty a) % 2 ^ tyBits o.ty).toNat)

/-- An exact integer clamped to the range of a type. -/
def clamped (ty : ElemTy) (v : Int) : Int := max (tyMin ty) (min v (tyMax ty))

/-- How many elements an exact operation takes out of the range of its type. -/
def clamps2 (o : Alu) (f : Int → Int → Int) (t : Thread) : Nat :=
  ((t.elems o.ty o.a).zip (t.elems o.ty o.b)).countP fun p =>
    f (elemInt o.ty p.1) (elemInt o.ty p.2) != clamped o.ty (f (elemInt o.ty p.1) (elemInt o.ty p.2))

/-- As `clamps2`, of one operand. -/
def clamps1 (o : Alu) (f : Int → Int) (t : Thread) : Nat :=
  (t.elems o.ty o.a).countP fun a => f (elemInt o.ty a) != clamped o.ty (f (elemInt o.ty a))

/-- The quotient and the remainder of R205, of two elements of n bits. -/
def quotRem (ty : ElemTy) (a b : Nat) : Nat × Nat :=
  let n := tyBits ty
  if elemInt ty b = 0 then (2 ^ n - 1, a % 2 ^ n)
  else
    let q := (elemInt ty a).tdiv (elemInt ty b)
    ((q % 2 ^ n).toNat, ((elemInt ty a - q * elemInt ty b) % 2 ^ n).toNat)

/-- How many elements of the second operand are 0. -/
def zeroDivisors (o : Alu) (t : Thread) : Nat :=
  ((t.elems o.ty o.a).zip (t.elems o.ty o.b)).countP fun p => elemInt o.ty p.2 == 0

/-- A row whose result is given bit by bit, of n bits. -/
def ComputesBits (i : Instr) (g : Guard) (o : Alu) (bit : Thread → Nat → Bool) : Prop :=
  ∃ v : Thread → Nat, (∀ t j, (v t).testBit j = (decide (j < tyBits o.ty) && bit t j)) ∧
    Completes i g fun t => t.writeT o.ty o.d (v t)

/-- The shift amount s = gB mod n. -/
def shiftAmount (o : Alu) (t : Thread) : Nat := (t.src o.b).toNat % tyBits o.ty

/-- The condition codes 0 to 5. -/
def holds (cc : Nat) (a b : Int) : Bool :=
  [a == b, a != b, decide (a < b), decide (a ≤ b), decide (b < a), decide (b ≤ a)].getD cc false

/-- Writes a condition to one predicate and its negation to another. -/
def condition (d c : Reg) (v : Bool) (t : Thread) : Thread :=
  (t.setQ (d.extractLsb' 0 3) v).setQ (c.extractLsb' 0 3) (!v)

/-- A form with an immediate, on 32 bits or on a pair with the immediate sign-extended. -/
def withImm (o : Imm) (f : {n : Nat} → BitVec n → BitVec n → BitVec n) (t : Thread) : Thread :=
  if o.m4 = 0 then t.setG o.d.toNat (f (t.src o.a) o.imm)
  else t.setPair o.d.toNat (f (t.pair o.a.toNat) (o.imm.signExtend 64))

end Sys2Proof.Claims

/-- R204: the wrapping rows, each the exact result of its elements modulo 2^n, with no log record. -/
def Sys2Proof.Claims.IntegerRowsWrap : Prop :=
  ∀ g o,
    Completes (.add g o) g (eachInt2 o fun a b => a + b) ∧
    Completes (.sub g o) g (eachInt2 o fun a b => a - b) ∧
    Completes (.mul g o) g (eachInt2 o fun a b => a * b) ∧
    Completes (.mulhi g o) g (eachInt2 o fun a b => a * b / 2 ^ tyBits o.ty) ∧
    Completes (.min g o) g (eachInt2 o fun a b => min a b) ∧
    Completes (.max g o) g (eachInt2 o fun a b => max a b) ∧
    Completes (.mad g o) g (fun t => t.writeT o.ty o.d
      ((t.readT o.ty o.a * t.readT o.ty o.b + t.readT o.ty o.c) % 2 ^ tyBits o.ty)) ∧
    Completes (.madw g o) g (fun t => t.setPair o.d.toNat
      (BitVec.ofInt 64 (elemInt o.ty (t.src o.a).toNat * elemInt o.ty (t.src o.b).toNat) + t.pair o.c.toNat))

/-- R101, R204: `sadd`, `ssub`, and `abs` and `neg` with SAT = 1, clamp each element and log 0x43 for each one
clamped; `abs` and `neg` with SAT = 0 wrap and log nothing. -/
def Sys2Proof.Claims.SaturatingRowsClamp : Prop :=
  ∀ g o,
    CompletesLogging (.sadd g o) g (eachInt2 o fun a b => clamped o.ty (a + b))
      (fun t => List.replicate (clamps2 o (fun a b => a + b) t) (0x43, 1)) ∧
    CompletesLogging (.ssub g o) g (eachInt2 o fun a b => clamped o.ty (a - b))
      (fun t => List.replicate (clamps2 o (fun a b => a - b) t) (0x43, 1)) ∧
    (o.sat = true →
      CompletesLogging (.abs g o) g (eachInt1 o fun a => clamped o.ty |a|)
        (fun t => List.replicate (clamps1 o (fun a => |a|) t) (0x43, 1)) ∧
      CompletesLogging (.neg g o) g (eachInt1 o fun a => clamped o.ty (-a))
        (fun t => List.replicate (clamps1 o (fun a => -a) t) (0x43, 1))) ∧
    (o.sat = false →
      Completes (.abs g o) g (eachInt1 o fun a => |a|) ∧ Completes (.neg g o) g (eachInt1 o fun a => -a))

/-- R205: `div` and `rem`, with 0x41 logged for a divisor of 0. -/
def Sys2Proof.Claims.DivisionTruncates : Prop :=
  ∀ g o,
    CompletesLogging (.div g o) g
      (fun t => t.setElems o.ty o.d (((t.elems o.ty o.a).zip (t.elems o.ty o.b)).map fun p => (quotRem o.ty p.1 p.2).1))
      (fun t => List.replicate (zeroDivisors o t) (0x41, 1)) ∧
    CompletesLogging (.rem g o) g
      (fun t => t.setElems o.ty o.d (((t.elems o.ty o.a).zip (t.elems o.ty o.b)).map fun p => (quotRem o.ty p.1 p.2).2))
      (fun t => List.replicate (zeroDivisors o t) (0x41, 1))

/-- R101, R204, R205: the integer rows that log: saturation and division. -/
def Sys2Proof.Claims.LoggingIntegerRows : Prop :=
  SaturatingRowsClamp ∧ DivisionTruncates

/-- R101, R204, R205: the integer rows: wrapped results, saturation and division. -/
def Obligations.IntegerRows : Prop :=
  IntegerRowsWrap ∧ LoggingIntegerRows



/-- R204, R206: the rows given bit by bit, and the two that count bits. -/
def Obligations.BitRowsMoveBits : Prop :=
  ∀ g o,
    let n := tyBits o.ty
    let a := fun (t : Thread) j => (t.readT o.ty o.a).testBit j
    let b := fun (t : Thread) j => (t.readT o.ty o.b).testBit j
    let pos := o.imm.toNat % 64
    let len := o.imm.toNat / 64 % 64 + 1
    (WellFormed (.and g o) → ComputesBits (.and g o) g o fun t j => a t j && b t j) ∧
    (WellFormed (.or g o) → ComputesBits (.or g o) g o fun t j => a t j || b t j) ∧
    (WellFormed (.xor g o) → ComputesBits (.xor g o) g o fun t j => a t j != b t j) ∧
    (WellFormed (.not g o) → ComputesBits (.not g o) g o fun t j => !a t j) ∧
    (WellFormed (.shl g o) → ComputesBits (.shl g o) g o fun t j =>
      decide (shiftAmount o t ≤ j) && a t (j - shiftAmount o t)) ∧
    (WellFormed (.shr g o) → ComputesBits (.shr g o) g o fun t j => a t (j + shiftAmount o t)) ∧
    (WellFormed (.sar g o) → ComputesBits (.sar g o) g o fun t j => a t (min (j + shiftAmount o t) (n - 1))) ∧
    (WellFormed (.rol g o) → ComputesBits (.rol g o) g o fun t j => a t ((j + n - shiftAmount o t) % n)) ∧
    (WellFormed (.brev g o) → ComputesBits (.brev g o) g o fun t j => a t (n - 1 - j)) ∧
    (WellFormed (.bfx g o) → ComputesBits (.bfx g o) g o fun t j =>
      if j < len then a t (pos + j) else tyIsSigned o.ty && a t (pos + len - 1)) ∧
    (WellFormed (.bfi g o) → ComputesBits (.bfi g o) g o fun t j =>
      if pos ≤ j ∧ j < pos + len then b t (j - pos) else a t j) ∧
    (WellFormed (.popc g o) → Completes (.popc g o) g fun t =>
      t.setG o.d.toNat (BitVec.ofNat 32 ((List.range n).countP (a t)))) ∧
    (WellFormed (.clz g o) → ∃ z : Thread → Nat,
      (∀ t, z t ≤ n ∧ (∀ j, j < z t → a t (n - 1 - j) = false) ∧ (z t < n → a t (n - 1 - z t) = true)) ∧
      Completes (.clz g o) g fun t => t.setG o.d.toNat (BitVec.ofNat 32 (z t)))

/-- R204, R207, R208: selection, comparison, moves and addresses. Where `setp` names one predicate twice, the
negation stands (log entry 18, the model's choice). -/
def Sys2Proof.Claims.SelectCompareMove : Prop :=
  ∀ g o,
    Completes (.sel g o) g (fun t =>
      t.writeT o.ty o.d (if t.q (o.c.extractLsb' 0 3) then t.readT o.ty o.a else t.readT o.ty o.b)) ∧
    Completes (.mov g o) g (fun t => t.writeT o.ty o.d (t.readT o.ty o.a)) ∧
    Completes (.lea g o) g (fun t => t.setPair o.d.toNat
      (t.pair o.a.toNat + BitVec.ofInt 64 (elemInt o.ty (t.src o.b).toNat * 2 ^ (o.imm.toNat % 8)))) ∧
    (WellFormed (.setp g o) → Completes (.setp g o) g fun t =>
      condition o.d o.c (holds o.imm.toNat (elemInt o.ty (t.readT o.ty o.a)) (elemInt o.ty (t.readT o.ty o.b))) t)

/-- R209: the immediate forms. -/
def Sys2Proof.Claims.ImmediateForms : Prop :=
  ∀ g o,
    (WellFormed (.addi g o) → Completes (.addi g o) g (withImm o fun a b => a + b)) ∧
    (WellFormed (.andi g o) → Completes (.andi g o) g (withImm o fun a b => a &&& b)) ∧
    (WellFormed (.ori g o) → Completes (.ori g o) g (withImm o fun a b => a ||| b)) ∧
    (WellFormed (.xori g o) → Completes (.xori g o) g (withImm o fun a b => a ^^^ b)) ∧
    (WellFormed (.movi g o) → Completes (.movi g o) g (withImm o fun _ b => b)) ∧
    (WellFormed (.movhi g o) → Completes (.movhi g o) g fun t => t.setG (o.d.toNat + 1) o.imm) ∧
    (WellFormed (.setpi g o) → Completes (.setpi g o) g fun t => t.setQ (o.d.extractLsb' 0 3)
      (if o.m4.getLsbD 3 then holds (o.m4.toNat - 8) (t.src o.a).toNat o.imm.toNat
       else holds o.m4.toNat (t.src o.a).toInt o.imm.toInt))

/-- R204, R207 to R209: selection, comparison, moves, addresses and the immediate forms. Where `setp` names one
predicate twice, the negation stands (log entry 18, the model's choice). -/
def Sys2Proof.Claims.MovesAndImmediates : Prop :=
  SelectCompareMove ∧ ImmediateForms


/-- R186, R210: predicate operations; a write to q7 writes nothing, since `Thread.setQ` of q7 is the thread
unchanged. -/
def Sys2Proof.Claims.PredicateOperations : Prop :=
  (∀ g o,
    Completes (.pand g o) g (fun t => t.setQ o.d (t.q o.a && xor (t.q o.b) o.neg)) ∧
    Completes (.por g o) g (fun t => t.setQ o.d (t.q o.a || xor (t.q o.b) o.neg)) ∧
    Completes (.pxor g o) g (fun t => t.setQ o.d (xor (t.q o.a) (xor (t.q o.b) o.neg)))) ∧
  (∀ g d a, Completes (.pnot g d a) g fun t => t.setQ d !(t.q a)) ∧
  (∀ (t : Thread) v, t.setQ 7 v = t ∧ t.q 7 = true)

/-- R211, R212: `movs` and `wrs`; of a bundle's writes to one uniform register, the highest thread's remains. -/
def Sys2Proof.Claims.UniformRegisters : Prop :=
  (∀ g d n s b w t pc, Issues s b w t (.movs g d n) g → Inside s b t (.movs g d n) pc →
    exec (.movs g d n) s = 
      .next (passes ((issued s).modThread b.id w fun k => k.setG d.toNat (b.sregs[n.toNat]'n.isLt)) b w t pc)) ∧
  (∀ g a n s b w t pc, Issues s b w t (.wrs g a n) g → Inside s b t (.wrs g a n) pc →
    exec (.wrs g a n) s = .next (passes ((issued s).modBlock b.id fun k =>
      { k with sregs := k.sregs.set n.toNat (t.src a) n.isLt }) b w t pc))

/-- R186, R210 to R212: predicate operations and uniform registers. -/
def Sys2Proof.Claims.PredicatesAndUniforms : Prop :=
  PredicateOperations ∧ UniformRegisters

/-- R186, R204, R207 to R212: selection, comparison, moves, addresses, predicates and uniform registers. Where `setp`
names one predicate twice, the negation stands, and `movs` reads the latest write (log entries 18 and 45, the model's
choices). -/
def Obligations.MovesPredicatesUniforms : Prop :=
  MovesAndImmediates ∧ PredicatesAndUniforms



namespace Sys2Proof.Claims

/-! ## Classes 0x1 and 0x2: floating point and conversion (R96 to R106, R213 to R226) -/

/-- An operation on the values of the elements of two operands: the thread it leaves. -/
def eachFloat2 (o : Alu) (f : FFmt → Rnd → FVal → FVal → FRes) (t : Thread) : Thread :=
  t.setElems o.ty o.d (((t.elems o.ty o.a).zip (t.elems o.ty o.b)).map fun p =>
    (f (tyFmt o.ty) o.rnd (fval (tyFmt o.ty) p.1) (fval (tyFmt o.ty) p.2)).bits)

/-- The causes that such an operation logs, one element each. -/
def floatCauses2 (o : Alu) (f : FFmt → Rnd → FVal → FVal → FRes) (t : Thread) : List (Cause × Nat) :=
  ((t.elems o.ty o.a).zip (t.elems o.ty o.b)).flatMap fun p =>
    (f (tyFmt o.ty) o.rnd (fval (tyFmt o.ty) p.1) (fval (tyFmt o.ty) p.2)).cause.toList.map fun c => (c, 1)

/-- As `eachFloat2`, of one operand; `f` may read the thread. -/
def eachFloat1 (o : Alu) (f : Thread → FFmt → Rnd → FVal → FRes) (t : Thread) : Thread :=
  t.setElems o.ty o.d ((t.elems o.ty o.a).map fun a => (f t (tyFmt o.ty) o.rnd (fval (tyFmt o.ty) a)).bits)

/-- As `floatCauses2`, of one operand. -/
def floatCauses1 (o : Alu) (f : Thread → FFmt → Rnd → FVal → FRes) (t : Thread) : List (Cause × Nat) :=
  (t.elems o.ty o.a).flatMap fun a =>
    (f t (tyFmt o.ty) o.rnd (fval (tyFmt o.ty) a)).cause.toList.map fun c => (c, 1)

/-- A row of two operands completes with each element computed and its causes logged. -/
def Float2 (i : Instr) (g : Guard) (o : Alu) (f : FFmt → Rnd → FVal → FVal → FRes) : Prop :=
  CompletesLogging i g (eachFloat2 o f) (floatCauses2 o f)

/-- A row of one operand completes with each element computed and its causes logged. -/
def Float1 (i : Instr) (g : Guard) (o : Alu) (f : FFmt → Rnd → FVal → FRes) : Prop :=
  CompletesLogging i g (eachFloat1 o fun _ => f) (floatCauses1 o fun _ => f)

/-- The exponent field of a code (R96). -/
def expField (f : FFmt) (code : Nat) : Nat := code / 2 ^ f.frac % 2 ^ (f.width - 1 - f.frac)

/-- The fraction field of a code (R96). -/
def fracField (f : FFmt) (code : Nat) : Nat := code % 2 ^ f.frac

/-- Whether the exponent field is all ones. -/
def topExp (f : FFmt) (code : Nat) : Bool := expField f code == 2 ^ (f.width - 1 - f.frac) - 1

/-- Whether a code is NaN: in E4M3 the all-ones code alone, elsewhere an all-ones exponent and a nonzero fraction. -/
def nanCode (f : FFmt) (code : Nat) : Bool :=
  topExp f code && (if f = .e4m3 then fracField f code == 7 else fracField f code != 0)

/-- Whether a code is an infinity. -/
def infinite (f : FFmt) (code : Nat) : Bool := f != .e4m3 && topExp f code && fracField f code == 0

/-- The magnitude of a code whose exponent may run beyond its format's field. -/
def magnitude (f : FFmt) (code : Nat) : ℚ :=
  if code / 2 ^ f.frac = 0 then code * (2 : ℚ) ^ (f.emin - f.frac)
  else (2 ^ f.frac + code % 2 ^ f.frac : Nat) * (2 : ℚ) ^ (f.emin - f.frac + (code / 2 ^ f.frac : Nat) - 1)

/-- The number a code stands for, unless it is NaN or an infinity (R96). -/
def number (f : FFmt) (code : Nat) : Option ℚ :=
  if nanCode f code || infinite f code then none
  else some ((if code.testBit (f.width - 1) then -1 else 1) * magnitude f (code % 2 ^ (f.width - 1)))

/-- An exact value rounded once; an exact 0 has the sign given. -/
def rounded (f : FFmt) (r : Rnd) (zero : Bool) (x : ℚ) : FRes :=
  if x = 0 then ⟨f.sign zero, none⟩ else roundRat f r false (x < 0) x.num.natAbs x.den

/-- An exact value rounded to an integer under a mode (R98). -/
def roundInteger (r : Rnd) (x : ℚ) : Int :=
  match r with
  | .rtz => if 0 ≤ x then ⌊x⌋ else ⌈x⌉
  | .rdn => ⌊x⌋
  | .rup => ⌈x⌉
  | .rne => if x - ⌊x⌋ = 1 / 2 then (if ⌊x⌋ % 2 = 0 then ⌊x⌋ else ⌊x⌋ + 1) else ⌊x + 1 / 2⌋

/-- The sign bit of a code. -/
def signBit (f : FFmt) (code : Nat) : Bool := code.testBit (f.width - 1)

/-- The order of two codes that are not NaN, −0 equal to +0. -/
def codeOrder (f : FFmt) (a b : Nat) : Ordering :=
  match number f a, number f b with
  | some x, some y => if x < y then .lt else if y < x then .gt else .eq
  | some _, none => if signBit f b then .gt else .lt
  | none, some _ => if signBit f a then .lt else .gt
  | none, none => if signBit f a = signBit f b then .eq else if signBit f a then .lt else .gt

/-- The condition codes of `fsetp` (R216). -/
def floatHolds (f : FFmt) (cc a b : Nat) : Bool :=
  let nan := nanCode f a || nanCode f b
  let c := codeOrder f a b
  [!nan && c == .eq, nan || c != .eq, !nan && c == .lt, !nan && c != .gt, !nan && c == .gt, !nan && c != .lt,
    !nan, nan].getD cc false

/-- The class bit of a code (R217). -/
def classBit (f : FFmt) (a : Nat) : Nat :=
  let neg := signBit f a
  if nanCode f a then (if a.testBit (f.frac - 1) then 9 else 8)
  else if infinite f a then (if neg then 0 else 7)
  else if expField f a ≠ 0 then (if neg then 1 else 6)
  else if fracField f a ≠ 0 then (if neg then 2 else 5)
  else (if neg then 3 else 4)

/-- The larger, or the smaller, of two codes under R113, where −0 is below +0. -/
def extreme (f : FFmt) (larger : Bool) (a b : Nat) : Nat :=
  if nanCode f a || nanCode f b then f.nan
  else match codeOrder f a b with
    | .gt => if larger then a else b
    | .lt => if larger then b else a
    | .eq => if signBit f a == larger then b else a

/-- The result of a code conversion of each element, with no record. -/
def eachCode1 (o : Alu) (f : FFmt → Nat → Nat) (t : Thread) : Thread :=
  t.setElems o.ty o.d ((t.elems o.ty o.a).map (f (tyFmt o.ty)))

end Sys2Proof.Claims

/-- R213, R218: the rows that compute complete with the elements' results under the row's mode, and log their causes.
What the results are, RoundingIsExact and FloatSpecialCases state, for the rows that they name. -/
def Obligations.FloatRowsComplete : Prop :=
  ∀ g o,
    Float2 (.fadd g o) g o fadd ∧ Float2 (.fsub g o) g o fsub ∧ Float2 (.fmul g o) g o fmul ∧
    Float2 (.fdiv g o) g o fdiv ∧
    CompletesLogging (.ffma g o) g
      (fun t => t.setElems o.ty o.d (((t.elems o.ty o.a).zip ((t.elems o.ty o.b).zip (t.elems o.ty o.c))).map fun p =>
        (ffma (tyFmt o.ty) o.rnd (fval (tyFmt o.ty) p.1) (fval (tyFmt o.ty) p.2.1) (fval (tyFmt o.ty) p.2.2)).bits))
      (fun t => ((t.elems o.ty o.a).zip ((t.elems o.ty o.b).zip (t.elems o.ty o.c))).flatMap fun p =>
        (ffma (tyFmt o.ty) o.rnd (fval (tyFmt o.ty) p.1) (fval (tyFmt o.ty) p.2.1)
          (fval (tyFmt o.ty) p.2.2)).cause.toList.map fun c => (c, 1)) ∧
    Float1 (.frcp g o) g o frcp ∧ Float1 (.frsq g o) g o frsq ∧ Float1 (.fsqrt g o) g o fsqrt ∧
    Float1 (.fex2 g o) g o fex2 ∧ Float1 (.flg2 g o) g o flg2 ∧ Float1 (.fsin g o) g o fsin ∧
    Float1 (.fcos g o) g o fcos ∧ Float1 (.ftanh g o) g o ftanh ∧ Float1 (.fround g o) g o fround ∧
    CompletesLogging (.fscale g o) g
      (eachFloat1 o fun t f r => fscale f r (t.src o.b).toInt) (floatCauses1 o fun t f r => fscale f r (t.src o.b).toInt)

/-- R213, R214: sums, differences, products, quotients and fused products of numbers are the exact value, rounded
once. -/
def Sys2Proof.Claims.FloatExactThenRounded : Prop :=
  ∀ (f : FFmt) (r : Rnd) (a b c : Nat) (x y z : ℚ), a < 2 ^ f.width → b < 2 ^ f.width → c < 2 ^ f.width →
    number f a = some x → number f b = some y → number f c = some z →
    let zero := fun (p q : Bool) => if p = q then p else r == .rdn
    fadd f r (fval f a) (fval f b) = rounded f r (zero (signBit f a) (signBit f b)) (x + y) ∧
    fsub f r (fval f a) (fval f b) = rounded f r (zero (signBit f a) (!signBit f b)) (x - y) ∧
    fmul f r (fval f a) (fval f b) = rounded f r (xor (signBit f a) (signBit f b)) (x * y) ∧
    ffma f r (fval f a) (fval f b) (fval f c) =
      rounded f r (zero (xor (signBit f a) (signBit f b)) (signBit f c)) (x * y + z) ∧
    (y ≠ 0 → fdiv f r (fval f a) (fval f b) = rounded f r (xor (signBit f a) (signBit f b)) (x / y))

/-- R98, R99: the code that an exact magnitude rounds to, under each mode, and the results beyond the largest finite
magnitude. -/
def Sys2Proof.Claims.RoundingIsCorrect : Prop :=
  ∀ (f : FFmt) (r : Rnd) (sat neg : Bool) (num den : Nat), 0 < num → 0 < den →
    let x : ℚ := (num : ℚ) / den
    let c := roundMag f r neg num den
    let down := magnitude f c ≤ x ∧ x < magnitude f (c + 1)
    let up := x ≤ magnitude f c ∧ (0 < c → magnitude f (c - 1) < x)
    (r = .rtz → down) ∧ (r = .rdn → if neg then up else down) ∧ (r = .rup → if neg then down else up) ∧
    (r = .rne → ∀ k, |x - magnitude f c| ≤ |x - magnitude f k| ∧
      (|x - magnitude f c| = |x - magnitude f k| → k ≠ c → c % 2 = 0)) ∧
    roundRat f r sat neg num den =
      if c ≤ f.maxCode then ⟨f.sign neg + c, none⟩
      else if sat then ⟨f.sign neg + f.maxCode, some 0x44⟩
      else if f = .e4m3 then ⟨0x7F, some 0x42⟩
      else if r = .rtz ∨ (r = .rdn ∧ !neg) ∨ (r = .rup ∧ neg) then ⟨f.sign neg + f.maxCode, some 0x42⟩
      else ⟨f.sign neg + f.maxCode + 1, some 0x42⟩

/-- R213: the square root and its reciprocal, of a positive number, lie between the neighbours that the mode asks
for. -/
def Sys2Proof.Claims.RootsRoundOnce : Prop :=
  ∀ (f : FFmt) (a : Nat) (x : ℚ), a < 2 ^ f.width → number f a = some x → 0 < x →
    (∃ c, fsqrt f .rtz (fval f a) = ⟨c, none⟩ ∧ magnitude f c ^ 2 ≤ x ∧ x < magnitude f (c + 1) ^ 2) ∧
    (∃ c, fsqrt f .rup (fval f a) = ⟨c, none⟩ ∧ x ≤ magnitude f c ^ 2 ∧ (0 < c → magnitude f (c - 1) ^ 2 < x)) ∧
    (∃ c, fsqrt f .rne (fval f a) = ⟨c, none⟩ ∧
      (magnitude f (c - 1) + magnitude f c) ^ 2 ≤ 4 * x ∧ 4 * x ≤ (magnitude f c + magnitude f (c + 1)) ^ 2) ∧
    fsqrt f .rdn (fval f a) = fsqrt f .rtz (fval f a) ∧
    (f = .f32 ∨ f = .bf16 →
      (∃ c, frsq f .rtz (fval f a) = ⟨c, none⟩ ∧ magnitude f c ^ 2 * x ≤ 1 ∧ 1 < magnitude f (c + 1) ^ 2 * x) ∧
      (∃ c, frsq f .rup (fval f a) = ⟨c, none⟩ ∧ 1 ≤ magnitude f c ^ 2 * x ∧
        (0 < c → magnitude f (c - 1) ^ 2 * x < 1)) ∧
      (∃ c, frsq f .rne (fval f a) = ⟨c, none⟩ ∧
        (magnitude f (c - 1) + magnitude f c) ^ 2 * x ≤ 4 ∧ 4 ≤ (magnitude f c + magnitude f (c + 1)) ^ 2 * x) ∧
      frsq f .rdn (fval f a) = frsq f .rtz (fval f a))

/-- R213, R218: the reciprocal of a number that is not 0, a product by a power of two, and rounding to an integral value, which
keeps the sign and forms no record. -/
def Sys2Proof.Claims.ScalesAndIntegers : Prop :=
  ∀ (f : FFmt) (r : Rnd) (a : Nat) (x : ℚ), f = .f32 ∨ f = .bf16 → a < 2 ^ f.width → number f a = some x →
    (x ≠ 0 → frcp f r (fval f a) = rounded f r (signBit f a) (1 / x)) ∧
    (∀ k : Int, fscale f r k (fval f a) = rounded f r (signBit f a) (x * 2 ^ k)) ∧
    ∃ c, fround f r (fval f a) = ⟨c, none⟩ ∧ c < 2 ^ f.width ∧ number f c = some (roundInteger r x : ℚ) ∧
      signBit f c = signBit f a

/-- R213, R218: the roots and the scaled and integral values. -/
def Sys2Proof.Claims.FunctionsOfNumbers : Prop :=
  RootsRoundOnce ∧ ScalesAndIntegers

/-- R98, R99, R213, R218: a result is rounded once, and correctly. -/
def Sys2Proof.Claims.RoundingAndRoots : Prop :=
  RoundingIsCorrect ∧ FunctionsOfNumbers

/-- R96 to R99, R213, R214, R218: sums, differences, products, quotients, fused products, reciprocals, roots, products by powers
of two and integral values of numbers are the exact value, rounded once and correctly. -/
def Obligations.RoundingIsExact : Prop :=
  FloatExactThenRounded ∧ RoundingAndRoots



/-- R97, R214, R218: NaN operands, invalid operations, division by zero, and the special results of the functions. In `ffma`
a NaN c comes before 0 × ∞ (log entry 16, the model's choice). -/
def Sys2Proof.Claims.FloatSpecialValues : Prop :=
  ∀ (f : FFmt) (r : Rnd) (x y z : FVal) (p q : Bool) (e k : Int), f = .f32 ∨ f = .bf16 →
    let nan : FRes := ⟨f.nan, none⟩
    let invalid : FRes := ⟨f.nan, some 0x40⟩
    let inf := fun (neg : Bool) => f.sign neg + f.maxCode + 1
    let v := FVal.num p 0 e
    let one : Nat := if f = .f32 then 0x3F800000 else 0x3F80
    (∀ a, nanCode f a → fval f a = .nan) ∧
    (fadd f r .nan y = nan ∧ fadd f r x .nan = nan ∧ fsub f r .nan y = nan ∧ fsub f r x .nan = nan ∧
      fmul f r .nan y = nan ∧ fmul f r x .nan = nan ∧ fdiv f r .nan y = nan ∧ fdiv f r x .nan = nan ∧
      ffma f r .nan y z = nan ∧ ffma f r x .nan z = nan ∧ ffma f r x y .nan = nan) ∧
    (fadd f r (.inf p) (.inf !p) = invalid ∧ fsub f r (.inf p) (.inf p) = invalid ∧
      fmul f r (.num p 0 e) (.inf q) = invalid ∧ fmul f r (.inf p) (.num q 0 e) = invalid ∧
      fdiv f r (.num p 0 e) (.num q 0 k) = invalid ∧ fdiv f r (.inf p) (.inf q) = invalid ∧
      (z ≠ .nan → ffma f r (.num p 0 e) (.inf q) z = invalid ∧ ffma f r (.inf p) (.num q 0 e) z = invalid)) ∧
    (∀ m, m ≠ 0 → fdiv f r (.num p m e) (.num q 0 k) = ⟨inf (xor p q), some 0x41⟩) ∧
    (∀ h ∈ [frcp, frsq, fsqrt, fex2, flg2, fsin, fcos, ftanh], h f r .nan = nan) ∧
    (frcp f r v = ⟨inf p, some 0x41⟩ ∧ frsq f r v = ⟨inf p, some 0x41⟩ ∧ fsqrt f r v = ⟨f.sign p, none⟩ ∧
      flg2 f r v = ⟨inf true, some 0x41⟩ ∧ fex2 f r v = ⟨one, none⟩ ∧ fsin f r v = ⟨f.sign p, none⟩ ∧
      ftanh f r v = ⟨f.sign p, none⟩ ∧ fcos f r v = ⟨one, none⟩) ∧
    (∀ m, m ≠ 0 → frsq f r (.num true m e) = invalid ∧ fsqrt f r (.num true m e) = invalid ∧
      flg2 f r (.num true m e) = invalid) ∧
    (frcp f r (.inf p) = ⟨f.sign p, none⟩ ∧ fsin f r (.inf p) = invalid ∧ fcos f r (.inf p) = invalid ∧
      ftanh f r (.inf p) = ⟨f.sign p + one, none⟩) ∧
    (frsq f r (.inf true) = invalid ∧ fsqrt f r (.inf true) = invalid ∧ flg2 f r (.inf true) = invalid ∧
      fex2 f r (.inf true) = ⟨0, none⟩ ∧ frsq f r (.inf false) = ⟨0, none⟩ ∧ fsqrt f r (.inf false) = ⟨inf false, none⟩ ∧
      flg2 f r (.inf false) = ⟨inf false, none⟩ ∧ fex2 f r (.inf false) = ⟨inf false, none⟩ ∧
      flg2 f r (fval f one) = ⟨0, none⟩) ∧
    (fround f r .nan = nan ∧ fround f r (.inf p) = ⟨inf p, none⟩ ∧ ∀ n, fscale f r n .nan = nan ∧
      fscale f r n (.inf p) = ⟨inf p, none⟩)

/-- R215, R216, R217: order, sign and class, which round nothing and log nothing. Where `fsetp` names one predicate
twice, the negation stands (log entry 18, the model's choice). -/
def Sys2Proof.Claims.FloatOrderSignClass : Prop :=
  ∀ g o,
    (WellFormed (.fmin g o) → Completes (.fmin g o) g fun t =>
      t.setElems o.ty o.d (((t.elems o.ty o.a).zip (t.elems o.ty o.b)).map fun p => extreme (tyFmt o.ty) false p.1 p.2)) ∧
    (WellFormed (.fmax g o) → Completes (.fmax g o) g fun t =>
      t.setElems o.ty o.d (((t.elems o.ty o.a).zip (t.elems o.ty o.b)).map fun p => extreme (tyFmt o.ty) true p.1 p.2)) ∧
    (WellFormed (.fabs g o) → Completes (.fabs g o) g (eachCode1 o fun f a =>
      if nanCode f a then f.nan else a % 2 ^ (f.width - 1))) ∧
    (WellFormed (.fneg g o) → Completes (.fneg g o) g (eachCode1 o fun f a =>
      if nanCode f a then f.nan else Nat.xor a (2 ^ (f.width - 1)))) ∧
    (WellFormed (.fsetp g o) → Completes (.fsetp g o) g fun t =>
      condition o.d o.c (floatHolds (tyFmt o.ty) o.imm.toNat (t.readT o.ty o.a) (t.readT o.ty o.b)) t) ∧
    (WellFormed (.fclass g o) → Completes (.fclass g o) g fun t =>
      t.setG o.d.toNat (BitVec.ofNat 32 (2 ^ classBit (tyFmt o.ty) (t.readT o.ty o.a))))

/-- R97, R113, R214 to R217: special values, order, sign and class. In `ffma` a NaN c comes before 0 × ∞, and where
`fsetp` names one predicate twice the negation stands (log entries 16 and 18, the model's choices). -/
def Obligations.FloatSpecialCases : Prop :=
  FloatSpecialValues ∧ FloatOrderSignClass


namespace Sys2Proof.Claims

/-- A finite exact value converted to a format (R99). -/
def convertExact (f : FFmt) (r : Rnd) (sat zero : Bool) (x : ℚ) : FRes :=
  if x = 0 then ⟨f.sign zero, none⟩ else roundRat f r sat (x < 0) x.num.natAbs x.den

/-- A code of one format converted to another (R99). -/
def convertCode (dst src : FFmt) (r : Rnd) (sat : Bool) (code : Nat) : FRes :=
  match number src code with
  | some x => convertExact dst r sat (signBit src code) x
  | none =>
    if nanCode src code then ⟨dst.nan, none⟩
    else if sat then ⟨dst.sign (signBit src code) + dst.maxCode, some 0x44⟩
    else if dst = .e4m3 then ⟨0x7F, some 0x42⟩
    else ⟨dst.sign (signBit src code) + dst.maxCode + 1, none⟩

/-- An integer clamped to a range; a change logs 0x44. -/
def clampLog (lo hi v : Int) : Int × Option Cause :=
  if v < lo then (lo, some 0x44) else if hi < v then (hi, some 0x44) else (v, none)

/-- A code converted to an integer of a range (R100). -/
def codeInteger (src : FFmt) (r : Rnd) (lo hi : Int) (code : Nat) : Int × Option Cause :=
  match number src code with
  | some x => clampLog lo hi (roundInteger r x)
  | none => if nanCode src code then (0, some 0x40) else (if signBit src code then lo else hi, some 0x44)

/-- The result of `cvt` and its cause (R220). -/
def convertScalar (dst src : ElemTy) (r : Rnd) (sat : Bool) (a : Nat) : Nat × Option Cause :=
  let int := fun (v : Int) => (v % 2 ^ tyBits dst).toNat
  if tyFloat1 dst then
    let y := if tyFloat1 src then convertCode (tyFmt dst) (tyFmt src) r sat a
      else convertExact (tyFmt dst) r sat false (elemInt src a)
    (y.bits, y.cause)
  else if tyFloat1 src then
    let y := codeInteger (tyFmt src) r (tyMin dst) (tyMax dst) a
    (int y.1, y.2)
  else if sat then
    let y := clampLog (tyMin dst) (tyMax dst) (elemInt src a)
    (int y.1, y.2)
  else (int (elemInt src a), none)

/-- Byte `j` of the registers from `r` up (R95). -/
def regByte (t : Thread) (r j : Nat) : Nat := (t.g (r + j / 4)).toNat / 256 ^ (j % 4) % 256

/-- One log entry for each cause. -/
def oneEach (l : List (Option Cause)) : List (Cause × Nat) := l.flatMap fun c => c.toList.map fun c => (c, 1)

/-- Element `i` of `bquant`: its code and the causes it logs (R225). -/
def quantised (ty : ElemTy) (r : Rnd) (sat : Bool) (x s : Nat) : Nat × List Cause :=
  let f := tyFmt ty
  let neg := xor (signBit .f32 x) (signBit .bf16 s)
  let nanIn := nanCode .f32 x || nanCode .bf16 s
  let asNan : Nat × List Cause := if tyF8 ty then (f.nan, if nanIn then [] else [0x40]) else (0, [0x40])
  let asInf (made : List Cause) : Nat × List Cause :=
    if tyF8 ty then
      (if sat then (f.sign neg + f.maxCode, made ++ [0x44])
       else if f = .e4m3 then (0x7F, made ++ [0x42]) else (f.sign neg + f.maxCode + 1, made))
    else (if neg then 128 else 127, made ++ [0x44])
  match number .f32 x, number .bf16 s with
  | some u, some v =>
    if v = 0 then (if u = 0 then asNan else asInf [0x41])
    else if tyF8 ty then
      let y := convertExact f r sat neg (u / v)
      (y.bits, y.cause.toList)
    else
      let y := clampLog (-128) 127 (roundInteger r (u / v))
      ((y.1 % 256).toNat, y.2.toList)
  | some _, none => if nanCode .bf16 s then asNan else (if tyF8 ty then (f.sign neg, []) else (0, []))
  | none, some _ => if nanCode .f32 x then asNan else asInf []
  | none, none => asNan

/-- The element of `bdot`'s octets as a number, in I8 or in an FP8 format (R226). -/
def dotElem (ty : ElemTy) (c : Nat) : Option ℚ := if tyF8 ty then number (tyFmt ty) c else some (natSigned 8 c : Int)

/-- Whether an element of `bdot`'s octets is NaN. -/
def dotNan (ty : ElemTy) (c : Nat) : Bool := tyF8 ty && nanCode (tyFmt ty) c

/-- The type of the B octet (R226). -/
def otherTy (o : Alu) : ElemTy :=
  if o.imm.toNat % 4 = 1 then .f8e4x4 else if o.imm.toNat % 4 = 2 then .f8e5x4 else o.ty

/-- The sum of the products of two octets, when every element is a number (R106). -/
def dotSum (a b : List (Option ℚ)) : Option ℚ :=
  (a.zip b).foldl (fun acc p => do some ((← acc) + (← p.1) * (← p.2))) (some 0)

/-- What R226 says of the floating accumulation: NaN operands, and the one rounding of an exact sum that is not 0. -/
def DotFloat (o : Alu) (t : Thread) (r : FRes) : Prop :=
  let a := (List.range 32).map (regByte t o.a.toNat)
  let b := (List.range 32).map (regByte t o.b.toNat)
  let acc := (t.g o.d.toNat).toNat
  let sa := (t.src o.c).toNat % 65536
  let sb := (t.src o.c).toNat / 65536
  let nanIn := a.any (dotNan o.ty) || b.any (dotNan (otherTy o)) || nanCode .bf16 sa || nanCode .bf16 sb ||
    nanCode .f32 acc
  (nanIn → r = ⟨0x7FC00000, none⟩) ∧
  (∀ x y z w, number .f32 acc = some x → number .bf16 sa = some y → number .bf16 sb = some z →
    dotSum (a.map (dotElem o.ty)) (b.map (dotElem (otherTy o))) = some w → x + y * z * w ≠ 0 →
    r = convertExact .f32 .rne false false (x + y * z * w))

end Sys2Proof.Claims

/-- R99, R100, R220, R221: conversions and packing. -/
def Obligations.ConversionRows : Prop :=
  ∀ g o,
    (WellFormed (.cvt g o) → ∀ src, cvtSrc o.imm = some src →
      CompletesLogging (.cvt g o) g
        (fun t => t.writeT o.ty o.d (convertScalar o.ty src o.rnd o.sat (t.readT src o.a)).1)
        (fun t => oneEach [(convertScalar o.ty src o.rnd o.sat (t.readT src o.a)).2])) ∧
    (let half := fun (t : Thread) (r : Reg) => convertCode .bf16 .f32 o.rnd o.sat (t.src r).toNat
     CompletesLogging (.pkBf16 g o) g
        (fun t => t.setG o.d.toNat (BitVec.ofNat 32 ((half t o.a).bits + 65536 * (half t o.b).bits)))
        (fun t => oneEach [(half t o.a).cause, (half t o.b).cause])) ∧
    (let wide := fun (c : Nat) => if nanCode .bf16 c then 0x7FC00000 else c * 65536
     Completes (.upkBf16 g o) g fun t =>
       (t.setG o.d.toNat (BitVec.ofNat 32 (wide ((t.src o.a).toNat % 65536)))).setG (o.d.toNat + 1)
        (BitVec.ofNat 32 (wide ((t.src o.a).toNat / 65536)))) ∧
    (WellFormed (.pkF8 g o) →
      let byte := fun (t : Thread) (i : Nat) => convertCode (tyFmt o.ty) .f32 o.rnd o.sat (t.g (o.a.toNat + i)).toNat
      CompletesLogging (.pkF8 g o) g
        (fun t => t.setG o.d.toNat (BitVec.ofNat 32 ((byte t 0).bits + 256 * ((byte t 1).bits + 256 * ((byte t 2).bits +
          256 * (byte t 3).bits)))))
        (fun t => oneEach [(byte t 0).cause, (byte t 1).cause, (byte t 2).cause, (byte t 3).cause])) ∧
    (let wide := fun (t : Thread) (i : Nat) =>
        BitVec.ofNat 32 (convertCode .f32 (tyFmt o.ty) .rne false ((t.src o.a).toNat / 256 ^ i % 256)).bits
     WellFormed (.upkF8 g o) → Completes (.upkF8 g o) g fun t =>
        (((t.setG o.d.toNat (wide t 0)).setG (o.d.toNat + 1) (wide t 1)).setG (o.d.toNat + 2) (wide t 2)).setG
          (o.d.toNat + 3) (wide t 3))

/-- R102, R104, R222, R223: nested planes, bit by bit. -/
def Sys2Proof.Claims.NestedPlanes : Prop :=
  ∀ g o,
    (∃ ws : Thread → List Word, (∀ t, (ws t).length = 8) ∧
      (∀ t p j, p < 8 → j < 32 → ((ws t).getD (7 - p) 0).getLsbD j = (regByte t o.a.toNat j).testBit p) ∧
      Completes (.npiEnc g o) g fun t => t.setGs o.d.toNat (ws t)) ∧
    (WellFormed (.npiDec g o) → ∃ ws : Thread → List Word, (∀ t, (ws t).length = 8) ∧
      (∀ t j, j < 32 →
        let k := o.imm.toNat
        let top : Int := (List.range k).foldl (fun v i => 2 * v + if (t.g (o.a.toNat + i)).getLsbD j then 1 else 0) 0
        let v : Int := (if 2 ^ (k - 1) ≤ top then top - 2 ^ k else top) * 2 ^ (8 - k) + if k < 8 then 2 ^ (7 - k) else 0
        ((ws t).getD (j / 4) 0).extractLsb' (8 * (j % 4)) 8 = BitVec.ofInt 8 v) ∧
      Completes (.npiDec g o) g fun t => t.setGs o.d.toNat (ws t))

/-- R106, R224, R225, R226: block scales, quantisation and the block dot. -/
def Sys2Proof.Claims.BlockScaling : Prop :=
  ∀ g o,
    (WellFormed (.bscale g o) → ∃ c : Thread → Nat,
      (∀ t, let m := (t.src o.a).toNat % 2 ^ 31
        let top : ℚ := if o.ty = .f8e4x4 then 448 else if o.ty = .f8e5x4 then 57344 else 127
        c t < 65536 ∧ (nanCode .f32 m → c t = 0x7FC0) ∧ (infinite .f32 m → c t = 0x7F80) ∧ (m = 0 → c t = 0x3F80) ∧
        (∀ x, number .f32 m = some x → x ≠ 0 →
          c t ≤ 0x7F80 ∧ (c t < 0x7F80 → x / top ≤ magnitude .bf16 (c t)) ∧
          ∀ k, k < c t → magnitude .bf16 k < x / top)) ∧
      Completes (.bscale g o) g fun t => t.setG o.d.toNat (BitVec.ofNat 32 (c t))) ∧
    (WellFormed (.bquant g o) →
      let elem := fun (t : Thread) (i : Nat) =>
        quantised o.ty o.rnd o.sat (t.g (o.a.toNat + i)).toNat ((t.src o.b).toNat % 65536)
      CompletesLogging (.bquant g o) g
        (fun t => t.setG o.d.toNat (BitVec.ofNat 32 ((elem t 0).1 + 256 * ((elem t 1).1 + 256 * ((elem t 2).1 +
          256 * (elem t 3).1)))))
        (fun t => (((elem t 0).2 ++ (elem t 1).2) ++ ((elem t 2).2 ++ (elem t 3).2)).map fun c => (c, 1))) ∧
    (WellFormed (.bdot g o) → o.imm.toNat / 4 % 2 = 1 →
      let sum := fun (t : Thread) => (t.g o.d.toNat).toInt + ((List.range 32).map fun j =>
        natSigned 8 (regByte t o.a.toNat j) * natSigned 8 (regByte t o.b.toNat j)).sum
      CompletesLogging (.bdot g o) g (fun t => t.setG o.d.toNat (BitVec.ofInt 32 (sum t)))
        (fun t => if sum t < -2 ^ 31 ∨ 2 ^ 31 ≤ sum t then [(0x45, 1)] else [])) ∧
    (WellFormed (.bdot g o) → o.imm.toNat / 4 % 2 = 0 → ∃ r : Thread → FRes, (∀ t, DotFloat o t (r t)) ∧
      CompletesLogging (.bdot g o) g (fun t => t.setG o.d.toNat (BitVec.ofNat 32 (r t).bits))
        (fun t => oneEach [(r t).cause]))

/-- R102 to R106, R219 to R226: nested planes, block dots and scales. -/
def Obligations.ScaledArithmetic : Prop :=
  NestedPlanes ∧ BlockScaling


namespace Sys2Proof.Claims

/-! ## Class 0x3: transfers (R227 to R236) -/

/-- A thread that issues `i` alone raises a cause: it parks at its word with no other effect. -/
def Raises (s : State) (b : Block) (w : Who) (t : Thread) (i : Instr) (c : Cause) (addr : Option DWord) (detail : Nat) :
    Prop :=
  exec i s = .next (rests (parks (issued s) b w t c addr detail) b t i)

/-- The first three conditions of R228. -/
def InTable (s : State) (b : Block) (a : Word) : Prop :=
  a.extractLsb' 16 8 = 0 ∧
  ∃ e, (s.ctx b.ctx).overlay (codeOvl a) = some e ∧ a.toNat % 65536 % 8 = 0 ∧ a.toNat % 65536 < e.slots * 4096

/-- The four conditions of R228, of a target whose overlay is resident, with a word there that was not lost (R430). -/
def LegalTarget (s : State) (b : Block) (a : Word) : Prop :=
  InTable s b a ∧
  ∃ k, s.residentCopy b.core b.ctx (codeOvl a) = some k ∧ a.toNat % 65536 / 8 ∉ k.bad ∧
    (k.word (a.toNat % 65536)).extractLsb' 60 4 = 0xF

/-- A target that R228 refuses: one of its first three conditions fails, or its overlay is resident and the word, not a lost
one, is no header. -/
def IllegalTarget (s : State) (b : Block) (a : Word) : Prop :=
  a.extractLsb' 16 8 ≠ 0 ∨ (s.ctx b.ctx).overlay (codeOvl a) = none ∨ a.toNat % 8 ≠ 0 ∨
  (∃ e, (s.ctx b.ctx).overlay (codeOvl a) = some e ∧ e.slots * 4096 ≤ a.toNat % 65536) ∨
  ∃ k, s.residentCopy b.core b.ctx (codeOvl a) = some k ∧ a.toNat % 65536 / 8 ∉ k.bad ∧
    (k.word (a.toNat % 65536)).extractLsb' 60 4 ≠ 0xF

/-- The code address that a branch of `off` words names: header address + 8 × off. -/
def branchTarget (t : Thread) (off : Int) : Word := t.hdr + BitVec.ofInt 32 (8 * off)

/-- The selectors of `mbr` with their offsets, in order. -/
def choices (o : MbrOps) : List (Sel × BitVec 16) := [(o.s0, o.o0), (o.s1, o.o1), (o.s2, o.o2), (o.s3, o.o3)]

/-- A selector: q[sel[3:1]] xor sel[0]. -/
def selected (t : Thread) (x : Sel) : Bool := xor (t.q x.p) x.neg

/-- The return record of a call (R230): the overlay, and header + 8 × (LEN + 1). -/
def returnTo (s : State) (b : Block) (t : Thread) : Nat :=
  t.hdr.toNat / 2 ^ 24 * 2 ^ 24 + (t.hdr.toNat % 65536 + 8 * ((s.headerAt b.core b.ctx t.hdr).len + 1)) % 65536

/-- The push of 8 bytes at g111 − 8. -/
def pushes (s : State) (b : Block) (w : Who) (t : Thread) (pte : DWord) (pa v : Nat) : State :=
  (s.stackWrite b.id (t.stackAddr (t.g 111 - 8)) pte pa (leBytes 8 v)).modThread b.id w fun k =>
    k.setG 111 (t.g 111 - 8)

/-- A store to the stack of a thread is made as it issues: the thread's acquires have bound their values, no earlier store of it
to its stack waits (R130), and the line can be reached (R426, R443). -/
def StackFree (s : State) (b : Block) (w : Who) (va : DWord) (pa : Nat) : Prop :=
  (∀ r ∈ s.reqsOf b.id w, (r.acquire = true → r.bound = true) ∧ r.stackDue = false) ∧ s.stackShut b va pa = false

/-- A call form with a legal target pushes its return record and enters the target. -/
def Calls (i : Instr) (s : State) (b : Block) (w : Who) (t : Thread) (a : Word) : Prop :=
  LegalTarget s b a → ∀ pte pa, s.stackReach b t (t.g 111 - 8) (t.g 111 - 8).toNat 8 true = .ok pte pa →
    StackFree s b w (t.stackAddr (t.g 111 - 8)) pa →
    exec i s = .next (enters (pushes (issued s) b w t pte pa (returnTo s b t)) b w t a)

/-- The push of a call leaves the range of the stack (R89). -/
def Overflows (b : Block) (t : Thread) : Prop :=
  (t.g 111).toNat % 8 = 0 ∧ (b.lr.stk = 0 ∨ b.lr.stk * 256 < t.stackOff (t.g 111 - 8) + 8)

/-- What a transfer towards an overlay that is not resident comes to (R232): with AUTO the load starts, or is joined, and the
thread waits for it; a load that cannot start parks the thread with its cause; without AUTO the thread raises 0x0E. -/
def MeetsMissing (i : Instr) (s : State) (b : Block) (w : Who) (t : Thread) (ovl : BitVec 8) : Prop :=
  ∀ e, (s.ctx b.ctx).overlay ovl = some e → s.residentCopy b.core b.ctx ovl = none →
    (e.auto = false → Raises s b w t i 0x0E none ovl.toNat) ∧
    (e.auto = true → ∀ r z, (issued s).startLoad b.core b.ctx ovl b.seq b.lr.isq (some (b.id, w)) = (r, z) →
      ((∀ c, r ≠ .failed c) → exec i s = .next (rests (waits s z b w t (.overlay ovl)) b t i)) ∧
      ∀ c, r = .failed c → exec i s = .next (rests (parksWith z b w t
        { who := w, cause := c, pc := t.pc, word := s.wordAt b.core b.ctx t.pc, detail := ovl.toNat }) b t i))

/-- The header offset that entry `n` of a copy holds: 32 bits at 8 + 4 × n (R169). -/
def entryOf (k : OvlCopy) (n : Nat) : Nat := (k.word (8 + 8 * (n / 2))).toNat / 2 ^ (32 * (n % 2)) % 2 ^ 32

/-- The entry count of a copy (R169). -/
def entriesOf (k : OvlCopy) : Nat := (k.word 0).toNat % 256

/-- The PC at which a thread goes on, and whether it stands before a header there. -/
def place : Onward → Word × Bool
  | .within a => (a, false)
  | .header a => (a, true)
  | .astray a => (a, true)

end Sys2Proof.Claims

/-- R227, R228, R229: a branch whose target is legal enters it; `mbr` takes its first true selector, and with none
true the thread passes on to the next header. -/
def Sys2Proof.Claims.BranchesEnterTheirTarget : Prop :=
  ∀ g s b w t,
    (∀ off, Issues s b w t (.bra g off) g → codeOvl (branchTarget t off.toInt) = codeOvl t.hdr →
      LegalTarget s b (branchTarget t off.toInt) →
      exec (.bra g off) s = .next (enters (issued s) b w t (branchTarget t off.toInt))) ∧
    (∀ r, Issues s b w t (.bri g r) g → LegalTarget s b (t.src r) →
      exec (.bri g r) s = .next (enters (issued s) b w t (t.src r))) ∧
    (∀ (o : MbrOps) (k : Nat) (x : Sel × BitVec 16), Issues s b w t (.mbr g o) g →
      (choices o)[k]? = some x → selected t x.1 = true →
      (∀ (j : Nat) (y : Sel × BitVec 16), j < k → (choices o)[j]? = some y → selected t y.1 = false) →
      codeOvl (branchTarget t x.2.toInt) = codeOvl t.hdr → LegalTarget s b (branchTarget t x.2.toInt) →
      exec (.mbr g o) s = .next (enters (issued s) b w t (branchTarget t x.2.toInt))) ∧
    (∀ o a, Issues s b w t (.mbr g o) g → (∀ y ∈ choices o, selected t y.1 = false) →
      s.onward b.core b.ctx t.hdr t.pc 2 = .header a → exec (.mbr g o) s = .next (enters (issued s) b w t a))

/-- R230, R231: the calls push the return record and enter their target; `ret` pops the record and enters it. -/
def Sys2Proof.Claims.CallsPushAndReturnsPop : Prop :=
  ∀ g s b w t,
    (∀ off, Issues s b w t (.call g off) g → codeOvl (branchTarget t off.toInt) = codeOvl t.hdr →
      Calls (.call g off) s b w t (branchTarget t off.toInt)) ∧
    (∀ r, Issues s b w t (.calli g r) g → Calls (.calli g r) s b w t (t.src r)) ∧
    (∀ ovl ent k, Issues s b w t (.callo g ovl ent) g → ((s.ctx b.ctx).overlay ovl).isSome →
      s.residentCopy b.core b.ctx ovl = some k → k.bad = [] → ent.toNat < entriesOf k → entryOf k ent.toNat % 8 = 0 →
      entryOf k ent.toNat < k.size → k.size ≤ 65536 →
      Calls (.callo g ovl ent) s b w t (BitVec.ofNat 32 (ovl.toNat * 2 ^ 24 + entryOf k ent.toNat))) ∧
    (∀ pte pa, Issues s b w t (.ret g) g → s.reqsOf b.id w = [] →
      s.stackReach b t (t.g 111) (t.stackAddr (t.g 111)).toNat 8 false = .ok pte pa →
      s.stackShut b (t.stackAddr (t.g 111)) pa = false →
      let r := s.stackRead b (t.stackAddr (t.g 111)) pa 8
      r.2 = false → leNat r.1 < 2 ^ 32 → LegalTarget s b (BitVec.ofNat 32 (leNat r.1)) →
      exec (.ret g) s = .next (enters (((issued s).stackUse b (t.stackAddr (t.g 111)) pte pa).modThread b.id w
        fun k => k.setG 111 (t.g 111 + 8)) b w t (BitVec.ofNat 32 (leNat r.1))))

/-- R227 to R231: branches, calls and returns. -/
def Obligations.TransfersOfControl : Prop :=
  BranchesEnterTheirTarget ∧ CallsPushAndReturnsPop


/-- R228, R229, R231: a transfer whose target is not legal raises 0x02 with the target, and nothing of it takes effect. The
address of an entry that is no header, or that the table does not have, is log entry 102, the model's reading. -/
def Sys2Proof.Claims.IllegalTargetsPark : Prop :=
  ∀ g s b w t,
    (∀ off, Issues s b w t (.bra g off) g →
      codeOvl (branchTarget t off.toInt) ≠ codeOvl t.hdr ∨ IllegalTarget s b (branchTarget t off.toInt) →
      Raises s b w t (.bra g off) 0x02 (some ((branchTarget t off.toInt).setWidth 64)) 0) ∧
    (∀ off, Issues s b w t (.call g off) g →
      codeOvl (branchTarget t off.toInt) ≠ codeOvl t.hdr ∨ IllegalTarget s b (branchTarget t off.toInt) →
      Raises s b w t (.call g off) 0x02 (some ((branchTarget t off.toInt).setWidth 64)) 0) ∧
    (∀ (o : MbrOps) (k : Nat) (x : Sel × BitVec 16), Issues s b w t (.mbr g o) g →
      (choices o)[k]? = some x → selected t x.1 = true →
      (∀ (j : Nat) (y : Sel × BitVec 16), j < k → (choices o)[j]? = some y → selected t y.1 = false) →
      codeOvl (branchTarget t x.2.toInt) ≠ codeOvl t.hdr ∨ IllegalTarget s b (branchTarget t x.2.toInt) →
      Raises s b w t (.mbr g o) 0x02 (some ((branchTarget t x.2.toInt).setWidth 64)) 0) ∧
    (∀ r, Issues s b w t (.bri g r) g → IllegalTarget s b (t.src r) →
      Raises s b w t (.bri g r) 0x02 (some ((t.src r).setWidth 64)) 0) ∧
    (∀ r, Issues s b w t (.calli g r) g → IllegalTarget s b (t.src r) →
      Raises s b w t (.calli g r) 0x02 (some ((t.src r).setWidth 64)) 0) ∧
    (∀ ovl ent, Issues s b w t (.callo g ovl ent) g → (s.ctx b.ctx).overlay ovl = none →
      Raises s b w t (.callo g ovl ent) 0x02 (some (BitVec.ofNat 64 (ovl.toNat * 2 ^ 24))) 0) ∧
    (∀ ovl ent k, Issues s b w t (.callo g ovl ent) g → ((s.ctx b.ctx).overlay ovl).isSome →
      s.residentCopy b.core b.ctx ovl = some k → k.bad = [] →
      let off := if ent.toNat < entriesOf k then entryOf k ent.toNat else 0
      entriesOf k ≤ ent.toNat ∨ off % 8 ≠ 0 ∨ k.size ≤ off →
      Raises s b w t (.callo g ovl ent) 0x02 (some (BitVec.ofNat 64 ((ovl.toNat * 2 ^ 24 + off) % 2 ^ 32))) 0) ∧
    (∀ pte pa, Issues s b w t (.ret g) g → s.reqsOf b.id w = [] →
      s.stackReach b t (t.g 111) (t.stackAddr (t.g 111)).toNat 8 false = .ok pte pa →
      s.stackShut b (t.stackAddr (t.g 111)) pa = false →
      let r := s.stackRead b (t.stackAddr (t.g 111)) pa 8
      r.2 = false → 2 ^ 32 ≤ leNat r.1 ∨ IllegalTarget s b (BitVec.ofNat 32 (leNat r.1)) →
      Raises s b w t (.ret g) 0x02 (some (BitVec.ofNat 64 (leNat r.1 % 2 ^ 32))) 0)

/-- R89, R230 to R232: a transfer towards an overlay that is not resident waits for its load, or raises 0x0E; a call whose push,
and a `ret` whose record, lies outside the stack raises 0x06; nothing of it takes effect. -/
def Sys2Proof.Claims.MissesAndOverflows : Prop :=
  ∀ g s b w t,
    (∀ r, InTable s b (t.src r) →
      (Issues s b w t (.bri g r) g → MeetsMissing (.bri g r) s b w t (codeOvl (t.src r))) ∧
      (Issues s b w t (.calli g r) g → MeetsMissing (.calli g r) s b w t (codeOvl (t.src r)))) ∧
    (∀ ovl ent, Issues s b w t (.callo g ovl ent) g → MeetsMissing (.callo g ovl ent) s b w t ovl) ∧
    (∀ pte pa, Issues s b w t (.ret g) g → s.reqsOf b.id w = [] →
      s.stackReach b t (t.g 111) (t.stackAddr (t.g 111)).toNat 8 false = .ok pte pa →
      s.stackShut b (t.stackAddr (t.g 111)) pa = false →
      let r := s.stackRead b (t.stackAddr (t.g 111)) pa 8
      r.2 = false → leNat r.1 < 2 ^ 32 → InTable s b (BitVec.ofNat 32 (leNat r.1)) →
      MeetsMissing (.ret g) s b w t (codeOvl (BitVec.ofNat 32 (leNat r.1)))) ∧
    (Overflows b t →
      (∀ off, Issues s b w t (.call g off) g → codeOvl (branchTarget t off.toInt) = codeOvl t.hdr →
        LegalTarget s b (branchTarget t off.toInt) →
        Raises s b w t (.call g off) 0x06 (some (t.stackAddr (t.g 111 - 8))) 0) ∧
      (∀ r, Issues s b w t (.calli g r) g → LegalTarget s b (t.src r) →
        Raises s b w t (.calli g r) 0x06 (some (t.stackAddr (t.g 111 - 8))) 0) ∧
      (∀ ovl ent k, Issues s b w t (.callo g ovl ent) g → s.residentCopy b.core b.ctx ovl = some k → k.bad = [] →
        ent.toNat < entriesOf k → entryOf k ent.toNat < k.size → k.size ≤ 65536 →
        LegalTarget s b (BitVec.ofNat 32 (ovl.toNat * 2 ^ 24 + entryOf k ent.toNat)) →
        Raises s b w t (.callo g ovl ent) 0x06 (some (t.stackAddr (t.g 111 - 8))) 0)) ∧
    (Issues s b w t (.ret g) g → (t.stackAddr (t.g 111)).toNat % 8 = 0 →
      b.lr.stk = 0 ∨ b.lr.stk * 256 < t.stackOff (t.g 111) + 8 →
      Raises s b w t (.ret g) 0x06 (some (t.stackAddr (t.g 111))) 0)

/-- R89, R228 to R232: a transfer that is refused, or that must wait, has no effect. A call's target is tested before its push
(log entry 129, the model's choice). -/
def Sys2Proof.Claims.RefusedTransfersPark : Prop :=
  IllegalTargetsPark ∧ MissesAndOverflows

/-- R234, R235, R236: `exit` ends the thread; `yield` marks a vector thread; `nop` does nothing; `brk` parks past its
word while the break enable is set, and does nothing while it is clear. -/
def Sys2Proof.Claims.ExitYieldNopBrk : Prop :=
  ∀ g s b w t,
    (Issues s b w t (.exit g) g → w ≠ .ctl ∨ b.mFault = none →
      exec (.exit g) s = .next (rests ((issued s).endThread b.id w) b t (.exit g))) ∧
    (∀ pc, Issues s b w t (.yield g) g → Inside s b t (.yield g) pc →
      exec (.yield g) s = .next (passes ((issued s).modThread b.id w fun k =>
        if w = .ctl then k else { k with yielded := true }) b w t pc)) ∧
    (∀ pc, Issues s b w t (.nop g) g → Inside s b t (.nop g) pc → exec (.nop g) s = .next (passes (issued s) b w t pc)) ∧
    (∀ n pc, Issues s b w t (.brk g n) g → Inside s b t (.brk g n) pc → (s.ctx b.ctx).brken = false →
      exec (.brk g n) s = .next (passes (issued s) b w t pc)) ∧
    (∀ n pc, Issues s b w t (.brk g n) g → Inside s b t (.brk g n) pc → (s.ctx b.ctx).brken = true →
      exec (.brk g n) s = .next (rests (parksWith (issued s) b w t
        { who := w, cause := BitVec.ofNat 8 (0x20 + n.toNat), pc := (place pc).1, enter := (place pc).2,
          word := s.wordAt b.core b.ctx t.pc }) b t (.brk g n)))

/-- R89, R228 to R237: refused transfers, `exit`, `yield`, `nop` and `brk`. The cause of a branch that leaves its overlay
follows log entry 25, the address of an entry that names no header log entry 102, the model's readings; a call's target is tested
before its push (log entry 129, the model's choice). -/
def Obligations.EndsAndRefusedTransfers : Prop :=
  RefusedTransfersPark ∧ ExitYieldNopBrk


namespace Sys2Proof.Claims

/-! ## Class 0x4: cross-lane (R237 to R246) -/

/-- A thread whose mask names no other live lane, in a block with no open instance. -/
def LoneLane (s : State) (b : Block) (w : Who) (t : Thread) (mask : Reg) : Prop :=
  (∀ c ∈ s.blocks, c.id = b.id → c.rdvs = []) ∧
  ∀ l, l < 32 → l ≠ laneOf w → (t.src mask).getLsbD l = true → b.laneLive (winOf w) l = false

/-- A thread that is served in state `z` as its issue ends becomes `t'` and passes on: within its basic block, or, from its last
word, into the next. -/
def meetsIn (z : State) (b : Block) (w : Who) (pc : Onward) (t' : Thread) : State :=
  match pc with
  | .within a => z.modThread b.id w fun _ => { t' with pc := a, wait := .none }
  | .header a => (((z.modBlock b.id Block.sweep).settle b.core).modThread b.id w fun _ =>
      { t' with pc := a, entering := true, start := none, wait := .none }).modBlock b.id Block.sweep
  | .astray _ => z

/-- A thread whose instance completes as it arrives becomes `t'` and passes on. -/
def meets (s : State) (b : Block) (w : Who) (pc : Onward) (t' : Thread) : State := meetsIn (issued s) b w pc t'

/-- A cross-lane instruction that a lone thread issues: with its guard true the thread becomes `f` of itself; with its
guard false it arrives as absent, whatever it names, and is unchanged; either way it passes on. -/
def MeetsAlone (i : Instr) (g : Guard) (mask : Reg) (f : Who → Thread → Thread) : Prop :=
  (∀ s b w t pc, Issues s b w t i g → Inside s b t i pc → LoneLane s b w t mask →
    exec i s = .next (meets s b w pc { f w t with since := s.tick, issue := issueOf s t })) ∧
  ∀ s b w t pc, Stands s b w t i → t.guardLost g = false → t.guard g = false → Inside s b t i pc →
    (∀ c ∈ s.blocks, c.id = b.id → c.rdvs = []) → exec i s = .next (meets s b w pc { t with since := s.tick })

/-- The bit of a lane. -/
def laneBit (w : Who) : Word := 1#32 <<< laneOf w

/-- A shuffle of a lone thread: its own value where it is its own source, else 0 with the absent predicate true. -/
def shuffled (o : Shfl) (own : Bool) (t : Thread) : Thread :=
  (t.setG o.d.toNat (if own then t.src o.a else 0)).setQ o.q !own

/-- The lanes of an instance that are present (R239): arrived with their guard true. -/
def PresentAt (arrs : List Arrival) (l : Nat) (x : Arrival) : Prop := x ∈ arrs ∧ x.guard = true ∧ x.lane = l

/-- The arrivals of an instance: one for each lane, lanes below 32 (R238). -/
def OneEach (arrs : List Arrival) : Prop :=
  (∀ x ∈ arrs, x.lane < 32) ∧ ∀ x ∈ arrs, ∀ y ∈ arrs, x.lane = y.lane → x = y

/-- The source lane of each shuffle (R242), for the arrival `a`. -/
def Shuffles (i : Instr) (o : Shfl) (a : Arrival) (src : Int) : Prop :=
  (∃ g x, i = .shflIdx g o x ∧ src = a.src) ∨
  (∃ g n, i = .shflUp g o n ∧ src = a.lane - n.toNat) ∨
  (∃ g n, i = .shflDn g o n ∧ src = a.lane + n.toNat) ∨
  (∃ g n, i = .shflXor g o n ∧ src = (a.lane ^^^ n.toNat : Nat)) ∨
  (∃ g, i = .qxH g o ∧ src = (a.lane ^^^ 1 : Nat)) ∨
  (∃ g, i = .qxV g o ∧ src = (a.lane ^^^ 2 : Nat)) ∨
  (∃ g, i = .qxD g o ∧ src = (a.lane ^^^ 3 : Nat))

/-- The values that the present lanes of a mask give, in lane order. -/
def given (arrs : List Arrival) (m : BitVec 32) (n : Nat) : List Word :=
  (List.range n).filterMap fun l => (maskedLane arrs m l).map (·.val)

/-- A partial result of a float reduction: a value, if a lane gave one, and the causes raised on the way to it. -/
abbrev Partial := Option Nat × List Cause

/-- One node of a float reduction, the lower lane on the left: an absent operand passes its partner through (R112). -/
def node (f : Nat → Nat → FRes) (a b : Partial) : Partial :=
  match a.1, b.1 with
  | some x, some y => (some (f x y).bits, a.2 ++ b.2 ++ (f x y).cause.toList)
  | none, _ => b
  | _, none => a

/-- Node `i` of level `k` of the binary tree over the lanes (R112). -/
def treeNode (f : Nat → Nat → FRes) (x : Nat → Partial) : Nat → Nat → Partial
  | 0, i => x i
  | k + 1, i => node f (treeNode f x k (2 * i)) (treeNode f x k (2 * i + 1))

/-- One step of the scan at distance `d` (R244). -/
def scanned (f : Nat → Nat → FRes) (x : Nat → Partial) (d i : Nat) : Partial :=
  if d ≤ i then node f (x (i - d)) (x i) else x i

/-- The lanes that give a float reduction its terms: those of the mask that are present. -/
def terms (arrs : List Arrival) (m : BitVec 32) (l : Nat) : Partial := ((maskedLane arrs m l).map (·.val.toNat), [])

/-- A cross-lane result is a value with causes, each cause named once. -/
def Gives (out : LaneOut) (d : Reg) (r : Partial) : Prop :=
  ∃ cs, out = { g := some (d, BitVec.ofNat 32 (r.1.getD 0)), q := none, causes := cs } ∧ cs.Nodup ∧ ∀ c, c ∈ cs ↔ c ∈ r.2

/-- The integer that a word stands for in a lane reduction of type i32 or n32. -/
def laneInt (ty : ElemTy) (v : Word) : Int := if ty = .i32 then v.toInt else v.toNat

end Sys2Proof.Claims

/-! ### Lanes -/

/-- R238, R239, R241 to R245: every cross-lane instruction completes for a thread whose mask names no other live lane
(a control thread always), with the lanes it does not have absent. -/
def Obligations.LoneLanesComplete : Prop :=
  (∀ g d a m, MeetsAlone (.voteAll g d a m) g m fun w t => t.setQ d (t.q a && (t.src m ||| laneBit w) == laneBit w)) ∧
  (∀ g d a m, MeetsAlone (.voteAny g d a m) g m fun _ t => t.setQ d (t.q a)) ∧
  (∀ g d a m, MeetsAlone (.voteBal g d a m) g m fun w t => t.setG d.toNat (if t.q a then laneBit w else 0)) ∧
  (∀ g o r, MeetsAlone (.shflIdx g o (.reg r)) g o.b fun w t => shuffled o ((t.src r).toNat % 32 = laneOf w) t) ∧
  (∀ g o l, MeetsAlone (.shflIdx g o (.lane l)) g o.b fun w t => shuffled o (l.toNat = laneOf w) t) ∧
  (∀ g o n, MeetsAlone (.shflUp g o n) g o.b fun _ t => shuffled o (n = 0) t) ∧
  (∀ g o n, MeetsAlone (.shflDn g o n) g o.b fun _ t => shuffled o (n = 0) t) ∧
  (∀ g o n, MeetsAlone (.shflXor g o n) g o.b fun _ t => shuffled o (n = 0) t) ∧
  (∀ g o, MeetsAlone (.qxH g o) g o.b fun _ t => shuffled o false t) ∧
  (∀ g o, MeetsAlone (.qxV g o) g o.b fun _ t => shuffled o false t) ∧
  (∀ g o, MeetsAlone (.qxD g o) g o.b fun _ t => shuffled o false t) ∧
  (∀ g o, MeetsAlone (.lredAdd g o) g o.b fun _ t => t.setG o.d.toNat (t.src o.a)) ∧
  (∀ g o, MeetsAlone (.lredMax g o) g o.b fun _ t => t.setG o.d.toNat (t.src o.a)) ∧
  (∀ g o, MeetsAlone (.lredMin g o) g o.b fun _ t => t.setG o.d.toNat (t.src o.a)) ∧
  (∀ g o, MeetsAlone (.lscanAdd g o) g o.b fun _ t => t.setG o.d.toNat (t.src o.a)) ∧
  (∀ g d a m, MeetsAlone (.matchLanes g d a m) g m fun w t => t.setG d.toNat (laneBit w))

/-- R241, R242, R245: what an instance gives one of its arrivals, over that arrival's own mask. -/
def Sys2Proof.Claims.VotesShufflesMatch : Prop :=
  ∀ arrs a, OneEach arrs → PresentAt arrs a.lane a →
    (∀ g d x r, ∃ v, laneResult (.voteAll g d x r) arrs a = { g := none, q := some (d, v), causes := [] } ∧
      (v = true ↔ ∀ l, a.mask.getLsbD l = true → ∃ y, PresentAt arrs l y ∧ y.pred = true)) ∧
    (∀ g d x r, ∃ v, laneResult (.voteAny g d x r) arrs a = { g := none, q := some (d, v), causes := [] } ∧
      (v = true ↔ ∃ l y, a.mask.getLsbD l = true ∧ PresentAt arrs l y ∧ y.pred = true)) ∧
    (∀ g d x r, ∃ v : Word, laneResult (.voteBal g d x r) arrs a = { g := some (d, v), q := none, causes := [] } ∧
      ∀ l, v.getLsbD l = true ↔ a.mask.getLsbD l = true ∧ ∃ y, PresentAt arrs l y ∧ y.pred = true) ∧
    (∀ g d x r, ∃ v : Word, laneResult (.matchLanes g d x r) arrs a = { g := some (d, v), q := none, causes := [] } ∧
      ∀ l, v.getLsbD l = true ↔ a.mask.getLsbD l = true ∧ ∃ y, PresentAt arrs l y ∧ y.val = a.val) ∧
    (∀ i o src, Shuffles i o a src →
      (∀ l y, src = (l : Nat) → a.mask.getLsbD l = true → PresentAt arrs l y →
        laneResult i arrs a = { g := some (o.d, y.val), q := some (o.q, false), causes := [] }) ∧
      ((∀ l y, src = (l : Nat) → a.mask.getLsbD l = true → ¬ PresentAt arrs l y) →
        laneResult i arrs a = { g := some (o.d, 0), q := some (o.q, true), causes := [] }))

/-- R243, R244, for the integer types: sums modulo 2^32, the largest and the smallest of the values that the present
lanes of the mask give, and the sums up to each lane. -/
def Sys2Proof.Claims.LaneReductionsAndScans : Prop :=
  ∀ arrs a g (o : LaneRed), OneEach arrs → PresentAt arrs a.lane a → a.mask.getLsbD a.lane = true →
    o.ty = .i32 ∨ o.ty = .n32 →
    let vs := given arrs a.mask 32
    laneResult (.lredAdd g o) arrs a = { g := some (o.d, vs.sum), q := none, causes := [] } ∧
    laneResult (.lscanAdd g o) arrs a =
      { g := some (o.d, (given arrs a.mask (a.lane + 1)).sum), q := none, causes := [] } ∧
    (∃ v ∈ vs, laneResult (.lredMax g o) arrs a = { g := some (o.d, v), q := none, causes := [] } ∧
      ∀ x ∈ vs, laneInt o.ty x ≤ laneInt o.ty v) ∧
    (∃ v ∈ vs, laneResult (.lredMin g o) arrs a = { g := some (o.d, v), q := none, causes := [] } ∧
      ∀ x ∈ vs, laneInt o.ty v ≤ laneInt o.ty x)

/-- R112, R243, R244, for f32: the binary tree over the lanes and the Hillis–Steele scan, each node rounded once, with the
causes of the nodes that lead to the result. -/
def Sys2Proof.Claims.FloatReductionsAndScans : Prop :=
  ∀ arrs a g (o : LaneRed), OneEach arrs → PresentAt arrs a.lane a → a.mask.getLsbD a.lane = true → o.ty = .f32 →
    let add : Nat → Nat → FRes := fun x y => fadd .f32 o.rnd (fval .f32 x) (fval .f32 y)
    let pick : Bool → Nat → Nat → FRes := fun larger x y => ⟨extreme .f32 larger x y, none⟩
    let x := terms arrs a.mask
    Gives (laneResult (.lredAdd g o) arrs a) o.d (treeNode add x 5 0) ∧
    Gives (laneResult (.lredMax g o) arrs a) o.d (treeNode (pick true) x 5 0) ∧
    Gives (laneResult (.lredMin g o) arrs a) o.d (treeNode (pick false) x 5 0) ∧
    Gives (laneResult (.lscanAdd g o) arrs a) o.d ([1, 2, 4, 8, 16].foldl (scanned add) x a.lane)

/-- R112, R243, R244: lane reductions and scans, of integers and of floats. -/
def Sys2Proof.Claims.ReductionsAndScans : Prop :=
  LaneReductionsAndScans ∧ FloatReductionsAndScans

/-- R112, R241 to R245: what a cross-lane instance gives each of its arrivals. -/
def Obligations.LaneValues : Prop :=
  VotesShufflesMatch ∧ ReductionsAndScans


namespace Sys2Proof.Claims

/-! ## Classes 0x5 to 0x7: memory (R247 to R260) -/

/-- A thread that issues `i` alone where `pre` holds passes on in the state `eff`. -/
def CompletesWhen (i : Instr) (g : Guard) (pre : State → Block → Who → Thread → Prop)
    (eff : State → Block → Who → Thread → State) : Prop :=
  ∀ s b w t pc, Issues s b w t i g → Inside s b t i pc → pre s b w t → exec i s = .next (passes (eff s b w t) b w t pc)

/-- No access of the thread is in flight. -/
def Quiet (s : State) (b : Block) (w : Who) : Prop := s.reqsOf b.id w = []

/-- The core has a free request entry (R71). -/
def Room (s : State) (b : Block) : Prop := s.entriesUsed b.core < 1024

/-- A request entry is taken in state `z`, for issue number `iss`, by an access that has come as far as `st`. -/
def takesEntry (z : State) (iss : Nat) (b : Block) (w : Who) (t : Thread) (va : DWord) (pa : Nat) (pte : DWord)
    (nt : Bool) (kind : ReqKind) (st : ReqSt) : State :=
  { z with
    nextId := z.nextId + 1
    reqs := z.reqs ++ [{ id := z.nextId, core := b.core, blk := b.id, who := w, ctx := b.ctx, issue := iss, pc := t.pc,
                         hdr := t.hdr, word := z.wordAt b.core b.ctx t.pc, va := va, pa := pa, pte := pte, kind := kind,
                         st := st, value := none, bad := none, since := z.tick, returned := false, nt := nt,
                         fences := kind.fences z.nextId t.fences }] }

/-- An access starts: its value and its bytes move later. -/
def requests (s : State) (b : Block) (w : Who) (t : Thread) (va : DWord) (pa : Nat) (pte : DWord) (nt : Bool)
    (kind : ReqKind) : State :=
  takesEntry (issued s) (issueOf s t) b w t va pa pte nt kind .issued

/-- An access that has been performed at its issue keeps its entry until its value returns or its acknowledgement
arrives (R248). -/
def made (s z : State) (b : Block) (w : Who) (t : Thread) (va : DWord) (kind : ReqKind) : State :=
  takesEntry z (issueOf s t) b w t va 0 0 false kind .done

/-- The three loads, with what each asks for: an acquire, and the weak guarantee of `ld.nc`. -/
def Loads (i : Instr) (g : Guard) (o : Mem) (acq nc : Bool) : Prop :=
  (i = .ld g o ∧ acq = false ∧ nc = false) ∨ (i = .ldAcq g o ∧ acq = true ∧ nc = false) ∨
  (i = .ldNc g o ∧ acq = false ∧ nc = true)

/-- The two stores, with the scope of a release. -/
def Stores (i : Instr) (g : Guard) (o : Mem) (rel : Option Scope) : Prop :=
  (i = .st g o ∧ rel = none) ∨ (i = .stRel g o ∧ rel = some o.scope)

/-- The atomics with the operation each does (R257, R258). -/
def Atomics (i : Instr) (g : Guard) (o : Mem) (op : Nat) : Prop :=
  (i = .atomAdd g o ∧ op = 0) ∨ (i = .atomMin g o ∧ op = 1) ∨ (i = .atomMax g o ∧ op = 2) ∨
  (i = .atomAnd g o ∧ op = 3) ∨ (i = .atomOr g o ∧ op = 4) ∨ (i = .atomXor g o ∧ op = 5) ∨
  (i = .atomXchg g o ∧ op = 6) ∨ (i = .atomCas g o ∧ op = 7) ∨ (i = .atomInc g o ∧ op = 15)

/-- The reduce operations with the operation each does, and its deferred form (R163). -/
def Reduces (i : Instr) (g : Guard) (o : Mem) (op : Nat) (k : BitVec 4 → DKind) : Prop :=
  (i = .redAdd g o ∧ op = 0 ∧ k = .redAdd) ∨ (i = .redMin g o ∧ op = 1 ∧ k = .redMin) ∨
  (i = .redMax g o ∧ op = 2 ∧ k = .redMax) ∨ (i = .redOr g o ∧ op = 4 ∧ k = .redOr)

/-- An access to global memory that translates, aligned. -/
def Translates (s : State) (b : Block) (t : Thread) (o : Mem) (wr rd : Bool) (pte : DWord) (pa : Nat) : Prop :=
  (t.memAddr o).toNat % sizeBytes o.size = 0 ∧ s.reach b (t.memAddr o) wr rd = .ok pte pa

/-- The access is not to the window table where the runtime has mapped it (R156; log entry 107). -/
def Unmapped (s : State) (b : Block) (t : Thread) (o : Mem) : Prop :=
  (s.ctx b.ctx).mapped (t.memAddr o).toNat (sizeBytes o.size) = none

/-- The buffer of SPACE 1 to 3. -/
def isBuf : Space → Buf → Prop
  | .w, .w => True
  | .a, .a => True
  | .c, .c => True
  | _, _ => False

/-- A window (R155) that takes an access of `n` bytes at `off`: `wr` for a deferred write. -/
def WindowTakes (s : State) (b : Block) (t : Thread) (o : Mem) (wr : Bool) (v : Window) : Prop :=
  (s.ctx b.ctx).window (t.handleNo o) = some v ∧ (v.kind = 3 ∨ v.kind = if wr then 1 else 2) ∧ v.rule.toNat < 10 ∧
  (t.winAddr o).toNat % sizeBytes o.size = 0 ∧
  (t.winAddr o).toNat + sizeBytes o.size ≤ v.limit.toNat - v.base.toNat

/-- A deferred write on its way to the Anvil takes a request entry, which it holds until it is acknowledged (R152, R248). A
heat-bound block's write belongs to the current heat, or to the next once its thread has arrived (R268); a write through a window
carries the budget that the entry holds now (R156). -/
def defers (s : State) (b : Block) (w : Who) (t : Thread) (d : DWrite) (peer : Nat) (budget : Option Nat) : State :=
  let h := (s.ctx b.ctx).heat.toNat
  requests s b w t (BitVec.ofNat 64 d.addr) 0 0 false (.defer
    { id := s.nextId + 1, seq := b.seq, bid := b.bid, who := w, bound := b.lr.heatF,
      heat := if b.lr.heatF = true ∧ t.arrived = some h then h + 1 else h, peer := peer, budget := budget, w := d })

/-- A deferred write through a window is made. -/
def defersWin (s : State) (b : Block) (w : Who) (t : Thread) (o : Mem) (v : Window) (k : DKind) (bs : List Byte) : State :=
  defers s b w t
    { spkg := s.pkg, sctx := some (BitVec.ofNat 6 b.ctx), direct := false, seq := 0, heat := 0,
      win := BitVec.ofNat 16 (t.handleNo o), dctx := v.pctx, key := v.key, addr := v.base.toNat + (t.winAddr o).toNat,
      kind := k, data := bs } v.peer.toNat (some (v.budget.toNat * 4096))

/-- A deferred write to a HEAT page of this package is made. -/
def defersHere (s : State) (b : Block) (w : Who) (t : Thread) (va : DWord) (k : DKind) (bs : List Byte) : State :=
  defers s b w t
    { spkg := s.pkg, sctx := some (BitVec.ofNat 6 b.ctx), direct := true, seq := 0, heat := 0, win := 0xFFFF,
      dctx := BitVec.ofNat 6 b.ctx, key := 0, addr := va.toNat, kind := k, data := bs } s.pkg.toNat none

/-- A store of `bs` to the stack of a thread takes an entry: it is made as it issues, or waits behind what the thread's earlier
accesses still owe, or for its line. -/
def storesStack (s : State) (b : Block) (w : Who) (t : Thread) (va pte : DWord) (pa : Nat) (bs : List Byte) (z : State) :
    Prop :=
  (StackFree s b w va pa → z = made s ((issued s).stackWrite b.id va pte pa bs) b w t va (.stk pa bs)) ∧
  (¬ StackFree s b w va pa → z = requests s b w t va 0 pte false (.stk pa bs))

/-- The shape that RULE 2 to 8 asks of a store (R157). -/
def Shaped (rule : BitVec 4) (a n : Nat) : Prop := 2 ≤ rule.toNat ∧ rule.toNat ≤ 8 → 4 ≤ n ∧ a % 4 = 0

/-- The word of n bits that an atomic writes over `old` (R257); none where a compare fails. -/
def newWord (op n old v c : Nat) : Option Nat :=
  if op = 0 then some ((old + v) % 2 ^ n)
  else if op = 1 then some (if natSigned n v < natSigned n old then v else old)
  else if op = 2 then some (if natSigned n v > natSigned n old then v else old)
  else if op = 3 then some (old &&& v)
  else if op = 4 then some (old ||| v)
  else if op = 5 then some (old ^^^ v)
  else if op = 6 then some v
  else if op = 7 then (if old = c then some v else none)
  else some (if old ≥ v then 0 else old + 1)

/-- An operation of a memory-side agent is started: its handle becomes pending, its flags rise. -/
def startsAgent (s : State) (b : Block) (w : Who) (t : Thread) (o : Mem) (kind : CmdKind) : State :=
  let fs := s.countedFlags b t none
  let s' : State :=
    { s with
      cur := none
      nextId := s.nextId + 2
      cmds := s.cmds ++ [{ id := s.nextId + 1, blk := b.id, who := w, ctx := b.ctx, core := b.core, kind := kind,
                           va := t.memAddr o, hdl := some (o.d.toNat - 112), flags := fs, bar := none, scope := .pkg,
                           stop := false, upto := s.nextId + 1, tid := (tidOf w).toNat % 65536, hdr := t.hdr,
                           since := s.tick, run := .start }] }
  (s'.modBlock b.id fun k => k.raise fs).modThread b.id w fun k =>
    k.setH (o.d.toNat - 112) { pending := true, op := s.nextId + 1, word := 0, result := 0 }

/-- What an agent's operation asks before it starts. -/
def AgentTakes (s : State) (b : Block) (w : Who) (t : Thread) (o : Mem) (n : Nat) (wr : Bool) : Prop :=
  t.helper = false ∧ (t.memAddr o).toNat % n = 0 ∧ b.flagRoom (s.countedFlags b t none) = true ∧ Quiet s b w ∧
  ∃ pte pa, s.reach b (t.memAddr o) wr true = .ok pte pa ∧ pteHeat pte = false ∧
    (wr = true → s.inRange pa n = false) ∧ s.readRefused pte pa n = none

end Sys2Proof.Claims

/-! ### Memory -/

/-- R156, R248, R249: a load of global memory takes a request entry, and its registers are written when its value
returns; so does one of the window table where the runtime has mapped it (log entry 107, the model's reading); a load
through a window sends a snapshot read. -/
def Sys2Proof.Claims.GlobalLoadsIssue : Prop :=
  ∀ i g o acq nc, Loads i g o acq nc →
    (∀ pte pa, o.space = .glob → CompletesWhen i g
      (fun s b w t => Translates s b t o false true pte pa ∧ Unmapped s b t o ∧
        s.readRefused pte pa (sizeBytes o.size) = none ∧ Quiet s b w ∧ Room s b)
      fun s b w t => requests s b w t (t.memAddr o) pa pte o.nt (.load o.d (sizeBytes o.size) o.sx acq nc)) ∧
    (∀ bs, o.space = .glob → CompletesWhen i g
      (fun s b w t => (t.memAddr o).toNat % sizeBytes o.size = 0 ∧
        (s.ctx b.ctx).mapped (t.memAddr o).toNat (sizeBytes o.size) = some bs ∧ Quiet s b w ∧ Room s b)
      fun s b w t => made s (issued s) b w t (t.memAddr o) (.own o.d (loadWords (sizeBytes o.size) o.sx bs))) ∧
    (∀ v, o.space = .win → CompletesWhen i g
      (fun s b _ t => WindowTakes s b t o false v ∧ Room s b)
      fun s b w t => (requests s b w t (BitVec.ofNat 64 (v.base.toNat + (t.winAddr o).toNat)) 0 0 o.nt
        (.snap o.d (sizeBytes o.size) o.sx acq (BitVec.ofNat 16 (t.handleNo o)) v.peer v.pctx v.key)).modCtx b.ctx fun k =>
          { k with active := true })

/-- R76, R89, R248, R249, R253, R254: a load of a core's buffers or of the thread's stack reads its bytes at issue, and
its registers are written when its value returns; `pop` also moves g111 up, and a register of its own that is g111 holds
the value moved so; `pf` changes no memory, no thread and no context. -/
def Sys2Proof.Claims.LocalLoadsComplete : Prop :=
  (∀ i g o acq nc, Loads i g o acq nc →
    (∀ k p, isBuf o.space k → CompletesWhen i g
      (fun s b w t => b.bufReach k (t.memAddr o) (sizeBytes o.size) = .ok p ∧
        (s.core b.core).bufBad k p (sizeBytes o.size) = false ∧ Quiet s b w ∧ Room s b)
      fun s b w t => made s (issued s) b w t (t.memAddr o) (.own o.d
        (loadWords (sizeBytes o.size) o.sx (memRead ((s.core b.core).buf k) p (sizeBytes o.size))))) ∧
    (∀ pte pa bs, o.space = .stack → CompletesWhen i g
      (fun s b w t => s.stackReach b t (t.stackPtr o) (t.stackAddr (t.stackPtr o)).toNat (sizeBytes o.size) false =
          .ok pte pa ∧ s.stackShut b (t.stackAddr (t.stackPtr o)) pa = false ∧
          s.stackRead b (t.stackAddr (t.stackPtr o)) pa (sizeBytes o.size) = (bs, false) ∧ Quiet s b w ∧ Room s b)
      fun s b w t => made s ((issued s).stackUse b (t.stackAddr (t.stackPtr o)) pte pa) b w t
        (t.stackAddr (t.stackPtr o)) (.own o.d (loadWords (sizeBytes o.size) o.sx bs)))) ∧
  (∀ g o pte pa bs, CompletesWhen (.pop g o) g
    (fun s b w t => s.stackReach b t (t.g 111) (t.g 111).toNat (sizeBytes o.size) false = .ok pte pa ∧
      s.stackShut b (t.stackAddr (t.g 111)) pa = false ∧ s.stackRead b (t.stackAddr (t.g 111)) pa (sizeBytes o.size) = (bs, false) ∧ Quiet s b w ∧ Room s b)
    fun s b w t =>
      (made s ((issued s).stackUse b (t.stackAddr (t.g 111)) pte pa) b w t (t.stackAddr (t.g 111))
        (.own o.d ((loadWords (sizeBytes o.size) o.sx bs).mapIdx fun j v =>
          if o.d.toNat + j = 111 then v + BitVec.ofNat 32 (sizeBytes o.size) else v))).modThread b.id w fun k =>
            k.setG 111 (t.g 111 + BitVec.ofNat 32 (sizeBytes o.size))) ∧
  (∀ g o, o.space ≠ .glob → CompletesWhen (.pf g o) g (fun _ _ _ _ => True) fun s _ _ _ => issued s) ∧
  (∀ g o s b w t pc, o.space = .glob → Issues s b w t (.pf g o) g → Inside s b t (.pf g o) pc → Room s b →
    ∃ z, exec (.pf g o) s = .next (passes z b w t pc) ∧ z.mem = s.mem ∧ z.blocks = s.blocks ∧ z.ctxs = s.ctxs ∧
      z.reqs = s.reqs ∧ z.events = s.events)

/-- R248: the registers that a load writes, little-endian, extended by SX below 32 bits, and no other register. -/
def Sys2Proof.Claims.LoadedRegisters : Prop :=
  ∀ (t : Thread) (d : Reg) sz sx (bs : List Byte), bs.length = sizeBytes sz → d.toNat + sizeRegs sz ≤ 112 →
    let t' := t.putLoad d (sizeBytes sz) sx bs
    (∀ r, r < d.toNat ∨ d.toNat + sizeRegs sz ≤ r → t'.g r = t.g r) ∧
    (4 ≤ sizeBytes sz → ∀ j, j < sizeRegs sz → (t'.g (d.toNat + j)).toNat = leNat ((bs.drop (4 * j)).take 4)) ∧
    (sizeBytes sz < 4 → sx = false → (t'.g d.toNat).toNat = leNat bs) ∧
    (sizeBytes sz < 4 → sx = true → (t'.g d.toNat).toInt = natSigned (8 * sizeBytes sz) (leNat bs)) ∧
    t'.preds = t.preds ∧ t'.handles = t.handles ∧ t'.pc = t.pc

/-- R28, R152, R154, R248, R249: a store to global memory takes a request entry with the bytes of its registers; to a
HEAT page it is a deferred write; a helper lane's store does nothing. -/
def Sys2Proof.Claims.GlobalStoresIssue : Prop :=
  ∀ i g o rel, Stores i g o rel →
    (∀ pte pa, o.space = .glob → CompletesWhen i g
      (fun s b w t => t.helper = false ∧ Translates s b t o true false pte pa ∧ Unmapped s b t o ∧
        pteHeat pte = false ∧ s.inRange pa (sizeBytes o.size) = false ∧ Quiet s b w ∧ Room s b)
      fun s b w t =>
        requests s b w t (t.memAddr o) pa pte o.nt (.store (t.storeBytes o.d (sizeBytes o.size)) o.ack rel)) ∧
    (∀ pte pa, o.space = .glob → CompletesWhen i g
      (fun s b w t => t.helper = false ∧ Translates s b t o true false pte pa ∧ Unmapped s b t o ∧
        pteHeat pte = true ∧ Shaped (s.ctx b.ctx).hrule (t.memAddr o).toNat (sizeBytes o.size) ∧
        s.inRange pa (sizeBytes o.size) = false ∧ Room s b)
      fun s b w t => defersHere s b w t (t.memAddr o) (.store (s.ctx b.ctx).hrule) (t.storeBytes o.d (sizeBytes o.size))) ∧
    (∀ v, o.space = .win → CompletesWhen i g
      (fun s b _ t => t.helper = false ∧ WindowTakes s b t o true v ∧
        Shaped v.rule (v.base.toNat + (t.winAddr o).toNat) (sizeBytes o.size) ∧ Room s b)
      fun s b w t => defersWin s b w t o v (.store v.rule) (t.storeBytes o.d (sizeBytes o.size))) ∧
    CompletesWhen i g (fun _ _ _ t => t.helper = true) fun s _ _ _ => issued s

/-- R28, R152, R154, R248, R249: loads and stores of global memory and through windows. -/
def Sys2Proof.Claims.GlobalAccessesIssue : Prop :=
  GlobalLoadsIssue ∧ GlobalStoresIssue

/-- R28, R152, R154, R248, R249: loads and stores of global memory and through windows, and the registers a load
fills. A mapped window table follows log entry 107, the model's choice. -/
def Obligations.GlobalAccesses : Prop :=
  LoadedRegisters ∧ GlobalAccessesIssue



/-- R28, R76, R89, R248, R249, R253: a store to a core's buffers takes a request entry, and its bytes are written later; one
to the thread's stack writes its bytes at issue, or once what the thread's earlier accesses owe is there; `push` moves g111 down
and stores there, and in a helper lane it moves g111 alone (R28; log entry 95, the model's reading). -/
def Sys2Proof.Claims.LocalStoresComplete : Prop :=
  (∀ i g o rel, Stores i g o rel →
    (∀ k p, isBuf o.space k → CompletesWhen i g
      (fun s b _ t => t.helper = false ∧ b.bufReach k (t.memAddr o) (sizeBytes o.size) = .ok p ∧ Room s b)
      fun s b w t => requests s b w t (t.memAddr o) 0 0 o.nt (.buf k p (t.storeBytes o.d (sizeBytes o.size)) rel.isSome)) ∧
    (∀ s b w t pc pte pa, o.space = .stack → Issues s b w t i g → Inside s b t i pc → t.helper = false → Room s b →
      s.stackReach b t (t.stackPtr o) (t.stackAddr (t.stackPtr o)).toNat (sizeBytes o.size) true = .ok pte pa →
      ∃ z, storesStack s b w t (t.stackAddr (t.stackPtr o)) pte pa (t.storeBytes o.d (sizeBytes o.size)) z ∧
        exec i s = .next (passes z b w t pc))) ∧
  (∀ g o s b w t pc pte pa, Issues s b w t (.push g o) g → Inside s b t (.push g o) pc → t.helper = false → Room s b →
    let x := t.g 111 - BitVec.ofNat 32 (sizeBytes o.size)
    s.stackReach b t x x.toNat (sizeBytes o.size) true = .ok pte pa →
    ∃ z, storesStack s b w t (t.stackAddr x) pte pa ((t.setG 111 x).storeBytes o.d (sizeBytes o.size)) z ∧
      exec (.push g o) s = .next (passes (z.modThread b.id w fun k => k.setG 111 x) b w t pc)) ∧
  (∀ g o, CompletesWhen (.push g o) g (fun _ _ _ t => t.helper = true) fun s b w t =>
    (issued s).modThread b.id w fun k => k.setG 111 (t.g 111 - BitVec.ofNat 32 (sizeBytes o.size)))

/-- R28, R76, R89, R248, R249, R253, R254: loads and stores of the buffers and the stack, `push`, `pop` and `pf`. When these
accesses read and write follows log entry 38, the model's choice; that push and pop move g111 in a helper lane follows log entry
95, the model's reading of R28. -/
def Obligations.LocalAccessesComplete : Prop :=
  LocalLoadsComplete ∧ LocalStoresComplete


/-- R28, R163, R256 to R258: an atomic takes a request entry that carries its operation and its operands; so does a
reduce operation, and on a HEAT page or through a window it is a deferred write. In a helper lane an atomic gives 0. -/
def Sys2Proof.Claims.AtomicsIssue : Prop :=
  (∀ i g o op pte pa, Atomics i g o op → CompletesWhen i g
    (fun s b w t => t.helper = false ∧ Translates s b t o true true pte pa ∧ pteHeat pte = false ∧
      s.inRange pa (sizeBytes o.size) = false ∧ Quiet s b w ∧ Room s b)
    fun s b w t => requests s b w t (t.memAddr o) pa pte o.nt (.atomic op true o.d (sizeBytes o.size)
      (t.number (o.d.toNat + if op = 7 then sizeBytes o.size / 4 else 0) (sizeBytes o.size))
      (if op = 7 then t.number o.d.toNat (sizeBytes o.size) else 0) o.ack)) ∧
  (∀ i g o op, Atomics i g o op → CompletesWhen i g (fun _ _ _ t => t.helper = true) fun s b w _ =>
    (issued s).modThread b.id w fun k => k.setGs o.d.toNat (List.replicate (sizeRegs o.size) 0)) ∧
  (∀ i g o op k pte pa, Reduces i g o op k → o.space ≠ .win →
    CompletesWhen i g
      (fun s b w t => t.helper = false ∧ Translates s b t o true true pte pa ∧ pteHeat pte = false ∧
        s.inRange pa (sizeBytes o.size) = false ∧ s.physBad pa (sizeBytes o.size) = false ∧ Quiet s b w ∧ Room s b)
      (fun s b w t => requests s b w t (t.memAddr o) pa pte o.nt (.atomic op false o.d (sizeBytes o.size)
        (t.number o.d.toNat (sizeBytes o.size)) 0 o.ack)) ∧
    CompletesWhen i g
      (fun s b w t => t.helper = false ∧ Translates s b t o true true pte pa ∧ pteHeat pte = true ∧
        Shaped (s.ctx b.ctx).hrule (t.memAddr o).toNat (sizeBytes o.size) ∧ s.inRange pa (sizeBytes o.size) = false ∧
        Room s b)
      (fun s b w t => defersHere s b w t (t.memAddr o) (k (s.ctx b.ctx).hrule)
        (leBytes (sizeBytes o.size) (t.number o.d.toNat (sizeBytes o.size))))) ∧
  (∀ i g o op k v, Reduces i g o op k → o.space = .win → CompletesWhen i g
    (fun s b _ t => t.helper = false ∧ WindowTakes s b t o true v ∧ Room s b)
    fun s b w t => defersWin s b w t o v (k v.rule) (t.storeBytes o.d (sizeBytes o.size))) ∧
  (∀ i g o op k, Reduces i g o op k → CompletesWhen i g (fun _ _ _ t => t.helper = true) fun s _ _ _ => issued s)

/-- R257: the word that each integer operation writes. -/
def Sys2Proof.Claims.AtomicOperations : Prop :=
  ∀ op n old v c, op ≤ 7 ∨ op = 15 → old < 2 ^ n → v < 2 ^ n →
    atomicNew op n old v c = newWord op n old v c ∧ ∀ x, atomicNew op n old v c = some x → x < 2 ^ n

/-- R256 to R258: atomics and reduce operations, and the words they write. -/
def Obligations.AtomicsAndReductions : Prop :=
  AtomicsIssue ∧ AtomicOperations


/-- R28, R185, R259, R260: an operation of a memory-side agent starts with the operands that follow the address pair,
and its handle is pending; in a helper lane the handle completes at once. -/
def Obligations.AgentOperationsStart : Prop :=
  ∀ g o,
    CompletesWhen (.nmcas g o) g (fun s b w t => AgentTakes s b w t o 16 true) (fun s b w t =>
      startsAgent s b w t o (.nmcas (t.g (o.a.toNat + 2)) (t.gs (o.a.toNat + 3) 4) (t.gs (o.a.toNat + 7) 4))) ∧
    CompletesWhen (.nmenq g o) g (fun s b w t => AgentTakes s b w t o 16 true) (fun s b w t =>
      startsAgent s b w t o (.nmenq (t.pair (o.a.toNat + 2)))) ∧
    CompletesWhen (.nmchase g o) g (fun s b w t => AgentTakes s b w t o 8 false) (fun s b w t =>
      startsAgent s b w t o (.nmchase (t.g (o.a.toNat + 2)) (t.g (o.a.toNat + 3)))) ∧
    ∀ i, i = .nmcas g o ∨ i = .nmenq g o ∨ i = .nmchase g o →
      CompletesWhen i g (fun _ _ _ t => t.helper = true) fun s b w _ =>
        (issued s).modThread b.id w fun k => k.clearH (o.d.toNat - 112)

/-- R76, R89, R92, R93, R154, R157, R251, R253: what a faulting access raises, in the order of the checks, with its
address and with no other effect. The address and the alignment of a window access follow log entries 39, 95 and 107,
the model's reading. -/
def Obligations.AccessFaults : Prop :=
  (∀ i g o s b w t, (∃ acq nc, Loads i g o acq nc) ∨ (t.helper = false ∧ ∃ rel, Stores i g o rel) → Issues s b w t i g →
    (o.space = .glob → (t.memAddr o).toNat % sizeBytes o.size ≠ 0 → Raises s b w t i 0x07 (some (t.memAddr o)) 0) ∧
    (o.space = .glob → (t.memAddr o).toNat % sizeBytes o.size = 0 → Unmapped s b t o → 2 ^ 48 ≤ (t.memAddr o).toNat →
      Raises s b w t i 0x08 (some (t.memAddr o)) 0) ∧
    (∀ k, isBuf o.space k →
      ((t.memAddr o).toNat % sizeBytes o.size ≠ 0 → Raises s b w t i 0x07 (some (t.memAddr o)) 0) ∧
      ((t.memAddr o).toNat % sizeBytes o.size = 0 → b.bufPhys k (t.memAddr o).toNat (sizeBytes o.size) = none →
        Raises s b w t i 0x09 (some (t.memAddr o)) 0) ∧
      (∀ p, (t.memAddr o).toNat % sizeBytes o.size = 0 → b.bufPhys k (t.memAddr o).toNat (sizeBytes o.size) = some p →
        b.tileHolds k (t.memAddr o).toNat (sizeBytes o.size) = true → Raises s b w t i 0x0D (some (t.memAddr o)) 0)) ∧
    (o.space = .stack →
      ((t.stackAddr (t.stackPtr o)).toNat % sizeBytes o.size ≠ 0 →
        Raises s b w t i 0x07 (some (t.stackAddr (t.stackPtr o))) 0) ∧
      ((t.stackAddr (t.stackPtr o)).toNat % sizeBytes o.size = 0 → b.inStack t (t.stackPtr o) (sizeBytes o.size) = false →
        Raises s b w t i 0x06 (some (t.stackAddr (t.stackPtr o))) 0)) ∧
    (o.space = .win →
      ((t.winAddr o).toNat % sizeBytes o.size ≠ 0 →
        (∃ acq nc, Loads i g o acq nc) ∨
          (∀ v, (s.ctx b.ctx).window (t.handleNo o) = some v → v.kind.toNat < 4 ∨ v.kind.toNat = 7) →
        Raises s b w t i 0x07 (some (t.winAddr o)) 0) ∧
      ((t.winAddr o).toNat % sizeBytes o.size = 0 → (s.ctx b.ctx).window (t.handleNo o) = none →
        Raises s b w t i 0x0A (some (t.winAddr o)) (t.handleNo o)))) ∧
  (∀ i g o rel s b w t pte pa, Stores i g o rel → Issues s b w t i g → t.helper = false → o.space = .glob →
    ((t.memAddr o).toNat % sizeBytes o.size = 0 → ¬ Unmapped s b t o → Raises s b w t i 0x09 (some (t.memAddr o)) 0) ∧
    (Translates s b t o true false pte pa → Unmapped s b t o → pteHeat pte = true →
      ¬ Shaped (s.ctx b.ctx).hrule (t.memAddr o).toNat (sizeBytes o.size) →
      Raises s b w t i 0x17 (some (t.memAddr o)) 0) ∧
    (Translates s b t o true false pte pa → Unmapped s b t o → pteHeat pte = false →
      s.inRange pa (sizeBytes o.size) = true → Raises s b w t i 0x09 (some (t.memAddr o)) 0)) ∧
  (∀ i g o op s b w t pte pa, Atomics i g o op → Issues s b w t i g → t.helper = false →
    Translates s b t o true true pte pa → pteHeat pte = true → Raises s b w t i 0x17 (some (t.memAddr o)) 0)

namespace Sys2Proof.Claims

/-! ## Classes 0x8 and 0xB: synchronisation and handles (R261 to R276) -/

/-- A thread that issues `i` alone waits at its word, not eligible, for `x` (R33). -/
def Waits (s : State) (b : Block) (w : Who) (t : Thread) (i : Instr) (x : Wait) : Prop :=
  exec i s = .next (rests (waits s (issued s) b w t x) b t i)

/-- Every write that a core has sent before a point has been performed towards a scope, or is lost (R134). -/
def SourceDone (s : State) (core upto : Nat) (sc : Scope) : Prop :=
  ∀ r ∈ s.reqs, r.core = core → r.id < upto → r.sends = true → r.performed sc = true ∨ s.lostAt sc r = true

/-- The completion check of R264. -/
def checked (k : Bar) : Bar := if k.arr = k.exp ∧ k.tx = 0 then { k with ph := !k.ph, arr := 0 } else k

/-- `bar.init` on an object (R264). -/
def inits (v : Nat) (k : Bar) : Bar :=
  checked (if 1 ≤ v ∧ v ≤ 1025 then { k with exp := v, arr := 0, tx := 0, err := false } else { k with err := true })

/-- `bar.arr` on an object (R264). -/
def arrives (k : Bar) : Bar := checked (if k.arr = k.exp then { k with err := true } else { k with arr := k.arr + 1 })

/-- A change of TX, which saturates and then sets ERR (R264). -/
def moveTx (d : Int) (k : Bar) : Bar :=
  { k with tx := max (-2147483648) (min (k.tx + d) 2147483647),
           err := k.err || decide (k.tx + d < -2147483648) || decide (2147483647 < k.tx + d) }

/-- `bar.exp` on an object (R264). -/
def expects (v : Nat) (k : Bar) : Bar := checked (if 2 ^ 31 ≤ v then { k with err := true } else moveTx v k)

/-- A member of `waitany` that is ready (R266). -/
def Ready (b : Block) (t : Thread) (ga gb : Word) (j : Nat) : Prop :=
  ga.getLsbD j = true ∧
  ((j < 16 ∧ j < b.lr.nbar ∧ (b.bar j).ph ≠ gb.getLsbD j) ∨ (16 ≤ j ∧ (t.h (j - 16)).pending = false))

/-- No request for accumulator space waits. -/
def NoRequests (s : State) : Prop := ∀ c ∈ s.blocks, c.areqs = []

/-- The runs of n free units of a core's accumulator space, by first unit (R270). -/
def fitting (s : State) (core n : Nat) : List Nat := freeRuns Config.cUnits (s.cHeld core) n

/-- The run that a granted request takes: a free choice among those that fit (R64). -/
def grantedRun (s : State) (core n : Nat) : Nat :=
  (fitting s core n).getD (Config.pick s.fresh % (fitting s core n).length) 0

/-- A request for n units that is granted at once (R64, R270, R271): the region reads 0, and no store that was issued before
reaches it. -/
def grants (s : State) (b : Block) (n : Nat) : State :=
  let p := grantedRun s b.core n
  let s' : State :=
    { s with
      cur := none
      nextId := s.nextId + 2
      fresh := s.fresh + 1
      reqs := s.reqs.map fun r => if r.coming b.core (p * 4096) (n * 4096) then { r with st := .done } else r }
  (s'.modCore b.core fun x =>
    { x with cmem := memClear x.cmem (p * 4096) (n * 4096), cbad := clearSectors x.cbad p n }).modBlock b.id fun k =>
    { k with regions := k.regions ++ [(p, n)] }

/-- The thread whose request is granted. -/
def granted (s : State) (b : Block) (t : Thread) (d : Reg) (c : BitVec 3) (n : Nat) : Thread :=
  { (t.setG d.toNat (BitVec.ofNat 32 (0x100000 + grantedRun s b.core n * 4096))).setQ c true with
    since := s.tick, issue := issueOf s t }

end Sys2Proof.Claims

/-! ### Synchronisation -/

/-- R132, R261: a fence with nothing to wait for completes, and the thread's later stores are released after every access
before it; else it waits until every earlier access of its thread has been performed towards its scope. -/
def Sys2Proof.Claims.FencesOrder : Prop :=
  ∀ g sc,
    CompletesWhen (.fence g sc) g (fun s b w _ => ∀ r ∈ s.reqsOf b.id w, s.lostAt sc r = false ∧ r.performed sc = true)
      (fun s b w _ => (issued s).modThread b.id w fun k =>
        { k with fences := (sc, s.nextId + 1) :: k.fences.filter fun p => p.1 != sc }) ∧
    ∀ s b w t, Issues s b w t (.fence g sc) g → (∀ r ∈ s.reqsOf b.id w, s.lostAt sc r = false) →
      (∃ r ∈ s.reqsOf b.id w, r.performed sc = false) → Waits s b w t (.fence g sc) (.order sc)

/-- R28, R134, R139, R263 to R265: the operations on a barrier object; `bar.arr` waits for its core's earlier writes. -/
def Sys2Proof.Claims.BarrierObjects : Prop :=
  (∀ g n a, CompletesWhen (.barInit g n a) g (fun _ _ _ _ => True) fun s b _ t =>
    (issued s).modBlock b.id fun k => k.modBar n.toNat (inits ((t.src a).toNat % 4096))) ∧
  (∀ g d n, CompletesWhen (.barArr g d n) g
    (fun s b w t => t.helper = false ∧ Quiet s b w ∧ SourceDone s b.core (t.sourcePoint (s.nextId + 1)) .blk) fun s b w _ =>
    ((issued s).modBlock b.id fun k => k.modBar n.toNat arrives).modThread b.id w fun k =>
      k.setG d.toNat (if (b.bar n.toNat).ph then 1 else 0)) ∧
  (∀ g d n s b w t, Issues s b w t (.barArr g d n) g → t.helper = false → Quiet s b w →
    ¬ SourceDone s b.core (t.sourcePoint (s.nextId + 1)) .blk →
    Waits s b w t (.barArr g d n) (.source (t.sourcePoint (s.nextId + 1)) .blk)) ∧
  (∀ g d n, CompletesWhen (.barArr g d n) g (fun _ _ _ t => t.helper = true) fun s b w _ =>
    (issued s).modThread b.id w fun k => k.setG d.toNat 0) ∧
  (∀ g n a, CompletesWhen (.barExp g n a) g (fun _ _ _ t => t.helper = false) fun s b _ t =>
    (issued s).modBlock b.id fun k => k.modBar n.toNat (expects (t.src a).toNat)) ∧
  (∀ g n a, CompletesWhen (.barExp g n a) g (fun _ _ _ t => t.helper = true) fun s _ _ _ => issued s) ∧
  (∀ g d n a, CompletesWhen (.barWait g d n a) g
    (fun _ b _ t => t.wait.isOver = true ∨ (b.bar n.toNat).ph ≠ (t.src a).getLsbD 0) fun s b w _ =>
    (issued s).modThread b.id w fun k => k.setQ d (b.bar n.toNat).err) ∧
  (∀ g d n a s b w t, Issues s b w t (.barWait g d n a) g → t.wait.isOver = false → (b.bar n.toNat).ph = (t.src a).getLsbD 0 →
    Waits s b w t (.barWait g d n a) (.bar n.toNat ((t.src a).getLsbD 0))) ∧
  (∀ g d c n a, CompletesWhen (.barTst g d c n a) g (fun _ _ _ _ => True) fun s b w t =>
    (issued s).modThread b.id w fun k =>
      (k.setQ d ((b.bar n.toNat).ph != (t.src a).getLsbD 0)).setQ c (b.bar n.toNat).err)

/-- R266, R267: `waitany` takes the first ready member from `%anyq` on, or the one its wait ended with, and moves `%anyq`
past it, or waits; `fwait` passes once every flag it names is 0. -/
def Sys2Proof.Claims.WaitsOnSets : Prop :=
  (∀ g d a b, CompletesWhen (.waitany g d a b) g (fun _ _ _ t => t.src a = 0) fun s k w _ =>
    (issued s).modThread k.id w fun u => u.setG d.toNat 0xFFFFFFFF) ∧
  (∀ g d a b i, i < 32 → CompletesWhen (.waitany g d a b) g
    (fun _ k _ t => t.wait.isOver = false ∧ Ready k t (t.src a) (t.src b) ((t.anyq.toNat + i) % 32) ∧
      ∀ h, h < i → ¬ Ready k t (t.src a) (t.src b) ((t.anyq.toNat + h) % 32))
    fun s k w t => (issued s).modThread k.id w fun u =>
      { u.setG d.toNat (BitVec.ofNat 32 ((t.anyq.toNat + i) % 32)) with
        anyq := BitVec.ofNat 5 ((t.anyq.toNat + i + 1) % 32) }) ∧
  (∀ g d a b j, CompletesWhen (.waitany g d a b) g (fun _ _ _ t => t.src a ≠ 0 ∧ t.wait = .over j)
    fun s k w _ => (issued s).modThread k.id w fun u =>
      { u.setG d.toNat (BitVec.ofNat 32 j) with anyq := BitVec.ofNat 5 ((j + 1) % 32) }) ∧
  (∀ g d a b s k w t, Issues s k w t (.waitany g d a b) g → t.src a ≠ 0 → t.wait.isOver = false →
    (∀ j, j < 32 → ¬ Ready k t (t.src a) (t.src b) j) →
    Waits s k w t (.waitany g d a b) (.anyOf (t.src a) (t.src b))) ∧
  (∀ g m, CompletesWhen (.fwait g m) g
    (fun _ b _ t => t.wait.isOver = true ∨ ∀ f, f < 12 → m.getLsbD f = true → b.flag f = 0) fun s _ _ _ => issued s) ∧
  (∀ g m s b w t f, Issues s b w t (.fwait g m) g → t.wait.isOver = false → f < 12 → m.getLsbD f = true → b.flag f ≠ 0 →
    Waits s b w t (.fwait g m) (.flags m))

/-- R132, R261, R266, R267: fences, `waitany` and `fwait`. -/
def Sys2Proof.Claims.FencesAndWaits : Prop :=
  FencesOrder ∧ WaitsOnSets


/-- R28, R268, R269: arriving at the quench and waiting for it. -/
def Sys2Proof.Claims.QuenchInstructions : Prop :=
  (∀ g d, CompletesWhen (.heatArr g d) g
    (fun s b _ t => t.helper = false ∧ b.lr.heatF = true ∧ t.arrived ≠ some (s.ctx b.ctx).heat.toNat) fun s b w _ =>
      (issued s).modThread b.id w fun k =>
        { k.setPair d.toNat ((s.ctx b.ctx).heat.setWidth 64) with arrived := some (s.ctx b.ctx).heat.toNat }) ∧
  (∀ g d, CompletesWhen (.heatArr g d) g (fun _ b _ t => t.helper = false ∧ b.lr.heatF = false) fun s b w _ =>
    (issued s).modThread b.id w fun k => k.setPair d.toNat ((s.ctx b.ctx).heat.setWidth 64)) ∧
  (∀ g d, CompletesWhen (.heatArr g d) g (fun _ _ _ t => t.helper = true) fun s b w _ =>
    (issued s).modThread b.id w fun k => k.setPair d.toNat 0) ∧
  (∀ g d s b w t, Issues s b w t (.heatArr g d) g → t.helper = false → b.lr.heatF = true →
    t.arrived = some (s.ctx b.ctx).heat.toNat → Waits s b w t (.heatArr g d) (.heatOver (s.ctx b.ctx).heat.toNat)) ∧
  (∀ g d a, CompletesWhen (.heatWait g d a) g
    (fun s b _ t => (t.pair a.toNat).toNat % 2 ^ 48 < (s.ctx b.ctx).heat.toNat) fun s b w _ =>
      (issued s).modThread b.id w fun k => k.setQ d ((s.ctx b.ctx).qcause != 0)) ∧
  (∀ g d a s b w t, Issues s b w t (.heatWait g d a) g →
    (s.ctx b.ctx).heat.toNat ≤ (t.pair a.toNat).toNat % 2 ^ 48 →
    Waits s b w t (.heatWait g d a) (.heatOver ((t.pair a.toNat).toNat % 2 ^ 48)))

/-- R28, R132, R139, R261, R263 to R269: barrier objects, fences, `waitany` and `fwait`, and the quench instructions.
Where `bar.tst` names one predicate twice, ERR stands (log entry 18, the model's choice). -/
def Obligations.BarriersFencesWaits : Prop :=
  BarrierObjects ∧ FencesAndWaits ∧ QuenchInstructions

/-- R64, R270 to R272: a request outside 1 to 256 units fails at once; one that fits is granted at once, at a free
choice among the runs that fit, and reads 0; a region is freed at once, unless a tile over it is not EMPTY. Log entry
96 is the free choice. -/
def Obligations.AccumulatorSpace : Prop :=
  (∀ g d c a, CompletesWhen (.aalloc g d c a) g
    (fun s _ _ t => NoRequests s ∧ ((t.src a).toNat = 0 ∨ 256 < (t.src a).toNat)) fun s b w _ =>
      (issued s).modThread b.id w fun k => (k.setG d.toNat 0x11000000).setQ c false) ∧
  (∀ g d c a n s b w t pc, Issues s b w t (.aalloc g d c a) g → Inside s b t (.aalloc g d c a) pc → NoRequests s →
    (t.src a).toNat = n → 1 ≤ n → n ≤ 256 → fitting s b.core n ≠ [] →
    exec (.aalloc g d c a) s = .next (meetsIn (grants s b n) b w pc (granted s b t d c n))) ∧
  (∀ s core n p, p ∈ fitting s core n → 1 ≤ n → p + n ≤ 256 ∧ ∀ u ∈ s.cHeld core, u < p ∨ p + n ≤ u) ∧
  (∀ g a r, CompletesWhen (.afree g a) g
    (fun s b _ t => NoRequests s ∧ b.regions.find? (fun x => 0x100000 + x.1 * 4096 == (t.src a).toNat) = some r ∧
      ∀ k ∈ b.tiles, k.meets .c (t.src a).toNat (r.2 * 4096) = true → k.st = .empty) fun s b _ _ =>
        (issued s).modBlock b.id fun k => { k with regions := k.regions.filter fun x => x != r }) ∧
  (∀ g a s b w t, Issues s b w t (.afree g a) g → NoRequests s →
    (∀ r ∈ b.regions, 0x100000 + r.1 * 4096 ≠ (t.src a).toNat) → Raises s b w t (.afree g a) 0x09 none 0)

/-- R275, R276: the handle instructions. -/
def Obligations.HandleInstructions : Prop :=
  (∀ g m, CompletesWhen (.hwait g m) g (fun _ _ _ t => ∀ n, n < 16 → m.getLsbD n = true → (t.h n).pending = false)
    fun s _ _ _ => issued s) ∧
  (∀ g m s b w t n, Issues s b w t (.hwait g m) g → n < 16 → m.getLsbD n = true → (t.h n).pending = true →
    Waits s b w t (.hwait g m) (.handles m)) ∧
  (∀ g d a, CompletesWhen (.htest g d a) g (fun _ _ _ _ => True) fun s b w t =>
    (issued s).modThread b.id w fun _ => t.setQ d !(t.h a.toNat).pending) ∧
  (∀ g a, CompletesWhen (.hcancel g a) g (fun _ _ _ t => (t.h a.toNat).pending = true) fun s _ _ t =>
    { issued s with cmds := s.cmds.map fun c =>
        if c.id = (t.h a.toNat).op ∧ c.kind.stoppable = true then { c with stop := true } else c }) ∧
  (∀ g a, CompletesWhen (.hcancel g a) g (fun _ _ _ t => (t.h a.toNat).pending = false) fun s _ _ _ => issued s) ∧
  (∀ g d a, d ≠ a → CompletesWhen (.hpass g d a) g (fun _ _ _ t => (t.h d.toNat).pending = false) fun s b w _ =>
    (issued s).modThread b.id w fun k => (k.setH d.toNat (k.h a.toNat)).setH a.toNat
      { pending := false, op := 0, word := 0, result := 0 }) ∧
  (∀ g a, CompletesWhen (.hpass g a a) g (fun _ _ _ _ => True) fun s _ _ _ => issued s) ∧
  (∀ g d a, CompletesWhen (.hget g d a) g (fun _ _ _ t => (t.h a.toNat).pending = false) fun s b w _ =>
    (issued s).modThread b.id w fun k => k.setPair d.toNat (k.h a.toNat).result)

namespace Sys2Proof.Claims

/-! ## Classes 0x9 and 0xA: copies, chains, tiles, matrix operations (R277 to R304) -/

/-- An engine command is started in state `z`: its flags rise and its handle becomes pending (R174, R185, R277). -/
def startsIn (z s : State) (b : Block) (w : Who) (t : Thread) (k : Compl) (kind : CmdKind) (run : Progress) : State :=
  let h : Option Nat := if k.d = 0 then none else some (k.d.toNat - 112)
  let fs := s.countedFlags b t (if k.fen then some k.flag.toNat else none)
  let s' : State :=
    { z with
      nextId := z.nextId + 1
      cmds := z.cmds ++ [{ id := z.nextId, blk := b.id, who := w, ctx := b.ctx, core := b.core, kind := kind,
                           va := 0, hdl := h, flags := fs, bar := if k.ben then some k.bar.toNat else none,
                           scope := k.scope, stop := false, upto := z.nextId, tid := (tidOf w).toNat % 65536,
                           hdr := t.hdr, since := z.tick, run := run }] }
  (s'.modBlock b.id fun x => x.raise fs).modThread b.id w fun x =>
    match h with
    | some n => x.setH n { pending := true, op := z.nextId, word := 0, result := 0 }
    | none => x

/-- An engine command is started. -/
def starts (s : State) (b : Block) (w : Who) (t : Thread) (k : Compl) (kind : CmdKind) : State :=
  startsIn (issued s) s b w t k kind .start

/-- The flags of a command can rise (R174). -/
def FlagsFree (s : State) (b : Block) (t : Thread) (k : Compl) : Prop :=
  b.flagRoom (s.countedFlags b t (if k.fen then some k.flag.toNat else none)) = true

/-- What a helper lane's command does: its handle completes at once (R28). -/
def clearsHandle (k : Compl) (t : Thread) : Thread := if k.d = 0 then t else t.clearH (k.d.toNat - 112)

/-- The n bytes of a record at an address can be read now, through the translations of the core (R70, R279, R286). -/
def Fetches (s : State) (b : Block) (va : DWord) (n : Nat) (bs : List Byte) : Prop :=
  va.toNat % n = 0 ∧ (s.coreXlat b.core b.ctx va false).waits s n = false ∧ s.coreRead b.core b.ctx va n = .ok bs

/-- The state after such a read: the translation stays, and lines of a NEAR page are pinned (R70, R73). -/
def fetched (s : State) (b : Block) (va : DWord) (n : Nat) : State := (issued s).coreKeep b.core b.ctx va n

/-- The 128 bytes of a descriptor can be read (R279). -/
def Described (s : State) (b : Block) (t : Thread) (a : Reg) (bs : List Byte) : Prop := Fetches s b (t.pair a.toNat) 128 bs

/-- A command starts whose descriptor has been read. -/
def starts128 (s : State) (b : Block) (w : Who) (t : Thread) (k : Compl) (a : Reg) (kind : CmdKind) : State :=
  startsIn (fetched s b (t.pair a.toNat) 128) s b w t k kind .start

/-- A copy starts. -/
def copies (s : State) (b : Block) (w : Who) (t : Thread) (k : Compl) (a : Reg) (p : CopySpec) (bc : Option (List (Nat × Nat))) :
    State :=
  (starts128 s b w t k a (.copy p.src p.dst p.ext p.sf p.df p.rop p.sat bc)).modBlock b.id fun x => x.beginCopy p.src p.dst

/-- A side of a refused copy, as the copy holds it: a bound tile of the block, and nothing else (R422). -/
def held (b : Block) (x : Side) : Side :=
  match x with
  | .tile i e => if i < b.lr.ntile ∧ (b.tile i).bound = true then .tile i e else .addr 0 [] 0
  | _ => .addr 0 [] 0

/-- A tile's layout, as `tbind` reads it (R79, R86, R292): a legal layout, an index below NTILE, a size of 1 to 8,192
units of 256 bytes, a base that is a multiple of 256, inside the block's share of the buffer. -/
def Binds (b : Block) (t : Thread) (a x : Reg) (l : Layout) (n : Nat) : Prop :=
  layoutOf (t.g a.toNat) (t.g (a.toNat + 1)) (t.g (a.toNat + 2)) = some l ∧ (t.src x).toNat % 256 < b.lr.ntile ∧
  (t.src x).toNat / 256 = n ∧ 1 ≤ n ∧ n ≤ 8192 ∧ l.base % 256 = 0 ∧ (b.bufPhys l.buf l.base (n * 256)).isSome = true ∧
  ((b.tile ((t.src x).toNat % 256)).bound = true → (b.tile ((t.src x).toNat % 256)).lay.buf = l.buf)

/-- A tile that can be bound: EMPTY, or READY with owner T, and no engine user (R80, R292). -/
def Free (k : Tile) : Prop := (k.st = .empty ∨ (k.st = .ready ∧ k.ownerE = false)) ∧ k.users = 0

/-- `tbind` on its tile, in state `z`. -/
def bindsIn (z : State) (b : Block) (i : Nat) (l : Layout) (n : Nat) (v : Option View) (rdy : Bool) : State :=
  z.modBlock b.id fun k => k.modTile i fun t =>
    { t with bound := true, lay := l, size := n * 256, view := v, st := if rdy then .ready else .empty, ownerE := false }

/-- The code of a tile state (R79). -/
def stateCode (x : TileSt) : Nat :=
  if x = .empty then 0 else if x = .filling then 1 else if x = .ready then 2 else 3

/-- A matrix operation of the control thread enters its core's queue: no recorded fault, fewer than four operations
of the block, its tiles in the states it asks for, its flags free, its context not being pre-empted (R62, R80, R85, R298; log
entry 128, the model's reading). -/
def Enters (i : Instr) (g : Guard) (ok : Block → Thread → Bool) (e : Thread → MatEntry) : Prop :=
  CompletesWhen i g
    (fun s b _ t => b.mFault = none ∧ s.preempted b.ctx t = false ∧ ok b t = true ∧ s.opsOf b < 4 ∧ b.tilesReady (e t).conds = true ∧
      b.flagRoom (s.countedFlags b t none) = true)
    fun s b _ t => (issued s).enqueue b t.hdr (s.countedFlags b t none) (e t) none

/-- The three products of one block. -/
def Products (i : Instr) (g : Guard) (a b c : Reg) (k : MatKind) : Prop :=
  (i = .mma g a b c ∧ k = .mma) ∨ (i = .mmaBs g a b c ∧ k = .bs) ∨ ∃ scl, i = .mmaNp g a b c scl ∧ k = .np scl

end Sys2Proof.Claims

/-! ### Engines -/

/-- R28, R277 to R285: a copy whose descriptor reads and passes every check starts once its tiles are in the states it
asks for; a refused one starts and completes with its status. The byte count of a refused copy and the corners of its
checks follow log entries 54, 55 and 57, the model's reading. -/
def Obligations.CopiesStart : Prop :=
  (∀ i g k a red, (i = .cpy g k a ∧ red = false) ∨ (i = .cpyRed g k a ∧ red = true) →
    (∀ bs, CompletesWhen i g
      (fun s b w t => t.helper = false ∧ Quiet s b w ∧ FlagsFree s b t k ∧ Described s b t a bs ∧
        descClean bs (b.descSpec bs) = true ∧ b.refuses (b.descSpec bs) red false = .go ∧
        b.tilesReady (b.descSpec bs).waits = true)
      fun s b w t => copies s b w t k a (b.descSpec bs) none) ∧
    (∀ bs c, CompletesWhen i g
      (fun s b w t => t.helper = false ∧ Quiet s b w ∧ FlagsFree s b t k ∧ Described s b t a bs ∧
        (efmt (b.descSpec bs).df).isSome = true ∧
        (if descClean bs (b.descSpec bs) then (b.refuses (b.descSpec bs) red false).cause else some 0x12) = some c ∧
        b.tilesReady (sideWaits (held b (b.descSpec bs).src) (held b (b.descSpec bs).dst)) = true)
      fun s b w t =>
        (starts128 s b w t k a (.badCopy c (fmtBytes (b.descSpec bs).df (b.descSpec bs).total)
          (held b (b.descSpec bs).src) (held b (b.descSpec bs).dst))).modBlock b.id fun x =>
            x.beginCopy (held b (b.descSpec bs).src) (held b (b.descSpec bs).dst)) ∧
    CompletesWhen i g (fun _ _ _ t => t.helper = true) fun s b w _ => (issued s).modThread b.id w (clearsHandle k)) ∧
  (∀ g k a bs n e f, CompletesWhen (.cpyBc g k a) g
    (fun s b w t => t.helper = false ∧ Quiet s b w ∧ FlagsFree s b t k ∧ Described s b t a bs ∧
      descClean bs (b.descSpec bs) = true ∧ (b.descSpec bs).dst = .tile n e ∧ efmt (b.descSpec bs).df = some f ∧
      b.refuses (b.descSpec bs) false true = .go ∧ b.tileSide n f (b.descSpec bs).ext = .go ∧
      b.tilesReady (b.descSpec bs).waits = true)
    fun s b w t => copies s b w t k a (b.descSpec bs) (some (b.gangBids.map fun m => (m, n)))) ∧
  (∀ g k a, CompletesWhen (.cpyBc g k a) g (fun _ _ _ t => t.helper = true) fun s b w _ =>
    (issued s).modThread b.id w (clearsHandle k)) ∧
  (∀ s b w t i g a, (∃ k, i = .cpy g k a ∨ i = .cpyRed g k a ∨ i = .cpyBc g k a) → Issues s b w t i g →
    t.helper = false → (t.pair a.toNat).toNat % 128 ≠ 0 → Raises s b w t i 0x07 (some (t.pair a.toNat)) 0)

/-- R28, R284 to R287, R422: a fill or drain through the view of a tile starts, and the tile is FILLING or DRAINING; one that a
check refuses starts too, and ends with that status. -/
def Sys2Proof.Claims.FillsAndDrainsStart : Prop :=
  (∀ g k a p, CompletesWhen (.cpyT g k a) g
    (fun s b _ t => t.helper = false ∧ FlagsFree s b t k ∧ (t.src a).toNat % 256 < b.lr.ntile ∧
      (b.tile ((t.src a).toNat % 256)).bound = true ∧ s.viewSpec b ((t.src a).toNat % 256) false = .ok p ∧
      b.tilesReady [((t.src a).toNat % 256, .writable)] = true)
    fun s b w t =>
      (startsIn (issued s) s b w t k
        (.fill ((t.src a).toNat % 256) (b.tile ((t.src a).toNat % 256)).epoch false p.df p.total)
        { Progress.start with fail := (b.refuses p false false).cause }).modBlock b.id fun x =>
          x.modTile ((t.src a).toNat % 256) fun y => { y with st := .filling }) ∧
  (∀ g k a keep p, CompletesWhen (.cpyD g k a keep) g
    (fun s b _ t => t.helper = false ∧ FlagsFree s b t k ∧ (t.src a).toNat % 256 < b.lr.ntile ∧
      (b.tile ((t.src a).toNat % 256)).bound = true ∧ s.viewSpec b ((t.src a).toNat % 256) true = .ok p ∧
      b.tilesReady [((t.src a).toNat % 256, .drainable)] = true)
    fun s b w t =>
      (startsIn (issued s) s b w t k
        (.drain ((t.src a).toNat % 256) (b.tile ((t.src a).toNat % 256)).epoch keep p.df p.total)
        { Progress.start with fail := (b.refuses p false false).cause }).modBlock b.id fun x =>
          x.modTile ((t.src a).toNat % 256) fun y => { y with st := .draining }) ∧
  (∀ i g k a, (i = .cpyT g k a ∨ ∃ keep, i = .cpyD g k a keep) →
    CompletesWhen i g (fun _ _ _ t => t.helper = true) fun s b w _ => (issued s).modThread b.id w (clearsHandle k))

/-- R28, R288, R289: a chain starts once the tiles it names are in the states it asks for, its register operands read
now; a refused one starts and completes with its status. -/
def Sys2Proof.Claims.ChainsStart : Prop :=
  ∀ g o,
    let src := fun (t : Thread) => if o.srcTile then (t.src o.a).setWidth 64 else t.pair o.a.toNat
    let dst := fun (t : Thread) => if o.dstTile then (t.src o.b).setWidth 64 else t.pair o.b.toNat
    let n := fun (t : Thread) => (t.src o.c).toNat % 2 ^ 24
    let checks := fun (b : Block) (t : Thread) =>
      (b.chainTile o.srcTile (src t) o.sf (n t)).join (b.chainTile o.dstTile (dst t) o.df (n t))
    let i := fun (t : Thread) => (src t).toNat % 256
    let j := fun (t : Thread) => (dst t).toNat % 256
    let srcS := fun (b : Block) (t : Thread) => chainSide o.srcTile (src t) (b.tile (i t)).epoch
    let dstS := fun (b : Block) (t : Thread) => chainSide o.dstTile (dst t) (b.tile (j t)).epoch
    CompletesWhen (.chain g o) g
      (fun s b _ t => t.helper = false ∧ FlagsFree s b t o.compl ∧ checks b t = .go ∧
        (o.dstTile = true → b.tilesReady [(j t, .writable)] = true) ∧
        (o.srcTile = true → b.tilesReady [(i t, .readable)] = true))
      (fun s b w t =>
        (starts s b w t o.compl (.chain o (src t) (dst t) (b.tile (i t)).epoch (b.tile (j t)).epoch (n t)
          ((opLinks o).map (linkOperand b t)))).modBlock b.id fun x => x.beginCopy (srcS b t) (dstS b t)) ∧
    (∀ c, CompletesWhen (.chain g o) g
      (fun s b _ t => t.helper = false ∧ FlagsFree s b t o.compl ∧ (checks b t).cause = some c ∧
        b.tilesReady (sideWaits (held b (srcS b t)) (held b (dstS b t))) = true)
      (fun s b w t =>
        (starts s b w t o.compl (.badCopy c (fmtBytes (chainCode o.df) (n t)) (held b (srcS b t)) (held b (dstS b t)))).modBlock
          b.id fun x => x.beginCopy (held b (srcS b t)) (held b (dstS b t)))) ∧
    CompletesWhen (.chain g o) g (fun _ _ _ t => t.helper = true)
      (fun s b w _ => (issued s).modThread b.id w (clearsHandle o.compl))

/-- R284 to R289: copies through views, and chains. The corners of their checks follow log entries 50, 55 and 58, the
model's reading; that the low 24 bits of a chain's count are taken is log entry 142, the model's choice. -/
def Obligations.TileCopiesAndChainsStart : Prop :=
  FillsAndDrainsStart ∧ ChainsStart


/-- R28, R79 to R82, R291 to R293: the tile instructions. The order of the checks follows log entry 59 and
the buffer of a bound tile log entry 120, the model's reading. -/
def Obligations.TileInstructions : Prop :=
  (∀ g a x c rdy l n, CompletesWhen (.tbind g a x c false rdy) g
    (fun _ b _ t => t.helper = false ∧ Binds b t a x l n ∧ Free (b.tile ((t.src x).toNat % 256)))
    fun s b _ t => bindsIn (issued s) b ((t.src x).toNat % 256) l n none rdy) ∧
  (∀ g a x c rdy l n bs v, CompletesWhen (.tbind g a x c true rdy) g
    (fun s b w t => t.helper = false ∧ Binds b t a x l n ∧ Free (b.tile ((t.src x).toNat % 256)) ∧ Quiet s b w ∧
      Fetches s b (t.pair c.toNat) 64 bs ∧ viewOf bs = some v)
    fun s b _ t => bindsIn (fetched s b (t.pair c.toNat) 64) b ((t.src x).toNat % 256) l n (some v) rdy) ∧
  (∀ g a, CompletesWhen (.tgive g a) g
    (fun s b w t => (∀ r ∈ s.reqsOf b.id w, ∀ k p d e, r.kind = .buf k p d e → r.st ≠ .issued) ∧ t.helper = false ∧
      (t.src a).toNat % 256 < b.lr.ntile ∧ (b.tile ((t.src a).toNat % 256)).bound = true ∧
      (b.tile ((t.src a).toNat % 256)).st = .ready)
    fun s b _ t => (issued s).modBlock b.id fun k => k.modTile ((t.src a).toNat % 256) fun y => { y with ownerE := true }) ∧
  (∀ g a, CompletesWhen (.ttake g a) g
    (fun _ b _ t => t.helper = false ∧ (t.src a).toNat % 256 < b.lr.ntile ∧ (b.tile ((t.src a).toNat % 256)).bound = true ∧
      (b.tile ((t.src a).toNat % 256)).st = .ready ∧ (b.tile ((t.src a).toNat % 256)).users = 0)
    fun s b _ t => (issued s).modBlock b.id fun k => k.modTile ((t.src a).toNat % 256) fun y => { y with ownerE := false }) ∧
  (∀ g d a, CompletesWhen (.tstat g d a) g (fun _ b _ t => (t.src a).toNat % 256 < b.lr.ntile) fun s b w t =>
    let k := b.tile ((t.src a).toNat % 256)
    (issued s).modThread b.id w fun y => y.setG d.toNat
      (BitVec.ofNat 32 (stateCode k.st + (if k.ownerE then 4 else 0) + if k.view.isSome then 8 else 0))) ∧
  (∀ g a, CompletesWhen (.tfree g a) g (fun _ b _ t => t.helper = false ∧ (t.src a).toNat % 256 < b.lr.ntile)
    fun s b _ t => (issued s).modBlock b.id fun k => k.modTile ((t.src a).toNat % 256) fun y =>
      if y.bound then { y with st := .empty, ownerE := false, users := 0, epoch := y.epoch + 1 } else y) ∧
  (∀ i g a, (i = .tgive g a ∨ i = .ttake g a ∨ i = .tfree g a ∨ ∃ x c v r, i = .tbind g a x c v r) →
    CompletesWhen i g (fun _ _ _ t => t.helper = true) fun s _ _ _ => issued s) ∧
  (∀ s b w t i g a, (i = .tgive g a ∨ i = .ttake g a ∨ i = .tfree g a) → Issues s b w t i g → t.helper = false →
    b.lr.ntile ≤ (t.src a).toNat % 256 → Raises s b w t i 0x0C none 0)

/-- R294 to R298, R300 to R302: the matrix operations of one block enter the queue of its core. -/
def Sys2Proof.Claims.MatrixOperationsEnter : Prop :=
  (∀ i g a b c k, Products i g a b c k → Enters i g
    (fun x t => x.productOk k (t.src a) (t.src b) (t.src c))
    fun t => productEntry k (t.src a) (t.src b) (t.src c) true) ∧
  (∀ g a, Enters (.mzero g a) g
    (fun x t => decide ((t.src a).toNat < 256) && x.matTile (t.src a).toNat .c)
    fun t => { kind := .zero, ga := t.src a, gb := 0, gc := 0, steps := 1, conds := [((t.src a).toNat % 256, .writable)] }) ∧
  (∀ g a b, Enters (.mdrain g a b) g
    (fun x t =>
      let c := tileC (t.src a)
      let d := tileA (t.src a)
      decide ((t.src a).toNat < 2 ^ 16) && decide ((t.src b).toNat < 2 ^ 17) && x.matTile c .c && x.matTile d .a &&
        drainPair (x.fmt c) (drainFmt (t.src b)) (drainShift (t.src b)) && x.fmt d == drainFmt (t.src b) &&
        x.matBox c (64 * colTiles (t.src b)) (64 * rowTiles (t.src b)) &&
        x.matBox d (64 * colTiles (t.src b)) (64 * rowTiles (t.src b)))
    fun t => { kind := .drain, ga := t.src a, gb := t.src b, gc := 0, steps := 1,
               conds := [(tileC (t.src a), .operand), (tileA (t.src a), .writable)] }) ∧
  (∀ g a b, Enters (.csel g a b) g
    (fun x t =>
      let c := tileC (t.src a)
      let d := tileA (t.src a)
      let v := tileV (t.src a)
      decide ((t.src a).toNat < 2 ^ 24) && decide ((t.src b).toNat < 2 ^ 30) && x.matTile c .c && x.matTile d .a &&
        x.matTile v .a && x.fmt c == 0x00 && (x.fmt d == 0x06 || x.fmt d == 0x07) && x.fmt v == 0x00 &&
        x.matBox c (selCols (t.src b)) (selRows (t.src b)) && x.matBox d (selCols (t.src b)) (selK (t.src b)) &&
        x.matBox v (selCols (t.src b)) (selK (t.src b)))
    fun t => { kind := .csel, ga := t.src a, gb := t.src b, gc := 0, steps := 1,
               conds := [(tileC (t.src a), .operand), (tileA (t.src a), .writable), (tileV (t.src a), .writable)] }) ∧
  (∀ s b w t i g a x c k, Products i g a x c k → Issues s b w t i g → b.mFault = none → s.preempted b.ctx t = false →
    b.productOk k (t.src a) (t.src x) (t.src c) = false → Raises s b w t i 0x0C none 0)

/-- R299: a cooperative product starts when its last participant issues it: it enters the queue of every participant.
When a participant joins follows log entry 61, the model's reading; that SCL of a KIND that takes no scales changes nothing is log
entry 143, the model's choice. -/
def Obligations.CooperativeProductsStart : Prop :=
  ∀ g a b c scl kind p l n,
    let P := BitVec.toNat (w := 2) p + 1
    let L := BitVec.toNat (w := 5) l
    let k : MatKind := .coop kind scl P L
    let mine := fun (s : State) (t : Thread) => ({
      gb := t.src b, s0 := firstStep (t.src c), p := P, l := L, since := s.tick,
      cfg := (if scl then 1 else 0) + 2 * (if kind = .mma then 0 else if kind = .bs then 1 else 2) + 64 * (P - 1 + 4 * L)
      : CoopWait })
    let joined := fun (s : State) (x : Block) (t : Thread) =>
      (issued s).modBlock x.id fun y => { y with coop := some (mine s t) }
    CompletesWhen (.mmaCoop g a b c scl kind p l) g
      (fun s x _ t => x.mFault = none ∧ s.preempted x.ctx t = false ∧ x.coop = none ∧ x.lr.gang ≠ 0 ∧ L ≤ x.bid % x.lr.gang ∧ x.bid % x.lr.gang < L + P ∧
        L + P ≤ x.lr.gang ∧ rowTiles (t.src b) % P = 0 ∧ productFields k (t.src a) (t.src b) (t.src c) = true ∧
        x.ownTiles k (t.src a) (t.src b) (t.src c) = true ∧
        (x.bid % x.lr.gang = L → x.weightTiles k (t.src a) (t.src b) (t.src c) = true) ∧
        (∀ o ∈ s.coopOthers x P L, ∃ v, o.coop = some v ∧ v.same (mine s t) = true) ∧
        (joined s x t).block x.id = some n ∧ (joined s x t).coopFull n = true ∧
        (∀ q ∈ (joined s x t).coopParts n P L, q.blk.mFault = none) ∧
        (∀ q ∈ (joined s x t).coopParts n P L, ∃ r ∈ ((joined s x t).coopParts n P L).head?,
          q.blk.productFormats r.blk k q.ga r.ga = true) ∧
        ∀ q ∈ ((joined s x t).coopParts n P L).zipIdx, (joined s x t).partWait k q = none)
      (fun s x _ t => (joined s x t).launchCoop x.id k ((joined s x t).coopParts n P L))

/-- R303: `mseq` reads the status of the block's matrix operations; `mseq.wait` first waits until the block has none. -/
def Sys2Proof.Claims.SequencerStatus : Prop :=
  ∀ g d wait,
    CompletesWhen (.mseq g d wait) g (fun s b _ _ => wait = true → s.opsOf b = 0) (fun s b w _ =>
      (issued s).modThread b.id w fun t => t.setG d.toNat (BitVec.ofNat 32 (b.mCause.toNat * 2 ^ 24 +
        (if s.opsOf b = 0 then 0 else 2 ^ 16) + (if b.mStop then 2 ^ 15 else 0) + b.mWd % 4 * 2 ^ 13 + b.mStep % 8192))) ∧
    ∀ s b w t, Issues s b w t (.mseq g d wait) g → wait = true → s.opsOf b ≠ 0 →
      Waits s b w t (.mseq g d wait) .matrixIdle

/-- R294 to R303: the matrix instructions of one block. The states of the tiles between issue and completion follow
log entries 59 and 60, the model's reading. -/
def Obligations.MatrixInstructions : Prop :=
  MatrixOperationsEnter ∧ SequencerStatus


namespace Sys2Proof.Claims

/-! ## Classes 0xC and 0xD: overlays and the system (R305 to R323) -/

/-- A thread that issues `i` alone passes on in the state `s'`, which still holds its basic block. -/
def PassesIn (i : Instr) (s : State) (b : Block) (w : Who) (t : Thread) (s' : State) : Prop :=
  ∀ pc, Inside s' b t i pc → exec i s = .next (passes s' b w t pc)

/-- An overlay entry is valid (R305). -/
def Valid (s : State) (b : Block) (o : BitVec 8) : Prop := ((s.ctx b.ctx).overlay o).isSome = true

/-- The overlay id of gA. -/
def ovlOf (t : Thread) (a : Reg) : BitVec 8 := (t.src a).extractLsb' 0 8

/-- A predicate of the issuing thread is written. -/
def tells (s : State) (b : Block) (w : Who) (d : BitVec 3) (v : Bool) : State := s.modThread b.id w fun k => k.setQ d v

/-- A handle is complete at once with a status, SLOTS and the slot mask (R310). -/
def completes (s : State) (b : Block) (w : Who) (t : Thread) (d : BitVec 4) (a : Reg) (c : Cause) (mask : DWord) : State :=
  s.modThread b.id w fun k => k.setH d.toNat
    { pending := false, op := 0, word := c ++ BitVec.ofNat 24 ((s.ctx b.ctx).ovlSlots (ovlOf t a)), result := mask }

/-- A load under way, or one whose completion waits, is a command whose handle is pending. -/
def loading (s : State) (b : Block) (w : Who) (t : Thread) (d : BitVec 4) (a : Reg) (slots : Nat) (copy : Option Nat)
    (run : Progress) : State :=
  let fs := s.countedFlags b t none
  let s' : State :=
    { s with
      nextId := s.nextId + 1
      cmds := s.cmds ++ [{ id := s.nextId, blk := b.id, who := w, ctx := b.ctx, core := b.core,
                           kind := .ovld (ovlOf t a) copy slots, va := 0, hdl := some d.toNat, flags := fs,
                           bar := none, scope := .core, stop := false, upto := s.nextId, tid := (tidOf w).toNat % 65536,
                           hdr := t.hdr, since := s.tick, run := run }] }
  (s'.modBlock b.id fun x => x.raise fs).modThread b.id w fun x =>
    x.setH d.toNat { pending := true, op := s.nextId, word := 0, result := 0 }

/-- An `ovld` that has its answer in state `z`: its handle is complete once the writes that its core has sent have been performed
at core scope (R134, R310); until then its completion waits, as a command. -/
def Answers (z s : State) (g : Guard) (b : Block) (w : Who) (t : Thread) (d : BitVec 4) (a : Reg) (c : Cause) (mask : DWord) :
    Prop :=
  (SourceDone z b.core z.nextId .core → PassesIn (.ovld g d a) s b w t (completes z b w t d a c mask)) ∧
  (¬ SourceDone z b.core z.nextId .core → b.flagRoom (z.countedFlags b t none) = true →
    PassesIn (.ovld g d a) s b w t (loading z b w t d a ((s.ctx b.ctx).ovlSlots (ovlOf t a)) none
      { Progress.start with fail := some c, vals := [mask.toNat], gate := some z.nextId }))

/-- Whether the thread of a block that gA names exists, and which it is (R319). -/
def Names (b : Block) (v : Word) (w : Who) (t : Thread) : Prop :=
  b.thread w = some t ∧ ((w = .ctl ∧ v = 0xFFFFFFFF) ∨ ∃ n, w = .vec n ∧ v.toNat = n ∧ v ≠ 0xFFFFFFFF)

/-- What a special register reads in a thread (R187, R315). -/
def special (s : State) (b : Block) (w : Who) (t : Thread) : List (Nat × Nat) :=
  let c := s.ctx b.ctx
  [(0x00, (tidOf w).toNat), (0x03, b.bid % 2 ^ 32), (0x04, b.lr.bdim % 2 ^ 32), (0x05, (b.lr.gdim.toNat + 1) % 2 ^ 32),
   (0x06, b.core % 2 ^ 32), (0x07, b.core / 20 % 2 ^ 32), (0x08, s.pkg.toNat), (0x09, b.ctx % 2 ^ 32),
   (0x0A, if t.helper then 1 else 0), (0x0C, (t.pc.extractLsb' 24 8).toNat), (0x0D, t.anyq.toNat),
   (0x10, c.heat.toNat), (0x11, s.cycle % 2 ^ 64), (0x12, t.stklim.toNat), (0x13, c.log.toNat),
   (0x20, if t.hmode then t.hcause.toNat else 0), (0x21, if t.hmode then t.hpc.toNat else 0),
   (0x22, if c.brken then 1 else 0), (0x24, if t.hmode then t.hrec.toNat else 0),
   (0x26, if t.hmode then b.hsave.toNat else 0)]

/-- Writes a special register's value to its register or pair (R316). -/
def putSpecial (n : BitVec 8) (d : Reg) (v : Nat) (t : Thread) : Thread :=
  if n ∈ [0x10, 0x11, 0x12, 0x24, 0x26] then t.setPair d.toNat (BitVec.ofNat 64 v) else t.setG d.toNat (BitVec.ofNat 32 v)

/-- `n` pieces of 16 bytes of an area can be read now, and hold `bs`. -/
def ReadsArea (z : State) (b : Block) (va n : Nat) (bs : List Byte) : Prop :=
  z.areaShut b.ctx va (16 * n) = false ∧ z.spanRefused b.ctx va n = none ∧ z.vreadSpan b.ctx va n = .ok bs

/-- The core cycles since the first member of a rejoin record was held (R320). -/
def heldFor (now : Nat) (r : Rejoin) : Nat := if r.ent = 0 then 0 else (now - r.since) / Config.coreTicks

/-- A code address that may be absent, as a record holds it (R320). -/
def pointOf (p : Option Word) : Nat := (p.getD 0xFFFFFFFF).toNat

/-- Bits as a number, the first lowest. -/
def bits (l : List Bool) : Nat := l.foldr (fun x n => (if x then 1 else 0) + 2 * n) 0

/-- The thread leaves handler mode (R315, R318). -/
def leaves (t : Thread) : Thread :=
  { t with hmode := false, hcause := 0, hpc := 0, hpcHw := false, hrec := 0, wait := .none }

/-- `eret` of a thread that becomes `f` of itself. -/
def Returns (s : State) (b : Block) (w : Who) (t : Thread) (g : Guard) (f : Thread → Thread) : Prop :=
  exec (.eret g) s = .next (rests ((((((issued s).cancelEvict b.core b.ctx (codeOvl t.hpc)).modThread b.id w f).modBlock
    b.id Block.sweep).settle b.core)) b t (.eret g))

end Sys2Proof.Claims

/-! ### System -/

/-- R28, R134, R306 to R313: the overlay instructions. -/
def Sys2Proof.Claims.OverlayInstructions : Prop :=
  ∀ g a s b w t,
    (∀ d, Issues s b w t (.ovld g d a) g → t.helper = false → b.flagRoom (s.countedFlags b t none) = true →
      (∀ k, Valid s b (ovlOf t a) → s.copyOf b.core b.ctx (ovlOf t a) = some k → k.loading = false →
        s.residentCopy b.core b.ctx (ovlOf t a) = some k →
        Answers ((issued s).cancelEvict b.core b.ctx (ovlOf t a)) s g b w t d a 0 k.mask) ∧
      (¬ Valid s b (ovlOf t a) → Answers (issued s) s g b w t d a 0x12 0) ∧
      (∀ c s', (issued s).startLoad b.core b.ctx (ovlOf t a) b.seq b.lr.isq (some (b.id, w)) = (.failed c, s') →
        Answers s' s g b w t d a c 0) ∧
      ∀ n s', (issued s).startLoad b.core b.ctx (ovlOf t a) b.seq b.lr.isq (some (b.id, w)) = (.joined n, s') →
        b.flagRoom (s'.countedFlags b t none) = true →
        PassesIn (.ovld g d a) s b w t
          (loading s' b w t d a ((s.ctx b.ctx).ovlSlots (ovlOf t a)) (some n) .start)) ∧
    (∀ d, Issues s b w t (.ovpin g d a) g → t.helper = false → Valid s b (ovlOf t a) →
      (∀ k, s.copyOf b.core b.ctx (ovlOf t a) = some k → k.loading = true →
        Waits s b w t (.ovpin g d a) (.ovpin (ovlOf t a))) ∧
      (∀ k, s.copyOf b.core b.ctx (ovlOf t a) = some k → k.loading = false → k.pinCount < 65535 →
        PassesIn (.ovpin g d a) s b w t (tells (((issued s).modCopy b.core k.id fun x =>
          x.addToken (b.id, ovlOf t a)).cancelEvict b.core b.ctx (ovlOf t a)) b w d true)) ∧
      ((∀ k, s.copyOf b.core b.ctx (ovlOf t a) = some k → k.loading = false ∧ 65535 ≤ k.pinCount) →
        PassesIn (.ovpin g d a) s b w t (tells (issued s) b w d false))) ∧
    (Issues s b w t (.ovunpin g a) g → t.helper = false → Valid s b (ovlOf t a) →
      (∀ k, s.copyOf b.core b.ctx (ovlOf t a) = some k → 0 < k.tokens (b.id, ovlOf t a) →
        PassesIn (.ovunpin g a) s b w t (((issued s).modCopy b.core k.id fun x =>
          x.dropToken (b.id, ovlOf t a)).settle b.core)) ∧
      ((∀ k, s.copyOf b.core b.ctx (ovlOf t a) = some k → k.tokens (b.id, ovlOf t a) = 0) →
        PassesIn (.ovunpin g a) s b w t (records (issued s) b w t [(0x0F, 1)]))) ∧
    (∀ d, Issues s b w t (.ovevict g d a) g → t.helper = false → Valid s b (ovlOf t a) →
      (s.copyOf b.core b.ctx (ovlOf t a) = none → PassesIn (.ovevict g d a) s b w t (tells (issued s) b w d true)) ∧
      (∀ k, s.copyOf b.core b.ctx (ovlOf t a) = some k → k.loading = true →
        PassesIn (.ovevict g d a) s b w t (tells ((issued s).modCopy b.core k.id fun x => x.markRef b.ctx (ovlOf t a)
          fun r => { r with atEnd := true }) b w d false)) ∧
      (∀ k r, s.copyOf b.core b.ctx (ovlOf t a) = some k → k.loading = false → k.ref b.ctx (ovlOf t a) = some r →
        s.unused b.core k r = true →
        PassesIn (.ovevict g d a) s b w t (tells ((issued s).modCore b.core fun c =>
          { c with copies := dropRefs c.copies k.id fun r => r.ctx == b.ctx && r.ovl == ovlOf t a }) b w d true)) ∧
      (∀ k r, s.copyOf b.core b.ctx (ovlOf t a) = some k → k.loading = false → k.ref b.ctx (ovlOf t a) = some r →
        s.unused b.core k r = false →
        PassesIn (.ovevict g d a) s b w t (tells ((issued s).modCopy b.core k.id fun x => x.markRef b.ctx (ovlOf t a)
          fun r => { r with evicting := true }) b w d false))) ∧
    (∀ i, (i = .ovunpin g a ∨ ∃ d, i = .ovpin g d a ∨ i = .ovevict g d a) → Issues s b w t i g → t.helper = false →
      ¬ Valid s b (ovlOf t a) → Raises s b w t i 0x09 none 0)

/-- R28, R309, R311: `ovq` reads residency, sharing, the PC-inside count and the pins; in a helper lane the others do
nothing, with a false predicate or a complete handle. -/
def Sys2Proof.Claims.OverlayQueriesAndHelpers : Prop :=
  (∀ g d a, CompletesWhen (.ovq g d a) g (fun s b _ t => s.copyOf b.core b.ctx (ovlOf t a) = none) fun s b w t =>
    (issued s).modThread b.id w fun x =>
      x.setG d.toNat (BitVec.ofNat 32 (s.pcInside b.core b.ctx (ovlOf t a) % 4096 * 16))) ∧
  (∀ g d a k, CompletesWhen (.ovq g d a) g (fun s b _ t => s.copyOf b.core b.ctx (ovlOf t a) = some k) fun s b w t =>
    (issued s).modThread b.id w fun x => x.setG d.toNat (BitVec.ofNat 32 (s.ovlState b.core b.ctx (ovlOf t a) +
      (if k.refs.any (·.ctx != b.ctx) then 4 else 0) + s.copyPcs b.core k % 4096 * 16 + k.pinCount % 65536 * 65536))) ∧
  (∀ g d a, CompletesWhen (.ovld g d a) g (fun _ _ _ t => t.helper = true) fun s b w _ =>
    (issued s).modThread b.id w fun x => x.clearH d.toNat) ∧
  (∀ g d a i, i = .ovpin g d a ∨ i = .ovevict g d a → CompletesWhen i g (fun _ _ _ t => t.helper = true)
    fun s b w _ => tells (issued s) b w d false) ∧
  (∀ g a, CompletesWhen (.ovunpin g a) g (fun _ _ _ t => t.helper = true) fun s _ _ _ => issued s)

/-- R28, R306 to R313: the overlay instructions. The corners follow log entries 62 and 63, the model's reading. -/
def Obligations.OverlayInstructionsAct : Prop :=
  OverlayInstructions ∧ OverlayQueriesAndHelpers


/-- R187, R315, R316: `rdsr` and `wrsr` of every special register; `%prio` of a vector thread is the PRI of its
frontier entry, and of a control thread a free value (log entry 40, the model's choice). -/
def Obligations.SpecialRegisters : Prop :=
  (∀ g d n v, CompletesWhen (.rdsr g d n) g (fun s b w t => (n.toNat, v) ∈ special s b w t) fun s b w _ =>
    (issued s).modThread b.id w (putSpecial n d v)) ∧
  (∀ g d i, CompletesWhen (.rdsr g d 0x01) g (fun _ _ w _ => w = .vec i ∧ i < 2 ^ 32) fun s b w _ =>
    (issued s).modThread b.id w fun t => t.setG d.toNat (BitVec.ofNat 32 (i / 4))) ∧
  (∀ g d i, CompletesWhen (.rdsr g d 0x02) g (fun _ _ w _ => w = .vec i ∧ i < 2 ^ 32) fun s b w _ =>
    (issued s).modThread b.id w fun t => t.setG d.toNat (BitVec.ofNat 32 (i / 32))) ∧
  (∀ g d n, n = 0x01 ∨ n = 0x02 → CompletesWhen (.rdsr g d n) g (fun _ _ w _ => w = .ctl) fun s b w _ =>
    (issued s).modThread b.id w fun t => t.setG d.toNat 0xFFFFFFFF) ∧
  (∀ g d i, CompletesWhen (.rdsr g d 0x0B) g (fun _ _ w _ => w = .vec i) fun s b w t =>
    (issued s).modThread b.id w fun k => k.setG d.toNat (BitVec.ofNat 32 (s.prioOf b t))) ∧
  (∀ g d, CompletesWhen (.rdsr g d 0x0B) g (fun _ _ w _ => w = .ctl) fun s b w _ =>
    ({ issued s with fresh := s.fresh + 1 } : State).modThread b.id w fun k => k.setG d.toNat (Config.freeWord s.fresh)) ∧
  (∀ g a, CompletesWhen (.wrsr g a 0x0D) g (fun _ _ _ _ => True) fun s b w t =>
    (issued s).modThread b.id w fun k => { k with anyq := (t.src a).extractLsb' 0 5 }) ∧
  (∀ g a, CompletesWhen (.wrsr g a 0x12) g (fun _ _ _ _ => True) fun s b w _ =>
    (issued s).modThread b.id w fun k => { k with stklim := k.pair a.toNat }) ∧
  (∀ g a, CompletesWhen (.wrsr g a 0x13) g (fun _ _ _ _ => True) fun s b _ t =>
    (issued s).modCtx b.ctx fun c => { c with log := t.src a }) ∧
  (∀ g a, CompletesWhen (.wrsr g a 0x21) g (fun _ _ _ _ => True) fun s b w t =>
    (issued s).modThread b.id w fun k => { k with hpc := t.src a, hpcHw := false }) ∧
  (∀ g a, CompletesWhen (.wrsr g a 0x22) g (fun _ _ _ _ => True) fun s b _ t =>
    (issued s).modCtx b.ctx fun c => { c with brken := (t.src a).getLsbD 0 }) ∧
  (∀ g a, CompletesWhen (.wrsr g a 0x26) g (fun _ _ _ _ => True) fun s b _ t =>
    (issued s).modBlock b.id fun k => { k with hsave := t.pair a.toNat })

/-- R227, R314, R317, R318: `trap` parks past its word with 0x20 + n; `eret` leaves handler mode and returns to `%hpc`: to
the word named where the hardware set it, as a transfer to a header where `wrsr` set it, and to a park where the thread
was saved parked. -/
def Sys2Proof.Claims.TrapAndReturn : Prop :=
  ∀ g s b w t,
    (∀ n pc, Issues s b w t (.trap g n) g → Inside s b t (.trap g n) pc →
      exec (.trap g n) s = .next (rests (parksWith (issued s) b w t
        { who := w, cause := BitVec.ofNat 8 (0x20 + n.toNat), pc := (place pc).1, enter := (place pc).2,
          word := s.wordAt b.core b.ctx t.pc }) b t (.trap g n))) ∧
    (Issues s b w t (.eret g) g → b.launchF = false → t.repark = false → (s.ctx b.ctx).targetOk t.hpc = true →
      t.hpcHw = true → Returns s b w t g fun k =>
        { leaves k with pc := k.hpc, hdr := s.blockAt b.core b.ctx t.retHdr t.hpc, rej := k.retRej,
                        entering := s.headerWord b.core b.ctx t.hpc }) ∧
    (Issues s b w t (.eret g) g → b.launchF = false → t.repark = false → t.hpcHw = false →
      (s.ctx b.ctx).targetOk t.hpc = true →
      s.residentCopy b.core b.ctx (codeOvl t.hpc) = none ∨ s.headerWord b.core b.ctx t.hpc = true →
      exec (.eret g) s = .next (enters ((issued s).modThread b.id w leaves) b w t t.hpc)) ∧
    (∀ k, Issues s b w t (.eret g) g → b.launchF = false → t.repark = false → t.hpcHw = false → (s.ctx b.ctx).targetOk t.hpc = true →
      s.residentCopy b.core b.ctx (codeOvl t.hpc) = some k → s.headerWord b.core b.ctx t.hpc = false →
      Raises s b w t (.eret g) 0x02 (some (t.hpc.setWidth 64)) 0) ∧
    (Issues s b w t (.eret g) g → b.launchF = false → t.repark = false → (s.ctx b.ctx).targetOk t.hpc = false →
      Raises s b w t (.eret g) 0x02 (some (t.hpc.setWidth 64)) 0) ∧
    (Issues s b w t (.eret g) g → b.launchF = false → t.repark = true →
      (∀ v u, b.thread v = some u → u.restored = true → s.recordOpen b v u = true) →
      exec (.eret g) s = .next (rests ((((issued s).modThread b.id w fun k =>
        { leaves k with pc := k.hpc, hdr := s.blockAt b.core b.ctx t.retHdr t.hpc, rej := k.retRej,
                        entering := s.headerWord b.core b.ctx t.hpc, parked := true, keptPc := k.hpc, repark := false,
                        keptCause := (s.recordOf b w k).1, taken := (s.recordOf b w k).2.1 }).modBlock b.id
          Block.sweep).settle b.core) b t (.eret g)))

/-- R319, R426: `park`, `resume` and `kill` on another thread of the block, the predicate true where they act; on a thread
that does not qualify, or that does not exist, the predicate is false and nothing else changes; a `resume` waits while the park
record cannot be reached. What a park withdraws follows log entry 30, the model's reading. -/
def Obligations.ThreadControl : Prop :=
  ∀ g d a s b w t,
    (∀ x u, Issues s b w t (.park g d a) g → Names b (t.src a) x u → u.live = true → u.parked = false → x ≠ w →
      let s' := ((tells (issued s) b w d true).parkQuiet b.id
        { who := x, cause := 0, pc := u.resumePc, enter := u.atHeader,
          word := s.wordAt b.core b.ctx u.resumePc }).completeRdvs b.id
      (s'.thread b.id w).any (·.live) = true → PassesIn (.park g d a) s b w t s') ∧
    (∀ x u, Issues s b w t (.resume g d a) g → Names b (t.src a) x u → u.live = true → u.parked = true →
      (s.recordOpen b x u = false → Waits s b w t (.resume g d a) (.again false)) ∧
      let s' := (tells (issued s) b w d true).resumeThread b.id x
      s.recordOpen b x u = true →
      (s'.thread b.id w).any (·.live) = true → PassesIn (.resume g d a) s b w t s') ∧
    (∀ x u, Issues s b w t (.kill g d a) g → Names b (t.src a) x u → u.live = true →
      let s' := (tells (issued s) b w d true).endThread b.id x
      ((s'.thread b.id w).any (·.live) = true → PassesIn (.kill g d a) s b w t s') ∧
      ((s'.thread b.id w).any (·.live) = false → exec (.kill g d a) s = .next (rests s' b t (.kill g d a)))) ∧
    (∀ i, ((i = .park g d a ∧ ∀ x u, Names b (t.src a) x u → u.live = false ∨ u.parked = true ∨ x = w) ∨
        (i = .resume g d a ∧ ∀ x u, Names b (t.src a) x u → u.live = false ∨ u.parked = false) ∨
        (i = .kill g d a ∧ ∀ x u, Names b (t.src a) x u → u.live = false)) → Issues s b w t i g →
      PassesIn i s b w t (tells (issued s) b w d false))

/-- R320, R321: saving and restoring a block: `frsave` writes the frontier record, `frload` restores it, `bsave`
writes the images of the barrier objects, `brest` restores them; a misaligned address raises 0x07. -/
def Sys2Proof.Claims.SaveAndRestore : Prop :=
  ∀ g a s b w t,
    let va := t.pair a.toNat
    (∀ s', Issues s b w t (.frsave g a) g → va.toNat % 64 = 0 → Quiet s b w →
      s.areaShut b.ctx va.toNat (s.frontierBytes b).length = false →
      (issued s).vwriteAll b.ctx va.toNat (chunks16 ((s.frontierBytes b).length / 16) (s.frontierBytes b)) = .ok s' →
      PassesIn (.frsave g a) s b w t s') ∧
    (∀ head body, Issues s b w t (.frload g a) g → va.toNat % 64 = 0 → Quiet s b w →
      ReadsArea (issued s) b va.toNat 4 head → fieldAt head 0 4 = b.threads.length → fieldAt head 4 4 ≤ 256 →
      fieldAt head 8 4 ≤ 2048 →
      let z := (issued s).areaKeep b.ctx va.toNat 64
      let n := fieldAt head 0 4 + 2 * fieldAt head 4 4 + fieldAt head 8 4
      ReadsArea z b (va.toNat + 64) n body →
      let z' := z.areaKeep b.ctx (va.toNat + 64) (16 * n)
      (readFrontier z'.tick head body).clean = true → candClash (readFrontier z'.tick head body).cands = false →
      let s' := ((z'.modBlock b.id fun k => k.restore (readFrontier z'.tick head body)).completeRdvs b.id).settle b.core
      (s'.thread b.id w).any (·.live) = true → PassesIn (.frload g a) s b w t s') ∧
    (∀ s', Issues s b w t (.bsave g a) g → va.toNat % 8 = 0 → Quiet s b w →
      s.areaShut b.ctx va.toNat (8 * b.bars.length) = false →
      (issued s).vwrite8 b.ctx va.toNat (b.bars.map Bar.image) = .ok s' →
      PassesIn (.bsave g a) s b w t (s'.modBlock b.id fun k => { k with barSaved := true })) ∧
    (∀ l bars, Issues s b w t (.brest g a) g → va.toNat % 8 = 0 → Quiet s b w →
      s.areaShut b.ctx va.toNat (8 * b.bars.length) = false →
      s.vread8 b.ctx va.toNat b.bars.length = .ok l → l.mapM Bar.ofImage = some bars →
      (∀ h ∈ (s.ctx b.ctx).heldBars, ¬ (h.1 = b.seq ∧ h.2.1 = b.bid)) →
      PassesIn (.brest g a) s b w t (((issued s).areaKeep b.ctx va.toNat (8 * b.bars.length)).modBlock b.id fun k =>
        { k with bars := bars, barSaved := false })) ∧
    (∀ i, ((i = .frsave g a ∨ i = .frload g a) ∧ va.toNat % 64 ≠ 0) ∨ ((i = .bsave g a ∨ i = .brest g a) ∧
      va.toNat % 8 ≠ 0) → Issues s b w t i g → Raises s b w t i 0x07 (some va) 0)

/-- R263, R321: an image holds the whole of a barrier object, and a legal one reads back as it was. -/
def Sys2Proof.Claims.BarrierImages : Prop :=
  ∀ k : Bar, 1 ≤ k.exp → k.exp ≤ 1025 → k.arr < 4096 → -2147483648 ≤ k.tx → k.tx ≤ 2147483647 →
    Bar.ofImage k.image = some k ∧ k.image.getLsbD 63 = k.err ∧ k.image.getLsbD 62 = k.ph ∧
    (k.image.extractLsb' 48 12).toNat = k.exp ∧ (k.image.extractLsb' 32 12).toNat = k.arr ∧
    (k.image.extractLsb' 0 32).toInt = k.tx

/-- R320: the frontier record of a block: its head, a record for each thread, each rejoin record and each candidate, field by
field; `readFrontier` reads back what `frontierBytes` writes, and the HELD counts run on. -/
def Sys2Proof.Claims.FrontierRecords : Prop :=
  ∀ (s : State) (b : Block),
    let bs := s.frontierBytes b
    let rs := b.rejoins.filter fun r => !r.freed
    let ks := b.cands.filter b.keeps
    let atRejoins := 64 + 16 * b.threads.length
    let atEntries := atRejoins + 32 * rs.length
    b.threads.length < 2 ^ 32 → rs.length ≤ 256 → ks.length ≤ 2048 →
    (∀ r ∈ rs, r.win < 2 ^ 16 ∧ heldFor s.tick r < 2 ^ 32 ∧ r.out ≠ some 0xFFFFFFFF) →
    (∀ k ∈ ks, k.pri < 16 ∧ k.win < 2 ^ 16 ∧ k.wcnt < 2 ^ 16 ∧ k.rej ≠ some 0xFFFFFFFF) →
    (bs.length = atEntries + 16 * ks.length ∧ field bs 0 4 = b.threads.length ∧ field bs 4 4 = rs.length ∧
      field bs 8 4 = ks.length ∧ field bs 12 4 = pointOf (b.ctl.map fun t => if t.hmode then t.hpc else t.trapPc) ∧
      field bs 16 1 = bits [b.ctl.any fun t => t.parked || t.repark, b.ctl.any fun t => !t.live] ∧ field bs 17 47 = 0) ∧
    (∀ i t, b.threads[i]? = some t →
      let o := 64 + 16 * i
      field bs o 4 = (if t.hmode then t.hpc else t.trapPc).toNat ∧
      field bs (o + 4) 4 = pointOf (if t.hmode then t.retRej else t.rej) ∧
      field bs (o + 8) 1 = bits [t.held, t.parked || t.repark, !t.live, t.helper] ∧ field bs (o + 9) 7 = 0) ∧
    (∀ j r, rs[j]? = some r →
      let o := atRejoins + 32 * j
      field bs o 4 = r.j.toNat ∧ field bs (o + 4) 4 = pointOf r.out ∧ field bs (o + 8) 4 = r.memb.toNat ∧
      field bs (o + 12) 4 = r.ent.toNat ∧ field bs (o + 16) 4 = heldFor s.tick r ∧ field bs (o + 20) 2 = r.win ∧
      field bs (o + 22) 10 = 0) ∧
    (∀ j k, ks[j]? = some k →
      let o := atEntries + 16 * j
      field bs o 1 = k.pri ∧ field bs (o + 1) 3 = 0 ∧ field bs (o + 4) 4 = k.hdr.toNat ∧ field bs (o + 8) 4 = pointOf k.rej ∧
      field bs (o + 12) 2 = k.wcnt ∧ field bs (o + 14) 2 = k.win) ∧
    ∀ now, (∀ r ∈ rs, heldFor s.tick r * Config.coreTicks ≤ now) →
      let f := readFrontier now (bs.take 64) (bs.drop 64)
      f.clean = true ∧ f.nthr = b.threads.length ∧ f.cands = ks ∧ f.rejoins.length = rs.length ∧
      (∀ i, i < b.threads.length → f.threads[i]? = some ((bs.drop (64 + 16 * i)).take 16)) ∧
      ∀ (j : Nat) (r : Rejoin), rs[j]? = some r → ∃ x, f.rejoins[j]? = some x ∧ x.j = r.j ∧ x.out = r.out ∧ x.memb = r.memb ∧ x.ent = r.ent ∧
        x.win = r.win ∧ x.freed = false ∧ (r.ent ≠ 0 → heldFor now x = heldFor s.tick r)

/-- R263, R320, R321: the records of a saved block read back as they were. -/
def Sys2Proof.Claims.SavedRecords : Prop :=
  BarrierImages ∧ FrontierRecords

/-- R263, R320, R321: saving and restoring a block. The order with the thread's other accesses follows log entry 92,
the model's reading. -/
def Obligations.SavingAndRestoring : Prop :=
  SaveAndRestore ∧ SavedRecords


/-- R28, R322, R323: `logpush` forms one record; `tlbinv` registers the removal and waits for it. -/
def Sys2Proof.Claims.LogPushAndRemoval : Prop :=
  (∀ g a, CompletesWhen (.logpush g a) g (fun _ _ _ t => t.helper = false) fun s b w t =>
    (issued s).logRecord b.ctx ((t.src a).extractLsb' 0 8) (BitVec.ofNat 8 b.core) ((t.src a).extractLsb' 8 16).toNat
      (BitVec.ofNat 32 b.bid) (t.hdr.setWidth 64) ((tidOf w).toNat % 65536)) ∧
  (∀ g a, CompletesWhen (.logpush g a) g (fun _ _ _ t => t.helper = true) fun s _ _ _ => issued s) ∧
  (∀ g a m s b w t, Issues s b w t (.tlbinv g a m) g → Quiet s b w →
    exec (.tlbinv g a m) s = .next (rests (waits s { s with
      cur := none
      nextId := s.nextId + 2
      invs := s.invs ++ [{ id := s.nextId + 1, blk := b.id, who := w, ctx := b.ctx, mode := m.toNat,
                           va := t.pair a.toNat }] } b w t (.tlbinv (s.nextId + 1))) b t (.tlbinv g a m)))

/-- R314, R317, R318, R322, R323: `trap`, `eret`, `logpush` and `tlbinv`. What a park record that cannot be
read says to `eret` follows log entry 127, the model's choice. -/
def Obligations.SystemExtras : Prop :=
  TrapAndReturn ∧ LogPushAndRemoval


namespace Sys2Proof.Claims

/-! ## Events of execution (R32, R35, R39, R44, R47, R62, R173, R240, R388, R403) -/

/-- Thread `w` stands before the header at `a`, and no other thread of its window does (R173). -/
structure Before (s : State) (b : Block) (w : Who) (t : Thread) (a : Word) : Prop where
  block  : s.block b.id = some b
  thread : b.thread w = some t
  stands : t.live = true ∧ t.parked = false ∧ t.entering = true ∧ t.start = none ∧ t.pc = a ∧ t.wait = .none
  alone  : ∀ v u, b.thread v = some u → v ≠ w → winOf v = winOf w →
    ¬ (u.live = true ∧ u.parked = false ∧ u.entering = true ∧ u.pc = a)

/-- The code address `a` lies in a resident overlay and holds the header word `x` (R170), which was not lost (R430). -/
def HeaderAt (s : State) (b : Block) (a : Word) (k : OvlCopy) (x : DWord) : Prop :=
  s.residentCopy b.core b.ctx (codeOvl a) = some k ∧ codeOff a / 8 ∉ k.bad ∧ k.word (codeOff a) = x ∧
    x.extractLsb' 60 4 = 0xF

/-- A thread that has entered the basic block at `a` stands at its first word, waiting for the flags of WAIT (R173). -/
def stood (now : Nat) (a : Word) (f : BitVec 12) (k : Block) (u : Thread) : Thread :=
  { u with hdr := a, pc := codeAddr (codeOvl a) (codeOff a + 8), entering := false, start := none, since := now,
           wait := if k.flagsClear f then .none else .header f }

/-- A thread of a block has been put into handler mode, before the header at `a` (R388). -/
def InHandler (s : State) (blk : Nat) (w : Who) (c : Cause) (pc : Word) (hrec : DWord) (a : Word) : Prop :=
  ∃ u, s.thread blk w = some u ∧ u.hmode = true ∧ u.hcause = c ∧ u.hpc = pc ∧ u.hrec = hrec ∧ u.pc = a ∧
    u.entering = true ∧ u.parked = false

/-- The span of `n` core cycles since a tick has passed. -/
def Over (s : State) (since n : Nat) : Prop := since + n * Config.coreTicks ≤ s.tick

/-- The shaping level of a die (R361): a level chosen in an earlier window of 16 core cycles holds in this one. -/
def levelOf (s : State) (d : Die) : Nat := if d.nextAt / 80 < s.tick / 80 then d.next else d.level

/-- A lane group, or the control core as unit 4, may issue in this core cycle (R31, R361): its die is up, the boot
sequence has run, the cycle is an issue slot of the shaping level, and the unit has not issued in it. -/
def SlotFor (s : State) (core unit : Nat) : Prop :=
  core < 160 ∧ s.cur = none ∧ s.boot = .done ∧ (s.die (core / 20)).st = .up ∧
  s.tick / 5 % 16 < (vget (s.die (core / 20)).shape (levelOf s (s.die (core / 20))) 1).toNat ∧
  vget (s.core core).issued unit 0 ≤ s.tick / 5

/-- Thread `i` is a member of a record for J = `a` and has not entered J in it (R35). -/
def Owes (i : Nat) (a : Word) (r : Rejoin) : Bool := r.j == a && inLanes i r.win r.memb && !inLanes i r.win r.ent

/-- How far a block slot lies from the one that is next in round robin (R39). -/
def turn (s : State) (core : Nat) (b : Block) : Nat := (b.bslot + 16 - (s.core core).robin) % 16

/-- An access has done what it does for others: a write is visible to the package, a deferred one is at the Anvil, one to the
stack is made (R41, R142). -/
def HasLeft (r : Req) : Prop :=
  (∀ o, r.kind = .defer o → r.st ≠ .issued) ∧ (∀ p d, r.kind = .stk p d → r.st ≠ .issued) ∧
    ((∀ o, r.kind ≠ .defer o) → r.writes = true → r.performed .pkg = true)

/-- Every thread of a block has ended. -/
def AllEnded (b : Block) : Prop := ∀ w t, b.thread w = some t → t.live = false

end Sys2Proof.Claims

/-! ### Execution -/

/-- R35, R47, R171, R173, R178, R397: a thread that stands before a header enters it and waits for its WAIT flags; in
a context that is being pre-empted it takes PREEMPT instead; a header with an error, or no header, parks it. That
PREEMPT comes before a header error follows log entry 27, where the parked thread stands log entry 64, and a thread
with several records for J, or with none, log entry 100, the model's reading. -/
def Obligations.HeadersAreEntered : Prop :=
  (∀ s b t a k x, Before s b .ctl t a → HeaderAt s b a k x → (s.ctx b.ctx).pre ≠ .stopping → b.parks = [] →
    headerError (readHeader x) none (codeOff a) k.size = none → x.extractLsb' 2 3 ≠ 3 →
    exec (.blockHeaderEntry b.id none a) s = .next ((s.modBlock b.id fun c =>
      (c.modThread .ctl (stood s.tick a (x.extractLsb' 29 12) c)).release.sweep).settle b.core)) ∧
  (∀ s b i t a k x, Before s b (.vec i) t a → HeaderAt s b a k x → (s.ctx b.ctx).pre ≠ .stopping →
    headerError (readHeader x) (some b.lr.greg) (codeOff a) k.size = none → x.extractLsb' 2 3 ≠ 3 →
    exec (.blockHeaderEntry b.id (some (i / 32)) a) s = .next ((s.modBlock b.id fun c =>
      let c' := (c.rejoinStep s.tick i a).modThread (.vec i) (stood s.tick a (x.extractLsb' 29 12) c)
      (c'.addCand (i / 32) a ((c'.thread (.vec i)).bind (·.rej)) (x.extractLsb' 41 4).toNat).release.sweep).settle
        b.core)) ∧
  (∀ (b : Block) now i a t, b.thread (.vec i) = some t → t.rej ≠ some a → b.rejoinStep now i a = b) ∧
  (∀ (b : Block) now i a t r, b.thread (.vec i) = some t → t.rej = some a → t.held = false →
    b.rejoins.find? (Owes i a) = some r →
    ∃ u, (b.rejoinStep now i a).thread (.vec i) = some u ∧ u.rej = r.out ∧
      (u.held = true ↔ ∃ x ∈ b.rejoins, Owes i a x = true ∧ x.freed = false) ∧
      ∀ x ∈ b.rejoins, Owes i a x = true → ∃ x' ∈ (b.rejoinStep now i a).rejoins, x'.j = a ∧ x'.win = x.win ∧
        x'.memb = x.memb ∧ x'.out = x.out ∧ x'.ent = x.ent ||| (1#32 <<< (i % 32))) ∧
  (∀ (b : Block) now i a t, b.thread (.vec i) = some t → t.rej = some a → t.held = false →
    b.rejoins.find? (Owes i a) = none →
    b.rejoinStep now i a = b.modThread (.vec i) fun u => { u with rej := none }) ∧
  (∀ s b w t a, Before s b w t a → (s.ctx b.ctx).pre = .stopping → t.hmode = false →
    exec (.blockHeaderEntry b.id (winOf w) a) s = .next (s.takePreempt b.id w)) ∧
  (∀ s b t a k x c, Before s b .ctl t a → HeaderAt s b a k x → (s.ctx b.ctx).pre ≠ .stopping → b.parks = [] →
    headerError (readHeader x) none (codeOff a) k.size = some c →
    exec (.blockHeaderEntry b.id none a) s = .next ((s.modThread b.id .ctl fun u => { u with hdr := a }).parkGroup b.id
      [{ who := .ctl, cause := c, pc := a, enter := true, word := x }])) ∧
  (∀ s b w t a k, Before s b w t a → s.residentCopy b.core b.ctx (codeOvl a) = some k →
    codeOff a / 8 ∉ k.bad → (k.word (codeOff a)).extractLsb' 60 4 ≠ 0xF → (s.ctx b.ctx).pre ≠ .stopping →
    (w = .ctl → b.parks = []) →
    exec (.blockHeaderEntry b.id (winOf w) a) s = .next (s.parkGroup b.id
      [{ who := w, cause := 0x02, pc := a, enter := true, word := k.word (codeOff a), addr := some (a.setWidth 64) }]))

/-- R31, R32, R39: in an issue slot a lane group takes its highest candidate and issues a bundle of it; the control
core takes the next block in round robin; a bundle is every eligible thread of its window at one PC, the lowest in the
candidate's basic block. -/
def Sys2Proof.Claims.IssueSlotsSelect : Prop :=
  (∀ s core lg, lg < 4 → SlotFor s core lg → s.groupsOn core lg = [] → exec (.issueSlot core lg) s = .next s) ∧
  (∀ s core lg g b, lg < 4 → SlotFor s core lg → g ∈ s.groupsOn core lg →
    (∀ x ∈ s.groupsOn core lg, x ≠ g → g.above x = true ∧ x.above g = false) → s.block g.blk = some b →
    ∃ t, exec (.issueSlot core lg) s = .next t ∧ t.cur = some (.bundle b.id (s.bundleOf b g)) ∧
      vget (t.core core).issued lg 0 = s.tick / 5 + 1 ∧ t.mem = s.mem) ∧
  (∀ s b g i, i ∈ State.bundleOf s b g → ∃ t, b.thread (.vec i) = some t ∧ s.eligible b (.vec i) t = true ∧
    i / 32 = g.win ∧ ∀ j u, b.thread (.vec j) = some u → s.eligible b (.vec j) u = true → j / 32 = g.win →
      (j ∈ s.bundleOf b g ↔ u.pc = t.pc) ∧ (u.hdr = g.hdr → t.pc.toNat ≤ u.pc.toNat)) ∧
  (∀ s core, SlotFor s core 4 → s.eligibleCtl core = [] → exec (.controlCoreIssue core) s = .next s) ∧
  (∀ s core b, SlotFor s core 4 → b ∈ s.eligibleCtl core →
    (∀ x ∈ s.eligibleCtl core, x ≠ b → turn s core b < turn s core x) →
    ∃ t, exec (.controlCoreIssue core) s = .next t ∧ t.cur = some (.control b.id) ∧
      (t.core core).robin = (b.bslot + 1) % 16 ∧ vget (t.core core).issued 4 0 = s.tick / 5 + 1 ∧ t.mem = s.mem)

/-- R35, R240, R388, R403: the bounds on holds, rendezvous and waits, and the entry of the handler. -/
def Sys2Proof.Claims.WaitsAreBounded : Prop :=
  (∀ s b r, State.block s b.id = some b → r ∈ b.rejoins → r.freed = false → r.ent ≠ 0 → Over s r.since 4096 →
    exec (.rejoinHoldTimeout b.id r.win r.j r.out) s =
      .next (s.modBlock b.id fun k => k.releaseOver r.win r.j r.out)) ∧
  (∀ (b : Block) r i t, r ∈ b.rejoins → r.freed = false → inLanes i r.win r.ent = true →
    (∀ x ∈ b.rejoins, x.freed = false → inLanes i x.win x.ent = true → x.memb &&& ~~~x.ent ≠ 0 →
      x.win = r.win ∧ x.j = r.j ∧ x.out = r.out) →
    (b.releaseOver r.win r.j r.out).thread (.vec i) = some t → t.held = false) ∧
  (∀ s b r a n, State.block s b.id = some b → r.win = some n →
    b.rdvs.find? (fun x => x.win == some n && x.pc == r.pc) = some r → r.arrs = [a] → a.since ≤ s.tick →
    Over s a.since 65536 →
    let s' := s.sampleWait b.core 0x004 a.since
    exec (.rendezvousTimeout b.id n r.pc) s = .next (s'.parkGroup b.id
      [{ who := a.who, cause := 0x10, pc := r.pc, word := s'.wordAt b.core b.ctx r.pc,
         detail := (b.awaitedLanes r).toNat }])) ∧
  (∀ s b w t, State.block s b.id = some b → b.thread w = some t → t.live = true → t.parked = false →
    t.wait.watched = true → s.ready b w t = false → (s.ctx b.ctx).wdog ≠ 0 →
    Over s t.since (2 ^ (16 + (s.ctx b.ctx).wdog)) →
    exec (.watchdogTimeout b.id w) s = .next (s.parkGroup b.id
      [{ who := w, cause := 0x1E, pc := t.resumePc, enter := t.atHeader,
         word := s.wordAt b.core b.ctx t.resumePc }])) ∧
  (∀ s b e l t k a x, State.block s b.id = some b → b.ctl = some t → b.parks = e :: l → t.live = true →
    t.parked = false → t.hmode = false → t.start = none → t.entering = true ∨ t.wait.traps = true → t.badStart = none →
    (∀ p ∈ s.posted, p.ctx = b.ctx → e.order ≤ p.id) →
    k.entry b.lr.hovl 0 = some a → HeaderAt s b a k x → k.bad = [] → codeOvl a = b.lr.hovl →
    ∃ s', exec (.handlerEntry b.id) s = .next s' ∧ InHandler s' b.id .ctl e.cause t.trapPc e.hrec a ∧
      ∃ b', s'.block b.id = some b' ∧ b'.parks = l) ∧
  (∀ s b w t k a x, State.block s b.id = some b → b.thread w = some t → t.badStart = none →
    k.entry b.lr.hovl 0 = some a → HeaderAt s b a k x → k.bad = [] → codeOvl a = b.lr.hovl →
    InHandler (s.takePreempt b.id w) b.id w 0x1F (if t.parked then s.recordPc b w t else t.trapPc) 0 a)

/-- R31, R32, R35, R39, R240, R388, R403: issue slots, the bounds on waits, and the entry of the handler. Which waits
the watchdog counts follows log entry 80, the model's reading. -/
def Obligations.SlotsAndBounds : Prop :=
  IssueSlotsSelect ∧ WaitsAreBounded


/-- R44, R59, R350, R399, R400: what the runtime does with parked threads and with blocks, while the application cores run. A
thread whose start failed starts again (log entry 102, the model's reading). -/
def Sys2Proof.Claims.RuntimeActs : Prop :=
  (∀ s b w t, s.boot = .done → State.block s b.id = some b → b.thread w = some t → t.live = true → t.parked = true → t.start = none →
    s.recordOpen b w t = true → s.recordPc b w t = t.keptPc → t.keptPc ≠ codeAddr b.lr.ovl 0 →
    exec (.runtimeResume b.id w) s = .next (s.modThread b.id w fun u =>
      { u with parked := false, parkHand := false, since := s.tick })) ∧
  (∀ s b w t, s.boot = .done → State.block s b.id = some b → b.thread w = some t → t.live = true → t.parked = true → t.start = none →
    s.recordOpen b w t = true → s.recordPc b w t = t.keptPc → t.keptPc = codeAddr b.lr.ovl 0 →
    exec (.runtimeResume b.id w) s = .next ((s.modThread b.id w fun u =>
      { u with parked := false, parkHand := false, since := s.tick }).startAt b.id b.lr.ovl
        (if w = .ctl then b.lr.cent else b.lr.vent).toNat [w])) ∧
  (∀ s b w t pc, s.boot = .done → State.block s b.id = some b → b.thread w = some t → t.live = true → t.parked = true →
    s.recordOpen b w t = true → s.recordPc b w t = pc → pc ≠ t.keptPc → (s.ctx b.ctx).targetOk pc = true → s.headerWord b.core b.ctx pc = true →
    exec (.runtimeResume b.id w) s = .next ((s.modThread b.id w fun u =>
      { u with parked := false, parkHand := false, since := s.tick, pc := pc, entering := true, start := none,
               wait := .none }).modBlock b.id Block.sweep |>.settle b.core)) ∧
  (∀ s b i t u, s.boot = .done → State.block s b.id = some b → b.thread (.vec i) = some t → t.live = true → t.parked = true →
    b.ctl = some u → u.live = true → b.rdvs = [] →
    exec (.runtimeKill b.id (.vec i)) s = .next (s.endThread b.id (.vec i))) ∧
  (∀ s b t, s.boot = .done → State.block s b.id = some b → b.ctl = some t → t.live = true → t.parked = true → b.rdvs = [] →
    b.parks = [] → (∀ i u, b.thread (.vec i) = some u → u.live = false) →
    exec (.runtimeKill b.id .ctl) s = .next ((s.endThread b.id .ctl).noteKill b.seq t.keptCause)) ∧
  (∀ s b c, s.boot = .done → State.block s b.id = some b → ∃ s' b', exec (.blockKill b.id c) s = .next s' ∧
    s'.block b.id = some b' ∧ AllEnded b' ∧ b'.killed = some (b.killed.getD c) ∧ b'.parks = [] ∧ s'.mem = s.mem ∧
    ∀ l ∈ s.launches, l.seq = b.seq → l.status = 0 → { l with status := c } ∈ s'.launches)

/-- R41, R62, R63, R65: pre-emption from its start to the resume of the context, the retirement of blocks, and the
stall of accumulator space. -/
def Sys2Proof.Claims.BlocksEnd : Prop :=
  (∀ s c, c < 64 → s.boot = .done → (State.ctx s c).pre = .running → (∀ b ∈ s.blocks, b.ctx ≠ c) →
    exec (.preemptContext c) s =
      .next (((s.modCtx c fun x => { x with pre := .stopping }).returnBatches c).preemptAll c)) ∧
  (∀ s c, (State.ctx s c).pre = .stopping → (∀ b ∈ s.blocks, b.ctx ≠ c) → (∀ m ∈ s.cmds, m.ctx ≠ c) →
    s.loadsInFlight c = false → (∀ r ∈ s.reqs, r.ctx = c → HasLeft r) →
    exec (.preemptionComplete c) s = .next (s.modCtx c fun x => { x with pre := .stopped })) ∧
  (∀ s c, s.boot = .done → (State.ctx s c).pre = .stopped → (∀ l ∈ s.launches, l.lr.heatF = false) →
    exec (.contextResume c) s = .next (s.modCtx c fun x => { x with pre := .running })) ∧
  (∀ s b, State.block s b.id = some b → AllEnded b → (∀ m ∈ s.cmds, m.blk ≠ b.id) →
    (∀ m ∈ (s.core b.core).seq, m.blk ≠ b.id) → (∀ r ∈ s.reqs, r.blk = b.id → HasLeft r) → b.falls = [] →
    b.saving = false → b.lr.collF = false → NoRequests s →
    ∃ s', exec (.blockRetire b.id) s = .next s' ∧ (∀ k ∈ s'.blocks, k.id ≠ b.id) ∧ s'.mem = s.mem ∧
      ∀ l ∈ s.launches, l.seq = b.seq → { l with ended := l.ended + 1 } ∈ s'.launches) ∧
  (∀ s b, State.block s b.id = some b → AllEnded b → (∀ m ∈ s.cmds, m.blk ≠ b.id) →
    (∀ m ∈ (s.core b.core).seq, m.blk ≠ b.id) → (∀ r ∈ s.reqs, r.blk = b.id → HasLeft r) → b.falls = [] →
    b.saving = true → b.killed = none → (s.ctx b.ctx).pre = .stopping → b.ctx < 64 → b.stack = [] → NoRequests s →
    ∃ s', exec (.blockRetire b.id) s = .next s' ∧ (∀ k ∈ s'.blocks, k.id ≠ b.id) ∧ s'.launches = s.launches ∧
      ({ seq := b.seq, bid := b.bid, hsave := b.hsave, records := b.records, aliasIn := b.aliasIn } : Saved) ∈ (s'.ctx b.ctx).saved) ∧
  (∀ s core l blk a, State.areqsOn s core = l ++ [(blk, a)] →
    (∀ e ∈ s.areqsOn core, freeRuns 256 (s.cHeld core) e.2.units = []) →
    (∀ b ∈ s.blocks, b.core = core → b.regions ≠ [] → b.areqs ≠ []) →
    exec (.aallocStallFail core) s = .next ((s.modBlock blk fun b =>
      Block.modThread { b with areqs := b.areqs.filter fun x => x.order != a.order } a.who fun t =>
        (t.setG a.d.toNat 0x11000000).setQ a.c false).passAll blk [a.who] 1))

/-- R41, R44, R59, R62, R63, R65, R350, R399, R400: what the runtime does with threads and blocks, pre-emption, and the end
of blocks. What the kills do to a launch, and what retirement and pre-emption await, follow log entries 77 to 79, and the
start again of a thread whose start failed log entry 102, the model's reading. -/
def Obligations.BlocksAreEnded : Prop :=
  RuntimeActs ∧ BlocksEnd


namespace Sys2Proof.Claims

/-! ## Launches, from the record to the completion word (R49 to R61, R355) -/

/-- A batch comes before another (R54): its context has the smaller virtual time; or it is of the same context, with
the higher PRIO, or the same PRIO and the lower SEQ. -/
def Sooner (s : State) (x y : Batch) : Prop :=
  (x.l.ctx ≠ y.l.ctx ∧ (s.ctx x.l.ctx).vt < (s.ctx y.l.ctx).vt) ∨
  (x.l.ctx = y.l.ctx ∧ (y.l.lr.prio < x.l.lr.prio ∨ (x.l.lr.prio = y.l.lr.prio ∧ x.l.seq < y.l.seq)))

/-- The launch of a record with the next SEQ, whose record stands in slot `slot` of its queue (R52). -/
def accepted (s : State) (c q : Nat) (k : Queue) (lr : LaunchRec) : Launch :=
  { seq := s.seq.toNat, ctx := c, q := q, idx := k.acc, addr := k.base + 256 * (k.acc % 2 ^ k.n), lr := lr,
    npred := lr.npred, handed := 0, back := [], ended := 0, status := 0, skip := none, judged := false, gone := false }

/-- The fields of a launch record are those of its bytes (R48). -/
structure Laid (bs : List Byte) (r : LaunchRec) : Prop where
  code    : r.ovl.toNat = field bs 0x00 1 ∧ r.vent.toNat = field bs 0x01 1 ∧ r.cent.toNat = field bs 0x02 1 ∧
    r.hovl.toNat = field bs 0x03 1
  blocks  : r.gdim.toNat = field bs 0x04 4 ∧ r.bdim = field bs 0x08 2 ∧ r.gang = field bs 0x0A 1 ∧ r.greg = field bs 0x0B 1
  shares  : r.wq = field bs 0x0C 2 ∧ r.aq = field bs 0x0E 2 ∧ r.cq = field bs 0x10 2 ∧ r.nbar = field bs 0x12 1 ∧
    r.isq = field bs 0x13 1 ∧ r.ntile = field bs 0x14 2
  stack   : r.stk = field bs 0x16 2 ∧ r.stkbase.toNat = field bs 0x18 8
  prio    : r.prio = field bs 0x20 1 % 4
  flags   : r.heatF = (field bs 0x21 1).testBit 0 ∧ r.cond = (field bs 0x21 1).testBit 1 ∧
    r.csense = (field bs 0x21 1).testBit 2 ∧ r.irq = (field bs 0x21 1).testBit 3 ∧
    r.collF = (field bs 0x21 1).testBit 4 ∧ r.ser = (field bs 0x21 1).testBit 5
  links   : r.chdl.toNat = field bs 0x22 2 ∧ r.npred = field bs 0x24 2 ∧ r.predaddr.toNat = field bs 0x28 8 ∧
    r.succ.toNat = field bs 0x30 8 ∧ r.nsucc = field bs 0x38 2 ∧ r.done.toNat = field bs 0x40 8
  scalars : r.sext.toNat = field bs 0x48 8 ∧
    r.sinit.map BitVec.toNat = (List.range 32).map fun i => field bs (0x80 + 4 * i) 4
  resv    : r.resv = true ↔ field bs 0x20 1 / 4 ≠ 0 ∨ field bs 0x21 1 / 64 ≠ 0 ∨ field bs 0x26 2 ≠ 0 ∨
    field bs 0x3A 6 ≠ 0 ∨ field bs 0x58 40 ≠ 0

/-- What makes the dispatcher refuse a record in a context with `hslots` instruction slots (R51). A record whose fields
lie in their ranges fits an empty core as soon as its instruction slots do, since a core has room for the largest block
(R56). -/
def Refusable (hslots : Nat) (r : LaunchRec) : Prop :=
  r.resv = true ∨
  r.bdim = 0 ∨ 1024 < r.bdim ∨ 20 < r.gang ∨ r.greg < 8 ∨ 112 < r.greg ∨ r.greg % 8 ≠ 0 ∨ 512 < r.wq ∨ 256 < r.aq ∨
  256 < r.cq ∨ 16 < r.nbar ∨ r.isq = 0 ∨ 64 < r.isq ∨ 256 < r.ntile ∨ 64 < r.nsucc ∨
  r.stkbase.toNat % 256 ≠ 0 ∨ r.done.toNat % 4 ≠ 0 ∨ (r.cond = true ∧ r.predaddr.toNat % 4 ≠ 0) ∨
  (r.gang ≠ 0 ∧ (r.gdim.toNat + 1) % r.gang ≠ 0) ∨
  hslots < r.isq

end Sys2Proof.Claims

/-! ### Launches -/

/-- R52, R355: a doorbell write of the host stores the tail in the queue's doorbell word and nowhere else; a tail
that reaches the dispatcher makes the records up to it the queue's, or is reported when it lies more than 2ⁿ ahead.
A doorbell word whose line cannot be reached for now takes the write later (R426, R443). -/
def Sys2Proof.Claims.DoorbellsRing : Prop :=
  (∀ s c q tail d, q < 16 → s.boot = .done → s.hostLink = true → State.doorbellAt s c = some d → Memory.wf s.mem = true →
    s.dead (d + 4 * q) 4 = false → s.shut (d + 4 * q) 4 = false →
    ∃ t, exec (.doorbellWrite c q tail) s = .next t ∧ memRead t.mem (d + 4 * q) 4 = leBytes 4 tail.toNat ∧
      ∀ a, a < d + 4 * q ∨ d + 4 * q + 4 ≤ a → memGet t.mem a = memGet s.mem a) ∧
  (∀ s c q tail d, q < 16 → s.boot = .done → s.hostLink = true → State.doorbellAt s c = some d →
    s.dead (d + 4 * q) 4 = false → s.shut (d + 4 * q) 4 = true →
    ∃ t p, exec (.doorbellWrite c q tail) s = .next t ∧ t.mem = s.mem ∧ t.posted = s.posted ++ [p] ∧
      p.pa = d + 4 * q ∧ p.bytes = leBytes 4 tail.toNat) ∧
  (∀ s c q tail k, c < 64 → (State.ctx s c).queue q = some k →
    (tail - BitVec.ofNat 32 (s.headOf c q k)).toNat ≤ 2 ^ k.n →
    ((s.ringTail c q tail).ctx c).queue q =
      some { k with tail := s.headOf c q k + (tail - BitVec.ofNat 32 (s.headOf c q k)).toNat }) ∧
  (∀ s c q tail k, (State.ctx s c).queue q = some k →
    2 ^ k.n < (tail - BitVec.ofNat 32 (s.headOf c q k)).toNat →
    s.ringTail c q tail = s.ctxEvent c 0x01 q tail.toNat)

/-- R51, R52, R60: the dispatcher accepts the next record of a queue with the next SEQ, which it stores in the
record; a record it refuses completes with status 0x01 and a context event. -/
def Sys2Proof.Claims.RecordsAreAccepted : Prop :=
  (∀ s c q k, c < 64 → (State.ctx s c).queue q = some k → s.boot = .done → k.acc < k.tail →
    (s.ctx c).pre ≠ .resetting → s.refuses c (readLaunch (k.recordAt (k.acc % 2 ^ k.n))) = false →
    (readLaunch (k.recordAt (k.acc % 2 ^ k.n))).npred ≠ 0 → (∀ l ∈ s.launches, l.seq ≠ s.seq.toNat) →
    ∃ t, exec (.launchAccept c q) s = .next t ∧ t.seq = s.seq + 1 ∧
      t.launches = s.launches ++ [accepted s c q k (readLaunch (k.recordAt (k.acc % 2 ^ k.n)))] ∧
      ∃ k', (t.ctx c).queue q = some k' ∧ k'.acc = k.acc + 1 ∧ k'.tail = k.tail ∧
        k'.recordAt (k.acc % 2 ^ k.n) = (k.recordAt (k.acc % 2 ^ k.n)).take 0x50 ++ leBytes 8 s.seq.toNat ++
          (k.recordAt (k.acc % 2 ^ k.n)).drop 0x58) ∧
  (∀ s c q k, (State.ctx s c).queue q = some k → s.boot = .done → k.acc < k.tail → (s.ctx c).pre ≠ .resetting →
    s.refuses c (readLaunch (k.recordAt (k.acc % 2 ^ k.n))) = true → (∀ l ∈ s.launches, l.seq ≠ s.seq.toNat) →
    ∃ t, exec (.launchAccept c q) s = .next t ∧ t.seq = s.seq + 1 ∧
      t.launches = s.launches ++ [{ accepted s c q k (readLaunch (k.recordAt (k.acc % 2 ^ k.n))) with
        skip := some 0x01, gone := true }] ∧
      t.events = s.events ++ [⟨c, 0x01, k.base + 256 * (k.acc % 2 ^ k.n), 0⟩]) ∧
  (∀ bs : List Byte, bs.length = 256 → Laid bs (readLaunch bs)) ∧
  (∀ s c lr, State.refuses s c lr = true ↔ Refusable (s.ctx c).hslots lr)

/-- R48, R51, R52, R60, R355: doorbells, the layout of a launch record, which records are refused, and the acceptance of
the others. What counts as a doorbell, the event of a refused record, and that an unaligned address field refuses it, follow
log entries 48, 75 and 76, the model's reading. -/
def Obligations.LaunchesAreAccepted : Prop :=
  DoorbellsRing ∧ RecordsAreAccepted


/-- R54, R55, R57, R77: the batch that goes out, the figures a die advertises, and the placement of its next block. -/
def Sys2Proof.Claims.BatchesAndBlocks : Prop :=
  (∀ s b, s.boot = .done → s.lastBatch + 16 ≤ s.tick → b ∈ s.noteReady.batches →
    (∀ x ∈ s.noteReady.batches, (s.ctx x.l.ctx).inAct = true) →
    (∀ x ∈ s.noteReady.batches, x ≠ b → Sooner s b x) →
    ∃ t, exec .batchForm s = .next t ∧ t.lastBatch = s.tick ∧
      (t.die b.die).queue = (s.die b.die).queue ++ [(b.l.seq, b.bids)] ∧
      (t.ctx b.l.ctx).vt = (s.ctx b.l.ctx).vt +
        ((b.bids.length * 65536 : Nat) : Rat) / ((s.ctx b.l.ctx).qos.toNat : Rat)) ∧
  (∀ s d, (State.die s d).st = .up → s.tick % 256 = 0 →
    exec (.resourceAdvertise d) s = .next (s.modDie d fun x =>
      { x with adv := (List.range 20).map fun i => s.coreRes (d * 20 + i), sent := [] })) ∧
  (∀ s d seq bid bids es l core, (State.die s d).st = .up → (s.die d).queue = (seq, bid :: bids) :: es →
    s.launch seq = some l → l.lr.gang = 0 → (l.lr.heatF = true → (s.ctx l.ctx).closed = false) →
    (l.lr.sext ≠ 0 → s.spanShut l.ctx l.lr.sext.toNat 128 = false) → s.bestCore d l = some core →
    exec (.blockPlace d) s = .next ((s.placeBlock core l bid).modDie d fun x =>
      { x with queue := if bids = [] then es else (seq, bids) :: es })) ∧
  (∀ s core l bid, ∃ b ∈ (State.placeBlock s core l bid).blocks, b.ctx = l.ctx ∧ b.seq = l.seq ∧ b.bid = bid ∧
    b.core = core ∧ b.lr = l.lr ∧ b.flags = Vector.replicate 12 0 ∧
    b.bars = List.replicate l.lr.nbar { err := false, ph := false, exp := l.lr.bdim, arr := 0, tx := 0 } ∧
    b.tiles = List.replicate l.lr.ntile Tile.unbound)

/-- R59, R61: a launch completes with its completion word at DONE, then its interrupt; a successor loses a
predecessor: in its launch once it is accepted, before that in its record; one that has none left is reported with 0x03,
and so is an address that names no record. The last, and the count that falls in the record, are the model's reading (log
entry 75). -/
def Sys2Proof.Claims.LaunchesComplete : Prop :=
  (∀ s l t, State.launch s l.seq = some l → l.skip.isSome = true ∨ (l.ended = l.lr.gdim.toNat + 1 ∧ s.boot = .done) →
    l.lr.done ≠ 0 → l.lr.nsucc = 0 → l.lr.irq = true → (s.xlat l.ctx l.lr.done true).waits s 4 = false →
    s.vwrite l.ctx l.lr.done
      (leBytes 4 ((l.skip.getD l.status).toNat * 2 ^ 24 + l.ended % 2 ^ 24)) = .ok t →
    (∀ k ∈ s.launches, k.lr.heatF = false) →
    exec (.launchComplete l.seq) s = .next { t.raiseVector l.ctx l.q with
      launches := t.launches.filter fun k => k.seq ≠ l.seq }) ∧
  (∀ s l, State.launch s l.seq = some l → l.skip.isSome = true ∨ (l.ended = l.lr.gdim.toNat + 1 ∧ s.boot = .done) →
    l.lr.done = 0 → l.lr.nsucc = 0 → l.lr.irq = false → (∀ k ∈ s.launches, k.lr.heatF = false) →
    exec (.launchComplete l.seq) s = .next { s with launches := s.launches.filter fun k => k.seq ≠ l.seq }) ∧
  (∀ s a own c q slot k idx l, State.ringAt s a = some (c, q, slot) → (s.ctx c).queue q = some k →
    k.accepted slot = some idx → l ∈ s.launches → l.ctx = c → l.q = q → l.idx = idx → 1 < l.npred →
    (∀ x ∈ s.launches, x.seq = l.seq → x = l) → (∀ x ∈ s.launches, x.ctx = c → x.q = q → x.idx = idx → x = l) →
    s.decrement a own = s.modLaunch l.seq fun x => { x with npred := x.npred - 1 }) ∧
  (∀ s a own c q slot k idx, State.ringAt s a = some (c, q, slot) → (s.ctx c).queue q = some k →
    k.accepted slot = some idx → (∀ x ∈ s.launches, x.ctx = c → x.q = q → x.idx = idx → x.npred = 0) →
    s.decrement a own = s.ctxEvent c 0x03 a 0) ∧
  (∀ s a own c q slot k, c < 64 → State.ringAt s a = some (c, q, slot) → (s.ctx c).queue q = some k →
    k.accepted slot = none →
    (field (k.recordAt slot) 0x24 2 = 0 → s.decrement a own = s.ctxEvent c 0x03 a 0) ∧
    (field (k.recordAt slot) 0x24 2 ≠ 0 → (s.decrement a own).launches = s.launches ∧
      ∃ k', ((s.decrement a own).ctx c).queue q = some k' ∧ k'.acc = k.acc ∧ k'.tail = k.tail ∧
        k'.recordAt slot = (k.recordAt slot).take 0x24 ++ leBytes 2 (field (k.recordAt slot) 0x24 2 - 1) ++
          (k.recordAt slot).drop 0x26)) ∧
  (∀ s a own, State.ringAt s a = none → s.decrement a own = s.ctxEvent own 0x03 a 0)

/-- R54, R55, R57, R59, R61, R77: batches, the placement of blocks, and the completion of launches. The fit count and
the places follow log entries 71 and 74, the model's choices; that an address which names no record is reported with 0x03,
and that the count of a successor not yet accepted falls in its record, follow log entry 75, the model's reading. -/
def Obligations.LaunchesRunAndComplete : Prop :=
  BatchesAndBlocks ∧ LaunchesComplete


namespace Sys2Proof.Claims

/-! ## Events of the memory system (R70, R71, R90, R121 to R136, R248, R258, R418, R426, R428) -/

/-- An access has reached its home slice: every order that binds it lets it, its line is not frozen and its home die
is up. -/
structure AtHome (s : State) (r : Req) : Prop where
  found  : s.req r.id = some r
  fresh  : r.st = .issued ∧ r.value = none ∧ r.bad = none
  order  : s.mayPlace r = true
  thawed : ∀ f ∈ s.frozenLines, f.line ≠ r.pa / 128
  home   : (s.die (homeDie r.pa)).st = .up

/-- No die's near tier holds a copy of the line of an access. -/
def NoCopies (s : State) (r : Req) : Prop := ∀ k ∈ s.near, k.line ≠ r.pa / 128

/-- An earlier store of the same thread to a byte of the access, which the thread alone sees (R122). -/
def OwnStore (s : State) (r e : Req) : Prop :=
  e ∈ s.reqs ∧ e.blk = r.blk ∧ e.who = r.who ∧ e.id < r.id ∧ e.hidden = true ∧ e.overlaps r = true

/-- The dies other than its home that hold copies of the line of an access (R125). -/
def farCopies (s : State) (r : Req) : List Nat :=
  (s.near.filter fun k => k.line == r.pa / 128 && k.die != homeDie r.pa).map (·.die)

/-- A write of the line of an access: `.ack`, it is made once no other die holds a copy of the line, and until then the
copies are invalidated (R125); `.fwd`, it is made at once, the copy of its own die is dropped, and the others are
invalidated afterwards (R126). -/
def takesPlace (s : State) (r : Req) (ack : Bool) (bs : List Byte) : State :=
  if ack then
    if farCopies s r = [] then (s.homeWrite r.pa bs).modReq r.id fun x => { x with st := .done }
    else s.modReq r.id fun x => { x with st := .home (farCopies s r) s.tick }
  else
    let s' := { s with near := s.near.filter fun k => !(k.die == r.core / 20 && k.line == r.pa / 128) }
    (s'.homeWrite r.pa bs).modReq r.id fun x =>
      { x with st := if farCopies s' r = [] then .done else .home (farCopies s' r) s.tick }

end Sys2Proof.Claims

/-! ### The memory system -/

/-- R15, R72, R122, R123: a load binds its value as it reaches its home slice: the bytes of the L1 of its core, or of the
near tier of its die, or of its home's near tier or far memory, or of the thread's own store on its way. -/
def Sys2Proof.Claims.LoadsBindAtHome : Prop :=
  (∀ s r d n sx acq nc, AtHome s r → r.kind = .load d n sx acq nc → s.lineLocked r.pa = false → NoCopies s r →
    s.l1Line r.core (r.pa / 128) = none → pteNear r.pte = false → (∀ e, ¬ OwnStore s r e) →
    exec (.homeSliceAccess r.id false) s = .next (s.modReq r.id fun x =>
      { x with value := some (s.physRead r.pa n), bad := if s.physBad r.pa n then some 0x13 else none })) ∧
  (∀ s r d n sx acq nc k, AtHome s r → r.kind = .load d n sx acq nc → s.lineLocked r.pa = false →
    s.l1Line r.core (r.pa / 128) = some k → pteNear r.pte = false → (∀ e, ¬ OwnStore s r e) →
    exec (.homeSliceAccess r.id false) s = .next (s.modReq r.id fun x =>
      { x with value := some ((k.bytes.drop (r.pa % 128)).take n), bad := none })) ∧
  (∀ s r d n sx acq nc k, AtHome s r → r.kind = .load d n sx acq nc → s.lineLocked r.pa = false →
    s.l1Line r.core (r.pa / 128) = none →
    (s.nearCopy (r.core / 20) (r.pa / 128) = some k ∨
      s.nearCopy (r.core / 20) (r.pa / 128) = none ∧ s.nearCopy (homeDie r.pa) (r.pa / 128) = some k) →
    pteNear r.pte = false → (∀ e, ¬ OwnStore s r e) →
    exec (.homeSliceAccess r.id false) s = .next (s.modReq r.id fun x =>
      { x with value := some ((k.bytes.drop (r.pa % 128)).take n), bad := none })) ∧
  (∀ s r d n sx acq nc e bs ack rel, AtHome s r → r.kind = .load d n sx acq nc → s.lineLocked r.pa = false →
    NoCopies s r → s.l1Line r.core (r.pa / 128) = none → pteNear r.pte = false → OwnStore s r e →
    s.reqs.filter (fun x => x.id == e.id) = [e] → (∀ e', OwnStore s r e' → e' = e) → e.kind = .store bs ack rel →
    e.pa = r.pa → bs.length = n →
    exec (.homeSliceAccess r.id false) s = .next (s.modReq r.id fun x =>
      { x with value := some bs, bad := if s.physBad r.pa n then some 0x13 else none }))

/-- R121, R124 to R126, R257: a store or an atomic takes its place at its home slice; a `.ack` write of a line that
other dies hold copies of is visible after the last die has answered, a `.fwd` write at once at its die and its home. An
atomic whose compare fails writes nothing. The moments follow log entries 33, 35 and 43, the model's choices. -/
def Obligations.WritesTakeTheirPlace : Prop :=
  (∀ s r bs ack rel keep, AtHome s r → r.kind = .store bs ack rel → pteRepl r.pte = false → s.lineBusy r.pa = false →
    pteNear r.pte = false →
    exec (.homeSliceAccess r.id keep) s = .next (takesPlace s r ack bs)) ∧
  (∀ s pa bs, (State.homeWrite s pa bs).mem = memWrite s.mem pa bs) ∧
  (∀ s r op ret d n v c ack keep, AtHome s r → r.kind = .atomic op ret d n v c ack → pteRepl r.pte = false →
    s.lineBusy r.pa = false → pteNear r.pte = false → s.physBad r.pa n = false →
    exec (.homeSliceAccess r.id keep) s = .next (
      let s' := s.modReq r.id fun x => { x with value := some (s.physRead r.pa n) }
      match atomicNew op (8 * n) (leNat (s.physRead r.pa n)) v c with
      | some w => takesPlace s' r ack (leBytes n w)
      | none => s'.modReq r.id fun x => { x with st := .done })) ∧
  (∀ s r die dies since, State.req s r.id = some r → r.st = .home dies since → die ∈ dies →
    (∀ f ∈ s.frozenLines, f.line ≠ r.pa / 128) → (∃ d ∈ dies, d ≠ die) →
    exec (.directoryInvalidate r.id die) s = .next (State.modReq
      { s with near := s.near.filter fun k => !(k.die == die && k.line == r.pa / 128) } r.id fun x =>
        { x with st := .home (dies.filter (· != die)) since })) ∧
  (∀ s r die since bs ack rel, State.req s r.id = some r → r.st = .home [die] since → r.kind = .store bs ack rel →
    (∀ f ∈ s.frozenLines, f.line ≠ r.pa / 128) →
    exec (.directoryInvalidate r.id die) s = .next (
      let s' : State := { s with near := s.near.filter fun k => !(k.die == die && k.line == r.pa / 128) }
      (if ack then s'.homeWrite r.pa bs else s').modReq r.id fun x => { x with st := .done })) ∧
  (∀ s r, State.req s r.id = some r → r.st = .done → r.owesValue = false →
    exec (.storeAck r.id) s = .next { s with reqs := s.reqs.filter fun e => e.id ≠ r.id })

/-- R234, R248, R258, R365, R399, R405: a bound value reaches its thread, unless it has ended, its latency is sampled, and
the request ends; a value that cannot be returned parks the thread at its access, once the issue of its bundle is over. -/
def Sys2Proof.Claims.ValuesReturn : Prop :=
  (∀ s r d n sx acq nc bs, State.req s r.id = some r → r.kind = .load d n sx acq nc → r.value = some bs →
    r.bad = none → r.returned = false →
    exec (.loadReturn r.id) s = .next ((State.sampleWait { s with reqs := s.reqs.filter fun e => e.id ≠ r.id }
      r.core 0x001 r.since).modThread r.blk r.who fun t => if t.live then t.putLoad d n sx bs else t)) ∧
  (∀ s r d ws, State.req s r.id = some r → r.kind = .own d ws → r.returned = false →
    exec (.loadReturn r.id) s = .next ((State.sampleWait { s with reqs := s.reqs.filter fun e => e.id ≠ r.id }
      r.core 0x001 r.since).modThread r.blk r.who fun t => if t.live then t.setGs d.toNat ws else t)) ∧
  (∀ s r op d n v c ack bs, State.req s r.id = some r → r.kind = .atomic op true d n v c ack → r.value = some bs →
    r.bad = none → r.returned = false → (ack = true → r.st = .done) →
    exec (.loadReturn r.id) s = .next (((s.modReq r.id fun x => { x with returned := true }).sampleWait
      r.core 0x001 r.since).modThread r.blk r.who fun t => if t.live then t.putLoad d n false bs else t)) ∧
  (∀ s r d n sx acq nc c b t, State.req s r.id = some r → r.kind = .load d n sx acq nc → r.bad = some c →
    r.returned = false → s.block r.blk = some b → b.faulted = [] → b.thread r.who = some t → t.live = true →
    t.parked = false → t.wait ≠ .faulted →
    s.reqs.filter (fun e => e.blk == r.blk && e.issue == r.issue) = [r] → s.issueOpen r.blk r.issue = false →
    ∃ s' u, exec (.loadReturn r.id) s = .next s' ∧ s'.thread r.blk r.who = some u ∧ u.parked = true ∧
      u.keptCause = c ∧ u.keptPc = r.pc ∧ u.regs = t.regs)

/-- R72, R122, R123, R248, R258, R405: the value of a load, at its home slice and at its thread. The moments, and the
park of a load that fails, follow log entries 32 to 34, the model's choices. -/
def Obligations.LoadsBindAndReturn : Prop :=
  LoadsBindAtHome ∧ ValuesReturn


/-- R135, R136, R426, R428: the commits of REPLICATE pages, acknowledgements that are lost, and the lines frozen by
them. -/
def Sys2Proof.Claims.ReplicasAndFrozenLines : Prop :=
  (∀ s r, AtHome s r → r.sends = true → pteRepl r.pte = true → s.lineBusy r.pa = false →
    exec (.replicaCommit r.id) s = .next (State.modReq { s with l1 := s.l1.filter fun k => k.line != r.pa / 128 } r.id
      fun x => { x with st := .locked s.tick })) ∧
  (∀ s r since bs ack rel, State.req s r.id = some r → r.st = .locked since → r.kind = .store bs ack rel →
    pteNear r.pte = false →
    exec (.replicaUpdate r.id) s = .next ((s.homeWrite r.pa bs).modReq r.id fun x => { x with st := .done })) ∧
  (∀ s r since, State.req s r.id = some r → r.st = .locked since → since + 2 ^ 20 * 4 ≤ s.tick →
    ∃ d, d < 8 ∧ exec (.replicaLockTimeout r.id) s = .next (State.modReq { s with fresh := s.fresh + 1 } r.id fun x =>
      { x with st := .aborted 0x15 d, value := some [], returned := true })) ∧
  (∀ s r d dies since, State.req s r.id = some r → r.st = .home (d :: dies) since → since + 2 ^ 20 * 4 ≤ s.tick →
    (∀ f ∈ s.frozenLines, f.line ≠ r.pa / 128) →
    exec (.ackLostTimeout r.id) s = .next { s with frozenLines := s.frozenLines ++ [⟨r.pa / 128, d⟩] }) ∧
  (∀ s f line, s.frozenLines.find? (fun x => x.line == line) = some f →
    ∃ t, exec (.lineThaw line) s = .next t ∧ t.frozenLines = s.frozenLines.filter (fun x => x ≠ f) ∧
      ∀ r ∈ t.reqs, r.pa / 128 = line → r.awaits f.die = false)

/-- R70, R90, R418, R430: one walk answers the thread that waits for it, whose access goes on, or parks it; the stack
cache fills while it has room, writes back, and drops the line used longest ago once it is full. -/
def Sys2Proof.Claims.WalksAndStackLines : Prop :=
  (∀ s c page w b pte big, State.walkers s c = [w] → s.block w.blk = some b →
    s.walk c (BitVec.ofNat 64 (page * 65536)) = .leaf pte big →
    w.va.toNat / 65536 = page ∨ big = true ∧ w.va.toNat / 65536 / 512 = page / 512 → permits pte w.wr w.rd = true →
    exec (.pageWalk c page) s = .next ((s.tlbInstall w.core
      { ctx := c, page := w.va.toNat / 65536, pte := pte, big := big }).modThread w.blk w.who fun t =>
        { t with wait := .again true })) ∧
  (∀ s c page w b t e, State.walkers s c = [w] → w.va.toNat / 65536 = page → s.block w.blk = some b → b.faulted = [] →
    s.thread w.blk w.who = some t → t.issue = w.iss → t.live = true → t.parked = false →
    (∀ x u, x ≠ w.who → b.thread x = some u → u.issue = w.iss → u.wait.inIssue = false) →
    (∀ q ∈ s.reqs, q.blk = w.blk → q.issue ≠ w.iss) → s.walk c (BitVec.ofNat 64 (page * 65536)) = .fail e →
    ∃ s' u, exec (.pageWalk c page) s = .next s' ∧ s'.thread w.blk w.who = some u ∧ u.parked = true ∧
      u.keptCause = e ∧ u.keptPc = w.pc ∧ u.regs = t.regs) ∧
  (∀ s b line pte pa, let va : DWord := BitVec.ofNat 64 (line * 128)
    State.block s b.id = some b → s.blocks.filter (fun k => k.id == b.id) = [b] → b.stackLine (line * 128) = none →
    s.coreXlat b.core b.ctx va false = .ok pte pa → s.readRefused pte pa 128 = none → s.shut pa 128 = false →
    pteNear pte = false → line * 128 < 2 ^ 64 → pa % 128 = 0 → (s.stackLines b.core).length < 512 →
    exec (.stackCacheSpill b.id line .fill) s = .next ((s.tlbKeep b.core b.ctx va false true).modBlock b.id fun k =>
      { k with stack := { line := line, bytes := s.physRead pa 128, dirty := false, used := 0,
                          bad := (List.range 8).filter fun i => s.dead pa 1 || s.physBad (pa + 16 * i) 16 } ::
                        k.stack.filter fun x => x.line != line })) ∧
  (∀ s b line l pte pa, let va : DWord := BitVec.ofNat 64 (line * 128)
    State.block s b.id = some b → b.stackLine (line * 128) = some l → l.line = line → l.dirty = true → l.bad = [] →
    s.coreXlat b.core b.ctx va true = .ok pte pa → s.writeRefused pte pa 128 = none → s.shut pa 128 = false →
    s.dead pa 128 = false → pteNear pte = false → l.bytes.length = 128 →
    exec (.stackCacheSpill b.id line .spillKeep) s = .next ((((s.tlbKeep b.core b.ctx va true false).homeWrite pa
      l.bytes).dropCopies pa 128).modBlock b.id
      fun k => { k with stack := k.stack.map fun x => if x.line = line then { x with dirty := false } else x })) ∧
  (∀ s b line l, State.block s b.id = some b → b.stackLine (line * 128) = some l → l.dirty = false → l.line = line →
    512 ≤ (s.stackLines b.core).length → (s.stackLines b.core).head? = some (b, l) →
    exec (.stackCacheSpill b.id line .spillDrop) s = .next (s.modBlock b.id fun k =>
      { k with stack := k.stack.filter fun x => x.line ≠ line })) ∧
  (∀ s b line l, State.block s b.id = some b → b.stackLine (line * 128) = some l → l.dirty = false →
    (s.stackLines b.core).length < 512 → exec (.stackCacheSpill b.id line .spillDrop) s = .next s)

/-- R70, R90, R135, R136, R418, R426, R428: commits of replicated lines, frozen lines, page-table walks and the stack
cache. The moments follow log entries 36, 37, 49 and 82, the model's reading; the translation that leaves a full buffer is log
entry 125, the model's choice. -/
def Obligations.CommitsWalksStackLines : Prop :=
  ReplicasAndFrozenLines ∧ WalksAndStackLines


namespace Sys2Proof.Claims

/-! ## Events of the engines and of the device registers (R107, R108, R111, R137, R138, R276, R285, R290, R297 to R299, R307,
R354, R360 to R366, R422) -/

/-- An engine command of a resident block that has done nothing yet, and whose thread's earlier accesses have been
performed (R137). -/
structure Runs (s : State) (c : Cmd) (b : Block) : Prop where
  found : s.cmd c.id = some c
  block : s.block c.blk = some b
  after : ∀ r ∈ s.before c, r.performed .pkg = true ∧ s.lostAt .pkg r = false
  whole : c.stop = false
  start : c.run = .start

/-- Every earlier write of the core of a command has been performed at its scope, so that its signals may be given, and
none of its own has lost an acknowledgement (R134, R426). -/
def Follows (s : State) (c : Cmd) : Prop := s.sourceDone c.core s.nextId c.scope = true ∧ s.cleanLost c = false

/-- A command ends: its latency is sampled, its records formed, and its signals given (R138, R264, R366, R396). -/
def ends (s : State) (c : Cmd) (thr : Nat) (d : Done) : State := (s.sampleWait c.core 0x002 c.since).endCmd c thr d

/-- The matrix operation at the head of a core's queue, alone in its group, which no fault and no fill holds (R298), and
for whose next step the sequencer has had an issue slot (R361). -/
structure Heads (s : State) (core : Nat) (m : MatOp) (b : Block) : Prop where
  first : (s.core core).seq.head? = some m
  alone : s.groupOps m = [(core, m)]
  block : s.block m.blk = some b
  sound : b.opFault m = none
  ready : b.filling m = false
  slot  : s.stepStarts core m.since = true

/-- A monitor by its name. -/
def monitor (s : State) (m : MonId) : Mon :=
  match m with
  | .die d i => vget (s.die d).mons i Mon.reset
  | .anvil i => vget s.amons i Mon.reset

/-- An element is read from the `n` bytes of global memory at `a`, which can be read: the number `v`. -/
def Takes (s : State) (c : Cmd) (n : Nat) (a : DWord) (v : Nat) (t : State) : Prop :=
  a.toNat % n = 0 ∧ ∃ bs, s.engineRead c a n false = .ok (t, bs) ∧ leNat bs = v

/-- The write of `w` to the `n` bytes of global memory at `d` passes its checks; it is `q`, on a page that is not
replicated. -/
def Puts (s : State) (c : Cmd) (n : Nat) (d : DWord) (w : Nat) (q : EngPart) (t : State) : Prop :=
  d.toNat % n = 0 ∧ s.enginePart c d n 0 w false = .ok (t, q) ∧ pteRepl q.pte = false

/-- One element of an engine command: the number in the `n` bytes at `a`, and the write of `w` to the `m` bytes at `d`, which
is visible in the state `t`. -/
def Moves (s : State) (c : Cmd) (n m : Nat) (a d : DWord) (v w : Nat) (t : State) : Prop :=
  ∃ s₁ s₂ q, Takes s c n a v s₁ ∧ Puts s₁ c m d w q s₂ ∧ t = (s₂.showPart c q).unlock c.id q.pa

/-- A command has elements to move, the next of them element `n`: its thread's earlier accesses have been performed, and no
failure, no end and no freed tile stands against it (R82, R137, R285). -/
structure Moving (s : State) (c : Cmd) (b : Block) (n : Nat) : Prop where
  found : s.cmd c.id = some c
  block : s.block c.blk = some b
  after : ∀ r ∈ s.before c, r.performed .pkg = true ∧ s.lostAt .pkg r = false
  free  : b.cancels c.kind = false
  going : c.stop = false ∧ c.run.fail = none ∧ c.run.gate = none ∧ c.run.n = n

/-- The index of element `n` in each dimension of a box, dimension 0 innermost (R280). -/
def boxIndex (ext : List Nat) (n : Nat) : List Nat :=
  (List.range ext.length).map fun d => n / (ext.take d).foldl (· * ·) 1 % ext.getD d 1

/-- The address of the element with some indices: the strides count elements of `size` bytes (R280). -/
def strided (a : DWord) (js : List Nat) (st : List Int) (size : Nat) : DWord :=
  a + BitVec.ofInt 64 (size * ((js.zip st).map fun p => (p.1 : Int) * p.2).sum)

/-- A command after an element: it stands at the next one, and the causes that the element raised are counted (R115). -/
def steps (s : State) (c : Cmd) (cs : List Cause) (pend : List (Nat × List EngPart)) : State :=
  s.modCmd c.id fun k => { k with run :=
    { k.run with n := c.run.n + 1, fail := none, logs := addCauses c.run.logs cs, pend := k.run.pend ++ pend } }

/-- A value clamped to the range of I32. -/
def inI32 (v : Int) : Int := max (-2 ^ 31) (min (2 ^ 31 - 1) v)

end Sys2Proof.Claims

/-! ### Engines and device registers -/

/-- R137, R138, R264, R276, R285, R290, R396: the ends of copies and chains: a refused copy moves nothing, and its tiles
are as after a copy (R422); a copy and a chain of one element move it, converted or computed, and signal; the signals of a
command. -/
def Sys2Proof.Claims.CommandsEnd : Prop :=
  (∀ s c b e bytes src dst stop, Runs s c b → c.blk = b.id → Follows s c → c.kind = .badCopy e bytes src dst →
    exec (.copyComplete c.id stop) s =
      .next (ends (s.modBlock b.id fun k => k.endCopy src dst) c 0xFFFF { status := e, count := 0, bytes := bytes })) ∧
  (∀ s c b a d sa sd sf df f g sat v t stop, Runs s c b → c.blk = b.id →
    c.kind = .copy (.addr a sa 0) (.addr d sd 0) [1, 1, 1, 1, 1, 1] sf df 0 sat none → efmt sf = some f →
    efmt df = some g → f.isNpi = false → g.isNpi = false →
    let w := convElem f g sat v
    Moves s c (f.width / 8) (g.width / 8) a d v w.1 t → Follows t c →
    exec (.copyComplete c.id stop) s =
      .next (ends t c 0xFFFF { status := 0, count := 1, result := BitVec.ofNat 64 (g.width / 8), bytes := g.width / 8,
                               logs := addCauses [] w.2.toList })) ∧
  (∀ s c b o a d v t stop, Runs s c b → c.blk = b.id → c.kind = .chain o a d 0 0 1 [] → o.srcTile = false →
    o.dstTile = false → o.sf = .f32 → o.df = .f32 →
    let r := chainElem .f32 .f32 [] v
    Moves s c 4 4 a d v r.1 t → Follows t c →
    exec (.chainComplete c.id stop) s =
      .next (ends t c c.tid { status := 0, count := 1, result := 1, bytes := 4, logs := addCauses [] r.2 })) ∧
  (∀ s c b e sa sd ext rop sat src dst stop, State.cmd s c.id = some c → s.block c.blk = some b → c.run = .start →
    c.kind = .copy src dst ext sa sd rop sat none → b.freed src = false → b.freed dst = false → s.cmdLost c = some e →
    e ≠ 0 → Follows s c →
    exec (.copyComplete c.id stop) s = .next (ends (s.modBlock b.id fun k => k.endCopy src dst) c 0xFFFF
      { status := e, count := 0, bytes := fmtBytes sd (ext.foldl (· * ·) 1) })) ∧
  (∀ s c thr d, d.logs = [] → d.status = 0 →
    State.endCmd s c thr d = (State.modThread (State.dropLocks { s with cmds := s.cmds.filter fun x => x.id != c.id })
      c.blk c.who fun t =>
      { t with handles := t.handles.map fun h =>
          if h.pending && h.op == c.id then
            { pending := false, op := 0, word := BitVec.ofNat 32 (d.count % 2 ^ 24), result := d.result }
          else h }).modBlock c.blk fun b =>
      let b := b.lower c.flags
      match c.bar with
      | some n => b.modBar n fun k => k.engine d.bytes false
      | none => b)

/-- R82, R115, R280, R281, R285: what one element of a copy does: its places, with strides counted in elements, its
conversion, and the update of a reduction (R282); a tile's element stands at its place in the tile's layout. A copy that
completes does the elements that are left, one after the other. -/
def Sys2Proof.Claims.CopiesMoveElements : Prop :=
  (∀ s c b n a d sa sd ext sf df f g sat v s₁ s₂ q, Moving s c b n →
    c.kind = .copy (.addr a sa 0) (.addr d sd 0) ext sf df 0 sat none → n < ext.foldl (· * ·) 1 → efmt sf = some f →
    efmt df = some g → f.isNpi = false → g.isNpi = false →
    let js := boxIndex ext n
    let w := convElem f g sat v
    Takes s c (f.width / 8) (strided a js sa (f.width / 8)) v s₁ →
    Puts s₁ c (g.width / 8) (strided d js sd (g.width / 8)) w.1 q s₂ →
    s.engineAdvance c.id = steps s₂ c w.2.toList [(n, [q])]) ∧
  (∀ s c b n a i e sa ext sf df f g sat v s₁ p, Moving s c b n →
    c.kind = .copy (.addr a sa 0) (.tile i e) ext sf df 0 sat none → n < ext.foldl (· * ·) 1 → efmt sf = some f →
    efmt df = some g → f.isNpi = false → g.isNpi = false →
    let js := boxIndex ext n
    let w := convElem f g sat v
    let lay := (b.tile i).lay
    let z := lay.place g (js.getD 0 0) (js.getD 1 0) (js.getD 2 0)
    Takes s c (f.width / 8) (strided a js sa (f.width / 8)) v s₁ → b.bufPhys lay.buf z.1 z.2 = some p →
    s.engineAdvance c.id =
      steps (s₁.modCore b.core fun k => k.writeBuf lay.buf p (leBytes z.2 w.1)) c w.2.toList []) ∧
  (∀ s c b n i e d sd ext sf df f g sat p s₁ q, Moving s c b n →
    c.kind = .copy (.tile i e) (.addr d sd 0) ext sf df 0 sat none → n < ext.foldl (· * ·) 1 → efmt sf = some f →
    efmt df = some g → f.isNpi = false → g.isNpi = false →
    let js := boxIndex ext n
    let lay := (b.tile i).lay
    let z := lay.place f (js.getD 0 0) (js.getD 1 0) (js.getD 2 0)
    let w := convElem f g sat (leNat (memRead ((s.core b.core).buf lay.buf) p z.2))
    b.bufPhys lay.buf z.1 z.2 = some p → (s.core b.core).bufBad lay.buf p z.2 = false →
    Puts s c (g.width / 8) (strided d js sd (g.width / 8)) w.1 q s₁ →
    s.engineAdvance c.id = steps s₁ c w.2.toList [(n, [q])]) ∧
  (∀ s c b n a d sa sd ext sf f rop sat u v s₁ s₂ s₃ bs q, Moving s c b n → rop ≠ 0 →
    c.kind = .copy (.addr a sa 0) (.addr d sd 0) ext sf sf rop sat none → n < ext.foldl (· * ·) 1 → efmt sf = some f →
    f.isNpi = false →
    let js := boxIndex ext n
    let to_ := strided d js sd (f.width / 8)
    let w := ropComb rop u v
    Takes s c (f.width / 8) (strided a js sa (f.width / 8)) v s₁ → to_.toNat % (f.width / 8) = 0 →
    s₁.engineRead c to_ (f.width / 8) true = .ok (s₂, bs) → leNat bs = u →
    s₂.enginePart c to_ (f.width / 8) 0 w.1 true = .ok (s₃, q) →
    s.engineAdvance c.id = steps ((s₃.showPart c q).unlock c.id q.pa) c w.2.toList []) ∧
  (∀ d v, d < 2 ^ 32 → v < 2 ^ 32 →
    let sum := natSigned 32 d + natSigned 32 v
    ropComb 1 d v = (let r := fadd .f32 .rne (fval .f32 d) (fval .f32 v); (r.bits, r.cause)) ∧
    ropComb 2 d v = (let r := fadd .bf16 .rne (fval .bf16 d) (fval .bf16 v); (r.bits, r.cause)) ∧
    ropComb 3 d v = ((d + v) % 2 ^ 32, none) ∧
    ropComb 4 d v = ((inI32 sum % 2 ^ 32).toNat, if inI32 sum = sum then none else some 0x43) ∧
    ropComb 5 d v = (fmaxmin .f32 true d v, none) ∧ ropComb 6 d v = (fmaxmin .f32 false d v, none) ∧
    natSigned 32 (ropComb 7 d v).1 = max (natSigned 32 d) (natSigned 32 v) ∧
    natSigned 32 (ropComb 8 d v).1 = min (natSigned 32 d) (natSigned 32 v)) ∧
  (∀ f g x sat code, convElem f f sat code = (code, none) ∧
    (x ≠ .f32 → convElem (.flt .f32) (.flt x) sat code =
      (let r := convert x .rne sat (fval .f32 code); (r.bits, r.cause))) ∧
    (x = .e4m3 ∨ x = .e5m2 → (g = .f32 ∨ g = .bf16) → convElem (.flt x) (.flt g) sat code =
      (let r := convert g .rne false (fval x code); (r.bits, r.cause))) ∧
    (∀ i k, (g = .f32 ∨ g = .bf16) → convElem (.int i k) (.flt g) sat code =
      (let r := fromInteger g .rne false (intElem i k code); (r.bits, r.cause)))) ∧
  (∀ s c b n src dst ext sf df f g rop sat t stop, Moving s c b n → c.kind = .copy src dst ext sf df rop sat none →
    n < ext.foldl (· * ·) 1 → efmt sf = some f → efmt df = some g → c.blk = b.id →
    s.copyElem c b { src := src, dst := dst, ext := ext, sf := sf, df := df, rop := rop, sat := sat } f g false n = .ok t →
    (s.engineAdvance c.id).block c.blk = some b → (s.engineAdvance c.id).cmdReady c = true →
    (s.engineAdvance c.id).cmdLost c = none →
    exec (.copyComplete c.id stop) s = exec (.copyComplete c.id stop) (s.engineAdvance c.id))

/-- R259, R260, R429: what the agents of `nmcas`, `nmenq` and `nmchase` do, and how the operation ends. -/
def Sys2Proof.Claims.AgentsExecute : Prop :=
  (∀ s c b m cmp new w, Runs s c b → c.kind = .nmcas m cmp new → m ≠ 0 → m.toNat < 16 →
    s.agentAt c c.va.toNat 16 true true = .ok w →
    let s' := s.agentKeep c c.va.toNat true true
    let word (i : Nat) : Word := BitVec.ofNat 32 (leNat (((leBytes 16 w.val).drop (4 * i)).take 4))
    let hit (i : Nat) : Bool := m.getLsbD i && word i == cmp.getD i 0
    let all : Bool := (List.range 4).all fun i => !m.getLsbD i || hit i
    exec (.nmAgentExecute c.id) s = .next (
      (if all then s'.agentWrite w.pa ((List.range 4).flatMap fun i =>
          leBytes 4 (if m.getLsbD i then new.getD i 0 else word i).toNat) else s').endCmd c c.tid
        { status := 0, result := 0,
          count := (List.range 4).foldl (fun n i => n + if hit i then 2 ^ i else 0) (if all then 16 else 0) })) ∧
  (∀ s c b m cmp new, Runs s c b → c.kind = .nmcas m cmp new → m = 0 ∨ 16 ≤ m.toNat →
    exec (.nmAgentExecute c.id) s = .next (s.endCmd c c.tid { status := 0x16, count := 0 })) ∧
  (∀ s c b node head tail nd, Runs s c b → c.kind = .nmenq node → node ≠ 0 → node.toNat % 8 = 0 →
    s.agentAt c c.va.toNat 8 true false = .ok head → s.agentAt c (c.va.toNat + 8) 8 true true = .ok tail →
    s.agentAt c node.toNat 8 true false = .ok nd → nd.home = head.home → tail.val = 0 →
    let s' := (s.agentKeep c (c.va.toNat + 8) true true).agentKeep c node.toNat true false
    exec (.nmAgentExecute c.id) s = .next ((((s'.agentWrite nd.pa (leBytes 8 0)).agentWrite head.pa
      (leBytes 8 node.toNat)).agentWrite tail.pa (leBytes 8 node.toNat)).endCmd c c.tid { status := 0, count := 1 })) ∧
  (∀ s c b key ctl w k, Runs s c b → c.kind = .nmchase key ctl → ctl.extractLsb' 16 16 = 0 →
    ctl.extractLsb' 4 4 = 0 → 8 ≤ (ctl.extractLsb' 8 8).toNat → (ctl.extractLsb' 8 8).toNat % 4 = 0 →
    s.agentAt c c.va.toNat 8 false true = .ok w → w.val ≠ 0 → w.val % 8 = 0 →
    let s' := s.agentKeep c c.va.toNat false true
    let at_ := w.val + (ctl.extractLsb' 8 8).toNat
    s'.agentAt c at_ 4 false true = .ok k → k.val = key.toNat →
    exec (.nmAgentExecute c.id) s = .next ((s'.agentKeep c at_ false true).endCmd c c.tid
      { status := 0, count := 1, result := BitVec.ofNat 64 w.val }))

/-- R137, R138, R259, R260, R264, R276, R280 to R282, R285, R290, R396, R422, R429: the elements of copies, the ends of copies
and chains, and what agents do. When a command does its elements, and an agent its hops, follows log entries 51, 52 and 56,
the model's choices. -/
def Obligations.CommandsAndAgents : Prop :=
  CommandsEnd ∧ CopiesMoveElements ∧ AgentsExecute


/-- R106, R115, R297 to R299, R307, R425: the steps of the matrix engine, what a K-block adds to an element of C, the counts
of the causes it raises, its stops, the bound on a cooperative wait, and the end of an overlay's load, which waits while its
image cannot be read. The corners follow log entries 60, 61 and 63, the model's reading. -/
def Obligations.StepsAndLoads : Prop :=
  (∀ s core m b p, core < 160 → Heads s core m b → m.kind = .zero → m.steps ≤ m.step + 1 →
    b.bufPhys (b.tile (tileC m.ga)).lay.buf (b.tile (tileC m.ga)).lay.base (b.tile (tileC m.ga)).size = some p →
    exec (.matrixStepComplete core) s = .next (((s.modCore b.core fun k => k.writeBuf (b.tile (tileC m.ga)).lay.buf p
      (List.replicate (b.tile (tileC m.ga)).size 0)).modBlock m.blk fun k =>
        { k with mStep := (m.step + 1) % 8192, mStop := false }).endOp core { m with step := m.step + 1 })) ∧
  (∀ s core m b, core < 160 → Heads s core m b → (s.runStep m b).halt = none → m.step + 1 < m.steps → m.halts = false →
    exec (.matrixStepComplete core) s = .next (((s.runStep m b).st.modBlock m.blk fun k =>
      { k with mStep := (m.step + 1) % 8192 }).modOp core m.id fun k =>
        { k with step := m.step + 1, logs := (m.count (s.runStep m b).raised).logs,
                 seen := (m.count (s.runStep m b).raised).seen, since := (s.runStep m b).st.tick })) ∧
  (∀ s core m b, core < 160 → Heads s core m b → (s.runStep m b).halt = none → m.step + 1 < m.steps → m.halts = true →
    exec (.matrixStepComplete core) s = .next (((s.runStep m b).st.modBlock m.blk fun k =>
      { k with mStep := (m.step + 1) % 8192, mStop := true }).endOp core
        { m with step := m.step + 1, logs := (m.count (s.runStep m b).raised).logs })) ∧
  (∀ m c n, let fresh := m.step % kSteps m.gb = 0 ∨ (c, n) ∉ m.seen
    (fresh → (MatOp.count m [(c, n)]).logs = addCause m.logs c) ∧
    (¬fresh → (MatOp.count m [(c, n)]).logs = m.logs)) ∧
  (∀ acc a y sa sb, let sum : Int := natSigned 32 acc +
      ((a.map (intElem true 8)).zipWith (· * ·) (y.map (intElem true 8))).foldl (· + ·) 0
    dotUpdate 0x04 0x04 0x08 acc a y sa sb =
      (intLow 32 sum, if sum < -2 ^ 31 ∨ 2 ^ 31 ≤ sum then some 0x45 else none)) ∧
  (∀ fa fb f h acc a y p q, efmt fa = some (.flt f) → efmt fb = some (.flt h) → a.length = y.length →
    (∀ x ∈ a, x < 2 ^ f.width) → (∀ x ∈ y, x < 2 ^ h.width) → acc < 2 ^ 32 → p < 2 ^ 16 → q < 2 ^ 16 →
    let made := dotUpdate fa fb 0x00 acc a y (fval .bf16 p) (fval .bf16 q)
    (a.any (nanCode f) || y.any (nanCode h) || nanCode .bf16 p || nanCode .bf16 q || nanCode .f32 acc →
      made = (0x7FC00000, none)) ∧
    (∀ u v w z, number .f32 acc = some z → number .bf16 p = some u → number .bf16 q = some v →
      dotSum (a.map (number f)) (y.map (number h)) = some w → z + u * v * w ≠ 0 →
      made = (let r := convertExact .f32 .rne false false (z + u * v * w); (r.bits, r.cause)))) ∧
  (∀ s core m b c tile, core < 160 → (State.core s core).seq.head? = some m → s.groupOps m = [(core, m)] →
    s.block m.blk = some b → b.opFault m = some (c, tile) → c ≠ 0x13 →
    exec (.matrixStepComplete core) s = .next (s.stopOp core m c tile)) ∧
  (∀ s b w, State.block s b.id = some b → b.coop = some w → s.coopFull b = false → s.coopOthers b w.p w.l = [] →
    Over s w.since 65536 → exec (.coopTimeout b.id) s = .next (s.parkParts [b.id] 0x10)) ∧
  (∀ s core k r ws, core < 160 →
    (State.core s core).copies.find? (fun x => x.id == k.id && (x.loading || x.reload)) = some k →
    k.refs = [r] → r.evicting = false → r.atEnd = false → s.imageOpen r.ctx k = true → s.readImage core r.ctx k = .ok ws →
    (∀ b ∈ s.blocks, b.core = core → b.ctx ≠ r.ctx) →
    ∃ t, exec (.overlayLoadComplete core k.id) s = .next t ∧
      { k with loading := false, words := ws, bad := [], reload := false } ∈ (t.core core).copies ∧ t.mem = s.mem) ∧
  (∀ s core k r rs c, core < 160 →
    (State.core s core).copies.find? (fun x => x.id == k.id && (x.loading || x.reload)) = some k →
    k.refs = r :: rs → s.imageOpen r.ctx k = true → s.readImage core r.ctx k = .error c → k.id < s.nextId →
    ∃ t, exec (.overlayLoadComplete core k.id) s = .next t ∧ ∀ x ∈ (t.core core).copies, x.id ≠ k.id)

/-- R107, R108, R111: writes to FRCTL: what enabling asks for, what it does to the near tiers, and what sets ERR. -/
def Sys2Proof.Claims.FormatRanges : Prop :=
  (∀ s n v r, s.boot = .done → n < 32 → r = { State.range s n with
      err := (s.range n).err && !v.getLsbD 31, en := true, planes := v.getLsbD 6, fmt := v.extractLsb' 0 5 } →
    (s.range n).en = false → v.getLsbD 7 = true → s.enables n r = true →
    exec (.frctlWrite n v) s = .next (State.modRange { s with
      near := s.near.filter fun k => !(decide (r.base.toNat * 32768 ≤ k.line * 128) &&
        decide (k.line * 128 < r.lim.toNat * 32768)),
      nearHome := s.nearHome.filter fun p => !(decide (r.base.toNat * 32768 ≤ p.2 * 128) &&
        decide (p.2 * 128 < r.lim.toNat * 32768)),
      l1 := s.l1.filter fun k => !(decide (r.base.toNat * 32768 ≤ k.line * 128) &&
        decide (k.line * 128 < r.lim.toNat * 32768)) } n fun _ => r)) ∧
  (∀ s n r, State.enables s n r = true → 0x12 ≤ r.fmt.toNat ∧ r.fmt.toNat ≤ 0x18 ∧
    r.lim.toNat * 32768 = r.base.toNat * 32768 + 8 * (r.str.toNat * 32768) ∧
    ∀ i k, i < 32 → i ≠ n → s.range i = k → k.en = true →
      r.lim = r.base ∨ k.lim.toNat ≤ k.base.toNat ∨ r.lim.toNat ≤ k.base.toNat ∨ k.lim.toNat ≤ r.base.toNat) ∧
  (∀ s n v, s.boot = .done → n < 32 → (State.range s n).en = false → v.getLsbD 7 = true → v.getLsbD 31 = false →
    s.enables n { s.range n with en := true, planes := v.getLsbD 6, fmt := v.extractLsb' 0 5 } = false →
    exec (.frctlWrite n v) s = .next (s.modRange n fun r => { r with err := true })) ∧
  (∀ s n v, s.boot = .done → n < 32 → (State.range s n).en = true → v.getLsbD 7 = true → v.getLsbD 31 = false →
    exec (.frctlWrite n v) s = .next (s.modRange n fun r =>
      { r with err := r.err || r.planes != v.getLsbD 6 || r.fmt != v.extractLsb' 0 5 })) ∧
  (∀ s n, s.boot = .done → exec (.frctlErrClear n) s = .next (s.modRange n fun r => { r with err := false })) ∧
  (∀ s n x, s.boot = .done → exec (.registerWrite (.frbase n) x) s = .next (s.modRange n fun r =>
    if r.en then { r with err := true } else { r with base := BitVec.ofNat 25 (x / 2 ^ 15) })) ∧
  (∀ s n x, s.boot = .done → exec (.registerWrite (.frscl n) x) s = .next (s.modRange n fun r =>
    if r.en then { r with err := true } else { r with scl := BitVec.ofNat 39 (x / 2) }))

/-- R102, R104, R109: what a load reads from an address inside an enabled range: in EXPAND mode the value that the first k
planes of its weight give, in PLANES mode the stored bytes of the first k planes and zeros for the others. -/
def Sys2Proof.Claims.RangesDecode : Prop :=
  (∀ s n pa, n < 32 →
    let r := State.range s n
    let lo := r.base.toNat * 32768
    let plane := r.str.toNat * 32768
    let k := r.fmt.toNat - 16
    let i := pa - lo
    r.en = true → 0x12 ≤ r.fmt.toNat → r.fmt.toNat ≤ 0x18 → lo ≤ pa → pa < r.lim.toNat * 32768 →
    (∀ m, m < 32 → m ≠ n → (s.range m).en = true →
      ¬((s.range m).base.toNat * 32768 ≤ pa ∧ pa < (s.range m).lim.toNat * 32768)) →
    (r.planes = true → s.physRead pa 1 = [if i / plane < k then memGet s.mem pa else 0]) ∧
    (r.planes = false →
      let bit := fun (p : Nat) => (leNat (memRead s.mem (lo + (7 - p) * plane + 4 * (i / 32)) 4)).testBit (i % 32)
      let top : Int := (List.range k).foldl (fun v j => 2 * v + if bit (7 - j) then 1 else 0) 0
      let v : Int := (if 2 ^ (k - 1) ≤ top then top - 2 ^ k else top) * 2 ^ (8 - k) + if k < 8 then 2 ^ (7 - k) else 0
      s.physRead pa 1 = [BitVec.ofInt 8 v])) ∧
  (∀ s pa, (∀ m, m < 32 → (State.range s m).en = true →
      ¬((s.range m).base.toNat * 32768 ≤ pa ∧ pa < (s.range m).lim.toNat * 32768)) →
    s.physRead pa 1 = [memGet s.mem pa]) ∧
  (∀ s pa n, State.physRead s pa (n + 1) = s.physRead pa 1 ++ s.physRead (pa + 1) n)

/-- R360 to R362, R365, R366: the shaping tables and levels, the power controller, and the monitors. The level from
which a level moves follows log entry 83, the model's reading. -/
def Obligations.PowerAndMonitors : Prop :=
  (∀ s d x i, s.boot = .done → d < 8 → i < 16 → ∃ t, exec (.registerWrite (.shape d) x) s = .next t ∧
    (vget (t.die d).shape i 0).toNat =
      if 1 ≤ x / 2 ^ (5 * i) % 32 ∧ x / 2 ^ (5 * i) % 32 ≤ 16 then x / 2 ^ (5 * i) % 32
      else (vget (s.die d).shape i 0).toNat) ∧
  (∀ s x, s.boot = .done → exec (.registerWrite .pwrslew x) s =
    .next (if 1 ≤ x % 128 ∧ x % 128 ≤ 100 then { s with slew := BitVec.ofNat 7 x } else s)) ∧
  (∀ s est, s.tick % 800 ≠ 0 ∨ s.powered = s.tick / 800 + 1 → exec (.powerControlInterval est) s = .next s) ∧
  (∀ s est d, s.tick % 800 = 0 → s.powered ≠ s.tick / 800 + 1 → d < 8 →
    ∃ t, exec (.powerControlInterval est) s = .next t ∧ t.powered = s.tick / 800 + 1 ∧
    (t.die d).next = match est[d]? with
      | some e =>
        if 10 * s.slew.toNat < e.rise then (if (s.die d).next < 15 then (s.die d).next + 1 else (s.die d).next)
        else if e.back then (s.die d).next - 1 else (s.die d).next
      | none => (s.die d).next) ∧
  (∀ s d, s.tick % 80 = 0 → d < 8 → ∃ t, exec .shapingWindowBoundary s = .next t ∧
    (t.die d).level = if (s.die d).nextAt / 80 < s.tick / 80 then (s.die d).next else (s.die d).level) ∧
  (∀ s m v, s.boot = .done → (v : Word).getLsbD 29 = false → monTakes m (v.toNat % 4096) = true →
    argFits (v.toNat % 4096) (v.toNat / 4096 % 4096) = true →
    exec (.moncfgWrite m v) s = .next (s.modMon m fun x => { x with cfg := v })) ∧
  (∀ s m v, s.boot = .done → (v : Word).getLsbD 29 = true → monTakes m (v.toNat % 4096) = true →
    argFits (v.toNat % 4096) (v.toNat / 4096 % 4096) = true → (monitor s m).at_ ≠ monCycle m s.tick →
    exec (.moncfgWrite m v) s = .next (s.modMon m fun x =>
      { x with cfg := v &&& 0xDFFFFFFF, min := 0xFFFFFFFF, max := 0, h := Vector.replicate 16 0 })) ∧
  (∀ s m, s.boot = .done → (monitor s m).at_ ≠ monCycle m s.tick → exec (.monitorClear m) s = .next (s.modMon m fun x =>
    { x with min := 0xFFFFFFFF, max := 0, h := Vector.replicate 16 0 })) ∧
  (∀ s m, s.boot = .done → exec (.monitorClear m) s = .next (s.modMon m fun x => x.clear (monCycle m s.tick))) ∧
  (∀ (x : Mon) v, x.own = [v] → x.clear x.at_ =
    Mon.count { x with min := 0xFFFFFFFF, max := 0, h := Vector.replicate 16 0 } v) ∧
  (∀ s d i, s.tick % 256 = 0 → i < 32 → (vget (State.die s d).mons i Mon.reset).src = 6 →
    (vget (State.die s d).mons i Mon.reset).sampled ≠ s.tick / 256 + 1 →
    exec (.monitorLevelSample (.die d i)) s = .next (s.modMon (.die d i) fun x =>
      { x.sample (s.tick / 5) ((s.die d).levelAt s.tick) with sampled := s.tick / 256 + 1 })) ∧
  (∀ s m, s.tick % 256 ≠ 0 ∨ (monitor s m).sampled = s.tick / 256 + 1 →
    exec (.monitorLevelSample m) s = .next s) ∧
  (∀ (m : Mon) t v, m.cfg.getLsbD 31 = true → v < 2 ^ 32 → (m.sample t v).min.toNat = min m.min.toNat v ∧
    (m.sample t v).max.toNat = max m.max.toNat v ∧ ∀ i, i < 16 →
      vget (m.sample t v).h i 0 = if i = m.bucket v then bump (vget m.h i 0) else vget m.h i 0) ∧
  (∀ (m : Mon) v, (m.cfg.getLsbD 30 = false → m.bucket v = min 15 (v / 2 ^ (m.cfg.extractLsb' 24 5).toNat)) ∧
    (m.cfg.getLsbD 30 = true → m.bucket 0 = 0 ∧
      ∀ j, j < 14 → 2 ^ j ≤ v → v < 2 ^ (j + 1) → m.bucket v = j + 1))

/-- R4, R10, R155, R305, R331, R354, R357, R358, R398, R403, R404, R441, R450: what the runtime writes into a context
record; a value outside its field's range changes nothing. -/
def Sys2Proof.Claims.ContextRecords : Prop :=
  (∀ s c v, s.boot = .done → exec (.contextRecordWrite c (.qos v)) s = .next (s.modCtx c fun x => { x with qos := v })) ∧
  (∀ s c v, s.boot = .done → exec (.contextRecordWrite c (.nq v)) s =
    .next (if v.toNat ≤ 16 then s.modCtx c fun x => { x with nq := v.toNat } else s)) ∧
  (∀ s c v, s.boot = .done → exec (.contextRecordWrite c (.hrule v)) s =
    .next (if v.toNat ≤ 9 then s.modCtx c fun x => { x with hrule := v } else s)) ∧
  (∀ s c v, s.boot = .done → exec (.contextRecordWrite c (.parkbase v)) s =
    .next (if v.toNat % 64 = 0 then s.modCtx c fun x => { x with parkbase := v, parkFail := false } else s)) ∧
  (∀ s c v, s.boot = .done → exec (.contextRecordWrite c (.hslots v)) s =
    .next (if 1 ≤ v.toNat ∧ v.toNat ≤ 64 then s.modCtx c fun x => { x with hslots := v.toNat } else s)) ∧
  (∀ s c h w n, s.boot = .done → c < 64 → (State.ctx s c).winN = some n → h.toNat < 2 ^ n → w.frz = false →
    ∃ t, exec (.contextRecordWrite c (.window h w)) s = .next t ∧
      (t.ctx c).windows.lookup h.toNat = some { w with stamp := 0 }) ∧
  (∀ s c id e, s.boot = .done → c < 64 → (State.ctx s c).ovlBase.isSome = true →
    ∃ t, exec (.contextRecordWrite c (.overlay id e)) s = .next t ∧ (t.ctx c).overlays.lookup id.toNat = some e) ∧
  (∀ s c id r, s.boot = .done → c < 64 → (id : BitVec 16).toNat < (State.ctx s c).collN →
    (r.ctype = 3 → ∀ b ∈ s.bindings, b.ctx = c → b.prog = r.prog → b.ctrs.length = 256) →
    ∃ t, exec (.contextRecordWrite c (.collective id r)) s = .next t ∧ (t.ctx c).colls.lookup id.toNat = some r) ∧
  (∀ s c q slot bs k, s.boot = .done → c < 64 → (State.ctx s c).queue q = some k → slot < 2 ^ k.n → List.length bs = 256 →
    ∃ t k', exec (.contextRecordWrite c (.ring q slot bs)) s = .next t ∧ (t.ctx c).queue q = some k' ∧
      k'.recordAt slot = bs ∧ k'.tail = k.tail ∧ k'.acc = k.acc) ∧
  (∀ s c n base, s.boot = .done → n ≤ 16 → s.ctlFree c .windows base (2 ^ n * 32) = true →
    exec (.contextRecordWrite c (.region .windows base n)) s =
      .next (s.modCtx c fun x => { x with winBase := base, winN := some n, windows := [] })) ∧
  (∀ s c st n base bytes, s.boot = .done → structBytes st n = some bytes → 24 * 1048576 < base + bytes →
    exec (.contextRecordWrite c (.region st base n)) s = .next (s.ctxEvent c 0x09 base n))

/-- R4, R10, R102, R104, R107 to R109, R111, R155, R305, R331, R354, R357, R358, R398, R403, R404, R441, R450: format ranges,
the bytes that loads read from them, and context records. The corners of enabling and of the writes follow log entries 50, 84,
110 and 141, the model's reading; that ERR stays set through an accepted write that does not write 1 to it is log entry 116, and
that a range which ends at 2^40 may not be enabled log entry 121, the model's choices. -/
def Obligations.RangesAndRecords : Prop :=
  FormatRanges ∧ RangesDecode ∧ ContextRecords


namespace Sys2Proof.Claims

/-! ## Events of heats (R151, R153, R157 to R166, R404, R431 to R437, R449) -/

/-- A report of a heat that a deferred write makes (R404, R431). -/
def reportOf (s : State) (w : DWrite) (e : Cause) : Report :=
  { cause := e, pkg := s.pkg, seq := w.seq.toNat, win := w.win, addr := BitVec.ofNat 64 w.addr }

/-- Packets reach a package, and come from it: it is this one, or some port is UP (R351). -/
def PathTo (s : State) (p : BitVec 20) : Prop := p = s.pkg ∨ s.hasPath = true

/-- A deferred store of one byte. -/
def ByteStore (w : DWrite) (rule : BitVec 4) (a : Nat) (v : Byte) : Prop :=
  w.kind = .store rule ∧ w.addr = a ∧ w.data = [v]

/-- Whether a deferred write is a store. -/
def isStore (w : DWrite) : Bool :=
  match w.kind with
  | .store _ => true
  | .redAdd _ | .redMin _ | .redMax _ | .redOr _ => false

/-- The rule that a deferred write carries. -/
def ruleOf (w : DWrite) : Nat :=
  match w.kind with
  | .store r | .redAdd r | .redMin r | .redMax r | .redOr r => r.toNat

/-- The byte that a deferred store puts at an address, if it touches it. -/
def byteAt (w : DWrite) (a : Nat) : Option Byte := if w.addr ≤ a then w.data[a - w.addr]? else none

/-- The combination of rules 2 to 8 on 32-bit elements, with the cause it logs (R157). -/
def combined (rule v d : Nat) : Nat × Option Cause :=
  let sum := natSigned 32 v + natSigned 32 d
  let float := fadd .f32 .rne (fval .f32 v) (fval .f32 d)
  if rule = 2 then (float.bits, float.cause)
  else if rule = 3 then ((v + d) % 2 ^ 32, none)
  else if rule = 4 then ((inI32 sum % 2 ^ 32).toNat, if inI32 sum = sum then none else some 0x43)
  else if rule = 5 then (fmaxmin .f32 true v d, none)
  else if rule = 6 then (fmaxmin .f32 false v d, none)
  else if rule = 7 then (if natSigned 32 d < natSigned 32 v then v else d, none)
  else (if natSigned 32 d < natSigned 32 v then d else v, none)

/-- What a deferred `red` of 32 bits makes of a word (R163, R257). -/
def reduced (k : DKind) (v d : Nat) : Nat × Option Cause :=
  match k with
  | .store _ => (d, none)
  | .redAdd _ => combined 3 v d
  | .redMin _ => combined 8 v d
  | .redMax _ => combined 7 v d
  | .redOr _ => (Nat.lor v d, none)

/-- Combines values into a first one, in order, with the causes raised. -/
def folded {α : Type} (f : Nat → α → Nat × Option Cause) (x : Nat × List Cause) (l : List α) : Nat × List Cause :=
  l.foldl (fun x d => let r := f x.1 d; (r.1, x.2 ++ r.2.toList)) x

/-- The writes that an aligned word takes as one unit (R163): stores of bytes inside it under rules 0, 1 and 9, stores of the
word under rules 2 to 8, and reduce operations on it; one at least is of the last two. -/
structure WordWrites (ws : List DWrite) (a : Nat) : Prop where
  aligned : a % 4 = 0
  inside  : ∀ w ∈ ws, a ≤ w.addr ∧ w.addr + w.data.length ≤ a + 4 ∧ w.data ≠ []
  whole   : ∀ w ∈ ws, isStore w = false ∨ 2 ≤ ruleOf w ∧ ruleOf w ≤ 8 → w.addr = a ∧ w.data.length = 4
  rules   : ∀ w ∈ ws, ruleOf w ≤ 9
  word    : ∃ w ∈ ws, isStore w = false ∨ 2 ≤ ruleOf w ∧ ruleOf w ≤ 8

/-- The writes of a word conflict: stores under two rules, or two writes in all under FAULT; the rule of a word without stores
is that of its first reduce operation (R163). -/
def Clashes (stores reds : List DWrite) : Prop :=
  (∃ x ∈ stores, ∃ y ∈ stores, ruleOf x ≠ ruleOf y) ∨
  (stores.head?.or reds.head?).map ruleOf = some 9 ∧ 2 ≤ stores.length + reds.length

/-- The word that its stores leave, over the old one (R163). -/
def storesLeave (old a : Nat) (stores : List DWrite) : Nat × List Cause :=
  match stores with
  | [] => (old, [])
  | w :: l =>
    if 2 ≤ ruleOf w ∧ ruleOf w ≤ 8 then folded (combined (ruleOf w)) (leNat w.data, []) (l.map fun x => leNat x.data)
    else (leNat ((List.range 4).map fun i =>
      let put := stores.filterMap fun x => byteAt x (a + i)
      (if ruleOf w = 0 then put.getLast? else put.head?).getD (BitVec.ofNat 8 (old / 2 ^ (8 * i)))), [])

/-- The records of the heat that this package's apply uses, when nothing is torn. -/
def heatRecords (s : State) (c : Nat) : List DWrite := (s.ctx c).buffer.filter fun x => x.heat == (s.ctx c).heat

/-- Nothing of the heat of a context is torn. -/
def Whole (s : State) (c : Nat) : Prop := ∀ e ∈ (s.ctx c).torn, e.1 ≠ (s.ctx c).heat.toNat

end Sys2Proof.Claims

/-! ### Heats -/

/-- R153, R158, R268, R351, R432, R436, R437: deferred writes leave with the heat and the next sequence, within their
window's budget, wait while no port is UP, tear their window beyond its budget, or the package beyond its last sequence, and are
recorded at their destination, or discarded with a report. The order of the destination's
checks follows log entry 85, the model's reading. -/
def Obligations.DeferredWritesTravel : Prop :=
  (∀ s id c o, State.outboundOf s id = some (c, o) → (s.ctx c).mayLeave o = true → (s.ctx c).seqNo < 2 ^ 32 →
    (s.ctx c).inBudget o = true → PathTo s (BitVec.ofNat 20 o.peer) →
    let h := (s.ctx c).heat.toNat + if (s.ctx c).closed then 1 else 0
    ∃ t, exec (.dwriteSend id) s = .next t ∧
      (t.ctx c).outbound = (s.ctx c).outbound.filter (fun e => e.id ≠ id) ∧ (t.ctx c).seqNo = (s.ctx c).seqNo + 1 ∧
      (t.ctx c).inFlight = (s.ctx c).inFlight ++ [{ o with
        heat := h, w := { o.w with
          spkg := s.pkg, heat := BitVec.ofNat 48 h, seq := BitVec.ofNat 32 (s.ctx c).seqNo } }] ∧
      (o.budget ≠ none → (t.ctx c).budgets.lookup o.w.win.toNat =
        some (((s.ctx c).budgets.lookup o.w.win.toNat).getD 0 + o.w.data.length))) ∧
  (∀ s id c o, State.outboundOf s id = some (c, o) → (s.ctx c).mayLeave o = true → (s.ctx c).seqNo < 2 ^ 32 →
    (s.ctx c).inBudget o = false → PathTo s (BitVec.ofNat 20 o.peer) →
    let h := (s.ctx c).heat.toNat + if (s.ctx c).closed then 1 else 0
    ∃ t, exec (.dwriteSend id) s = .next t ∧ (h, s.pkg, some o.w.win) ∈ (t.ctx c).torn ∧
      (t.ctx c).outbound = (s.ctx c).outbound.filter (fun e => e.id ≠ id) ∧ (t.ctx c).inFlight = (s.ctx c).inFlight) ∧
  (∀ s id c o, State.outboundOf s id = some (c, o) → (s.ctx c).mayLeave o = true → 2 ^ 32 ≤ (s.ctx c).seqNo →
    PathTo s (BitVec.ofNat 20 o.peer) →
    let h := (s.ctx c).heat.toNat + if (s.ctx c).closed then 1 else 0
    ∃ t, exec (.dwriteSend id) s = .next t ∧ (h, s.pkg, none) ∈ (t.ctx c).torn ∧
      (t.ctx c).inFlight = (s.ctx c).inFlight) ∧
  (∀ s id c o, State.outboundOf s id = some (c, o) → ¬PathTo s (BitVec.ofNat 20 o.peer) →
    exec (.dwriteSend id) s = .next s) ∧
  (∀ s w, (w : DWrite).spkg ≠ State.pkg s → s.hasPath = true → s.checkWrite w = none → s.bufferRoom w = true →
    ∃ t, exec (.dwriteAccept w) s = .next t ∧ (t.ctx w.dctx.toNat).buffer = (s.ctx w.dctx.toNat).buffer ++ [w]) ∧
  (∀ s w e h, (w : DWrite).spkg ≠ State.pkg s → s.hasPath = true → s.checkWrite w = some (e, h) →
    ∃ t, exec (.dwriteAccept w) s = .next t ∧ (t.ctx w.dctx.toNat).buffer = (s.ctx w.dctx.toNat).buffer ∧
      (t.ctx w.dctx.toNat).reports = (s.ctx w.dctx.toNat).reports ++ [(h, reportOf s w e)]) ∧
  (∀ s w, (w : DWrite).heat < (State.ctx s w.dctx.toNat).heat →
    s.checkWrite w = some (0x1A, (s.ctx w.dctx.toNat).heat.toNat)) ∧
  (∀ s w, ¬ (w : DWrite).heat < (State.ctx s w.dctx.toNat).heat → w.spkg ∈ (s.ctx w.dctx.toNat).susp →
    s.checkWrite w = some (0x1D, w.heat.toNat)) ∧
  (∀ s w, ¬ (w : DWrite).heat < (State.ctx s w.dctx.toNat).heat → w.spkg ∉ (s.ctx w.dctx.toNat).susp →
    (s.ctx w.dctx.toNat).selfSusp = false → w.spkg ≠ s.pkg → w.key ≠ (s.ctx w.dctx.toNat).ikey →
    s.checkWrite w = some (0x0A, w.heat.toNat))

/-- R159, R164, R165, R351, R420: snapshot reads are served and answered, and windows freeze and thaw. That a range is named
by its package, source context and handle follows log entry 86, the model's reading. -/
def Obligations.SnapshotsAndFreezes : Prop :=
  (∀ s r bs, (r : SnapReq).spkg ≠ State.pkg s → (s.ctx r.dctx.toNat).selfSusp = false →
    r.key = (s.ctx r.dctx.toNat).ikey → s.vreadAcross r.dctx.toNat r.addr r.size = .ok bs → s.hasPath = true →
    s.spanShut r.dctx.toNat r.addr r.size = false →
    exec (.snapshotRead r) s = .next { s.spanKeep r.dctx.toNat r.addr r.size with answers := s.answers ++
      [{ req := r.req, cause := 0, data := bs, stamp := (s.ctx r.dctx.toNat).stampOf r.addr r.size }] }) ∧
  (∀ s r, (r : SnapReq).spkg ≠ State.pkg s → (s.ctx r.dctx.toNat).selfSusp = false →
    r.key ≠ (s.ctx r.dctx.toNat).ikey → s.hasPath = true →
    exec (.snapshotRead r) s = .next { s with answers := s.answers ++
      [{ req := r.req, cause := 0x0A, data := [], stamp := 0 }] }) ∧
  (∀ s r q d sx acq win peer pctx key, State.req s (r : SnapRsp).req = some q →
    q.kind = .snap d r.data.length sx acq win peer pctx key → q.value = none → q.bad = none → peer ≠ s.pkg →
    s.mayPlace q = true → s.hasPath = true → r.cause = 0 →
    exec (.snapshotResponse r) s = .next ((s.modReq r.req fun x => { x with value := some r.data }).modCtx q.ctx fun x =>
      { x with windows := x.windows.map fun p =>
          if p.1 == win.toNat && p.2.stamp < r.stamp then (p.1, { p.2 with stamp := r.stamp }) else p })) ∧
  (∀ s r q d n sx acq win peer pctx key, State.req s (r : SnapRsp).req = some q →
    q.kind = .snap d n sx acq win peer pctx key → q.value = none → q.bad = none → peer ≠ s.pkg →
    s.mayPlace q = true → s.hasPath = true → r.cause ≠ 0 →
    exec (.snapshotResponse r) s = .next (s.modReq r.req fun x => { x with bad := some r.cause })) ∧
  (∀ s pkg k h c base limit, PathTo s pkg →
    let f : FrozenRange := { pkg := pkg, sctx := k, handle := h, base := base, limit := limit, thawed := false }
    exec (.windowFreeze (.inbound pkg k h c base limit)) s = .next (s.modCtx c fun x =>
      { x with frozen := f :: x.frozen.filter (· != f) })) ∧
  (∀ s c h w, s.boot = .done → (State.ctx s c).window (h : BitVec 16).toNat = some w → 1 ≤ w.kind.toNat →
    w.kind.toNat ≤ 3 → w.peer ≠ s.pkg → exec (.windowFreeze (.own c h)) s = .next (s.modCtx c fun x =>
      { x with windows := x.windows.map fun p => if p.1 == h.toNat then (p.1, { p.2 with frz := true }) else p })) ∧
  (∀ s pkg k h c base limit, PathTo s pkg →
    exec (.windowThaw (.inbound pkg k h c base limit)) s =
      .next (s.modCtx c fun x => { x with frozen := x.frozen.map fun f =>
        if f.pkg == pkg && f.sctx == k && f.handle == h then { f with thawed := true } else f })) ∧
  (∀ s c h w, s.boot = .done → (State.ctx s c).window (h : BitVec 16).toNat = some w → w.peer ≠ s.pkg →
    exec (.windowThaw (.own c h)) s = .next (s.modCtx c fun x =>
      { x with windows := x.windows.map fun p => if p.1 == h.toNat then (p.1, { p.2 with frz := false }) else p }))

/-- R157, R163: what an apply makes of the units that a heat's writes touch: the canonical order, units of one byte, units of a
word, and a 64-bit reduce operation. -/
def Sys2Proof.Claims.UnitsResolve : Prop :=
  (∀ ws, (canonical ws).Perm ws ∧ (canonical ws).Pairwise fun a b =>
    a.spkg.toNat < b.spkg.toNat ∨ a.spkg = b.spkg ∧ a.seq.toNat ≤ b.seq.toNat) ∧
  (∀ l a r, (r = 0 ∨ r = 1 ∨ r = 9) → (∀ w ∈ l, isStore w = true ∧ ruleOf w = r) →
    let put := l.filterMap fun w => byteAt w a
    byteUnit l a =
      match put with
      | [] => .keep
      | v :: vs => if r = 9 ∧ vs ≠ [] then .conflict
        else .value (if r = 0 then (v :: vs).getLastD v else v).toNat []) ∧
  (∀ l a, (∀ w ∈ l, isStore w = true ∧ (ruleOf w = 0 ∨ ruleOf w = 1 ∨ ruleOf w = 9)) →
    (∃ x ∈ l, ∃ y ∈ l, ruleOf x ≠ ruleOf y ∧ (byteAt x a).isSome = true ∧ (byteAt y a).isSome = true) →
    byteUnit l a = .conflict) ∧
  (∀ (s : State) c ws a, WordWrites ws a →
    let stores := (canonical ws).filter isStore
    let reds := (canonical ws).filter fun w => !isStore w
    let v := folded (fun v (w : DWrite) => reduced w.kind v (leNat w.data)) (storesLeave (s.unitOld c a 4) a stores) reds
    (Clashes stores reds → s.applied c ws = { writes := [], clash := [a], causes := [] }) ∧
    (¬Clashes stores reds → s.applied c ws = { writes := [(a, leBytes 4 v.1)], clash := [], causes := v.2 })) ∧
  (∀ (s : State) c w a, (w : DWrite).addr = a → a % 8 = 0 → w.data.length = 8 → isStore w = false → ruleOf w ≤ 9 →
    let old := s.unitOld c a 8
    let d := leNat w.data
    s.applied c [w] = { clash := [], causes := [], writes := [(a, leBytes 8 (match w.kind with
      | .store _ => d
      | .redAdd _ => (old + d) % 2 ^ 64
      | .redMin _ => if natSigned 64 d < natSigned 64 old then d else old
      | .redMax _ => if natSigned 64 old < natSigned 64 d then d else old
      | .redOr _ => Nat.lor old d))] }) ∧
  (∀ s c a n pte pa, s.bad = [] → (∀ i, i < n → State.xlat s c (BitVec.ofNat 64 (a + i)) true = .ok pte (pa + i)) →
    s.unitOld c a n = leNat (memRead s.mem pa n))

/-- R163, R164, R404: the apply of a heat whose records come to one unit: it is written, and its region stamped; or it is in
conflict, is left unchanged and reported. -/
def Sys2Proof.Claims.HeatsApply : Prop :=
  (∀ s c a bs pte pa, c < 64 → State.applies s c = true → Whole s c →
    s.applied c (heatRecords s c) = { writes := [(a, bs)], clash := [], causes := [] } →
    s.applyBad c (heatRecords s c) = [] → s.xlat c (BitVec.ofNat 64 a) true = .ok pte pa →
    s.inRange pa bs.length = false → s.shut pa bs.length = false → s.dead pa bs.length = false → pteNear pte = false →
    ∃ t, exec (.quenchApply c []) s = .next t ∧ t.mem = memWrite s.mem pa bs ∧ (t.ctx c).applied = true ∧
      (t.ctx c).reports = (s.ctx c).reports ∧
      (t.ctx c).stamps.lookup (a / 2 ^ 21) = some (BitVec.ofNat 48 ((s.ctx c).heat.toNat + 1))) ∧
  (∀ s c a, c < 64 → State.applies s c = true → Whole s c → (s.ctx c).logbase = 0 →
    s.applied c (heatRecords s c) = { writes := [], clash := [a], causes := [] } → s.applyBad c (heatRecords s c) = [] →
    ∃ t, exec (.quenchApply c []) s = .next t ∧ t.mem = s.mem ∧ (t.ctx c).applied = true ∧
      (t.ctx c).stamps = (s.ctx c).stamps ∧
      (t.ctx c).reports = (s.ctx c).reports ++ [((s.ctx c).heat.toNat,
        { cause := 0x19, pkg := s.pkg, seq := 2 ^ 32 - 1, win := 0xFFFF, addr := BitVec.ofNat 64 a })]) ∧
  (∀ s c pkg win w, (w : DWrite).heat = (State.ctx s c).heat → w.spkg = pkg → w.direct = false → w.win = win →
    w ∉ (s.ctx c).heatWrites [(pkg, some win)] ∧ w ∉ (s.ctx c).heatWrites [(pkg, none)])

/-- R157, R163, R164, R404, R432: the apply of a heat's deferred writes. The rule of a word that takes reduce operations alone
is the model's reading (log entry 87). -/
def Obligations.AppliesResolveUnits : Prop :=
  UnitsResolve ∧ HeatsApply

/-- R151, R161 to R163, R166, R351, R404, R435, R437, R444, R449: the quench, from the arrival of packages to the release of
the heat. The moments and what the status holds follow log entries 85 to 87, the model's reading, and the members that are
suspended as a domain is formed or rejoined log entry 139; that forming a domain drops the records accepted before is log entry
136, the model's choice; the tree's latency is a free value. -/
def Obligations.QuenchesEnd : Prop :=
  (∀ s c ms susp, s.boot = .done → c < 64 → State.pkg s ∈ ms → ∃ t, exec (.heatDomainForm c ⟨ms, susp⟩) s = .next t ∧
    (t.ctx c).heat = 0 ∧ (t.ctx c).members = ms ∧ (t.ctx c).susp = susp ∧
    (t.ctx c).selfSusp = decide (s.pkg ∈ susp) ∧ (t.ctx c).closed = false ∧ (t.ctx c).buffer = [] ∧
    (t.ctx c).active = s.heatBlocks c) ∧
  (∀ s c, c < 64 → State.arrives s c = true → ∃ t, exec (.packageArrive c) s = .next t ∧ (t.ctx c).closed = true ∧
    (t.ctx c).seqNo = 0 ∧ (t.ctx c).budgets = [] ∧ s.pkg ∈ (t.ctx c).arrivals ∧ (t.ctx c).heat = (s.ctx c).heat) ∧
  (∀ s c b i t, b ∈ State.blocks s → b.ctx = c → b.lr.heatF = true → b.thread (.vec i) = some t → t.live = true →
    t.helper = false → t.arrived ≠ some (s.ctx c).heat.toNat ∨ t.parked = true →
    exec (.packageArrive c) s = .next s) ∧
  (∀ s c, (State.ctx s c).closed = false → exec (.activityReport c s.pkg) s = .next s) ∧
  (∀ s c p, c < 64 → PathTo s p → p ≠ State.pkg s → p ∈ (s.ctx c).members → p ∉ (s.ctx c).susp →
    ∃ t, exec (.activityReport c p) s = .next t ∧ (t.ctx c).actRep = true) ∧
  (∀ s c p torn reps, c < 64 → s.hasPath = true → p ≠ State.pkg s → p ∈ (s.ctx c).members → p ∉ (s.ctx c).susp →
    p ∉ (s.ctx c).arrivals →
    ∃ t, exec (.quenchArrivalReport c p torn reps) s = .next t ∧ (t.ctx c).arrivals = (s.ctx c).arrivals ++ [p] ∧
      (t.ctx c).reports = (s.ctx c).reports ++ reps.map (fun r => ((s.ctx c).heat.toNat, r)) ∧
      (t.ctx c).torn = (s.ctx c).torn ++ torn.map fun w => ((s.ctx c).heat.toNat, p, w)) ∧
  (∀ s c p reps, c < 64 → s.hasPath = true → p ≠ State.pkg s → p ∈ (s.ctx c).members → p ∉ (s.ctx c).susp → p ∉ (s.ctx c).dones →
    (s.ctx c).closed = true → (s.ctx c).void = false → (s.ctx c).tq = none →
    ((s.ctx c).isRoot s.pkg = true → (s.ctx c).allArrived = true ∧ (s.ctx c).actRep = true) →
    ∃ t, exec (.quenchDone c p reps) s = .next t ∧ (t.ctx c).dones = (s.ctx c).dones ++ [p] ∧
      (t.ctx c).tq = if ∀ m ∈ (s.ctx c).present, m = p ∨ m ∈ (s.ctx c).dones then some s.tick else none) ∧
  (∀ s c t heat susp, c < 64 → (State.ctx s c).selfSusp = false → (s.ctx c).tq = some t →
    t + Config.treeLatency s.pkg.toNat + s.stagger ≤ s.tick → (s.ctx c).isRoot s.pkg = true ∨ s.hasPath = true →
    s.statusShut c = false →
    ∃ u, exec (.quenchRelease ⟨c, heat, susp⟩) s = .next u ∧ (u.ctx c).heat = (s.ctx c).heat + 1 ∧ (u.ctx c).closed = false ∧
      (u.ctx c).tq = none ∧ (u.ctx c).dones = [] ∧ (u.ctx c).arrivals = [] ∧
      ((∀ r ∈ (s.ctx c).reports, r.1 ≠ (s.ctx c).heat.toNat) → (u.ctx c).qcause = 0)) ∧
  (∀ s c t heat susp, (State.ctx s c).selfSusp = false → (s.ctx c).tq = some t →
    s.tick < t + Config.treeLatency s.pkg.toNat + s.stagger → exec (.quenchRelease ⟨c, heat, susp⟩) s = .next s) ∧
  (∀ s c heat susp, c < 64 → (State.ctx s c).selfSusp = true → s.pkg ∈ (s.ctx c).readmit → s.hasPath = true →
    s.statusShut c = false → (s.ctx c).heat < heat →
    ∃ t, exec (.quenchRelease ⟨c, heat, susp⟩) s = .next t ∧ (t.ctx c).heat = heat ∧ (t.ctx c).selfSusp = false ∧
      (t.ctx c).susp = susp.filter (· ≠ s.pkg) ∧ (t.ctx c).seqNo = 0 ∧ (t.ctx c).budgets = []) ∧
  (∀ s c t late reps, c < 64 → (State.ctx s c).void = false → (s.ctx c).applied = false → (s.ctx c).tq = none →
    (s.ctx c).selfSusp = false →
    (s.ctx c).isRoot s.pkg = true → (s.ctx c).skewAt = some t → t + (s.ctx c).skewMs * 8000000 ≤ s.tick →
    (s.ctx c).missing ≠ [] →
    ∃ u, exec (.quenchSkewTimeout ⟨c, late, reps⟩) s = .next u ∧ (u.ctx c).void = true ∧ (u.ctx c).tq = some s.tick ∧
      (u.ctx c).susp = (s.ctx c).susp ++ (s.ctx c).present.filter (fun p => p ∉ (s.ctx c).arrivals)) ∧
  (∀ s c late reps p, c < 64 → (State.ctx s c).void = false → (s.ctx c).applied = false → (s.ctx c).tq = none →
    (s.ctx c).selfSusp = false → (s.ctx c).isRoot s.pkg = false → s.hasPath = true → (s.ctx c).closed = true →
    p ∈ (s.ctx c).members → p ∉ (s.ctx c).susp → p ∈ late →
    ∃ u, exec (.quenchSkewTimeout ⟨c, late, reps⟩) s = .next u ∧ (u.ctx c).void = true ∧
      (u.ctx c).susp = (s.ctx c).susp ++ (s.ctx c).present.filter (fun p => p ∈ late)) ∧
  (∀ s c p, s.boot = .done → PathTo s p → p ∈ (State.ctx s c).susp → p ∉ (s.ctx c).readmit →
    exec (.readmissionRequest c p) s = .next (s.modCtx c fun x => { x with readmit := x.readmit ++ [p] }))

namespace Sys2Proof.Claims

/-! ## Events of collectives, of ports and links, and the resets (R11, R323, R326 to R330, R338, R346, R348 to R353, R359,
R381 to R384, R427, R438 to R443) -/

/-- A round of a collective is alone: no other round of the collective is open, and no alias store waits. -/
def LoneRound (s : State) (c coll : Nat) (x : Round) : Prop :=
  s.rounds.filter (fun y => y.ctx == c && y.coll == coll) = [x] ∧ s.aliasWaits = []

/-- The completion word of a round that is no DISPATCH (R338). -/
def roundWord (status : Cause) (round : Nat) : Nat := status.toNat * 2 ^ 24 + round % 2 ^ 24

/-- A packet that its binding's inbound queue takes (R329, R330): nothing discards it, and a program of the runtime
serves its collective. -/
structure Queues (s : State) (p : Packet) (b : Binding) (r : CollRec) (i : Nat) : Prop where
  reach   : s.reaches p = true
  here    : otherType p.type = false ∧ s.packetHeld p = false ∧ s.discards p = none
  coll    : (s.ctx p.dctx.toNat).coll p.coll.toNat = some r
  bound   : s.bindingOf p.dctx.toNat r.prog = some (i, b)
  program : r.ctype ≠ 3 ∧ 4 < r.prog ∧ b.engine < 72

/-- No round of a collective has this number. -/
def RoundGone (s : State) (c coll round : Nat) : Prop :=
  ∀ y ∈ s.rounds, ¬ (y.ctx = c ∧ y.coll = coll ∧ y.round = round)

/-- A port presents this package's half of the join exchange: its id, its firmware digest, a key encapsulation and a
nonce, both free values (R19, R351). -/
def presents (s : State) (p : Nat) : State :=
  { s with
    fresh := s.fresh + 1
    joinOut := s.joinOut ++ [(p, { pkg := s.pkg, digest := s.digest, encap := Config.encap s.fresh,
                                   nonce := Config.nonce s.fresh })] }

/-- A port is refused, with an event that names the reason (R352). -/
def refuses (s : State) (p : Nat) (why : Refused) : State :=
  { s.modLink p fun k => { k with st := .refused } with portEvents := s.portEvents ++ [(p, why)] }

end Sys2Proof.Claims

/-! ### Collectives -/

/-- R326, R327, R329, R330: programs are bound and unbound, and packets that arrive are queued, discarded, or held
outside. -/
def Sys2Proof.Claims.ProgramsAndPackets : Prop :=
  (∀ s b, s.boot = .done → State.bindable s b = true → s.served (BindReq.make b) = [] →
    exec (.programBind b) s = .next { s with bindings := s.bindings ++
      [{ ctx := b.ctx, prog := b.prog, engine := b.engine, words := b.words,
         threads := b.entries.map fun e =>
           { n := e.1, pc := e.2, entry := e.2, v := Vector.replicate 16 0, cp := none, stopped := false, bound := none,
             half := false },
         slotBase := b.slotBase,
         slots := List.replicate b.slotN { full := false, form := .f, bytes := List.replicate 256 0, len := 0 },
         ctrBase := b.ctrBase, ctrs := List.replicate b.ctrN 0, oqBase := b.oqBase, oqs := List.replicate b.oqN [],
         rounds := [], tree := [], fqueue := [], fgrants := [], capDue := [] }] }) ∧
  (∀ s b k, k ∈ State.bindings s → k.ctx = b.ctx → k.prog = b.prog → exec (.programBind b) s = .next s) ∧
  (∀ s b, s.boot ≠ .done → exec (.programBind b) s = .next s) ∧
  (∀ s c prog i b, s.boot = .done → State.bindingOf s c prog = some (i, b) →
    ∃ t, exec (.programUnbind c prog) s = .next t ∧ t.bindings = s.bindings.eraseIdx i ∧
      (∀ p ∈ s.served b, ∀ x ∈ t.rounds, ¬ (x.ctx = c ∧ x.coll = p.1)) ∧
      ∀ o ∈ t.outbox, o.dst = s.pkg → s.routed b o.pkt = false) ∧
  (∀ s p e, (p : Packet).spkg ≠ State.pkg s → s.hasPath = true → otherType p.type = false → s.packetHeld p = false →
    s.discards p = some e →
    exec (.packetReceive p) s = .next (s.ctxEvent p.dctx.toNat e p.coll.toNat p.type.toNat)) ∧
  (∀ s p, (p : Packet).spkg ≠ State.pkg s → s.hasPath = true → p.ver ≠ 1 ∨ p.resv = true ∨ p.bf = true ∧ p.wrd = true →
    exec (.packetReceive p) s = .next (s.ctxEvent p.dctx.toNat 0x1C p.coll.toNat p.type.toNat)) ∧
  (∀ s p, (p : Packet).type = 0 ∨ 10 < p.type.toNat ∨ p.ver ≠ 1 → State.discards s p = some 0x1C) ∧
  (∀ s p r i b, Queues s p b r i → (vget s.inq b.engine []).length < 512 →
    ∃ t, exec (.packetReceive p) s = .next t ∧ vget t.inq b.engine [] = vget s.inq b.engine [] ++ [p]) ∧
  (∀ s p r i b, Queues s p b r i → 512 ≤ (vget s.inq b.engine []).length → exec (.packetReceive p) s = .next s)

/-- R338, R346, R381, R384, R441: a dispatch's source side takes grants, refusals and acknowledgements, and rounds
complete, or end late. -/
def Sys2Proof.Claims.RoundsComplete : Prop :=
  (∀ s p r q w bs, (p : Packet).type = 7 → s.reaches p = true → s.packetHeld p = false → State.discards s p = none →
    (s.ctx p.dctx.toNat).coll p.coll.toNat = some r → r.ctype = 3 →
    s.reqOf p.dctx.toNat p.coll.toNat p.srank.toNat p.chunk.toNat = some q → s.member p.dctx.toNat r q.rank = .ok w →
    1 ≤ r.nbytes → r.nbytes ≤ 256 → s.vreadAcross p.dctx.toNat q.rowa.toNat r.nbytes = .ok bs →
    ∃ t, exec (.grantReceive p) s = .next t ∧
      (∀ x ∈ t.dreqs, x.same q = true → x.row = some (p.slot.toNat + p.round.toNat * 65536)) ∧
      ∃ o ∈ t.outbox, o.dst = w.extractLsb' 0 20 ∧ o.pkt.type = 1 ∧ o.pkt.chunk = BitVec.ofNat 32 q.token ∧
        o.pkt.last = true ∧ o.pkt.data = bs) ∧
  (∀ s p r q u, (p : Packet).type = 8 → s.hasPath = true → s.packetHeld p = false → State.discards s p = none →
    p.spkg ≠ s.pkg → (s.ctx p.dctx.toNat).coll p.coll.toNat = some r → r.ctype = 3 →
    s.reqOf p.dctx.toNat p.coll.toNat p.srank.toNat p.chunk.toNat = some q →
    State.vwriteAcross (State.modRound { s with dreqs := s.dreqs.filter fun x => !x.same q } p.dctx.toNat p.coll.toNat
      q.round fun x => { x with refused := x.refused + 1 }) p.dctx.toNat (q.nacks.toNat + 2 * p.slot.toNat)
        (leBytes 2 q.token) = .ok u →
    exec (.nackReceive p) s = .next u) ∧
  (∀ s p r, (p : Packet).type = 7 ∨ p.type = 8 → s.hasPath = true → s.packetHeld p = false → State.discards s p = none →
    p.spkg ≠ s.pkg → (s.ctx p.dctx.toNat).coll p.coll.toNat = some r → r.ctype = 3 →
    s.reqOf p.dctx.toNat p.coll.toNat p.srank.toNat p.chunk.toNat = none →
    ∀ i, i = Instr.grantReceive p ∧ p.type = 7 ∨ i = Instr.nackReceive p ∧ p.type = 8 →
      exec i s = .next (s.ctxEvent p.dctx.toNat 0x1D p.coll.toNat p.type.toNat)) ∧
  (∀ s c coll round rank token r q l l', s.hasPath = true → (State.ctx s c).coll (coll : BitVec 16).toNat = some r → rank ≠ r.myrank →
    let mine (x : DReq) : Prop := x.ctx = c ∧ x.coll = coll.toNat ∧ x.round % 65536 = (round : BitVec 16).toNat ∧
      x.rank = rank ∧ x.token = token ∧ x.row.isSome = true
    s.dreqs = l ++ q :: l' → mine q → (∀ x ∈ l, ¬ mine x) →
    exec (.rowAck c coll round rank token) s = .next { s with dreqs := l ++ l' }) ∧
  (∀ s c coll r x st u, (State.ctx s c).coll (coll : BitVec 16).toNat = some r → LoneRound s c coll.toNat x →
    x.barup = some st → x.fail = 0 → r.ctype ≠ 3 → s.roundReady r x = true → r.cdone ≠ 0 →
    s.vwriteAcross c r.cdone (leBytes 4 (roundWord st x.round)) = .ok u →
    ∃ t, exec (.roundComplete c coll) s = .next t ∧ t.mem = u.mem ∧ RoundGone t c coll.toNat x.round) ∧
  (∀ s c coll r x b n u, (State.ctx s c).coll (coll : BitVec 16).toNat = some r → LoneRound s c coll.toNat x →
    x.begun = some b → x.fail = 0 → x.ended = false → r.ctype ≠ 3 → (s.ctx c).ctmo = n → n ≠ 0 →
    b + 2 ^ n * 8000000 ≤ s.tick → s.stagB = false → s.settled c = true → r.cdone ≠ 0 →
    s.vwriteAcross c r.cdone (leBytes 4 (roundWord 0x1D x.round)) = .ok u →
    ∃ t, exec (.collectiveTimeout c coll) s = .next t ∧ t.mem = u.mem ∧ RoundGone t c coll.toNat x.round) ∧
  (∀ s c coll r x b n, (State.ctx s c).coll (coll : BitVec 16).toNat = some r → LoneRound s c coll.toNat x →
    x.begun = some b → x.fail = 0 → x.ended = false → x.barup = none → r.ctype ≠ 3 → (s.ctx c).ctmo = n → n ≠ 0 →
    b + 2 ^ n * 8000000 ≤ s.tick → s.stagB = true → 0 < s.stagger →
    ∃ t, exec (.collectiveTimeout c coll) s = .next t ∧ t.mem = s.mem ∧ ∃ y, t.round c coll.toNat x.round = some y ∧
      y.status = 0x1D ∧ y.upAt = s.tick ∧ y.ended = true)

/-- R326, R327, R329, R330, R338, R346, R381, R384, R441: bindings, packets that arrive, and the rounds of
collectives. That a binding's registers v0 to v15 start at 0 is log entry 67, the model's reading; the other corners follow log
entries 65, 66, 70 and 98, the model's reading too. -/
def Obligations.CollectivesRun : Prop :=
  ProgramsAndPackets ∧ RoundsComplete


namespace Sys2Proof.Claims

/-! ## Alias windows, contributions, and the canonical rank tree (R332 to R337) -/

/-- The KIND of a collective's alias windows: 5 of a REDUCE, 4 of a MULTICAST, 6 of a GATHER or a DISPATCH (R332). -/
def aliasKind (r : CollRec) : Nat := if r.ctype = 0 then 5 else if r.ctype = 1 then 4 else 6

/-- The bytes that a collective's alias windows have: NBYTES, or an address for each rank of a DISPATCH (R332). -/
def aliasBytes (r : CollRec) : Nat := if r.ctype = 3 then 8 * r.nrank else r.nbytes

/-- The bytes of an element, below which no alias store goes (R331, R332). -/
def leastStore (r : CollRec) : Nat := if r.ctype = 3 then 8 else if r.opf.toNat / 16 = 1 then 2 else 4

/-- A window names collective `coll` of a context, whose record it matches (R332). -/
def Aliases (x : Context) (v : Window) (coll : Nat) (r : CollRec) : Prop :=
  coll < 65536 ∧ v.key.toNat = coll ∧ v.resv = false ∧ x.coll coll = some r ∧ v.kind.toNat = aliasKind r ∧
  v.base.toNat ≤ v.limit.toNat ∧ v.limit.toNat - v.base.toNat = aliasBytes r

/-- A store of `n` bytes at `off` lies within its window. -/
def InWindow (v : Window) (off n : Nat) : Prop := off + n ≤ v.limit.toNat - v.base.toNat

/-- What an alias store brings to its die-side engine. -/
def deposit (s : State) (b : Block) (w : Who) (t : Thread) (o : Mem) (coll : Nat) : AliasWait :=
  { blk := some b.id, who := w, upto := s.nextId + 1, core := b.core, ctx := b.ctx, coll := coll,
    off := (t.winAddr o).toNat, data := t.storeBytes o.d (sizeBytes o.size), stamp := none }

/-- The contribution to `w`'s collective in a state. -/
def contribOf (s : State) (w : AliasWait) (r : CollRec) : Contrib := s.contrib w.ctx w.coll r

/-- The byte that a contribution has at an offset once `w` is stored over it. -/
def byteOver (k : Contrib) (w : AliasWait) (a : Nat) : Option Byte :=
  if w.off ≤ a ∧ a < w.off + w.data.length then w.data[a - w.off]? else k.bytes.lookup a

/-- Bytes that lie in one chunk of a contribution, at a collective other than a DISPATCH, with nothing that they wait
for: no earlier access of their thread, no piece that waits, and a chunk that has not launched (R333). -/
def Lands (s : State) (w : AliasWait) (r : CollRec) : Prop :=
  r.ctype < 3 ∧ w.data ≠ [] ∧ w.off + w.data.length ≤ r.nbytes ∧
  w.off / r.chunk = (w.off + w.data.length - 1) / r.chunk ∧ (∀ k, w.blk = some k → s.reqsOf k w.who = []) ∧
  s.aliasWaits = [] ∧ w.off / r.chunk ∉ (contribOf s w r).launched

/-- The place of an offset in a chunk: the chunk's bytes end at NBYTES. -/
def InChunk (r : CollRec) (i a : Nat) : Prop := i * r.chunk ≤ a ∧ a < (i + 1) * r.chunk ∧ a < r.nbytes

/-- The chunk that a package sends to its own binding when every byte of it is stored (R333). -/
structure Launched (s : State) (w : AliasWait) (r : CollRec) (o : OutPkt) : Prop where
  home  : o.dst = s.pkg ∧ o.pkt.spkg = s.pkg ∧ o.pkt.dctx.toNat = w.ctx ∧ o.pkt.srank = BitVec.ofNat 20 r.myrank
  names : o.pkt.type = 1 ∧ o.pkt.coll.toNat = w.coll ∧ o.pkt.chunk.toNat = w.off / r.chunk ∧
    o.pkt.round = BitVec.ofNat 16 (contribOf s w r).round ∧ o.pkt.last = decide (w.off / r.chunk + 1 = r.chunks)
  bytes : o.pkt.data.length = min r.chunk (r.nbytes - w.off / r.chunk * r.chunk) ∧
    ∀ j, j < o.pkt.data.length → o.pkt.data[j]? = byteOver (contribOf s w r) w (w.off / r.chunk * r.chunk + j)

/-- A misuse of an alias window is due in a round: the round has failed, or will with 0x0B as it begins (R333). -/
def MisuseDue (s : State) (w : AliasWait) (r : CollRec) : Prop :=
  (∃ y, s.round w.ctx w.coll (contribOf s w r).round = some y ∧ y.fail ≠ 0) ∨ (contribOf s w r).misuse = true

/-- The level of the last tree node that the home engine of a rank computes (R336): rank 0 computes the root. -/
def topLevel (h : Nat) : Nat := ((List.range 20).find? fun k => h % 2 ^ (k + 1) ≠ 0).getD 20

/-- Node (l, i) of the canonical tree over `n` ranks: a node whose right subtree holds no rank below `n` passes its left
operand through (R336). -/
def rankNode {α : Type} (f : α → α → α) (leaf : Nat → α) (n : Nat) : Nat → Nat → α
  | 0, i => leaf i
  | l + 1, i =>
    if (2 * i + 1) * 2 ^ l < n then f (rankNode f leaf n l (2 * i)) (rankNode f leaf n l (2 * i + 1))
    else rankNode f leaf n l (2 * i)

/-- What the operand of a rank is to a chunk of a round at a binding: the first that came. -/
def operandOf (b : Binding) (coll round chunk j : Nat) : Option TreeEnt :=
  b.tree.find? fun e => e.coll == coll && e.round == round && e.chunk == chunk && e.rank == j

/-- The operands of a rank's nodes are all there: its own contribution, and the values of its children in order. -/
def OperandsIn (b : Binding) (coll round chunk : Nat) (ranks : List Nat) (x : Slot) (xs : List Slot) : Prop :=
  ∃ es : List TreeEnt, ranks.map (operandOf b coll round chunk) = es.map some ∧
    es.map (fun e => slotOf e.form e.bytes) = x :: xs

/-- A packet carries a node value of a REDUCE for a chunk. -/
def CarriesNode (p : Packet) (r : CollRec) (coll round chunk : Nat) (y : Slot) : Prop :=
  p.coll = BitVec.ofNat 16 coll ∧ p.chunk = BitVec.ofNat 32 chunk ∧ p.round = BitVec.ofNat 16 round ∧
  p.srank = BitVec.ofNat 20 r.myrank ∧ p.last = decide (chunk + 1 = r.chunks) ∧ p.form = y.form ∧
  p.data = y.bytes.take y.len

end Sys2Proof.Claims

/-- R137, R251, R332: a store through an alias window goes to its die-side engine, and its thread goes on; a mismatch of the
window and the record raises 0x0A, and a store that is too narrow, or not naturally aligned wherever it lies, 0x0B. -/
def Sys2Proof.Claims.AliasStoresIssue : Prop :=
  ∀ i g o rel, Stores i g o rel → o.space = .win →
    (∀ v coll r, CompletesWhen i g
      (fun s b _ t => t.helper = false ∧ (s.ctx b.ctx).window (t.handleNo o) = some v ∧ Aliases (s.ctx b.ctx) v coll r ∧
        InWindow v (t.winAddr o).toNat (sizeBytes o.size) ∧ 1 < sizeBytes o.size ∧ leastStore r ≤ sizeBytes o.size ∧
        (t.winAddr o).toNat % sizeBytes o.size = 0 ∧ Room s b)
      fun s b w t => (issued s).aliasStore (deposit s b w t o coll) r) ∧
    ∀ s b w t v, Issues s b w t i g → t.helper = false → (s.ctx b.ctx).window (t.handleNo o) = some v →
      4 ≤ v.kind.toNat → v.kind.toNat ≤ 6 →
      let n := sizeBytes o.size
      let off := (t.winAddr o).toNat
      (¬ InWindow v off n → off % n ≠ 0 → Raises s b w t i 0x0B (some (t.winAddr o)) 0) ∧
      (¬ InWindow v off n → off % n = 0 → Raises s b w t i 0x0A (some (t.winAddr o)) (t.handleNo o)) ∧
      (InWindow v off n → (∀ coll r, ¬ Aliases (s.ctx b.ctx) v coll r) →
        Raises s b w t i 0x0A (some (t.winAddr o)) (t.handleNo o)) ∧
      ∀ coll r, InWindow v off n → Aliases (s.ctx b.ctx) v coll r → n = 1 ∨ n < leastStore r ∨ off % n ≠ 0 →
        Raises s b w t i 0x0B (some (t.winAddr o)) 0

/-- R333: what an alias store does at its die-side engine: it waits while its chunk has launched; else its bytes join the
contribution, whose chunk launches when it is whole; a byte stored twice, or a store at a package other than a MULTICAST's
root, is reported with 0x0B. -/
def Sys2Proof.Claims.ContributionsCollect : Prop :=
  (∀ (s : State) w r, r.ctype = 3 → w.data.length ≠ 16 → s.aliasStore w r = s.aliasPiece w r) ∧
  (∀ (s : State) w r, r.ctype < 3 → s.aliasStore w r = s.aliasPiece w r) ∧
  (∀ (s : State) w r, r.ctype < 3 → w.off / r.chunk ∈ (contribOf s w r).launched →
    s.aliasPiece w r = { s with aliasWaits := s.aliasWaits ++ [w] }) ∧
  (∀ (s : State) w r, Lands s w r → r.ctype = 1 → r.myrank ≠ r.root →
    let z := s.aliasPiece w r
    z.outbox = s.outbox ∧ (contribOf z w r).bytes = (contribOf s w r).bytes ∧
      (∀ y, s.round w.ctx w.coll (contribOf s w r).round = some y → MisuseDue z w r) ∧
      (s.round w.ctx w.coll (contribOf s w r).round = none → (contribOf z w r).misuse = true)) ∧
  ∀ (s : State) w r, Lands s w r → ¬ (r.ctype = 1 ∧ r.myrank ≠ r.root) → w.ctx < 64 → w.coll < 65536 → r.nbytes < 2 ^ 32 →
    let z := s.aliasPiece w r
    let i := w.off / r.chunk
    ((∃ a, InChunk r i a ∧ byteOver (contribOf s w r) w a = none) →
      z.outbox = s.outbox ∧ (contribOf z w r).launched = (contribOf s w r).launched ∧
      ∀ a, (contribOf z w r).bytes.lookup a = byteOver (contribOf s w r) w a) ∧
    ((∀ a, InChunk r i a → byteOver (contribOf s w r) w a ≠ none) →
      (∃ o, z.outbox = s.outbox ++ [o] ∧ Launched s w r o) ∧
      (contribOf z w r).launched = (contribOf s w r).launched ++ [i] ∧
      ∀ a, InChunk r i a → (contribOf z w r).bytes.lookup a = none) ∧
    ((∃ a, w.off ≤ a ∧ a < w.off + w.data.length ∧ (contribOf s w r).bytes.lookup a ≠ none) →
      (∃ a, InChunk r i a ∧ byteOver (contribOf s w r) w a = none) → s.round w.ctx w.coll (contribOf s w r).round = none →
      (contribOf z w r).misuse = true)

/-- R334: when a block of a launch bound to a collective retires, its region is read as its contribution, at its place; one
that goes past NBYTES is refused with 0x12. -/
def Sys2Proof.Claims.BoundLaunchesContribute : Prop :=
  (∀ (s : State) b v coll r, (b : Block).lr.collF = true → (s.ctx b.ctx).pre ≠ .resetting →
    (s.ctx b.ctx).window b.lr.chdl.toNat = some v → Aliases (s.ctx b.ctx) v coll r →
    s.launchBound b = s.contribute b.ctx coll b.bid) ∧
  (∀ (s : State) b, (b : Block).lr.collF = false → s.launchBound b = s) ∧
  (∀ (s : State) c coll r bid bs, (s.ctx c).coll coll = some r → r.ctype < 3 → 1 ≤ r.bbytes →
    bid * r.bbytes + r.bbytes ≤ r.nbytes →
    bid * r.bbytes / r.chunk = (bid * r.bbytes + r.bbytes - 1) / r.chunk →
    s.vreadAcross c (r.inbase + bid * r.bbytes) r.bbytes = .ok bs →
    s.contribute c coll bid = (s.spanKeep c (r.inbase + bid * r.bbytes) bs.length).aliasPiece
      { blk := none, who := .ctl, upto := 0, core := 0, ctx := c, coll := coll, off := bid * r.bbytes, data := bs,
        stamp := if r.ctype = 2 then some ((s.ctx c).stampOf (r.inbase + bid * r.bbytes) bs.length) else none } r) ∧
  ∀ (s : State) c coll r bid x, (s.ctx c).coll coll = some r → r.ctype < 3 → 1 ≤ r.bbytes →
    r.nbytes < bid * r.bbytes + r.bbytes → s.round c coll (s.contrib c coll r).round = some x → x.fail = 0 →
    ∃ y, (s.contribute c coll bid).round c coll (s.contrib c coll r).round = some y ∧ y.fail = 0x12

/-- R335 to R337: the ranks whose values a rank combines with its own, left operand first, are those of the canonical tree; its
home engine sends the value of its last node to its parent's package, and rank 0 sends the root to every other member. -/
def Sys2Proof.Claims.TreesAreCanonical : Prop :=
  (∀ n h c, h < n → n ≤ 2 ^ 20 → (c ∈ childRanks n h ↔ c < n ∧ ∃ k, 2 ^ (k + 1) ∣ h ∧ c = h + 2 ^ k)) ∧
  (∀ n h, (childRanks n h).Pairwise (· < ·)) ∧
  (∀ h, 0 < h → h < 2 ^ 20 → h % 2 ^ (topLevel h + 1) = 2 ^ topLevel h ∧ parentRank h = h - 2 ^ topLevel h) ∧
  (∀ (f : Slot → Slot → Slot) leaf n h, h < n → n ≤ 2 ^ 20 →
    rankNode f leaf n (topLevel h) (h / 2 ^ topLevel h) =
      (childRanks n h).foldl (fun a c => f a (rankNode f leaf n (topLevel c) (c / 2 ^ topLevel c))) (leaf h)) ∧
  (∀ op xs x l y m, treeFold op x l xs = some (y, m) → y = xs.foldl (fun a z => combSlot op a z a) x ∧
    m.length = l.length + xs.length) ∧
  (∀ (s : State) i c coll r round chunk b x xs y m w, s.bindings[i]? = some b →
    OperandsIn b coll round chunk (r.myrank :: childRanks r.nrank r.myrank) x xs →
    treeFold (r.opf.toNat % 16) x [] xs = some (y, m) → 0 < r.myrank → s.member c r (parentRank r.myrank) = .ok w →
    m.flatten.all (fun p => p.2.isNone) = true →
    ∃ o, (s.firmReduce i c coll r round chunk).outbox = s.outbox ++ [o] ∧ o.dst = w.extractLsb' 0 20 ∧
      o.pkt.dctx = w.extractLsb' 20 6 ∧ o.pkt.type = 1 ∧ CarriesNode o.pkt r coll round chunk y) ∧
  (∀ (s : State) i c coll r round chunk b x xs y m j w, s.bindings[i]? = some b →
    OperandsIn b coll round chunk (r.myrank :: childRanks r.nrank r.myrank) x xs →
    treeFold (r.opf.toNat % 16) x [] xs = some (y, m) → r.myrank = 0 → (∀ k, k < r.nrank → ∃ v, s.member c r k = .ok v) →
    0 < j → j < r.nrank → s.member c r j = .ok w →
    m.flatten.all (fun p => p.2.isNone) = true →
    ∃ o ∈ (s.firmReduce i c coll r round chunk).outbox, o.dst = w.extractLsb' 0 20 ∧ o.pkt.dctx = w.extractLsb' 20 6 ∧
      o.pkt.type = 2 ∧ CarriesNode o.pkt r coll round chunk y) ∧
  ∀ (s : State) i c coll r p round u, r.ctype = 0 → r.opf.toNat / 16 ≠ 1 → (p : Packet).type = 2 → p.data.length ≤ 256 →
    s.vwriteAcross c (r.dst + p.chunk.toNat * r.chunk) p.data = .ok u → (s.firmTake i c coll r p round).mem = u.mem

/-- R332 to R337: stores through alias windows, the contributions of bound launches, and the canonical rank tree of a REDUCE. What
a launch bound to no collective does is log entry 135, the model's choice; how alias stores wait follows log entry 65. -/
def Obligations.ContributionsAndTrees : Prop :=
  AliasStoresIssue ∧ ContributionsCollect ∧ BoundLaunchesContribute ∧ TreesAreCanonical


/-- R323, R350, R359, R427, R443: the resets of the package, of a context and of a die, the die's return or failure,
and the end of a translation removal. What a reset keeps, and what makes the boot fail, follow log entries 88 to
90 and 112, the model's reading. -/
def Obligations.ResetsRestart : Prop :=
  (∀ s img keys, imageBoots img = some keys → exec (.packageReset img) s = .next { State.reset with
    fresh := s.fresh, nextId := s.nextId, agenda := s.agenda, hostLink := s.hostLink, boot := .done, pkg := img.pkgId,
    digest := sha3 img.body, config := Config.configDigest img.body, idKey := keys.1, idSecret := keys.2,
    certPkg := img.certPkg, certKey := img.certKey, certSig := img.certSig, certPod := img.certPod,
    ctlBase := img.ctlBase, ctlBytes := img.ctlBytes, nearMax := img.nearMax, spillBase := img.spillBase,
    spill := img.spillSize, accepted := img.accepted, podKeys := img.podKeys,
    ctxs := Vector.replicate 64 (Context.reset img.pkgId) }) ∧
  (∀ s img, imageBoots img = none → exec (.packageReset img) s = .next { State.reset with
    fresh := s.fresh, nextId := s.nextId, agenda := s.agenda, hostLink := s.hostLink, boot := .recovery }) ∧
  (∀ img, imageBoots img =
    if Config.sigVerifies Config.romKey (sha3 img.body) img.signature = true ∧ img.regions = [384, 72, 32, 24] ∧
        img.ctlBytes ≤ 8 * 2 ^ 20 ∧ img.ctlBase + img.ctlBytes ≤ 24 * 2 ^ 20 ∧ img.nearMax ≤ 8192 ∧
        img.spillSize ≤ 16 * 2 ^ 30 ∧ img.spillBase + img.spillSize ≤ 2 ^ 40 then
      Config.idPair img.body Config.pufResponse
    else none) ∧
  (∀ s c, c < 64 → s.boot = .done → (State.ctx s c).pre = .running → (∀ b ∈ s.blocks, b.ctx ≠ c) → (∀ x ∈ s.cmds, x.ctx ≠ c) →
    (∀ x ∈ s.rounds, x.ctx ≠ c) →
    ∃ t l, exec (.contextReset c) s = .next t ∧ (t.ctx c).pre = .running ∧ (t.ctx c).log = 0 ∧
      (∀ k ∈ t.launches, k.ctx ≠ c) ∧ (t.ctx c).outbound = [] ∧ (t.ctx c).saved = [] ∧ t.mem = s.mem ∧
      t.events = l ++ [⟨c, 0, 0, 0⟩]) ∧
  (∀ s d, d < 8 → s.boot = .done → (State.die s d).st = .up → (∀ b ∈ s.blocks, b.core / 20 ≠ d) →
    ∃ t, exec (.hearthDieReset d) s = .next t ∧ t.die d = { Die.reset with st := .resetting s.tick } ∧
      (∀ k ∈ t.near, k.die ≠ d) ∧ (∀ k ∈ t.l1, k.core / 20 ≠ d) ∧ ∀ i, i < 20 → t.core (20 * d + i) = Core.reset) ∧
  (∀ s d since, (State.die s d).st = .resetting since → exec (.dieRejoin d) s = .next (s.modDie d fun x =>
    { x with st := .up, adv := (List.range 20).map fun i => s.coreRes (d * 20 + i), sent := [] })) ∧
  (∀ s d since r a n sx acq nc, (State.die s d).st = .resetting since → d < 8 → since + 1000 * 8000000 ≤ s.tick →
    r ∈ s.reqs → homeDie r.pa = d → r.st = .issued → r.kind = .load a n sx acq nc → r.value = none → r.bad = none →
    ∃ t, exec (.dieFailTimeout d) s = .next t ∧ (t.die d).st = .failed ∧ { r with bad := some 0x13 } ∈ t.reqs) ∧
  (∀ s i b t, State.invs s = [i] → s.block i.blk = some b → b.thread i.who = some t → t.live = true →
    t.wait = .tlbinv i.id → i.mode ≤ 1 →
    exec (.tlbinvRemovalComplete i.id) s = .next ((State.tlbRemove { s with invs := [] } fun e =>
      e.ctx == i.ctx && (i.mode == 1 || e.covers i.ctx (i.va.toNat / 65536))).passAll i.blk [i.who] 1))

/-- R348 to R353, R438, R439: a port from its enabling to the loss of its link, and the frames it takes. What the
cryptography answers is free (log entry 14), and the corners follow log entry 91, the model's reading. -/
def Obligations.PortsAndLinks : Prop :=
  (∀ s p, s.boot = .done → (State.port s p).st = .down →
    exec (.portEnable p) s = .next (s.modLink p fun k => { k with st := .training s.tick })) ∧
  (∀ s p since, (State.port s p).st = .training since → s.tick < since + 500 * 8000000 →
    exec (.trainingComplete p) s = .next (State.modLink (presents s p) p fun k =>
      { k with st := .joining, nonce := Config.nonce s.fresh })) ∧
  (∀ s p since, (State.port s p).st = .training since → since + 500 * 8000000 ≤ s.tick →
    exec (.trainingTimeout p) s = .next (s.modLink p fun k => { k with st := .down })) ∧
  (∀ s p m, (State.port s p).st = .joining → m.digest ∈ s.accepted →
    exec (.joinExchange p m) s = .next (match Config.kemKey m.encap with
      | some key => State.modLink { s with attestOut := s.attestOut ++ [(p, s.report m.nonce)] } p fun k =>
          { k with st := .attesting, peer := some m.pkg, digest := m.digest, key := key, pn := 1, peerNonce := m.nonce,
                   refreshing := false, newKey := none }
      | none => refuses s p .key)) ∧
  (∀ s n, let m := State.report s n
    m.pkg = s.pkg ∧ m.digest = s.digest ∧ m.config = s.config ∧ m.nonce = n ∧ m.key = s.idKey ∧
    m.sig = Config.sign s.idSecret (leBytes 3 s.pkg.toNat ++ s.digest ++ s.config ++ leBytes 32 n.toNat) ∧
    m.certPkg = s.certPkg ∧ m.certKey = s.certKey ∧ m.certSig = s.certSig ∧ m.podKey = s.certPod) ∧
  (∀ s p m, (State.port s p).st = .joining → m.digest ∉ s.accepted →
    exec (.joinExchange p m) s = .next (refuses s p .digest)) ∧
  (∀ s p m, (State.port s p).st = .attesting → exec (.attestationReport p m) s = .next (
    match s.attestFault p m with
    | some why => refuses s p why
    | none => { s.modLink p fun k => { k with st := .up, idKey := m.key, starved := false } with
        pathLost := none, pathTold := [] })) ∧
  (∀ s p (m : AttestMsg), m.nonce ≠ (State.port s p).nonce ∨ m.digest ≠ (State.port s p).digest ∨
    (State.port s p).peer ≠ some m.pkg → s.attestFault p m = some .report) ∧
  (∀ s p, s.boot = .done → (State.port s p).st = .refused → exec (.portClear p) s = .next (s.modLink p fun _ => Port.reset)) ∧
  (∀ s p, (State.port s p).st = .up → s.pathLost = none → (∀ q, q ≠ p → (s.port q).st ≠ .up) →
    ∃ t, exec (.linkLoss p) s = .next t ∧ (t.port p).st = .down ∧ t.pathLost = some s.tick ∧
      ∀ c, c < 64 → (s.ctx c).fn ≠ none → (t.ctx c).portBad = true) ∧
  (∀ s p f, (State.port s p).st = .up →
    let drops : State := s.modLink p fun k => { k with replays := addRecent s.tick k.replays }
    exec (.frameReceive p f) s = .next (match Config.frameOpen (s.port p).key f.pn f.bytes, (s.port p).newKey with
      | some m, _ => s.deliver m
      | none, none => drops
      | none, some key =>
        match Config.frameOpen key f.pn f.bytes with
        | some m => (s.modLink p fun k => { k with key := key, newKey := none }).deliver m
        | none => drops)) ∧
  (∀ s p f bs q r i b, (State.port s p).st = .up →
    Config.frameOpen (s.port p).key f.pn f.bytes = some (.reliableOrdered, bs) → packetOf bs = some q →
    Queues s q b r i → (vget s.inq b.engine []).length < 512 →
    ∃ t, exec (.frameReceive p f) s = .next t ∧ vget t.inq b.engine [] = vget s.inq b.engine [] ++ [q]) ∧
  (∀ s p f bs, (State.port s p).st = .up → Config.frameOpen (s.port p).key f.pn f.bytes = some (.unreliable, bs) →
    exec (.frameReceive p f) s = .next s) ∧
  (∀ p : Packet, p.data.length < 65536 → packetOf p.bytes = some p ∧ p.header.length = 32) ∧
  (∀ s pkg t, s.pathLost = some t → State.hasPath s = false → t + 100 * 8000000 ≤ s.tick → pkg ∉ s.pathTold →
    pkg ≠ s.pkg → exec (.noPathTimeout pkg) s = .next (State.tellWaiting { s with pathTold := s.pathTold ++ [pkg] } pkg)) ∧
  (∀ s pkg, (∀ c, c < 64 → State.trafficSent s c pkg = false) → (State.tellWaiting s pkg).events = s.events ++
    ((List.range 64).filter fun c => s.trafficWaits c pkg).map fun c => ⟨c, 0x1B, pkg.toNat, 0⟩) ∧
  (∀ s p, (State.port s p).st = .up → (s.port p).refreshing = false →
    exec (.keyRefresh p) s = .next ((presents s p).modLink p fun k =>
      { k with nonce := Config.nonce s.fresh, refreshing := true, pn := 2 ^ 64 - 2 ^ 32 })) ∧
  (∀ s p, (State.port s p).st = .up → (s.port p).refreshing = true →
    ∃ t, exec (.keyStarved p) s = .next t ∧ (t.port p).st = .joining ∧ (t.port p).starved = true ∧
      (t.port p).nonce = Config.nonce s.fresh ∧
      (s.pathLost = none → (∀ q, q ≠ p → (s.port q).st ≠ .up) → t.pathLost = some s.tick))

namespace Sys2Proof.Claims

/-! ## Port programs (R325 to R343) -/

/-- A port thread holds the issue slot. -/
def PortHolds (s : State) (i k : Nat) (b : Binding) (t : PThread) : Prop :=
  s.cur = some (.port i k) ∧ s.bindings[i]? = some b ∧ b.threads[k]? = some t

/-- The issue slot is empty. -/
def idle (s : State) : State := { s with cur := none }

/-- A port thread is changed. -/
def ports (s : State) (i k : Nat) (f : PThread → PThread) : State :=
  s.modBinding i fun b => { b with threads := lmod b.threads k f }

/-- A slot of a binding is changed. -/
def slots (s : State) (i n : Nat) (f : Slot → Slot) : State := s.modBinding i fun b => { b with slots := lmod b.slots n f }

/-- A counter of a binding is changed. -/
def counter (s : State) (i n : Nat) (v : Word) : State :=
  s.modBinding i fun b => { b with ctrs := lmod b.ctrs n fun _ => v }

/-- An order queue of a binding is changed. -/
def queue (s : State) (i n : Nat) (f : List OqEnt → List OqEnt) : State :=
  s.modBinding i fun b => { b with oqs := lmod b.oqs n f }

/-- A port thread that issues `ins` where `pre` holds passes on to its next word in the state `eff`. -/
def PortCompletes (ins : Instr) (pre : State → Binding → PThread → Prop)
    (eff : State → Nat → Nat → Binding → PThread → State) : Prop :=
  ∀ s i k b t, PortHolds s i k b t → pre s b t →
    exec ins s = .next (ports (eff (idle s) i k b t) i k fun u => { u with pc := u.pc + 1 })

/-- A port thread that issues `ins` where `pre` holds goes to a word. -/
def PortJumps (ins : Instr) (pre : Binding → PThread → Prop) (pc : Nat) : Prop :=
  ∀ s i k b t, PortHolds s i k b t → pre b t → exec ins s = .next (ports (idle s) i k fun u => { u with pc := pc })

/-- A port thread that issues `ins` where `pre` holds waits in the state `eff`, and issues it again. -/
def PortWaits (ins : Instr) (pre : State → Binding → PThread → Prop) (eff : State → Nat → Nat → State) : Prop :=
  ∀ s i k b t, PortHolds s i k b t → pre s b t → exec ins s = .next (eff (idle s) i k)

/-- A port thread that issues `ins` where `pre` holds stops with 0x1C (R343, R440). -/
def PortStops (ins : Instr) (pre : State → Binding → PThread → Prop) : Prop :=
  ∀ s i k b t, PortHolds s i k b t → pre s b t → exec ins s = .next ((idle s).stopPort ⟨i, k⟩)

/-- An operation that writes one register. -/
def PortWrites (ins : Instr) (pre : State → Binding → PThread → Prop) (d : BitVec 4)
    (v : State → Binding → PThread → Word) : Prop :=
  PortCompletes ins pre fun s i k b t => ports s i k fun u => u.setReg d (v s b t)

/-- The word that holds SLOT and ROUND of a packet, and the registers that a bound packet fills (R341). -/
def bindsPacket (d : BitVec 4) (b : Binding) (p : Packet) (t : PThread) : PThread :=
  let v := vset t.v d.toNat (BitVec.ofNat 32 (p.coll.toNat + p.type.toNat * 2 ^ 16))
  let v := vset v (d.toNat + 1) p.chunk
  let v := vset v (d.toNat + 2) (BitVec.ofNat 32 p.srank.toNat)
  let v := vset v (d.toNat + 3) (BitVec.ofNat 32 (p.slot.toNat + p.round.toNat * 2 ^ 16))
  { t with v := v, cp := some p, bound := some (p.coll.toNat, b.roundOf p.coll.toNat) }

/-- The message that `fwd` and `repl` send: the header of the four registers, the bytes of the slot. -/
def message (t : PThread) (h : BitVec 4) (y : Slot) : Packet := { t.header h with data := y.bytes.take y.len }

/-- A slot of a binding by the number in a register. -/
def slotAt (b : Binding) (t : PThread) (r : BitVec 4) : Option Slot := b.slots[(t.reg r).toNat % 4096]?

/-- The entries of an order queue that a drain sees: those of its round, and, but for a dispatch, every REQ (R342,
R382). -/
def waiting (s : State) (b : Binding) (l : List OqEnt) : List OqEnt :=
  l.filter fun e => b.current e || (!(s.dispatchOf b).isSome && !e.eol)

end Sys2Proof.Claims

/-! ### Port programs -/

/-- R341: the operations that compute, jump and end. -/
def Sys2Proof.Claims.PortComputation : Prop :=
  PortCompletes .mcfNop (fun _ _ _ => True) (fun s _ _ _ _ => s) ∧
  (∀ d c, PortWrites (.mcfSet d c) (fun _ _ _ => True) d fun _ _ _ => BitVec.ofNat 32 c.toNat) ∧
  (∀ d c, PortWrites (.mcfSetHi d c) (fun _ _ _ => True) d fun _ _ t =>
    BitVec.ofNat 32 (c.toNat * 2 ^ 18 + (t.reg d).toNat % 2 ^ 18)) ∧
  (∀ d a b c, PortWrites (.mcfAdd d a b c) (fun _ _ _ => True) d fun _ _ t =>
    BitVec.ofInt 32 ((t.reg a).toNat + (t.reg b).toNat + c.toInt)) ∧
  (∀ d a c, PortWrites (.mcfAddImm d a c) (fun _ _ _ => True) d fun _ _ t =>
    BitVec.ofInt 32 ((t.reg a).toNat + c.toInt)) ∧
  (∀ c n, c.toNat = n → PortJumps (.mcfJmp c) (fun b _ => n < b.words.length) n) ∧
  (∀ a c, PortJumps (.mcfJz a c) (fun b t => t.reg a = 0 ∧ c.toNat < b.words.length) c.toNat) ∧
  (∀ a c, PortCompletes (.mcfJz a c) (fun _ _ t => t.reg a ≠ 0) fun s _ _ _ _ => s) ∧
  (∀ a c, PortJumps (.mcfJnz a c) (fun b t => t.reg a ≠ 0 ∧ c.toNat < b.words.length) c.toNat) ∧
  (∀ a c, PortCompletes (.mcfJnz a c) (fun _ _ t => t.reg a = 0) fun s _ _ _ _ => s) ∧
  (∀ c, PortStops (.mcfJmp c) fun _ b _ => b.words.length ≤ c.toNat) ∧
  (∀ s i k b t, PortHolds s i k b t → exec .mcfEnd s =
    .next (ports (ports (idle s) i k fun u => { u with cp := none }) i k fun u => { u with pc := t.entry }))

/-- R341, R342: collective records, members, counters, counter pairs, words of slots, and log records. -/
def Sys2Proof.Claims.PortRegistersAndSlots : Prop :=
  (∀ d a w, PortWrites (.mcfLookup d a w) (fun _ _ _ => True) d fun s b t =>
    match (s.ctx b.ctx).coll (t.reg a).toNat with
    | some r => r.word w.toNat
    | none => 0xFFFFFFFF) ∧
  (∀ d a m r v, PortWrites (.mcfLookupM d a m) (fun s b t => (s.ctx b.ctx).coll (t.reg a).toNat = some r ∧
    s.membShut b.ctx r = false ∧ s.member b.ctx r (t.reg m).toNat = .ok v) d fun _ _ _ => v) ∧
  (∀ d a m, PortWrites (.mcfLookupM d a m) (fun s b t => ∀ r, (s.ctx b.ctx).coll (t.reg a).toNat = some r →
    s.membShut b.ctx r = false ∧ r.nrank ≤ (t.reg m).toNat) d fun _ _ _ => 0xFFFFFFFF) ∧
  (∀ d a x set old, PortCompletes (.mcfCnt d a x set)
    (fun _ b t => b.capDue = [] ∧ b.ctrs[(t.reg a).toNat % 256]? = some old)
    fun s i k _ t =>
      ports (counter s i ((t.reg a).toNat % 256) (if set then t.reg x else BitVec.ofNat 32 (old.toNat + (t.reg x).toNat)))
        i k fun u => u.setReg d old) ∧
  (∀ d a x nxt lim, PortCompletes (.mcfGrant d a x)
    (fun s b t => b.capDue = [] ∧ b.ctrs[2 * ((t.reg a).toNat % 128)]? = some nxt ∧ b.ctrs[2 * ((t.reg a).toNat % 128) + 1]? = some lim ∧
      1 ≤ (t.reg x).toNat ∧ nxt.toNat + (t.reg x).toNat ≤ lim.toNat ∧ s.dispatchOf b = none)
    fun s i k _ t =>
      ports (counter s i (2 * ((t.reg a).toNat % 128)) (nxt + t.reg x)) i k fun u => u.setReg d nxt) ∧
  (∀ d a x nxt lim c, PortCompletes (.mcfGrant d a x)
    (fun s b t => b.capDue = [] ∧ b.ctrs[2 * ((t.reg a).toNat % 128)]? = some nxt ∧ b.ctrs[2 * ((t.reg a).toNat % 128) + 1]? = some lim ∧
      1 ≤ (t.reg x).toNat ∧ nxt.toNat + (t.reg x).toNat ≤ lim.toNat ∧ s.dispatchOf b = some c)
    fun s i k b t =>
      ports ((counter s i (2 * ((t.reg a).toNat % 128)) (nxt + t.reg x)).modRound b.ctx c (b.roundOf c) fun r =>
        { r with granted := r.granted + (t.reg x).toNat }) i k fun u => u.setReg d nxt) ∧
  (∀ d a x nxt lim, PortWrites (.mcfGrant d a x)
    (fun _ b t => b.capDue = [] ∧ b.ctrs[2 * ((t.reg a).toNat % 128)]? = some nxt ∧ b.ctrs[2 * ((t.reg a).toNat % 128) + 1]? = some lim ∧
      ((t.reg x).toNat = 0 ∨ lim.toNat < nxt.toNat + (t.reg x).toNat)) d fun _ _ _ => 0xFFFFFFFF) ∧
  (∀ d a w y, PortWrites (.mcfLd d a w) (fun _ b t => slotAt b t a = some y) d fun _ _ _ =>
    BitVec.ofNat 32 (leNat ((y.bytes.drop (4 * w.toNat)).take 4))) ∧
  (∀ d a w y, PortCompletes (.mcfSt d a w) (fun _ b t => slotAt b t a = some y) fun s i _ _ t =>
    slots s i ((t.reg a).toNat % 4096) fun z =>
      { z with bytes := z.bytes.take (4 * w.toNat) ++ leBytes 4 (t.reg d).toNat ++ z.bytes.drop (4 * w.toNat + 4) }) ∧
  (∀ a c, PortCompletes (.mcfLog a c) (fun _ _ _ => True) fun s _ _ b t =>
    s.logEngine b.ctx c ((t.reg a).toNat % 2 ^ 16) (BitVec.ofNat 64 (b.engine * 65536 + t.pc))) ∧
  (∀ ins, (∃ d a w, ins = .mcfLd d a w ∨ ins = .mcfSt d a w) →
    PortStops ins fun _ b t => ∀ d a w, ins = .mcfLd d a w ∨ ins = .mcfSt d a w → slotAt b t a = none)


/-- R325 to R330, R341 to R343: packets, slots, sends, completions of rounds and order queues; what waits and what
stops. The corners follow log entries 67 to 70, the model's reading. -/
def Obligations.PortPacketsAndQueues : Prop :=
  (∀ d ty p, PortCompletes (.mcfMatch d ty)
    (fun s b _ => (vget s.inq b.engine []).find? (fun x => s.routed b x && x.type == ty) = some p)
    fun s i k b _ =>
      let s' := ports s i k fun u => { u with cp := none }
      ports { s' with inq := vmod s.inq b.engine (dropFirst fun x => s.routed b x && x.type == ty) } i k
        (bindsPacket d b p)) ∧
  (∀ d ty, PortWaits (.mcfMatch d ty) (fun s b _ => ∀ x ∈ vget s.inq b.engine [], s.routed b x = true → x.type ≠ ty)
    fun s i k => ports s i k fun u => { u with cp := none }) ∧
  (∀ a p y, PortCompletes (.mcfHold a) (fun _ b t => t.cp = some p ∧ slotAt b t a = some y ∧ y.full = false)
    fun s i k _ t => ports (slots s i ((t.reg a).toNat % 4096) fun z => z.fill p.form p.data) i k fun u =>
      { u with cp := none }) ∧
  (∀ a, PortStops (.mcfHold a) fun _ b t => t.cp = none ∨ ∃ y, slotAt b t a = some y ∧ y.full = true) ∧
  (∀ a c x y, PortCompletes (.mcfWait a c)
    (fun _ b t => slotAt b t a = some x ∧ slotAt b t c = some y ∧ (t.half = true ∨ x.full = true) ∧ y.full = true)
    fun s i k _ _ => ports s i k fun u => { u with half := false }) ∧
  (∀ a c x y, PortWaits (.mcfWait a c)
    (fun _ b t => slotAt b t a = some x ∧ slotAt b t c = some y ∧ t.half = false ∧ x.full = false) fun s _ _ => s) ∧
  (∀ d a h keep y, PortCompletes (.mcfFwd d a h keep)
    (fun s b t => slotAt b t d = some y ∧ y.full = true ∧ s.inRanks b.ctx (message t h y) (t.reg a).toNat = true ∧
      s.sendHeld b.ctx (message t h y) = false)
    fun s i _ b t => slots (s.portSend b (message t h y) (t.reg a).toNat) i ((t.reg d).toNat % 4096) fun z =>
      { z with full := keep }) ∧
  (∀ d a h keep n y l, PortCompletes (.mcfRepl d a h keep n)
    (fun s b t => slotAt b t d = some y ∧ slotAt b t a = some l ∧ y.full = true ∧
      s.sendHeld b.ctx (message t h y) = false ∧ ∀ m ∈ byteElems 4 (n.toNat + 1) l.bytes, s.inRanks b.ctx (message t h y) m = true)
    fun s i _ b t => slots ((byteElems 4 (n.toNat + 1) l.bytes).foldl (fun s m => s.portSend b (message t h y) m) s) i
      ((t.reg d).toNat % 4096) fun z => { z with full := keep }) ∧
  (∀ d a f y c r, PortCompletes (.mcfEmit d a f)
    (fun _ b t => slotAt b t d = some y ∧ t.bound = some (c, r) ∧ y.full = true ∧ (f = true → y.form = .f))
    fun s _ _ b t =>
      (s.logComb b.ctx (emitCauses y f) (BitVec.ofNat 64 (b.engine * 65536 + t.pc))).emitTo b.ctx c r
        (joinPair (t.reg a) (t.regPlus a 1)).toNat (emitBytes y f)) ∧
  (∀ d a f, PortStops (.mcfEmit d a f) fun _ _ t => t.bound = none) ∧
  (∀ a x r, PortCompletes (.mcfBarup a x) (fun s b t => (s.ctx b.ctx).coll (t.reg a).toNat = some r)
    fun s i _ b t => s.barup i b.ctx (t.reg a).toNat r ((t.reg x).extractLsb' 0 8)) ∧
  (∀ a x, PortCompletes (.mcfBarup a x) (fun s b t => (s.ctx b.ctx).coll (t.reg a).toNat = none)
    fun s _ _ _ _ => s) ∧
  (∀ a h, PortCompletes (.mcfNack a h)
    (fun s b t => t.cp ≠ none ∧ s.inRanks b.ctx { t.header h with type := 8 } (t.reg a).toNat = true ∧
      s.sendHeld b.ctx { t.header h with type := 8 } = false)
    fun s _ _ b t => s.portSend b { t.header h with type := 8 } (t.reg a).toNat) ∧
  (∀ a p l, PortCompletes (.mcfOrder a)
    (fun _ b t => t.cp = some p ∧ b.oqs[(t.reg a).toNat % 16]? = some l ∧ (p.type = 6 ∨ p.type = 9) ∧
      (l.filter fun e => !e.taken).length < 8192)
    fun s i k _ t => ports (queue s i ((t.reg a).toNat % 16) fun l => l ++ [{ pkt := p, taken := false }]) i k fun u =>
      { u with cp := none }) ∧
  (∀ a p l, PortWaits (.mcfOrder a)
    (fun _ b t => t.cp = some p ∧ b.oqs[(t.reg a).toNat % 16]? = some l ∧ (p.type = 6 ∨ p.type = 9) ∧
      8192 ≤ (l.filter fun e => !e.taken).length) fun s _ _ => s) ∧
  (∀ d a x l e, PortCompletes (.mcfDrain d a x)
    (fun s b t => b.oqs[(t.reg a).toNat % 16]? = some l ∧ eolsIn (waiting s b l) (s.dispatchOf b).isSome (t.reg x).toNat ∧
      firstReq (waiting s b l) = some e)
    fun s i k b t =>
      let s' := ports s i k fun u => { u with cp := none }
      ports (queue s' i ((t.reg a).toNat % 16) (markTaken e.pkt)) i k (bindsPacket d b e.pkt)) ∧
  (∀ d a x l, PortCompletes (.mcfDrain d a x)
    (fun s b t => b.oqs[(t.reg a).toNat % 16]? = some l ∧ eolsIn (waiting s b l) (s.dispatchOf b).isSome (t.reg x).toNat ∧
      firstReq (waiting s b l) = none)
    fun s i k b t =>
      let s' := ports s i k fun u => { u with cp := none }
      ports (queue s' i ((t.reg a).toNat % 16) fun l => l.filter fun e => !b.current e) i k fun u =>
        u.setReg d 0xFFFFFFFF) ∧
  (∀ d a x l, PortWaits (.mcfDrain d a x)
    (fun s b t => b.oqs[(t.reg a).toNat % 16]? = some l ∧
      eolsIn (waiting s b l) (s.dispatchOf b).isSome (t.reg x).toNat = false)
    fun s i k => ports s i k fun u => { u with cp := none })

/-- R341 to R343: `comb` combines the elements of two FULL slots of equal counts into the slot named, which is FULL;
the two others are EMPTY; each cause met forms one log record; slots of wrong state or form stop the thread. The
number fields follow log entry 67, the model's reading. -/
def Sys2Proof.Claims.PortCombines : Prop :=
  (∀ d a c op l r y, PortCompletes (.mcfComb d a c op)
    (fun _ b t => slotAt b t a = some l ∧ slotAt b t c = some r ∧ slotAt b t d = some y ∧ l.full = true ∧ r.full = true ∧
      l.count = r.count ∧ (op = 0 → l.form ≠ .b ∧ r.form ≠ .b) ∧ (op = 6 ∨ op = 7 → l.form = .w ∧ r.form = .w))
    fun s i _ b t =>
      let s' := slots s i ((t.reg a).toNat % 4096) fun z => { z with full := false }
      let s' := slots s' i ((t.reg c).toNat % 4096) fun z => { z with full := false }
      (slots s' i ((t.reg d).toNat % 4096) fun _ => y.fill (if op = 6 ∨ op = 7 then .w else .f)
        (elemBytes 4 ((l.elems.zip r.elems).map fun p => (combElem op.toNat p.1 p.2).1))).logComb b.ctx
          (combAll op.toNat l r) (BitVec.ofNat 64 (b.engine * 65536 + t.pc))) ∧
  (∀ x y, x < 2 ^ 32 → y < 2 ^ 32 →
    combElem 4 x y = ((x + y) % 2 ^ 32, none) ∧ combElem 6 x y = (x ||| y, none) ∧ combElem 7 x y = (x &&& y, none) ∧
    (combElem 0xA x y).1 = (if natSigned 32 x < natSigned 32 y then y else x) ∧
    (combElem 0xB x y).1 = (if natSigned 32 y < natSigned 32 x then y else x) ∧
    natSigned 32 (combElem 5 x y).1 = clamped .i32 (natSigned 32 x + natSigned 32 y)) ∧
  (∀ d a c op l r, PortStops (.mcfComb d a c op) fun _ b t =>
    slotAt b t a = some l ∧ slotAt b t c = some r ∧ slotAt b t d ≠ none ∧
      (l.full = false ∨ r.full = false ∨ l.count ≠ r.count))

/-- R341 to R343: the port operations that compute, jump, reach records, counters and slots, and combine slots. The number
fields and what a stop reports follow log entry 67, the model's reading. -/
def Obligations.PortOperations : Prop :=
  PortComputation ∧ PortRegistersAndSlots ∧ PortCombines

namespace Sys2Proof.Claims

/-! ## Decoding, reset, the step -/

/-- What decoding the words of a core instruction and encoding it say of each other. -/
def CoreWordsAgree : Prop :=
  (∀ i ws, WellFormed i → encode i = some ws → decodeWords ws = .ok i) ∧
  ∀ w w2 w3 i, decode w w2 w3 = .ok i →
    WellFormed i ∧ ∃ r, encode i = some (w :: r) ∧ r.length + 1 = wordCount w ∧ r = [w2, w3].take r.length

/-- What decoding a port-program word and encoding it say of each other. -/
def PortWordsAgree : Prop :=
  (∀ i w, WellFormed i → encodePortWord i = some w → decodePort w = .ok i) ∧
  ∀ w i, decodePort w = .ok i → WellFormed i ∧ encodePortWord i = some w

/-- Decodings of a table word of 64 bits. -/
def Reads64 (l : List (Nat × Instr)) : Prop := ∀ p ∈ l, decodeTableWord 64 p.1 = some p.2

/-- Decodings of a port-program word. -/
def Reads32 (l : List (Nat × Instr)) : Prop := ∀ p ∈ l, decodeTableWord 32 p.1 = some p.2

/-- The threads of a core's issue slot, in the order in which they issue. -/
def issuers (x : Issue) : List Who :=
  match x with
  | .bundle _ tids => tids.map Who.vec
  | .control _ => [.ctl]
  | .port _ _ => []

/-- The block of a core's issue slot. -/
def issuerBlock (x : Issue) : Option Nat :=
  match x with
  | .bundle b _ => some b
  | .control b => some b
  | .port _ _ => none

/-- Word `n` of those at a thread's PC: past the end of its basic block words read as 0. -/
def aheadWord (s : State) (b : Block) (t : Thread) (k : OvlCopy) (n : Nat) : DWord :=
  if codeOff t.pc + 8 * n < blockEnd s b t then k.word (codeOff t.pc + 8 * n) else 0

/-- The first thread of the issue slot stands inside its basic block, in a resident overlay. -/
def WordsFetched (s : State) (x : Issue) (b : Block) (w : Who) (ws : List Who) (t : Thread) (k : OvlCopy) : Prop :=
  s.cur = some x ∧ issuerBlock x = some b.id ∧ issuers x = w :: ws ∧ s.block b.id = some b ∧ b.thread w = some t ∧
    s.residentCopy b.core b.ctx (codeOvl t.pc) = some k ∧ s.covers b.core b.ctx t.hdr t.pc = true

end Sys2Proof.Claims

/-- R189 to R192, R340, R341, R407: decoding and encoding agree, for every instruction that has words and every value
of its operands: the words of a well-formed instruction decode to it, and whatever decodes is well formed and encodes
to the words it was read from, every reserved bit among them. -/
def Obligations.DecodeEncodeAgree : Prop := CoreWordsAgree ∧ PortWordsAgree

/-- The worked encodings of the arithmetic, control, memory and engine examples and of the port program of 14_anvil,
word for word: each decodes to the instruction that the spec writes beside it. -/
def Obligations.WordsDecode : Prop :=
  Reads64 [
    (0x06180840A0800002, .setp ⟨3, false⟩
      { ty := .i32, rnd := .rne, sat := false, d := 1, a := 4, b := 5, c := 2, imm := 2 }),
    (0x2038307000018004, .cvt always
      { ty := .i32, rnd := .rtz, sat := true, d := 6, a := 7, b := 0, c := 0, imm := 4 })] ∧
  Reads64 [
    (0x42B83040A0000000, .lredAdd always { ty := .i32, rnd := .rne, d := 6, a := 4, b := 5 }),
    (0x41B83840A0800004, .shflXor always { d := 7, a := 4, b := 5, q := 2 } 4),
    (0x503829E0E090FFFF, .ld always ⟨.a, .b8, 5, 30, 7, false, false, .blk, true, 0xFFFF⟩),
    (0x607818CFE3020008, .stRel always ⟨.glob, .b32, 3, 12, 127, false, false, .pkg, false, 8⟩)] ∧
  Reads64 [
    (0x71F8414FF0020000, .atomCas always ⟨.glob, .b32, 8, 20, 127, true, false, .blk, false, 0⟩),
    (0x903B99400000071A, .cpy always { d := 0x73, scope := .pkg, ben := true, bar := 1, fen := true, flag := 2 } 20),
    (0xA1780142A5800000, .mma always 20 21 22),
    (0xC03B908000000000, .ovld always 0x72 8)] ∧
  Reads32 [(0x11158000, .mcfComb 4 5 6 0), (0x21200001, .mcfEmit 4 8 true), (0x41C00100, .mcfSet 7 0x100)]

/-- R350, R357, R360, R361, R365: the values that the spec gives for the package reset: empty memory in canonical
form, every core stopped, weights 0, SLEW 100, STAGR 0, shaping entry L at 16 - L, the monitors clear. That memory
lists nothing follows log entry 5, the model's choice. -/
def Obligations.ResetValues : Prop :=
  MemOk State.reset ∧ State.reset.boot = .pending ∧ State.reset.blocks = [] ∧ State.reset.tick = 0 ∧
  (∀ c, c < 64 → (State.reset.ctx c).qos = 0 ∧ (State.reset.ctx c).heat = 0) ∧
  (State.reset.slew = 100 ∧ State.reset.stagB = false ∧ State.reset.delta = 0 ∧ State.reset.groups = 0) ∧
  (∀ d, d < 8 → ∀ l, l < 16 → (vget (State.reset.die d).shape l 0).toNat = 16 - l) ∧
  (∀ d, d < 8 → ∀ m ∈ (State.reset.die d).mons, m.cfg = 0 ∧ m.min = 0xFFFFFFFF ∧ m.max = 0 ∧ ∀ h ∈ m.h, h = 0) ∧
  (∀ m ∈ State.reset.amons, m.cfg = 0 ∧ m.min = 0xFFFFFFFF ∧ m.max = 0 ∧ ∀ h ∈ m.h, h = 0) ∧
  ∀ f ∈ State.reset.fr, f.en = false ∧ f.err = false

/-- R178, R193, R325, R343, R407: a step runs the instruction decoded at the PC of the threads that hold the issue
slot, or at the PC of a port thread; a word that names no legal instruction parks every thread of the bundle with
0x01, and a header word inside a basic block with 0x03; an event at the head of the agenda runs as it stands. The
issue slot, the agenda and the words past the end of a block follow log entries 1, 2 and 23, the model's choices. -/
def Obligations.StepRunsDecoded : Prop :=
  (∀ s x b w ws t k, WordsFetched s x b w ws t k →
    (∀ i, decode (aheadWord s b t k 0) (aheadWord s b t k 1) (aheadWord s b t k 2) = .ok i → step s = exec i s) ∧
    ((∀ i, decode (aheadWord s b t k 0) (aheadWord s b t k 1) (aheadWord s b t k 2) ≠ .ok i) →
      step s = .next (({ s with cur := none } : State).parkBundle b t (w :: ws)
        (if isHeader (aheadWord s b t k 0) then 0x03 else 0x01)))) ∧
  (∀ (s : State) n k b t w i, s.cur = some (.port n k) → s.bindings[n]? = some b → b.threads[k]? = some t →
    b.words[t.pc]? = some w → decodePort w = .ok i → step s = exec i s) ∧
  (∀ (s : State) i l, s.cur = none → s.agenda = .event i :: l → step s = exec i { s with agenda := l }) ∧
  (∀ (s : State) e l, s.cur = none → s.agenda = .port e :: l →
    step s = .next (({ s with agenda := l } : State).selectPort e)) ∧
  ∀ (s : State) n l, s.cur = none → s.agenda = .wait n :: l → step s = .next { s with agenda := l, tick := s.tick + n }

/-- R395, R406: nothing stops the part. From every state a step leads to a next state: what an instruction may not do
parks its thread, stops its port thread or ends its block. No fault of the model is raised (log entry 97). -/
def Obligations.StepNeverStops : Prop := ∀ s, ∃ s', step s = .next s'

/-- Every step keeps far memory in canonical form, from every state that has it so. -/
def Obligations.StepKeepsMemory : Prop := ∀ s s', MemOk s → step s = .next s' → MemOk s'
end

