-- ==== Sys2Proof/Laws/Bits.lean ====
section
/-! SUPPORT. Laws of bit fields and of the coded fields: what an extraction finds in a concatenation, and that reading
a laid-out operand group gives the operands back. -/

namespace Sys2Proof.Laws

open Sys2Proof

theorem extract_low {m n : Nat} (x : BitVec m) (y : BitVec n) (s l : Nat) (h : s + l ≤ n) :
    (x ++ y).extractLsb' s l = y.extractLsb' s l := by
  apply BitVec.eq_of_getLsbD_eq; intro i hi
  rw [BitVec.getLsbD_extractLsb', BitVec.getLsbD_extractLsb', BitVec.getLsbD_append]
  have : s + i < n := by omega
  simp [this]

theorem extract_high {m n : Nat} (x : BitVec m) (y : BitVec n) (s l : Nat) (h : n ≤ s) :
    (x ++ y).extractLsb' s l = x.extractLsb' (s - n) l := by
  apply BitVec.eq_of_getLsbD_eq; intro i hi
  rw [BitVec.getLsbD_extractLsb', BitVec.getLsbD_extractLsb', BitVec.getLsbD_append]
  have : ¬ (s + i < n) := by omega
  have e : s + i - n = s - n + i := by omega
  simp [this, e]

@[simp] theorem extract_all {n : Nat} (x : BitVec n) : x.extractLsb' 0 n = x := by
  apply BitVec.eq_of_getLsbD_eq; intro i hi
  rw [BitVec.getLsbD_extractLsb']; simp [hi]

theorem extract_twice {n : Nat} (x : BitVec n) (s l a b : Nat) (h : a + b ≤ l) :
    (x.extractLsb' s l).extractLsb' a b = x.extractLsb' (s + a) b := by
  apply BitVec.eq_of_getLsbD_eq; intro i hi
  rw [BitVec.getLsbD_extractLsb', BitVec.getLsbD_extractLsb', BitVec.getLsbD_extractLsb']
  have : a + i < l := by omega
  simp [this, Nat.add_assoc]

theorem extract_join {n : Nat} (x : BitVec n) (s l k : Nat) :
    x.extractLsb' (s + l) k ++ x.extractLsb' s l = x.extractLsb' s (k + l) := by
  apply BitVec.eq_of_getLsbD_eq; intro i hi
  rw [BitVec.getLsbD_append, BitVec.getLsbD_extractLsb', BitVec.getLsbD_extractLsb', BitVec.getLsbD_extractLsb']
  split
  · rename_i h
    simp [h, hi]
  · rename_i h
    have e : s + l + (i - l) = s + i := by omega
    have : i - l < k := by omega
    simp [hi, e, this]

/-! ## Concatenations of fixed widths -/

@[simp] theorem high_1_1 (x : BitVec 1) (y : BitVec 1) (s l : Nat) (h : 1 ≤ s) :
    BitVec.extractLsb' (n := 2) s l (x ++ y) = x.extractLsb' (s - 1) l := extract_high x y s l h
@[simp] theorem low_1_1 (x : BitVec 1) (y : BitVec 1) (s l : Nat) (h : s + l ≤ 1) :
    BitVec.extractLsb' (n := 2) s l (x ++ y) = y.extractLsb' s l := extract_low x y s l h
@[simp] theorem high_1_2 (x : BitVec 1) (y : BitVec 2) (s l : Nat) (h : 2 ≤ s) :
    BitVec.extractLsb' (n := 3) s l (x ++ y) = x.extractLsb' (s - 2) l := extract_high x y s l h
@[simp] theorem low_1_2 (x : BitVec 1) (y : BitVec 2) (s l : Nat) (h : s + l ≤ 2) :
    BitVec.extractLsb' (n := 3) s l (x ++ y) = y.extractLsb' s l := extract_low x y s l h
@[simp] theorem high_1_3 (x : BitVec 1) (y : BitVec 3) (s l : Nat) (h : 3 ≤ s) :
    BitVec.extractLsb' (n := 4) s l (x ++ y) = x.extractLsb' (s - 3) l := extract_high x y s l h
@[simp] theorem low_1_3 (x : BitVec 1) (y : BitVec 3) (s l : Nat) (h : s + l ≤ 3) :
    BitVec.extractLsb' (n := 4) s l (x ++ y) = y.extractLsb' s l := extract_low x y s l h
@[simp] theorem high_1_4 (x : BitVec 1) (y : BitVec 4) (s l : Nat) (h : 4 ≤ s) :
    BitVec.extractLsb' (n := 5) s l (x ++ y) = x.extractLsb' (s - 4) l := extract_high x y s l h
@[simp] theorem low_1_4 (x : BitVec 1) (y : BitVec 4) (s l : Nat) (h : s + l ≤ 4) :
    BitVec.extractLsb' (n := 5) s l (x ++ y) = y.extractLsb' s l := extract_low x y s l h
@[simp] theorem high_1_5 (x : BitVec 1) (y : BitVec 5) (s l : Nat) (h : 5 ≤ s) :
    BitVec.extractLsb' (n := 6) s l (x ++ y) = x.extractLsb' (s - 5) l := extract_high x y s l h
@[simp] theorem low_1_5 (x : BitVec 1) (y : BitVec 5) (s l : Nat) (h : s + l ≤ 5) :
    BitVec.extractLsb' (n := 6) s l (x ++ y) = y.extractLsb' s l := extract_low x y s l h
@[simp] theorem high_1_6 (x : BitVec 1) (y : BitVec 6) (s l : Nat) (h : 6 ≤ s) :
    BitVec.extractLsb' (n := 7) s l (x ++ y) = x.extractLsb' (s - 6) l := extract_high x y s l h
@[simp] theorem low_1_6 (x : BitVec 1) (y : BitVec 6) (s l : Nat) (h : s + l ≤ 6) :
    BitVec.extractLsb' (n := 7) s l (x ++ y) = y.extractLsb' s l := extract_low x y s l h
@[simp] theorem high_1_8 (x : BitVec 1) (y : BitVec 8) (s l : Nat) (h : 8 ≤ s) :
    BitVec.extractLsb' (n := 9) s l (x ++ y) = x.extractLsb' (s - 8) l := extract_high x y s l h
@[simp] theorem low_1_8 (x : BitVec 1) (y : BitVec 8) (s l : Nat) (h : s + l ≤ 8) :
    BitVec.extractLsb' (n := 9) s l (x ++ y) = y.extractLsb' s l := extract_low x y s l h
@[simp] theorem high_1_10 (x : BitVec 1) (y : BitVec 10) (s l : Nat) (h : 10 ≤ s) :
    BitVec.extractLsb' (n := 11) s l (x ++ y) = x.extractLsb' (s - 10) l := extract_high x y s l h
@[simp] theorem low_1_10 (x : BitVec 1) (y : BitVec 10) (s l : Nat) (h : s + l ≤ 10) :
    BitVec.extractLsb' (n := 11) s l (x ++ y) = y.extractLsb' s l := extract_low x y s l h
@[simp] theorem high_1_13 (x : BitVec 1) (y : BitVec 13) (s l : Nat) (h : 13 ≤ s) :
    BitVec.extractLsb' (n := 14) s l (x ++ y) = x.extractLsb' (s - 13) l := extract_high x y s l h
@[simp] theorem low_1_13 (x : BitVec 1) (y : BitVec 13) (s l : Nat) (h : s + l ≤ 13) :
    BitVec.extractLsb' (n := 14) s l (x ++ y) = y.extractLsb' s l := extract_low x y s l h
@[simp] theorem high_1_15 (x : BitVec 1) (y : BitVec 15) (s l : Nat) (h : 15 ≤ s) :
    BitVec.extractLsb' (n := 16) s l (x ++ y) = x.extractLsb' (s - 15) l := extract_high x y s l h
@[simp] theorem low_1_15 (x : BitVec 1) (y : BitVec 15) (s l : Nat) (h : s + l ≤ 15) :
    BitVec.extractLsb' (n := 16) s l (x ++ y) = y.extractLsb' s l := extract_low x y s l h
@[simp] theorem high_2_1 (x : BitVec 2) (y : BitVec 1) (s l : Nat) (h : 1 ≤ s) :
    BitVec.extractLsb' (n := 3) s l (x ++ y) = x.extractLsb' (s - 1) l := extract_high x y s l h
@[simp] theorem low_2_1 (x : BitVec 2) (y : BitVec 1) (s l : Nat) (h : s + l ≤ 1) :
    BitVec.extractLsb' (n := 3) s l (x ++ y) = y.extractLsb' s l := extract_low x y s l h
@[simp] theorem high_2_2 (x : BitVec 2) (y : BitVec 2) (s l : Nat) (h : 2 ≤ s) :
    BitVec.extractLsb' (n := 4) s l (x ++ y) = x.extractLsb' (s - 2) l := extract_high x y s l h
@[simp] theorem low_2_2 (x : BitVec 2) (y : BitVec 2) (s l : Nat) (h : s + l ≤ 2) :
    BitVec.extractLsb' (n := 4) s l (x ++ y) = y.extractLsb' s l := extract_low x y s l h
@[simp] theorem high_2_4 (x : BitVec 2) (y : BitVec 4) (s l : Nat) (h : 4 ≤ s) :
    BitVec.extractLsb' (n := 6) s l (x ++ y) = x.extractLsb' (s - 4) l := extract_high x y s l h
@[simp] theorem low_2_4 (x : BitVec 2) (y : BitVec 4) (s l : Nat) (h : s + l ≤ 4) :
    BitVec.extractLsb' (n := 6) s l (x ++ y) = y.extractLsb' s l := extract_low x y s l h
@[simp] theorem high_3_1 (x : BitVec 3) (y : BitVec 1) (s l : Nat) (h : 1 ≤ s) :
    BitVec.extractLsb' (n := 4) s l (x ++ y) = x.extractLsb' (s - 1) l := extract_high x y s l h
@[simp] theorem low_3_1 (x : BitVec 3) (y : BitVec 1) (s l : Nat) (h : s + l ≤ 1) :
    BitVec.extractLsb' (n := 4) s l (x ++ y) = y.extractLsb' s l := extract_low x y s l h
@[simp] theorem high_3_2 (x : BitVec 3) (y : BitVec 2) (s l : Nat) (h : 2 ≤ s) :
    BitVec.extractLsb' (n := 5) s l (x ++ y) = x.extractLsb' (s - 2) l := extract_high x y s l h
@[simp] theorem low_3_2 (x : BitVec 3) (y : BitVec 2) (s l : Nat) (h : s + l ≤ 2) :
    BitVec.extractLsb' (n := 5) s l (x ++ y) = y.extractLsb' s l := extract_low x y s l h
@[simp] theorem high_3_3 (x : BitVec 3) (y : BitVec 3) (s l : Nat) (h : 3 ≤ s) :
    BitVec.extractLsb' (n := 6) s l (x ++ y) = x.extractLsb' (s - 3) l := extract_high x y s l h
@[simp] theorem low_3_3 (x : BitVec 3) (y : BitVec 3) (s l : Nat) (h : s + l ≤ 3) :
    BitVec.extractLsb' (n := 6) s l (x ++ y) = y.extractLsb' s l := extract_low x y s l h
@[simp] theorem high_3_4 (x : BitVec 3) (y : BitVec 4) (s l : Nat) (h : 4 ≤ s) :
    BitVec.extractLsb' (n := 7) s l (x ++ y) = x.extractLsb' (s - 4) l := extract_high x y s l h
@[simp] theorem low_3_4 (x : BitVec 3) (y : BitVec 4) (s l : Nat) (h : s + l ≤ 4) :
    BitVec.extractLsb' (n := 7) s l (x ++ y) = y.extractLsb' s l := extract_low x y s l h
@[simp] theorem high_3_9 (x : BitVec 3) (y : BitVec 9) (s l : Nat) (h : 9 ≤ s) :
    BitVec.extractLsb' (n := 12) s l (x ++ y) = x.extractLsb' (s - 9) l := extract_high x y s l h
@[simp] theorem low_3_9 (x : BitVec 3) (y : BitVec 9) (s l : Nat) (h : s + l ≤ 9) :
    BitVec.extractLsb' (n := 12) s l (x ++ y) = y.extractLsb' s l := extract_low x y s l h
@[simp] theorem high_3_29 (x : BitVec 3) (y : BitVec 29) (s l : Nat) (h : 29 ≤ s) :
    BitVec.extractLsb' (n := 32) s l (x ++ y) = x.extractLsb' (s - 29) l := extract_high x y s l h
@[simp] theorem low_3_29 (x : BitVec 3) (y : BitVec 29) (s l : Nat) (h : s + l ≤ 29) :
    BitVec.extractLsb' (n := 32) s l (x ++ y) = y.extractLsb' s l := extract_low x y s l h
@[simp] theorem high_4_1 (x : BitVec 4) (y : BitVec 1) (s l : Nat) (h : 1 ≤ s) :
    BitVec.extractLsb' (n := 5) s l (x ++ y) = x.extractLsb' (s - 1) l := extract_high x y s l h
@[simp] theorem low_4_1 (x : BitVec 4) (y : BitVec 1) (s l : Nat) (h : s + l ≤ 1) :
    BitVec.extractLsb' (n := 5) s l (x ++ y) = y.extractLsb' s l := extract_low x y s l h
@[simp] theorem high_4_2 (x : BitVec 4) (y : BitVec 2) (s l : Nat) (h : 2 ≤ s) :
    BitVec.extractLsb' (n := 6) s l (x ++ y) = x.extractLsb' (s - 2) l := extract_high x y s l h
@[simp] theorem low_4_2 (x : BitVec 4) (y : BitVec 2) (s l : Nat) (h : s + l ≤ 2) :
    BitVec.extractLsb' (n := 6) s l (x ++ y) = y.extractLsb' s l := extract_low x y s l h
@[simp] theorem high_4_3 (x : BitVec 4) (y : BitVec 3) (s l : Nat) (h : 3 ≤ s) :
    BitVec.extractLsb' (n := 7) s l (x ++ y) = x.extractLsb' (s - 3) l := extract_high x y s l h
@[simp] theorem low_4_3 (x : BitVec 4) (y : BitVec 3) (s l : Nat) (h : s + l ≤ 3) :
    BitVec.extractLsb' (n := 7) s l (x ++ y) = y.extractLsb' s l := extract_low x y s l h
@[simp] theorem high_4_4 (x : BitVec 4) (y : BitVec 4) (s l : Nat) (h : 4 ≤ s) :
    BitVec.extractLsb' (n := 8) s l (x ++ y) = x.extractLsb' (s - 4) l := extract_high x y s l h
@[simp] theorem low_4_4 (x : BitVec 4) (y : BitVec 4) (s l : Nat) (h : s + l ≤ 4) :
    BitVec.extractLsb' (n := 8) s l (x ++ y) = y.extractLsb' s l := extract_low x y s l h
@[simp] theorem high_4_8 (x : BitVec 4) (y : BitVec 8) (s l : Nat) (h : 8 ≤ s) :
    BitVec.extractLsb' (n := 12) s l (x ++ y) = x.extractLsb' (s - 8) l := extract_high x y s l h
@[simp] theorem low_4_8 (x : BitVec 4) (y : BitVec 8) (s l : Nat) (h : s + l ≤ 8) :
    BitVec.extractLsb' (n := 12) s l (x ++ y) = y.extractLsb' s l := extract_low x y s l h
@[simp] theorem high_4_12 (x : BitVec 4) (y : BitVec 12) (s l : Nat) (h : 12 ≤ s) :
    BitVec.extractLsb' (n := 16) s l (x ++ y) = x.extractLsb' (s - 12) l := extract_high x y s l h
@[simp] theorem low_4_12 (x : BitVec 4) (y : BitVec 12) (s l : Nat) (h : s + l ≤ 12) :
    BitVec.extractLsb' (n := 16) s l (x ++ y) = y.extractLsb' s l := extract_low x y s l h
@[simp] theorem high_4_14 (x : BitVec 4) (y : BitVec 14) (s l : Nat) (h : 14 ≤ s) :
    BitVec.extractLsb' (n := 18) s l (x ++ y) = x.extractLsb' (s - 14) l := extract_high x y s l h
@[simp] theorem low_4_14 (x : BitVec 4) (y : BitVec 14) (s l : Nat) (h : s + l ≤ 14) :
    BitVec.extractLsb' (n := 18) s l (x ++ y) = y.extractLsb' s l := extract_low x y s l h
@[simp] theorem high_5_1 (x : BitVec 5) (y : BitVec 1) (s l : Nat) (h : 1 ≤ s) :
    BitVec.extractLsb' (n := 6) s l (x ++ y) = x.extractLsb' (s - 1) l := extract_high x y s l h
@[simp] theorem low_5_1 (x : BitVec 5) (y : BitVec 1) (s l : Nat) (h : s + l ≤ 1) :
    BitVec.extractLsb' (n := 6) s l (x ++ y) = y.extractLsb' s l := extract_low x y s l h
@[simp] theorem high_5_2 (x : BitVec 5) (y : BitVec 2) (s l : Nat) (h : 2 ≤ s) :
    BitVec.extractLsb' (n := 7) s l (x ++ y) = x.extractLsb' (s - 2) l := extract_high x y s l h
@[simp] theorem low_5_2 (x : BitVec 5) (y : BitVec 2) (s l : Nat) (h : s + l ≤ 2) :
    BitVec.extractLsb' (n := 7) s l (x ++ y) = y.extractLsb' s l := extract_low x y s l h
@[simp] theorem high_6_1 (x : BitVec 6) (y : BitVec 1) (s l : Nat) (h : 1 ≤ s) :
    BitVec.extractLsb' (n := 7) s l (x ++ y) = x.extractLsb' (s - 1) l := extract_high x y s l h
@[simp] theorem low_6_1 (x : BitVec 6) (y : BitVec 1) (s l : Nat) (h : s + l ≤ 1) :
    BitVec.extractLsb' (n := 7) s l (x ++ y) = y.extractLsb' s l := extract_low x y s l h
@[simp] theorem high_6_8 (x : BitVec 6) (y : BitVec 8) (s l : Nat) (h : 8 ≤ s) :
    BitVec.extractLsb' (n := 14) s l (x ++ y) = x.extractLsb' (s - 8) l := extract_high x y s l h
@[simp] theorem low_6_8 (x : BitVec 6) (y : BitVec 8) (s l : Nat) (h : s + l ≤ 8) :
    BitVec.extractLsb' (n := 14) s l (x ++ y) = y.extractLsb' s l := extract_low x y s l h
@[simp] theorem high_6_16 (x : BitVec 6) (y : BitVec 16) (s l : Nat) (h : 16 ≤ s) :
    BitVec.extractLsb' (n := 22) s l (x ++ y) = x.extractLsb' (s - 16) l := extract_high x y s l h
@[simp] theorem low_6_16 (x : BitVec 6) (y : BitVec 16) (s l : Nat) (h : s + l ≤ 16) :
    BitVec.extractLsb' (n := 22) s l (x ++ y) = y.extractLsb' s l := extract_low x y s l h
@[simp] theorem high_7_2 (x : BitVec 7) (y : BitVec 2) (s l : Nat) (h : 2 ≤ s) :
    BitVec.extractLsb' (n := 9) s l (x ++ y) = x.extractLsb' (s - 2) l := extract_high x y s l h
@[simp] theorem low_7_2 (x : BitVec 7) (y : BitVec 2) (s l : Nat) (h : s + l ≤ 2) :
    BitVec.extractLsb' (n := 9) s l (x ++ y) = y.extractLsb' s l := extract_low x y s l h
@[simp] theorem high_7_7 (x : BitVec 7) (y : BitVec 7) (s l : Nat) (h : 7 ≤ s) :
    BitVec.extractLsb' (n := 14) s l (x ++ y) = x.extractLsb' (s - 7) l := extract_high x y s l h
@[simp] theorem low_7_7 (x : BitVec 7) (y : BitVec 7) (s l : Nat) (h : s + l ≤ 7) :
    BitVec.extractLsb' (n := 14) s l (x ++ y) = y.extractLsb' s l := extract_low x y s l h
@[simp] theorem high_7_9 (x : BitVec 7) (y : BitVec 9) (s l : Nat) (h : 9 ≤ s) :
    BitVec.extractLsb' (n := 16) s l (x ++ y) = x.extractLsb' (s - 9) l := extract_high x y s l h
@[simp] theorem low_7_9 (x : BitVec 7) (y : BitVec 9) (s l : Nat) (h : s + l ≤ 9) :
    BitVec.extractLsb' (n := 16) s l (x ++ y) = y.extractLsb' s l := extract_low x y s l h
@[simp] theorem high_7_22 (x : BitVec 7) (y : BitVec 22) (s l : Nat) (h : 22 ≤ s) :
    BitVec.extractLsb' (n := 29) s l (x ++ y) = x.extractLsb' (s - 22) l := extract_high x y s l h
@[simp] theorem low_7_22 (x : BitVec 7) (y : BitVec 22) (s l : Nat) (h : s + l ≤ 22) :
    BitVec.extractLsb' (n := 29) s l (x ++ y) = y.extractLsb' s l := extract_low x y s l h
@[simp] theorem high_8_6 (x : BitVec 8) (y : BitVec 6) (s l : Nat) (h : 6 ≤ s) :
    BitVec.extractLsb' (n := 14) s l (x ++ y) = x.extractLsb' (s - 6) l := extract_high x y s l h
@[simp] theorem low_8_6 (x : BitVec 8) (y : BitVec 6) (s l : Nat) (h : s + l ≤ 6) :
    BitVec.extractLsb' (n := 14) s l (x ++ y) = y.extractLsb' s l := extract_low x y s l h
@[simp] theorem high_8_8 (x : BitVec 8) (y : BitVec 8) (s l : Nat) (h : 8 ≤ s) :
    BitVec.extractLsb' (n := 16) s l (x ++ y) = x.extractLsb' (s - 8) l := extract_high x y s l h
@[simp] theorem low_8_8 (x : BitVec 8) (y : BitVec 8) (s l : Nat) (h : s + l ≤ 8) :
    BitVec.extractLsb' (n := 16) s l (x ++ y) = y.extractLsb' s l := extract_low x y s l h
@[simp] theorem high_9_7 (x : BitVec 9) (y : BitVec 7) (s l : Nat) (h : 7 ≤ s) :
    BitVec.extractLsb' (n := 16) s l (x ++ y) = x.extractLsb' (s - 7) l := extract_high x y s l h
@[simp] theorem low_9_7 (x : BitVec 9) (y : BitVec 7) (s l : Nat) (h : s + l ≤ 7) :
    BitVec.extractLsb' (n := 16) s l (x ++ y) = y.extractLsb' s l := extract_low x y s l h
@[simp] theorem high_10_4 (x : BitVec 10) (y : BitVec 4) (s l : Nat) (h : 4 ≤ s) :
    BitVec.extractLsb' (n := 14) s l (x ++ y) = x.extractLsb' (s - 4) l := extract_high x y s l h
@[simp] theorem low_10_4 (x : BitVec 10) (y : BitVec 4) (s l : Nat) (h : s + l ≤ 4) :
    BitVec.extractLsb' (n := 14) s l (x ++ y) = y.extractLsb' s l := extract_low x y s l h
@[simp] theorem high_10_5 (x : BitVec 10) (y : BitVec 5) (s l : Nat) (h : 5 ≤ s) :
    BitVec.extractLsb' (n := 15) s l (x ++ y) = x.extractLsb' (s - 5) l := extract_high x y s l h
@[simp] theorem low_10_5 (x : BitVec 10) (y : BitVec 5) (s l : Nat) (h : s + l ≤ 5) :
    BitVec.extractLsb' (n := 15) s l (x ++ y) = y.extractLsb' s l := extract_low x y s l h
@[simp] theorem high_10_6 (x : BitVec 10) (y : BitVec 6) (s l : Nat) (h : 6 ≤ s) :
    BitVec.extractLsb' (n := 16) s l (x ++ y) = x.extractLsb' (s - 6) l := extract_high x y s l h
@[simp] theorem low_10_6 (x : BitVec 10) (y : BitVec 6) (s l : Nat) (h : s + l ≤ 6) :
    BitVec.extractLsb' (n := 16) s l (x ++ y) = y.extractLsb' s l := extract_low x y s l h
@[simp] theorem high_11_5 (x : BitVec 11) (y : BitVec 5) (s l : Nat) (h : 5 ≤ s) :
    BitVec.extractLsb' (n := 16) s l (x ++ y) = x.extractLsb' (s - 5) l := extract_high x y s l h
@[simp] theorem low_11_5 (x : BitVec 11) (y : BitVec 5) (s l : Nat) (h : s + l ≤ 5) :
    BitVec.extractLsb' (n := 16) s l (x ++ y) = y.extractLsb' s l := extract_low x y s l h
@[simp] theorem high_12_4 (x : BitVec 12) (y : BitVec 4) (s l : Nat) (h : 4 ≤ s) :
    BitVec.extractLsb' (n := 16) s l (x ++ y) = x.extractLsb' (s - 4) l := extract_high x y s l h
@[simp] theorem low_12_4 (x : BitVec 12) (y : BitVec 4) (s l : Nat) (h : s + l ≤ 4) :
    BitVec.extractLsb' (n := 16) s l (x ++ y) = y.extractLsb' s l := extract_low x y s l h
@[simp] theorem high_13_1 (x : BitVec 13) (y : BitVec 1) (s l : Nat) (h : 1 ≤ s) :
    BitVec.extractLsb' (n := 14) s l (x ++ y) = x.extractLsb' (s - 1) l := extract_high x y s l h
@[simp] theorem low_13_1 (x : BitVec 13) (y : BitVec 1) (s l : Nat) (h : s + l ≤ 1) :
    BitVec.extractLsb' (n := 14) s l (x ++ y) = y.extractLsb' s l := extract_low x y s l h
@[simp] theorem high_13_3 (x : BitVec 13) (y : BitVec 3) (s l : Nat) (h : 3 ≤ s) :
    BitVec.extractLsb' (n := 16) s l (x ++ y) = x.extractLsb' (s - 3) l := extract_high x y s l h
@[simp] theorem low_13_3 (x : BitVec 13) (y : BitVec 3) (s l : Nat) (h : s + l ≤ 3) :
    BitVec.extractLsb' (n := 16) s l (x ++ y) = y.extractLsb' s l := extract_low x y s l h
@[simp] theorem high_14_2 (x : BitVec 14) (y : BitVec 2) (s l : Nat) (h : 2 ≤ s) :
    BitVec.extractLsb' (n := 16) s l (x ++ y) = x.extractLsb' (s - 2) l := extract_high x y s l h
@[simp] theorem low_14_2 (x : BitVec 14) (y : BitVec 2) (s l : Nat) (h : s + l ≤ 2) :
    BitVec.extractLsb' (n := 16) s l (x ++ y) = y.extractLsb' s l := extract_low x y s l h
@[simp] theorem high_16_16 (x : BitVec 16) (y : BitVec 16) (s l : Nat) (h : 16 ≤ s) :
    BitVec.extractLsb' (n := 32) s l (x ++ y) = x.extractLsb' (s - 16) l := extract_high x y s l h
@[simp] theorem low_16_16 (x : BitVec 16) (y : BitVec 16) (s l : Nat) (h : s + l ≤ 16) :
    BitVec.extractLsb' (n := 32) s l (x ++ y) = y.extractLsb' s l := extract_low x y s l h
@[simp] theorem high_16_32 (x : BitVec 16) (y : BitVec 32) (s l : Nat) (h : 32 ≤ s) :
    BitVec.extractLsb' (n := 48) s l (x ++ y) = x.extractLsb' (s - 32) l := extract_high x y s l h
@[simp] theorem low_16_32 (x : BitVec 16) (y : BitVec 32) (s l : Nat) (h : s + l ≤ 32) :
    BitVec.extractLsb' (n := 48) s l (x ++ y) = y.extractLsb' s l := extract_low x y s l h
@[simp] theorem high_16_48 (x : BitVec 16) (y : BitVec 48) (s l : Nat) (h : 48 ≤ s) :
    BitVec.extractLsb' (n := 64) s l (x ++ y) = x.extractLsb' (s - 48) l := extract_high x y s l h
@[simp] theorem low_16_48 (x : BitVec 16) (y : BitVec 48) (s l : Nat) (h : s + l ≤ 48) :
    BitVec.extractLsb' (n := 64) s l (x ++ y) = y.extractLsb' s l := extract_low x y s l h

/-! ## Coded fields -/

@[simp] theorem tyOf_code (t : ElemTy) : tyOf (tyCode t) = some t := by cases t <;> rfl
@[simp] theorem rndOf_code (r : Rnd) : rndOf (rndCode r) = r := by cases r <;> rfl
@[simp] theorem bit1_beq (b : Bool) : (bit1 b == 1) = b := by cases b <;> rfl
@[simp] theorem bit1_beq' (b : Bool) : (bit1 b == 1#1) = b := by cases b <;> rfl
@[simp] theorem scopeOf_code (s : Scope) : scopeOf (scopeCode s) = some s := by cases s <;> rfl
@[simp] theorem spaceOf_code (s : Space) : spaceOf (spaceCode s) = some s := by cases s <;> rfl
@[simp] theorem sizeOf_code (s : Size) : sizeOf (sizeCode s) = some s := by cases s <;> rfl
@[simp] theorem chainFmtOf_code (c : ChainFmt) : chainFmtOf (chainFmtCode c) = c := by cases c <;> rfl
@[simp] theorem coopOf_code (c : CoopKind) : coopOf (coopCode c) = some c := by cases c <;> rfl

/-! ## Operand groups -/

theorem imm32_split (v : BitVec 32) :
    (v.extractLsb' 29 3 ++ (v.extractLsb' 22 7 ++ (v.extractLsb' 16 6 ++ v.extractLsb' 0 16)) : BitVec 32) = v := by
  have h1 := extract_join v 0 16 6
  have h2 := extract_join v 0 22 7
  have h3 := extract_join v 0 29 3
  simp only [Nat.reduceAdd, Nat.zero_add] at h1 h2 h3
  rw [h1, h2, h3, extract_all]

theorem set_split (v : BitVec 18) : (v.extractLsb' 14 4 ++ v.extractLsb' 0 14 : BitVec 18) = v := by
  have h := extract_join v 0 14 4
  simp only [Nat.reduceAdd, Nat.zero_add] at h
  rw [h, extract_all]

@[simp] theorem guardOf_lay (g : Guard) (cls op d a b c m i) :
    guardOf { cls := cls, op := op, gp := g.p, gn := bit1 g.neg, d := d, a := a, b := b, c := c, m := m, i := i } = g := by
  simp [guardOf]

theorem readAlu_lay (cls op g o) : readAlu (layAlu cls op g o) = some o := by
  simp [readAlu, layAlu, fmtR]

theorem imm32_lay (cls op g d a m4 v) : (fmtI cls op g d a m4 v).imm32 = v := by
  simp only [fmtI, Fields.imm32]
  rw [low_4_3 _ _ _ _ (by decide), extract_all]
  exact imm32_split v

theorem readImm_lay (op g o) : readImm (layImm op g o) = o := by
  have h : (fmtI 0 op g o.d o.a o.m4 o.imm).m4 = o.m4 := by
    simp only [Fields.m4, fmtI]
    rw [high_4_3 _ _ _ _ (by decide)]
    exact extract_all _
  simp only [readImm, layImm, h, imm32_lay]
  rfl

@[simp] theorem fieldPred_field (q : BitVec 3) : fieldPred (predField q) = q := by
  simp [fieldPred, predField]

@[simp] theorem fieldHandle_field (h : BitVec 4) : fieldHandle (handleField h) = h := by
  simp [fieldHandle, handleField]

theorem readPreds_lay (op g o) : readPreds (layPreds op g o) = o := by
  simp [readPreds, layPreds, fmtR]

@[simp] theorem readSel_lay (s : Sel) : readSel (laySel s) = s := by
  simp [readSel, laySel]

theorem readMbr_lay (g : Guard) (o : MbrOps) : readMbr (layMbr g o) (mbrWord2 o) = o := by
  have h (v : BitVec 16) :
      (v.extractLsb' 9 7 ++ (v.extractLsb' 2 7 ++ BitVec.extractLsb' (n := 6) 4 2 (v.extractLsb' 0 2 ++ (0 : BitVec 4))) :
        BitVec 16) = v := by
    rw [high_2_4 _ _ _ _ (by decide)]
    have h1 := extract_join v 0 2 7
    have h2 := extract_join v 0 9 7
    simp only [Nat.reduceAdd, Nat.zero_add] at h1 h2
    simp only [Nat.sub_self, extract_all]
    rw [h1, h2, extract_all]
  simp only [readMbr, layMbr, fmtR]
  rw [h]
  simp [mbrWord2]

theorem readShfl_lay (op g o i) : readShfl (layShfl op g o i) = o := by
  simp [readShfl, layShfl, fmtR]

@[simp] theorem readLaneSrc_lay (s : LaneSrc) : readLaneSrc (layLaneSrc s) = s := by
  cases s <;> simp [readLaneSrc, layLaneSrc]

theorem readLane_lay (op g o) : readLane (layLane op g o) = some o := by
  simp [readLane, layLane, fmtR]

theorem readMem_lay (cls op g o) : readMem (layMem cls op g o) = some o := by
  simp [readMem, layMem, fmtR]

theorem readCompl_imm (f : Fields) (k : Compl) (hd : f.d = k.d) (hi : f.i = complImm k) : readCompl f = some k := by
  simp [readCompl, hd, hi, complImm]

theorem readCompl_copy (op g k a m) : readCompl (layCopy op g k a m) = some k := readCompl_imm _ k rfl rfl

theorem readChain_lay (g o) : readChain (layChain g o) o.w2 o.w3 = some o := by
  have h : readCompl (layChain g o) = some o.compl := readCompl_imm _ o.compl rfl rfl
  simp only [readChain, h]
  simp [layChain, fmtR]

end Sys2Proof.Laws
end

