-- ==== Sys2Proof/Laws/State.lean ====
section
/-! SUPPORT. Laws of the state: what each named update leaves unchanged, one lemma per field, and what it writes. -/

namespace Sys2Proof.Machine

/-! ## Vectors by number -/

theorem vget_vset_same {α : Type} {n : Nat} (v : Vector α n) (i : Nat) (x d : α) (h : i < n) : vget (vset v i x) i d = x := by
  simp [vget, vset, h]

theorem vget_vset_other {α : Type} {n : Nat} (v : Vector α n) (i j : Nat) (x d : α) (h : i ≠ j) :
    vget (vset v i x) j d = vget v j d := by
  unfold vget vset
  by_cases hj : j < n <;> by_cases hi : i < n <;> simp [hi, hj, h]

theorem vset_out {α : Type} {n : Nat} (v : Vector α n) (i : Nat) (x : α) (h : n ≤ i) : vset v i x = v := by
  simp [vset, Nat.not_lt.mpr h]

theorem vget_vmod_same {α : Type} {n : Nat} (v : Vector α n) (i : Nat) (f : α → α) (d : α) (h : i < n) :
    vget (vmod v i f) i d = f (vget v i d) := by
  simp [vget, vmod, h]

theorem vget_vmod_other {α : Type} {n : Nat} (v : Vector α n) (i j : Nat) (f : α → α) (d : α) (h : i ≠ j) :
    vget (vmod v i f) j d = vget v j d := by
  unfold vget vmod
  by_cases hj : j < n <;> by_cases hi : i < n <;> simp [hi, hj, h]

/-! ## Contexts -/

@[simp] theorem State.modCtx_tick (s : State) (c : Nat) (f : Context → Context) : (s.modCtx c f).tick = s.tick := rfl
@[simp] theorem State.modCtx_boot (s : State) (c : Nat) (f : Context → Context) : (s.modCtx c f).boot = s.boot := rfl
@[simp] theorem State.modCtx_cur (s : State) (c : Nat) (f : Context → Context) : (s.modCtx c f).cur = s.cur := rfl
@[simp] theorem State.modCtx_agenda (s : State) (c : Nat) (f : Context → Context) : (s.modCtx c f).agenda = s.agenda := rfl
@[simp] theorem State.modCtx_fresh (s : State) (c : Nat) (f : Context → Context) : (s.modCtx c f).fresh = s.fresh := rfl
@[simp] theorem State.modCtx_nextId (s : State) (c : Nat) (f : Context → Context) : (s.modCtx c f).nextId = s.nextId := rfl
@[simp] theorem State.modCtx_pkg (s : State) (c : Nat) (f : Context → Context) : (s.modCtx c f).pkg = s.pkg := rfl
@[simp] theorem State.modCtx_digest (s : State) (c : Nat) (f : Context → Context) : (s.modCtx c f).digest = s.digest := rfl
@[simp] theorem State.modCtx_config (s : State) (c : Nat) (f : Context → Context) : (s.modCtx c f).config = s.config := rfl
@[simp] theorem State.modCtx_idKey (s : State) (c : Nat) (f : Context → Context) : (s.modCtx c f).idKey = s.idKey := rfl
@[simp] theorem State.modCtx_idSecret (s : State) (c : Nat) (f : Context → Context) : (s.modCtx c f).idSecret = s.idSecret := rfl
@[simp] theorem State.modCtx_certPkg (s : State) (c : Nat) (f : Context → Context) : (s.modCtx c f).certPkg = s.certPkg := rfl
@[simp] theorem State.modCtx_certKey (s : State) (c : Nat) (f : Context → Context) : (s.modCtx c f).certKey = s.certKey := rfl
@[simp] theorem State.modCtx_certSig (s : State) (c : Nat) (f : Context → Context) : (s.modCtx c f).certSig = s.certSig := rfl
@[simp] theorem State.modCtx_certPod (s : State) (c : Nat) (f : Context → Context) : (s.modCtx c f).certPod = s.certPod := rfl
@[simp] theorem State.modCtx_ctlBase (s : State) (c : Nat) (f : Context → Context) : (s.modCtx c f).ctlBase = s.ctlBase := rfl
@[simp] theorem State.modCtx_ctlBytes (s : State) (c : Nat) (f : Context → Context) : (s.modCtx c f).ctlBytes = s.ctlBytes := rfl
@[simp] theorem State.modCtx_nearMax (s : State) (c : Nat) (f : Context → Context) : (s.modCtx c f).nearMax = s.nearMax := rfl
@[simp] theorem State.modCtx_spillBase (s : State) (c : Nat) (f : Context → Context) : (s.modCtx c f).spillBase = s.spillBase := rfl
@[simp] theorem State.modCtx_spill (s : State) (c : Nat) (f : Context → Context) : (s.modCtx c f).spill = s.spill := rfl
@[simp] theorem State.modCtx_accepted (s : State) (c : Nat) (f : Context → Context) : (s.modCtx c f).accepted = s.accepted := rfl
@[simp] theorem State.modCtx_podKeys (s : State) (c : Nat) (f : Context → Context) : (s.modCtx c f).podKeys = s.podKeys := rfl
@[simp] theorem State.modCtx_hostLink (s : State) (c : Nat) (f : Context → Context) : (s.modCtx c f).hostLink = s.hostLink := rfl
@[simp] theorem State.modCtx_msixTab (s : State) (c : Nat) (f : Context → Context) : (s.modCtx c f).msixTab = s.msixTab := rfl
@[simp] theorem State.modCtx_msixPend (s : State) (c : Nat) (f : Context → Context) : (s.modCtx c f).msixPend = s.msixPend := rfl
@[simp] theorem State.modCtx_mem (s : State) (c : Nat) (f : Context → Context) : (s.modCtx c f).mem = s.mem := rfl
@[simp] theorem State.modCtx_bad (s : State) (c : Nat) (f : Context → Context) : (s.modCtx c f).bad = s.bad := rfl
@[simp] theorem State.modCtx_near (s : State) (c : Nat) (f : Context → Context) : (s.modCtx c f).near = s.near := rfl
@[simp] theorem State.modCtx_l1 (s : State) (c : Nat) (f : Context → Context) : (s.modCtx c f).l1 = s.l1 := rfl
@[simp] theorem State.modCtx_nearHome (s : State) (c : Nat) (f : Context → Context) : (s.modCtx c f).nearHome = s.nearHome := rfl
@[simp] theorem State.modCtx_reqs (s : State) (c : Nat) (f : Context → Context) : (s.modCtx c f).reqs = s.reqs := rfl
@[simp] theorem State.modCtx_frozenLines (s : State) (c : Nat) (f : Context → Context) : (s.modCtx c f).frozenLines = s.frozenLines := rfl
@[simp] theorem State.modCtx_cmds (s : State) (c : Nat) (f : Context → Context) : (s.modCtx c f).cmds = s.cmds := rfl
@[simp] theorem State.modCtx_invs (s : State) (c : Nat) (f : Context → Context) : (s.modCtx c f).invs = s.invs := rfl
@[simp] theorem State.modCtx_cores (s : State) (c : Nat) (f : Context → Context) : (s.modCtx c f).cores = s.cores := rfl
@[simp] theorem State.modCtx_dies (s : State) (c : Nat) (f : Context → Context) : (s.modCtx c f).dies = s.dies := rfl
@[simp] theorem State.modCtx_blocks (s : State) (c : Nat) (f : Context → Context) : (s.modCtx c f).blocks = s.blocks := rfl
@[simp] theorem State.modCtx_seq (s : State) (c : Nat) (f : Context → Context) : (s.modCtx c f).seq = s.seq := rfl
@[simp] theorem State.modCtx_launches (s : State) (c : Nat) (f : Context → Context) : (s.modCtx c f).launches = s.launches := rfl
@[simp] theorem State.modCtx_lastBatch (s : State) (c : Nat) (f : Context → Context) : (s.modCtx c f).lastBatch = s.lastBatch := rfl
@[simp] theorem State.modCtx_bindings (s : State) (c : Nat) (f : Context → Context) : (s.modCtx c f).bindings = s.bindings := rfl
@[simp] theorem State.modCtx_inq (s : State) (c : Nat) (f : Context → Context) : (s.modCtx c f).inq = s.inq := rfl
@[simp] theorem State.modCtx_robin (s : State) (c : Nat) (f : Context → Context) : (s.modCtx c f).robin = s.robin := rfl
@[simp] theorem State.modCtx_rounds (s : State) (c : Nat) (f : Context → Context) : (s.modCtx c f).rounds = s.rounds := rfl
@[simp] theorem State.modCtx_contribs (s : State) (c : Nat) (f : Context → Context) : (s.modCtx c f).contribs = s.contribs := rfl
@[simp] theorem State.modCtx_aliasWaits (s : State) (c : Nat) (f : Context → Context) : (s.modCtx c f).aliasWaits = s.aliasWaits := rfl
@[simp] theorem State.modCtx_dreqs (s : State) (c : Nat) (f : Context → Context) : (s.modCtx c f).dreqs = s.dreqs := rfl
@[simp] theorem State.modCtx_ports (s : State) (c : Nat) (f : Context → Context) : (s.modCtx c f).ports = s.ports := rfl
@[simp] theorem State.modCtx_pathLost (s : State) (c : Nat) (f : Context → Context) : (s.modCtx c f).pathLost = s.pathLost := rfl
@[simp] theorem State.modCtx_pathTold (s : State) (c : Nat) (f : Context → Context) : (s.modCtx c f).pathTold = s.pathTold := rfl
@[simp] theorem State.modCtx_fr (s : State) (c : Nat) (f : Context → Context) : (s.modCtx c f).fr = s.fr := rfl
@[simp] theorem State.modCtx_slew (s : State) (c : Nat) (f : Context → Context) : (s.modCtx c f).slew = s.slew := rfl
@[simp] theorem State.modCtx_powered (s : State) (c : Nat) (f : Context → Context) : (s.modCtx c f).powered = s.powered := rfl
@[simp] theorem State.modCtx_stagB (s : State) (c : Nat) (f : Context → Context) : (s.modCtx c f).stagB = s.stagB := rfl
@[simp] theorem State.modCtx_delta (s : State) (c : Nat) (f : Context → Context) : (s.modCtx c f).delta = s.delta := rfl
@[simp] theorem State.modCtx_groups (s : State) (c : Nat) (f : Context → Context) : (s.modCtx c f).groups = s.groups := rfl
@[simp] theorem State.modCtx_amons (s : State) (c : Nat) (f : Context → Context) : (s.modCtx c f).amons = s.amons := rfl
@[simp] theorem State.modCtx_events (s : State) (c : Nat) (f : Context → Context) : (s.modCtx c f).events = s.events := rfl
@[simp] theorem State.modCtx_msix (s : State) (c : Nat) (f : Context → Context) : (s.modCtx c f).msix = s.msix := rfl
@[simp] theorem State.modCtx_outbox (s : State) (c : Nat) (f : Context → Context) : (s.modCtx c f).outbox = s.outbox := rfl
@[simp] theorem State.modCtx_answers (s : State) (c : Nat) (f : Context → Context) : (s.modCtx c f).answers = s.answers := rfl
@[simp] theorem State.modCtx_portEvents (s : State) (c : Nat) (f : Context → Context) : (s.modCtx c f).portEvents = s.portEvents := rfl
@[simp] theorem State.modCtx_joinOut (s : State) (c : Nat) (f : Context → Context) : (s.modCtx c f).joinOut = s.joinOut := rfl
@[simp] theorem State.modCtx_attestOut (s : State) (c : Nat) (f : Context → Context) : (s.modCtx c f).attestOut = s.attestOut := rfl
@[simp] theorem State.modCtx_rowAcks (s : State) (c : Nat) (f : Context → Context) : (s.modCtx c f).rowAcks = s.rowAcks := rfl
@[simp] theorem State.modCtx_posted (s : State) (c : Nat) (f : Context → Context) : (s.modCtx c f).posted = s.posted := rfl
@[simp] theorem State.modCtx_due (s : State) (c : Nat) (f : Context → Context) : (s.modCtx c f).due = s.due := rfl

/-! ## Cores -/

@[simp] theorem State.modCore_tick (s : State) (c : Nat) (f : Core → Core) : (s.modCore c f).tick = s.tick := rfl
@[simp] theorem State.modCore_boot (s : State) (c : Nat) (f : Core → Core) : (s.modCore c f).boot = s.boot := rfl
@[simp] theorem State.modCore_cur (s : State) (c : Nat) (f : Core → Core) : (s.modCore c f).cur = s.cur := rfl
@[simp] theorem State.modCore_agenda (s : State) (c : Nat) (f : Core → Core) : (s.modCore c f).agenda = s.agenda := rfl
@[simp] theorem State.modCore_fresh (s : State) (c : Nat) (f : Core → Core) : (s.modCore c f).fresh = s.fresh := rfl
@[simp] theorem State.modCore_nextId (s : State) (c : Nat) (f : Core → Core) : (s.modCore c f).nextId = s.nextId := rfl
@[simp] theorem State.modCore_pkg (s : State) (c : Nat) (f : Core → Core) : (s.modCore c f).pkg = s.pkg := rfl
@[simp] theorem State.modCore_digest (s : State) (c : Nat) (f : Core → Core) : (s.modCore c f).digest = s.digest := rfl
@[simp] theorem State.modCore_config (s : State) (c : Nat) (f : Core → Core) : (s.modCore c f).config = s.config := rfl
@[simp] theorem State.modCore_idKey (s : State) (c : Nat) (f : Core → Core) : (s.modCore c f).idKey = s.idKey := rfl
@[simp] theorem State.modCore_idSecret (s : State) (c : Nat) (f : Core → Core) : (s.modCore c f).idSecret = s.idSecret := rfl
@[simp] theorem State.modCore_certPkg (s : State) (c : Nat) (f : Core → Core) : (s.modCore c f).certPkg = s.certPkg := rfl
@[simp] theorem State.modCore_certKey (s : State) (c : Nat) (f : Core → Core) : (s.modCore c f).certKey = s.certKey := rfl
@[simp] theorem State.modCore_certSig (s : State) (c : Nat) (f : Core → Core) : (s.modCore c f).certSig = s.certSig := rfl
@[simp] theorem State.modCore_certPod (s : State) (c : Nat) (f : Core → Core) : (s.modCore c f).certPod = s.certPod := rfl
@[simp] theorem State.modCore_ctlBase (s : State) (c : Nat) (f : Core → Core) : (s.modCore c f).ctlBase = s.ctlBase := rfl
@[simp] theorem State.modCore_ctlBytes (s : State) (c : Nat) (f : Core → Core) : (s.modCore c f).ctlBytes = s.ctlBytes := rfl
@[simp] theorem State.modCore_nearMax (s : State) (c : Nat) (f : Core → Core) : (s.modCore c f).nearMax = s.nearMax := rfl
@[simp] theorem State.modCore_spillBase (s : State) (c : Nat) (f : Core → Core) : (s.modCore c f).spillBase = s.spillBase := rfl
@[simp] theorem State.modCore_spill (s : State) (c : Nat) (f : Core → Core) : (s.modCore c f).spill = s.spill := rfl
@[simp] theorem State.modCore_accepted (s : State) (c : Nat) (f : Core → Core) : (s.modCore c f).accepted = s.accepted := rfl
@[simp] theorem State.modCore_podKeys (s : State) (c : Nat) (f : Core → Core) : (s.modCore c f).podKeys = s.podKeys := rfl
@[simp] theorem State.modCore_hostLink (s : State) (c : Nat) (f : Core → Core) : (s.modCore c f).hostLink = s.hostLink := rfl
@[simp] theorem State.modCore_msixTab (s : State) (c : Nat) (f : Core → Core) : (s.modCore c f).msixTab = s.msixTab := rfl
@[simp] theorem State.modCore_msixPend (s : State) (c : Nat) (f : Core → Core) : (s.modCore c f).msixPend = s.msixPend := rfl
@[simp] theorem State.modCore_mem (s : State) (c : Nat) (f : Core → Core) : (s.modCore c f).mem = s.mem := rfl
@[simp] theorem State.modCore_bad (s : State) (c : Nat) (f : Core → Core) : (s.modCore c f).bad = s.bad := rfl
@[simp] theorem State.modCore_near (s : State) (c : Nat) (f : Core → Core) : (s.modCore c f).near = s.near := rfl
@[simp] theorem State.modCore_l1 (s : State) (c : Nat) (f : Core → Core) : (s.modCore c f).l1 = s.l1 := rfl
@[simp] theorem State.modCore_nearHome (s : State) (c : Nat) (f : Core → Core) : (s.modCore c f).nearHome = s.nearHome := rfl
@[simp] theorem State.modCore_reqs (s : State) (c : Nat) (f : Core → Core) : (s.modCore c f).reqs = s.reqs := rfl
@[simp] theorem State.modCore_frozenLines (s : State) (c : Nat) (f : Core → Core) : (s.modCore c f).frozenLines = s.frozenLines := rfl
@[simp] theorem State.modCore_cmds (s : State) (c : Nat) (f : Core → Core) : (s.modCore c f).cmds = s.cmds := rfl
@[simp] theorem State.modCore_invs (s : State) (c : Nat) (f : Core → Core) : (s.modCore c f).invs = s.invs := rfl
@[simp] theorem State.modCore_dies (s : State) (c : Nat) (f : Core → Core) : (s.modCore c f).dies = s.dies := rfl
@[simp] theorem State.modCore_ctxs (s : State) (c : Nat) (f : Core → Core) : (s.modCore c f).ctxs = s.ctxs := rfl
@[simp] theorem State.modCore_blocks (s : State) (c : Nat) (f : Core → Core) : (s.modCore c f).blocks = s.blocks := rfl
@[simp] theorem State.modCore_seq (s : State) (c : Nat) (f : Core → Core) : (s.modCore c f).seq = s.seq := rfl
@[simp] theorem State.modCore_launches (s : State) (c : Nat) (f : Core → Core) : (s.modCore c f).launches = s.launches := rfl
@[simp] theorem State.modCore_lastBatch (s : State) (c : Nat) (f : Core → Core) : (s.modCore c f).lastBatch = s.lastBatch := rfl
@[simp] theorem State.modCore_bindings (s : State) (c : Nat) (f : Core → Core) : (s.modCore c f).bindings = s.bindings := rfl
@[simp] theorem State.modCore_inq (s : State) (c : Nat) (f : Core → Core) : (s.modCore c f).inq = s.inq := rfl
@[simp] theorem State.modCore_robin (s : State) (c : Nat) (f : Core → Core) : (s.modCore c f).robin = s.robin := rfl
@[simp] theorem State.modCore_rounds (s : State) (c : Nat) (f : Core → Core) : (s.modCore c f).rounds = s.rounds := rfl
@[simp] theorem State.modCore_contribs (s : State) (c : Nat) (f : Core → Core) : (s.modCore c f).contribs = s.contribs := rfl
@[simp] theorem State.modCore_aliasWaits (s : State) (c : Nat) (f : Core → Core) : (s.modCore c f).aliasWaits = s.aliasWaits := rfl
@[simp] theorem State.modCore_dreqs (s : State) (c : Nat) (f : Core → Core) : (s.modCore c f).dreqs = s.dreqs := rfl
@[simp] theorem State.modCore_ports (s : State) (c : Nat) (f : Core → Core) : (s.modCore c f).ports = s.ports := rfl
@[simp] theorem State.modCore_pathLost (s : State) (c : Nat) (f : Core → Core) : (s.modCore c f).pathLost = s.pathLost := rfl
@[simp] theorem State.modCore_pathTold (s : State) (c : Nat) (f : Core → Core) : (s.modCore c f).pathTold = s.pathTold := rfl
@[simp] theorem State.modCore_fr (s : State) (c : Nat) (f : Core → Core) : (s.modCore c f).fr = s.fr := rfl
@[simp] theorem State.modCore_slew (s : State) (c : Nat) (f : Core → Core) : (s.modCore c f).slew = s.slew := rfl
@[simp] theorem State.modCore_powered (s : State) (c : Nat) (f : Core → Core) : (s.modCore c f).powered = s.powered := rfl
@[simp] theorem State.modCore_stagB (s : State) (c : Nat) (f : Core → Core) : (s.modCore c f).stagB = s.stagB := rfl
@[simp] theorem State.modCore_delta (s : State) (c : Nat) (f : Core → Core) : (s.modCore c f).delta = s.delta := rfl
@[simp] theorem State.modCore_groups (s : State) (c : Nat) (f : Core → Core) : (s.modCore c f).groups = s.groups := rfl
@[simp] theorem State.modCore_amons (s : State) (c : Nat) (f : Core → Core) : (s.modCore c f).amons = s.amons := rfl
@[simp] theorem State.modCore_events (s : State) (c : Nat) (f : Core → Core) : (s.modCore c f).events = s.events := rfl
@[simp] theorem State.modCore_msix (s : State) (c : Nat) (f : Core → Core) : (s.modCore c f).msix = s.msix := rfl
@[simp] theorem State.modCore_outbox (s : State) (c : Nat) (f : Core → Core) : (s.modCore c f).outbox = s.outbox := rfl
@[simp] theorem State.modCore_answers (s : State) (c : Nat) (f : Core → Core) : (s.modCore c f).answers = s.answers := rfl
@[simp] theorem State.modCore_portEvents (s : State) (c : Nat) (f : Core → Core) : (s.modCore c f).portEvents = s.portEvents := rfl
@[simp] theorem State.modCore_joinOut (s : State) (c : Nat) (f : Core → Core) : (s.modCore c f).joinOut = s.joinOut := rfl
@[simp] theorem State.modCore_attestOut (s : State) (c : Nat) (f : Core → Core) : (s.modCore c f).attestOut = s.attestOut := rfl
@[simp] theorem State.modCore_rowAcks (s : State) (c : Nat) (f : Core → Core) : (s.modCore c f).rowAcks = s.rowAcks := rfl
@[simp] theorem State.modCore_posted (s : State) (c : Nat) (f : Core → Core) : (s.modCore c f).posted = s.posted := rfl
@[simp] theorem State.modCore_due (s : State) (c : Nat) (f : Core → Core) : (s.modCore c f).due = s.due := rfl

/-! ## Dies -/

@[simp] theorem State.modDie_tick (s : State) (d : Nat) (f : Die → Die) : (s.modDie d f).tick = s.tick := rfl
@[simp] theorem State.modDie_boot (s : State) (d : Nat) (f : Die → Die) : (s.modDie d f).boot = s.boot := rfl
@[simp] theorem State.modDie_cur (s : State) (d : Nat) (f : Die → Die) : (s.modDie d f).cur = s.cur := rfl
@[simp] theorem State.modDie_agenda (s : State) (d : Nat) (f : Die → Die) : (s.modDie d f).agenda = s.agenda := rfl
@[simp] theorem State.modDie_fresh (s : State) (d : Nat) (f : Die → Die) : (s.modDie d f).fresh = s.fresh := rfl
@[simp] theorem State.modDie_nextId (s : State) (d : Nat) (f : Die → Die) : (s.modDie d f).nextId = s.nextId := rfl
@[simp] theorem State.modDie_pkg (s : State) (d : Nat) (f : Die → Die) : (s.modDie d f).pkg = s.pkg := rfl
@[simp] theorem State.modDie_digest (s : State) (d : Nat) (f : Die → Die) : (s.modDie d f).digest = s.digest := rfl
@[simp] theorem State.modDie_config (s : State) (d : Nat) (f : Die → Die) : (s.modDie d f).config = s.config := rfl
@[simp] theorem State.modDie_idKey (s : State) (d : Nat) (f : Die → Die) : (s.modDie d f).idKey = s.idKey := rfl
@[simp] theorem State.modDie_idSecret (s : State) (d : Nat) (f : Die → Die) : (s.modDie d f).idSecret = s.idSecret := rfl
@[simp] theorem State.modDie_certPkg (s : State) (d : Nat) (f : Die → Die) : (s.modDie d f).certPkg = s.certPkg := rfl
@[simp] theorem State.modDie_certKey (s : State) (d : Nat) (f : Die → Die) : (s.modDie d f).certKey = s.certKey := rfl
@[simp] theorem State.modDie_certSig (s : State) (d : Nat) (f : Die → Die) : (s.modDie d f).certSig = s.certSig := rfl
@[simp] theorem State.modDie_certPod (s : State) (d : Nat) (f : Die → Die) : (s.modDie d f).certPod = s.certPod := rfl
@[simp] theorem State.modDie_ctlBase (s : State) (d : Nat) (f : Die → Die) : (s.modDie d f).ctlBase = s.ctlBase := rfl
@[simp] theorem State.modDie_ctlBytes (s : State) (d : Nat) (f : Die → Die) : (s.modDie d f).ctlBytes = s.ctlBytes := rfl
@[simp] theorem State.modDie_nearMax (s : State) (d : Nat) (f : Die → Die) : (s.modDie d f).nearMax = s.nearMax := rfl
@[simp] theorem State.modDie_spillBase (s : State) (d : Nat) (f : Die → Die) : (s.modDie d f).spillBase = s.spillBase := rfl
@[simp] theorem State.modDie_spill (s : State) (d : Nat) (f : Die → Die) : (s.modDie d f).spill = s.spill := rfl
@[simp] theorem State.modDie_accepted (s : State) (d : Nat) (f : Die → Die) : (s.modDie d f).accepted = s.accepted := rfl
@[simp] theorem State.modDie_podKeys (s : State) (d : Nat) (f : Die → Die) : (s.modDie d f).podKeys = s.podKeys := rfl
@[simp] theorem State.modDie_hostLink (s : State) (d : Nat) (f : Die → Die) : (s.modDie d f).hostLink = s.hostLink := rfl
@[simp] theorem State.modDie_msixTab (s : State) (d : Nat) (f : Die → Die) : (s.modDie d f).msixTab = s.msixTab := rfl
@[simp] theorem State.modDie_msixPend (s : State) (d : Nat) (f : Die → Die) : (s.modDie d f).msixPend = s.msixPend := rfl
@[simp] theorem State.modDie_mem (s : State) (d : Nat) (f : Die → Die) : (s.modDie d f).mem = s.mem := rfl
@[simp] theorem State.modDie_bad (s : State) (d : Nat) (f : Die → Die) : (s.modDie d f).bad = s.bad := rfl
@[simp] theorem State.modDie_near (s : State) (d : Nat) (f : Die → Die) : (s.modDie d f).near = s.near := rfl
@[simp] theorem State.modDie_l1 (s : State) (d : Nat) (f : Die → Die) : (s.modDie d f).l1 = s.l1 := rfl
@[simp] theorem State.modDie_nearHome (s : State) (d : Nat) (f : Die → Die) : (s.modDie d f).nearHome = s.nearHome := rfl
@[simp] theorem State.modDie_reqs (s : State) (d : Nat) (f : Die → Die) : (s.modDie d f).reqs = s.reqs := rfl
@[simp] theorem State.modDie_frozenLines (s : State) (d : Nat) (f : Die → Die) : (s.modDie d f).frozenLines = s.frozenLines := rfl
@[simp] theorem State.modDie_cmds (s : State) (d : Nat) (f : Die → Die) : (s.modDie d f).cmds = s.cmds := rfl
@[simp] theorem State.modDie_invs (s : State) (d : Nat) (f : Die → Die) : (s.modDie d f).invs = s.invs := rfl
@[simp] theorem State.modDie_cores (s : State) (d : Nat) (f : Die → Die) : (s.modDie d f).cores = s.cores := rfl
@[simp] theorem State.modDie_ctxs (s : State) (d : Nat) (f : Die → Die) : (s.modDie d f).ctxs = s.ctxs := rfl
@[simp] theorem State.modDie_blocks (s : State) (d : Nat) (f : Die → Die) : (s.modDie d f).blocks = s.blocks := rfl
@[simp] theorem State.modDie_seq (s : State) (d : Nat) (f : Die → Die) : (s.modDie d f).seq = s.seq := rfl
@[simp] theorem State.modDie_launches (s : State) (d : Nat) (f : Die → Die) : (s.modDie d f).launches = s.launches := rfl
@[simp] theorem State.modDie_lastBatch (s : State) (d : Nat) (f : Die → Die) : (s.modDie d f).lastBatch = s.lastBatch := rfl
@[simp] theorem State.modDie_bindings (s : State) (d : Nat) (f : Die → Die) : (s.modDie d f).bindings = s.bindings := rfl
@[simp] theorem State.modDie_inq (s : State) (d : Nat) (f : Die → Die) : (s.modDie d f).inq = s.inq := rfl
@[simp] theorem State.modDie_robin (s : State) (d : Nat) (f : Die → Die) : (s.modDie d f).robin = s.robin := rfl
@[simp] theorem State.modDie_rounds (s : State) (d : Nat) (f : Die → Die) : (s.modDie d f).rounds = s.rounds := rfl
@[simp] theorem State.modDie_contribs (s : State) (d : Nat) (f : Die → Die) : (s.modDie d f).contribs = s.contribs := rfl
@[simp] theorem State.modDie_aliasWaits (s : State) (d : Nat) (f : Die → Die) : (s.modDie d f).aliasWaits = s.aliasWaits := rfl
@[simp] theorem State.modDie_dreqs (s : State) (d : Nat) (f : Die → Die) : (s.modDie d f).dreqs = s.dreqs := rfl
@[simp] theorem State.modDie_ports (s : State) (d : Nat) (f : Die → Die) : (s.modDie d f).ports = s.ports := rfl
@[simp] theorem State.modDie_pathLost (s : State) (d : Nat) (f : Die → Die) : (s.modDie d f).pathLost = s.pathLost := rfl
@[simp] theorem State.modDie_pathTold (s : State) (d : Nat) (f : Die → Die) : (s.modDie d f).pathTold = s.pathTold := rfl
@[simp] theorem State.modDie_fr (s : State) (d : Nat) (f : Die → Die) : (s.modDie d f).fr = s.fr := rfl
@[simp] theorem State.modDie_slew (s : State) (d : Nat) (f : Die → Die) : (s.modDie d f).slew = s.slew := rfl
@[simp] theorem State.modDie_powered (s : State) (d : Nat) (f : Die → Die) : (s.modDie d f).powered = s.powered := rfl
@[simp] theorem State.modDie_stagB (s : State) (d : Nat) (f : Die → Die) : (s.modDie d f).stagB = s.stagB := rfl
@[simp] theorem State.modDie_delta (s : State) (d : Nat) (f : Die → Die) : (s.modDie d f).delta = s.delta := rfl
@[simp] theorem State.modDie_groups (s : State) (d : Nat) (f : Die → Die) : (s.modDie d f).groups = s.groups := rfl
@[simp] theorem State.modDie_amons (s : State) (d : Nat) (f : Die → Die) : (s.modDie d f).amons = s.amons := rfl
@[simp] theorem State.modDie_events (s : State) (d : Nat) (f : Die → Die) : (s.modDie d f).events = s.events := rfl
@[simp] theorem State.modDie_msix (s : State) (d : Nat) (f : Die → Die) : (s.modDie d f).msix = s.msix := rfl
@[simp] theorem State.modDie_outbox (s : State) (d : Nat) (f : Die → Die) : (s.modDie d f).outbox = s.outbox := rfl
@[simp] theorem State.modDie_answers (s : State) (d : Nat) (f : Die → Die) : (s.modDie d f).answers = s.answers := rfl
@[simp] theorem State.modDie_portEvents (s : State) (d : Nat) (f : Die → Die) : (s.modDie d f).portEvents = s.portEvents := rfl
@[simp] theorem State.modDie_joinOut (s : State) (d : Nat) (f : Die → Die) : (s.modDie d f).joinOut = s.joinOut := rfl
@[simp] theorem State.modDie_attestOut (s : State) (d : Nat) (f : Die → Die) : (s.modDie d f).attestOut = s.attestOut := rfl
@[simp] theorem State.modDie_rowAcks (s : State) (d : Nat) (f : Die → Die) : (s.modDie d f).rowAcks = s.rowAcks := rfl
@[simp] theorem State.modDie_posted (s : State) (d : Nat) (f : Die → Die) : (s.modDie d f).posted = s.posted := rfl
@[simp] theorem State.modDie_due (s : State) (d : Nat) (f : Die → Die) : (s.modDie d f).due = s.due := rfl

/-! ## Blocks -/

@[simp] theorem State.modBlock_tick (s : State) (blk : Nat) (f : Block → Block) : (s.modBlock blk f).tick = s.tick := rfl
@[simp] theorem State.modBlock_boot (s : State) (blk : Nat) (f : Block → Block) : (s.modBlock blk f).boot = s.boot := rfl
@[simp] theorem State.modBlock_cur (s : State) (blk : Nat) (f : Block → Block) : (s.modBlock blk f).cur = s.cur := rfl
@[simp] theorem State.modBlock_agenda (s : State) (blk : Nat) (f : Block → Block) : (s.modBlock blk f).agenda = s.agenda := rfl
@[simp] theorem State.modBlock_fresh (s : State) (blk : Nat) (f : Block → Block) : (s.modBlock blk f).fresh = s.fresh := rfl
@[simp] theorem State.modBlock_nextId (s : State) (blk : Nat) (f : Block → Block) : (s.modBlock blk f).nextId = s.nextId := rfl
@[simp] theorem State.modBlock_pkg (s : State) (blk : Nat) (f : Block → Block) : (s.modBlock blk f).pkg = s.pkg := rfl
@[simp] theorem State.modBlock_digest (s : State) (blk : Nat) (f : Block → Block) : (s.modBlock blk f).digest = s.digest := rfl
@[simp] theorem State.modBlock_config (s : State) (blk : Nat) (f : Block → Block) : (s.modBlock blk f).config = s.config := rfl
@[simp] theorem State.modBlock_idKey (s : State) (blk : Nat) (f : Block → Block) : (s.modBlock blk f).idKey = s.idKey := rfl
@[simp] theorem State.modBlock_idSecret (s : State) (blk : Nat) (f : Block → Block) : (s.modBlock blk f).idSecret = s.idSecret := rfl
@[simp] theorem State.modBlock_certPkg (s : State) (blk : Nat) (f : Block → Block) : (s.modBlock blk f).certPkg = s.certPkg := rfl
@[simp] theorem State.modBlock_certKey (s : State) (blk : Nat) (f : Block → Block) : (s.modBlock blk f).certKey = s.certKey := rfl
@[simp] theorem State.modBlock_certSig (s : State) (blk : Nat) (f : Block → Block) : (s.modBlock blk f).certSig = s.certSig := rfl
@[simp] theorem State.modBlock_certPod (s : State) (blk : Nat) (f : Block → Block) : (s.modBlock blk f).certPod = s.certPod := rfl
@[simp] theorem State.modBlock_ctlBase (s : State) (blk : Nat) (f : Block → Block) : (s.modBlock blk f).ctlBase = s.ctlBase := rfl
@[simp] theorem State.modBlock_ctlBytes (s : State) (blk : Nat) (f : Block → Block) : (s.modBlock blk f).ctlBytes = s.ctlBytes := rfl
@[simp] theorem State.modBlock_nearMax (s : State) (blk : Nat) (f : Block → Block) : (s.modBlock blk f).nearMax = s.nearMax := rfl
@[simp] theorem State.modBlock_spillBase (s : State) (blk : Nat) (f : Block → Block) : (s.modBlock blk f).spillBase = s.spillBase := rfl
@[simp] theorem State.modBlock_spill (s : State) (blk : Nat) (f : Block → Block) : (s.modBlock blk f).spill = s.spill := rfl
@[simp] theorem State.modBlock_accepted (s : State) (blk : Nat) (f : Block → Block) : (s.modBlock blk f).accepted = s.accepted := rfl
@[simp] theorem State.modBlock_podKeys (s : State) (blk : Nat) (f : Block → Block) : (s.modBlock blk f).podKeys = s.podKeys := rfl
@[simp] theorem State.modBlock_hostLink (s : State) (blk : Nat) (f : Block → Block) : (s.modBlock blk f).hostLink = s.hostLink := rfl
@[simp] theorem State.modBlock_msixTab (s : State) (blk : Nat) (f : Block → Block) : (s.modBlock blk f).msixTab = s.msixTab := rfl
@[simp] theorem State.modBlock_msixPend (s : State) (blk : Nat) (f : Block → Block) : (s.modBlock blk f).msixPend = s.msixPend := rfl
@[simp] theorem State.modBlock_mem (s : State) (blk : Nat) (f : Block → Block) : (s.modBlock blk f).mem = s.mem := rfl
@[simp] theorem State.modBlock_bad (s : State) (blk : Nat) (f : Block → Block) : (s.modBlock blk f).bad = s.bad := rfl
@[simp] theorem State.modBlock_near (s : State) (blk : Nat) (f : Block → Block) : (s.modBlock blk f).near = s.near := rfl
@[simp] theorem State.modBlock_l1 (s : State) (blk : Nat) (f : Block → Block) : (s.modBlock blk f).l1 = s.l1 := rfl
@[simp] theorem State.modBlock_nearHome (s : State) (blk : Nat) (f : Block → Block) : (s.modBlock blk f).nearHome = s.nearHome := rfl
@[simp] theorem State.modBlock_reqs (s : State) (blk : Nat) (f : Block → Block) : (s.modBlock blk f).reqs = s.reqs := rfl
@[simp] theorem State.modBlock_frozenLines (s : State) (blk : Nat) (f : Block → Block) : (s.modBlock blk f).frozenLines = s.frozenLines := rfl
@[simp] theorem State.modBlock_cmds (s : State) (blk : Nat) (f : Block → Block) : (s.modBlock blk f).cmds = s.cmds := rfl
@[simp] theorem State.modBlock_invs (s : State) (blk : Nat) (f : Block → Block) : (s.modBlock blk f).invs = s.invs := rfl
@[simp] theorem State.modBlock_cores (s : State) (blk : Nat) (f : Block → Block) : (s.modBlock blk f).cores = s.cores := rfl
@[simp] theorem State.modBlock_dies (s : State) (blk : Nat) (f : Block → Block) : (s.modBlock blk f).dies = s.dies := rfl
@[simp] theorem State.modBlock_ctxs (s : State) (blk : Nat) (f : Block → Block) : (s.modBlock blk f).ctxs = s.ctxs := rfl
@[simp] theorem State.modBlock_seq (s : State) (blk : Nat) (f : Block → Block) : (s.modBlock blk f).seq = s.seq := rfl
@[simp] theorem State.modBlock_launches (s : State) (blk : Nat) (f : Block → Block) : (s.modBlock blk f).launches = s.launches := rfl
@[simp] theorem State.modBlock_lastBatch (s : State) (blk : Nat) (f : Block → Block) : (s.modBlock blk f).lastBatch = s.lastBatch := rfl
@[simp] theorem State.modBlock_bindings (s : State) (blk : Nat) (f : Block → Block) : (s.modBlock blk f).bindings = s.bindings := rfl
@[simp] theorem State.modBlock_inq (s : State) (blk : Nat) (f : Block → Block) : (s.modBlock blk f).inq = s.inq := rfl
@[simp] theorem State.modBlock_robin (s : State) (blk : Nat) (f : Block → Block) : (s.modBlock blk f).robin = s.robin := rfl
@[simp] theorem State.modBlock_rounds (s : State) (blk : Nat) (f : Block → Block) : (s.modBlock blk f).rounds = s.rounds := rfl
@[simp] theorem State.modBlock_contribs (s : State) (blk : Nat) (f : Block → Block) : (s.modBlock blk f).contribs = s.contribs := rfl
@[simp] theorem State.modBlock_aliasWaits (s : State) (blk : Nat) (f : Block → Block) : (s.modBlock blk f).aliasWaits = s.aliasWaits := rfl
@[simp] theorem State.modBlock_dreqs (s : State) (blk : Nat) (f : Block → Block) : (s.modBlock blk f).dreqs = s.dreqs := rfl
@[simp] theorem State.modBlock_ports (s : State) (blk : Nat) (f : Block → Block) : (s.modBlock blk f).ports = s.ports := rfl
@[simp] theorem State.modBlock_pathLost (s : State) (blk : Nat) (f : Block → Block) : (s.modBlock blk f).pathLost = s.pathLost := rfl
@[simp] theorem State.modBlock_pathTold (s : State) (blk : Nat) (f : Block → Block) : (s.modBlock blk f).pathTold = s.pathTold := rfl
@[simp] theorem State.modBlock_fr (s : State) (blk : Nat) (f : Block → Block) : (s.modBlock blk f).fr = s.fr := rfl
@[simp] theorem State.modBlock_slew (s : State) (blk : Nat) (f : Block → Block) : (s.modBlock blk f).slew = s.slew := rfl
@[simp] theorem State.modBlock_powered (s : State) (blk : Nat) (f : Block → Block) : (s.modBlock blk f).powered = s.powered := rfl
@[simp] theorem State.modBlock_stagB (s : State) (blk : Nat) (f : Block → Block) : (s.modBlock blk f).stagB = s.stagB := rfl
@[simp] theorem State.modBlock_delta (s : State) (blk : Nat) (f : Block → Block) : (s.modBlock blk f).delta = s.delta := rfl
@[simp] theorem State.modBlock_groups (s : State) (blk : Nat) (f : Block → Block) : (s.modBlock blk f).groups = s.groups := rfl
@[simp] theorem State.modBlock_amons (s : State) (blk : Nat) (f : Block → Block) : (s.modBlock blk f).amons = s.amons := rfl
@[simp] theorem State.modBlock_events (s : State) (blk : Nat) (f : Block → Block) : (s.modBlock blk f).events = s.events := rfl
@[simp] theorem State.modBlock_msix (s : State) (blk : Nat) (f : Block → Block) : (s.modBlock blk f).msix = s.msix := rfl
@[simp] theorem State.modBlock_outbox (s : State) (blk : Nat) (f : Block → Block) : (s.modBlock blk f).outbox = s.outbox := rfl
@[simp] theorem State.modBlock_answers (s : State) (blk : Nat) (f : Block → Block) : (s.modBlock blk f).answers = s.answers := rfl
@[simp] theorem State.modBlock_portEvents (s : State) (blk : Nat) (f : Block → Block) : (s.modBlock blk f).portEvents = s.portEvents := rfl
@[simp] theorem State.modBlock_joinOut (s : State) (blk : Nat) (f : Block → Block) : (s.modBlock blk f).joinOut = s.joinOut := rfl
@[simp] theorem State.modBlock_attestOut (s : State) (blk : Nat) (f : Block → Block) : (s.modBlock blk f).attestOut = s.attestOut := rfl
@[simp] theorem State.modBlock_rowAcks (s : State) (blk : Nat) (f : Block → Block) : (s.modBlock blk f).rowAcks = s.rowAcks := rfl
@[simp] theorem State.modBlock_posted (s : State) (blk : Nat) (f : Block → Block) : (s.modBlock blk f).posted = s.posted := rfl
@[simp] theorem State.modBlock_due (s : State) (blk : Nat) (f : Block → Block) : (s.modBlock blk f).due = s.due := rfl

/-! ## Threads -/

@[simp] theorem State.modThread_tick (s : State) (blk : Nat) (w : Who) (f : Thread → Thread) : (s.modThread blk w f).tick = s.tick := rfl
@[simp] theorem State.modThread_boot (s : State) (blk : Nat) (w : Who) (f : Thread → Thread) : (s.modThread blk w f).boot = s.boot := rfl
@[simp] theorem State.modThread_cur (s : State) (blk : Nat) (w : Who) (f : Thread → Thread) : (s.modThread blk w f).cur = s.cur := rfl
@[simp] theorem State.modThread_agenda (s : State) (blk : Nat) (w : Who) (f : Thread → Thread) : (s.modThread blk w f).agenda = s.agenda := rfl
@[simp] theorem State.modThread_fresh (s : State) (blk : Nat) (w : Who) (f : Thread → Thread) : (s.modThread blk w f).fresh = s.fresh := rfl
@[simp] theorem State.modThread_nextId (s : State) (blk : Nat) (w : Who) (f : Thread → Thread) : (s.modThread blk w f).nextId = s.nextId := rfl
@[simp] theorem State.modThread_pkg (s : State) (blk : Nat) (w : Who) (f : Thread → Thread) : (s.modThread blk w f).pkg = s.pkg := rfl
@[simp] theorem State.modThread_digest (s : State) (blk : Nat) (w : Who) (f : Thread → Thread) : (s.modThread blk w f).digest = s.digest := rfl
@[simp] theorem State.modThread_config (s : State) (blk : Nat) (w : Who) (f : Thread → Thread) : (s.modThread blk w f).config = s.config := rfl
@[simp] theorem State.modThread_idKey (s : State) (blk : Nat) (w : Who) (f : Thread → Thread) : (s.modThread blk w f).idKey = s.idKey := rfl
@[simp] theorem State.modThread_idSecret (s : State) (blk : Nat) (w : Who) (f : Thread → Thread) : (s.modThread blk w f).idSecret = s.idSecret := rfl
@[simp] theorem State.modThread_certPkg (s : State) (blk : Nat) (w : Who) (f : Thread → Thread) : (s.modThread blk w f).certPkg = s.certPkg := rfl
@[simp] theorem State.modThread_certKey (s : State) (blk : Nat) (w : Who) (f : Thread → Thread) : (s.modThread blk w f).certKey = s.certKey := rfl
@[simp] theorem State.modThread_certSig (s : State) (blk : Nat) (w : Who) (f : Thread → Thread) : (s.modThread blk w f).certSig = s.certSig := rfl
@[simp] theorem State.modThread_certPod (s : State) (blk : Nat) (w : Who) (f : Thread → Thread) : (s.modThread blk w f).certPod = s.certPod := rfl
@[simp] theorem State.modThread_ctlBase (s : State) (blk : Nat) (w : Who) (f : Thread → Thread) : (s.modThread blk w f).ctlBase = s.ctlBase := rfl
@[simp] theorem State.modThread_ctlBytes (s : State) (blk : Nat) (w : Who) (f : Thread → Thread) : (s.modThread blk w f).ctlBytes = s.ctlBytes := rfl
@[simp] theorem State.modThread_nearMax (s : State) (blk : Nat) (w : Who) (f : Thread → Thread) : (s.modThread blk w f).nearMax = s.nearMax := rfl
@[simp] theorem State.modThread_spillBase (s : State) (blk : Nat) (w : Who) (f : Thread → Thread) : (s.modThread blk w f).spillBase = s.spillBase := rfl
@[simp] theorem State.modThread_spill (s : State) (blk : Nat) (w : Who) (f : Thread → Thread) : (s.modThread blk w f).spill = s.spill := rfl
@[simp] theorem State.modThread_accepted (s : State) (blk : Nat) (w : Who) (f : Thread → Thread) : (s.modThread blk w f).accepted = s.accepted := rfl
@[simp] theorem State.modThread_podKeys (s : State) (blk : Nat) (w : Who) (f : Thread → Thread) : (s.modThread blk w f).podKeys = s.podKeys := rfl
@[simp] theorem State.modThread_hostLink (s : State) (blk : Nat) (w : Who) (f : Thread → Thread) : (s.modThread blk w f).hostLink = s.hostLink := rfl
@[simp] theorem State.modThread_msixTab (s : State) (blk : Nat) (w : Who) (f : Thread → Thread) : (s.modThread blk w f).msixTab = s.msixTab := rfl
@[simp] theorem State.modThread_msixPend (s : State) (blk : Nat) (w : Who) (f : Thread → Thread) : (s.modThread blk w f).msixPend = s.msixPend := rfl
@[simp] theorem State.modThread_mem (s : State) (blk : Nat) (w : Who) (f : Thread → Thread) : (s.modThread blk w f).mem = s.mem := rfl
@[simp] theorem State.modThread_bad (s : State) (blk : Nat) (w : Who) (f : Thread → Thread) : (s.modThread blk w f).bad = s.bad := rfl
@[simp] theorem State.modThread_near (s : State) (blk : Nat) (w : Who) (f : Thread → Thread) : (s.modThread blk w f).near = s.near := rfl
@[simp] theorem State.modThread_l1 (s : State) (blk : Nat) (w : Who) (f : Thread → Thread) : (s.modThread blk w f).l1 = s.l1 := rfl
@[simp] theorem State.modThread_nearHome (s : State) (blk : Nat) (w : Who) (f : Thread → Thread) : (s.modThread blk w f).nearHome = s.nearHome := rfl
@[simp] theorem State.modThread_reqs (s : State) (blk : Nat) (w : Who) (f : Thread → Thread) : (s.modThread blk w f).reqs = s.reqs := rfl
@[simp] theorem State.modThread_frozenLines (s : State) (blk : Nat) (w : Who) (f : Thread → Thread) : (s.modThread blk w f).frozenLines = s.frozenLines := rfl
@[simp] theorem State.modThread_cmds (s : State) (blk : Nat) (w : Who) (f : Thread → Thread) : (s.modThread blk w f).cmds = s.cmds := rfl
@[simp] theorem State.modThread_invs (s : State) (blk : Nat) (w : Who) (f : Thread → Thread) : (s.modThread blk w f).invs = s.invs := rfl
@[simp] theorem State.modThread_cores (s : State) (blk : Nat) (w : Who) (f : Thread → Thread) : (s.modThread blk w f).cores = s.cores := rfl
@[simp] theorem State.modThread_dies (s : State) (blk : Nat) (w : Who) (f : Thread → Thread) : (s.modThread blk w f).dies = s.dies := rfl
@[simp] theorem State.modThread_ctxs (s : State) (blk : Nat) (w : Who) (f : Thread → Thread) : (s.modThread blk w f).ctxs = s.ctxs := rfl
@[simp] theorem State.modThread_seq (s : State) (blk : Nat) (w : Who) (f : Thread → Thread) : (s.modThread blk w f).seq = s.seq := rfl
@[simp] theorem State.modThread_launches (s : State) (blk : Nat) (w : Who) (f : Thread → Thread) : (s.modThread blk w f).launches = s.launches := rfl
@[simp] theorem State.modThread_lastBatch (s : State) (blk : Nat) (w : Who) (f : Thread → Thread) : (s.modThread blk w f).lastBatch = s.lastBatch := rfl
@[simp] theorem State.modThread_bindings (s : State) (blk : Nat) (w : Who) (f : Thread → Thread) : (s.modThread blk w f).bindings = s.bindings := rfl
@[simp] theorem State.modThread_inq (s : State) (blk : Nat) (w : Who) (f : Thread → Thread) : (s.modThread blk w f).inq = s.inq := rfl
@[simp] theorem State.modThread_robin (s : State) (blk : Nat) (w : Who) (f : Thread → Thread) : (s.modThread blk w f).robin = s.robin := rfl
@[simp] theorem State.modThread_rounds (s : State) (blk : Nat) (w : Who) (f : Thread → Thread) : (s.modThread blk w f).rounds = s.rounds := rfl
@[simp] theorem State.modThread_contribs (s : State) (blk : Nat) (w : Who) (f : Thread → Thread) : (s.modThread blk w f).contribs = s.contribs := rfl
@[simp] theorem State.modThread_aliasWaits (s : State) (blk : Nat) (w : Who) (f : Thread → Thread) : (s.modThread blk w f).aliasWaits = s.aliasWaits := rfl
@[simp] theorem State.modThread_dreqs (s : State) (blk : Nat) (w : Who) (f : Thread → Thread) : (s.modThread blk w f).dreqs = s.dreqs := rfl
@[simp] theorem State.modThread_ports (s : State) (blk : Nat) (w : Who) (f : Thread → Thread) : (s.modThread blk w f).ports = s.ports := rfl
@[simp] theorem State.modThread_pathLost (s : State) (blk : Nat) (w : Who) (f : Thread → Thread) : (s.modThread blk w f).pathLost = s.pathLost := rfl
@[simp] theorem State.modThread_pathTold (s : State) (blk : Nat) (w : Who) (f : Thread → Thread) : (s.modThread blk w f).pathTold = s.pathTold := rfl
@[simp] theorem State.modThread_fr (s : State) (blk : Nat) (w : Who) (f : Thread → Thread) : (s.modThread blk w f).fr = s.fr := rfl
@[simp] theorem State.modThread_slew (s : State) (blk : Nat) (w : Who) (f : Thread → Thread) : (s.modThread blk w f).slew = s.slew := rfl
@[simp] theorem State.modThread_powered (s : State) (blk : Nat) (w : Who) (f : Thread → Thread) : (s.modThread blk w f).powered = s.powered := rfl
@[simp] theorem State.modThread_stagB (s : State) (blk : Nat) (w : Who) (f : Thread → Thread) : (s.modThread blk w f).stagB = s.stagB := rfl
@[simp] theorem State.modThread_delta (s : State) (blk : Nat) (w : Who) (f : Thread → Thread) : (s.modThread blk w f).delta = s.delta := rfl
@[simp] theorem State.modThread_groups (s : State) (blk : Nat) (w : Who) (f : Thread → Thread) : (s.modThread blk w f).groups = s.groups := rfl
@[simp] theorem State.modThread_amons (s : State) (blk : Nat) (w : Who) (f : Thread → Thread) : (s.modThread blk w f).amons = s.amons := rfl
@[simp] theorem State.modThread_events (s : State) (blk : Nat) (w : Who) (f : Thread → Thread) : (s.modThread blk w f).events = s.events := rfl
@[simp] theorem State.modThread_msix (s : State) (blk : Nat) (w : Who) (f : Thread → Thread) : (s.modThread blk w f).msix = s.msix := rfl
@[simp] theorem State.modThread_outbox (s : State) (blk : Nat) (w : Who) (f : Thread → Thread) : (s.modThread blk w f).outbox = s.outbox := rfl
@[simp] theorem State.modThread_answers (s : State) (blk : Nat) (w : Who) (f : Thread → Thread) : (s.modThread blk w f).answers = s.answers := rfl
@[simp] theorem State.modThread_portEvents (s : State) (blk : Nat) (w : Who) (f : Thread → Thread) : (s.modThread blk w f).portEvents = s.portEvents := rfl
@[simp] theorem State.modThread_joinOut (s : State) (blk : Nat) (w : Who) (f : Thread → Thread) : (s.modThread blk w f).joinOut = s.joinOut := rfl
@[simp] theorem State.modThread_attestOut (s : State) (blk : Nat) (w : Who) (f : Thread → Thread) : (s.modThread blk w f).attestOut = s.attestOut := rfl
@[simp] theorem State.modThread_rowAcks (s : State) (blk : Nat) (w : Who) (f : Thread → Thread) : (s.modThread blk w f).rowAcks = s.rowAcks := rfl
@[simp] theorem State.modThread_posted (s : State) (blk : Nat) (w : Who) (f : Thread → Thread) : (s.modThread blk w f).posted = s.posted := rfl
@[simp] theorem State.modThread_due (s : State) (blk : Nat) (w : Who) (f : Thread → Thread) : (s.modThread blk w f).due = s.due := rfl

/-! ## A thread of a block -/

@[simp] theorem Block.modThread_id (b : Block) (w : Who) (f : Thread → Thread) : (b.modThread w f).id = b.id := by
  cases w <;> rfl
@[simp] theorem Block.modThread_ctx (b : Block) (w : Who) (f : Thread → Thread) : (b.modThread w f).ctx = b.ctx := by
  cases w <;> rfl
@[simp] theorem Block.modThread_seq (b : Block) (w : Who) (f : Thread → Thread) : (b.modThread w f).seq = b.seq := by
  cases w <;> rfl
@[simp] theorem Block.modThread_bid (b : Block) (w : Who) (f : Thread → Thread) : (b.modThread w f).bid = b.bid := by
  cases w <;> rfl
@[simp] theorem Block.modThread_core (b : Block) (w : Who) (f : Thread → Thread) : (b.modThread w f).core = b.core := by
  cases w <;> rfl
@[simp] theorem Block.modThread_bslot (b : Block) (w : Who) (f : Thread → Thread) : (b.modThread w f).bslot = b.bslot := by
  cases w <;> rfl
@[simp] theorem Block.modThread_lr (b : Block) (w : Who) (f : Thread → Thread) : (b.modThread w f).lr = b.lr := by
  cases w <;> rfl
@[simp] theorem Block.modThread_sregs (b : Block) (w : Who) (f : Thread → Thread) : (b.modThread w f).sregs = b.sregs := by
  cases w <;> rfl
@[simp] theorem Block.modThread_bars (b : Block) (w : Who) (f : Thread → Thread) : (b.modThread w f).bars = b.bars := by
  cases w <;> rfl
@[simp] theorem Block.modThread_flags (b : Block) (w : Who) (f : Thread → Thread) : (b.modThread w f).flags = b.flags := by
  cases w <;> rfl
@[simp] theorem Block.modThread_tiles (b : Block) (w : Who) (f : Thread → Thread) : (b.modThread w f).tiles = b.tiles := by
  cases w <;> rfl
@[simp] theorem Block.modThread_wBase (b : Block) (w : Who) (f : Thread → Thread) : (b.modThread w f).wBase = b.wBase := by
  cases w <;> rfl
@[simp] theorem Block.modThread_aBase (b : Block) (w : Who) (f : Thread → Thread) : (b.modThread w f).aBase = b.aBase := by
  cases w <;> rfl
@[simp] theorem Block.modThread_cBase (b : Block) (w : Who) (f : Thread → Thread) : (b.modThread w f).cBase = b.cBase := by
  cases w <;> rfl
@[simp] theorem Block.modThread_regions (b : Block) (w : Who) (f : Thread → Thread) : (b.modThread w f).regions = b.regions := by
  cases w <;> rfl
@[simp] theorem Block.modThread_cands (b : Block) (w : Who) (f : Thread → Thread) : (b.modThread w f).cands = b.cands := by
  cases w <;> rfl
@[simp] theorem Block.modThread_rejoins (b : Block) (w : Who) (f : Thread → Thread) : (b.modThread w f).rejoins = b.rejoins := by
  cases w <;> rfl
@[simp] theorem Block.modThread_rdvs (b : Block) (w : Who) (f : Thread → Thread) : (b.modThread w f).rdvs = b.rdvs := by
  cases w <;> rfl
@[simp] theorem Block.modThread_areqs (b : Block) (w : Who) (f : Thread → Thread) : (b.modThread w f).areqs = b.areqs := by
  cases w <;> rfl
@[simp] theorem Block.modThread_stack (b : Block) (w : Who) (f : Thread → Thread) : (b.modThread w f).stack = b.stack := by
  cases w <;> rfl
@[simp] theorem Block.modThread_mCause (b : Block) (w : Who) (f : Thread → Thread) : (b.modThread w f).mCause = b.mCause := by
  cases w <;> rfl
@[simp] theorem Block.modThread_mStop (b : Block) (w : Who) (f : Thread → Thread) : (b.modThread w f).mStop = b.mStop := by
  cases w <;> rfl
@[simp] theorem Block.modThread_mWd (b : Block) (w : Who) (f : Thread → Thread) : (b.modThread w f).mWd = b.mWd := by
  cases w <;> rfl
@[simp] theorem Block.modThread_mStep (b : Block) (w : Who) (f : Thread → Thread) : (b.modThread w f).mStep = b.mStep := by
  cases w <;> rfl
@[simp] theorem Block.modThread_mFault (b : Block) (w : Who) (f : Thread → Thread) : (b.modThread w f).mFault = b.mFault := by
  cases w <;> rfl
@[simp] theorem Block.modThread_hsave (b : Block) (w : Who) (f : Thread → Thread) : (b.modThread w f).hsave = b.hsave := by
  cases w <;> rfl
@[simp] theorem Block.modThread_parks (b : Block) (w : Who) (f : Thread → Thread) : (b.modThread w f).parks = b.parks := by
  cases w <;> rfl
@[simp] theorem Block.modThread_killed (b : Block) (w : Who) (f : Thread → Thread) : (b.modThread w f).killed = b.killed := by
  cases w <;> rfl
@[simp] theorem Block.modThread_aliasIn (b : Block) (w : Who) (f : Thread → Thread) : (b.modThread w f).aliasIn = b.aliasIn := by
  cases w <;> rfl
@[simp] theorem Block.modThread_coop (b : Block) (w : Who) (f : Thread → Thread) : (b.modThread w f).coop = b.coop := by
  cases w <;> rfl
@[simp] theorem Block.modThread_launchF (b : Block) (w : Who) (f : Thread → Thread) : (b.modThread w f).launchF = b.launchF := by
  cases w <;> rfl
@[simp] theorem Block.modThread_barSaved (b : Block) (w : Who) (f : Thread → Thread) : (b.modThread w f).barSaved = b.barSaved := by
  cases w <;> rfl
@[simp] theorem Block.modThread_saving (b : Block) (w : Who) (f : Thread → Thread) : (b.modThread w f).saving = b.saving := by
  cases w <;> rfl
@[simp] theorem Block.modThread_falls (b : Block) (w : Who) (f : Thread → Thread) : (b.modThread w f).falls = b.falls := by
  cases w <;> rfl
@[simp] theorem Block.modThread_faulted (b : Block) (w : Who) (f : Thread → Thread) : (b.modThread w f).faulted = b.faulted := by
  cases w <;> rfl
@[simp] theorem Block.modThread_hovlDue (b : Block) (w : Who) (f : Thread → Thread) : (b.modThread w f).hovlDue = b.hovlDue := by
  cases w <;> rfl

/-! ## The registers of a thread -/

@[simp] theorem Thread.setG_live (t : Thread) (r : Nat) (v : Word) : (t.setG r v).live = t.live := rfl
@[simp] theorem Thread.setG_helper (t : Thread) (r : Nat) (v : Word) : (t.setG r v).helper = t.helper := rfl
@[simp] theorem Thread.setG_slot (t : Thread) (r : Nat) (v : Word) : (t.setG r v).slot = t.slot := rfl
@[simp] theorem Thread.setG_pc (t : Thread) (r : Nat) (v : Word) : (t.setG r v).pc = t.pc := rfl
@[simp] theorem Thread.setG_hdr (t : Thread) (r : Nat) (v : Word) : (t.setG r v).hdr = t.hdr := rfl
@[simp] theorem Thread.setG_entering (t : Thread) (r : Nat) (v : Word) : (t.setG r v).entering = t.entering := rfl
@[simp] theorem Thread.setG_start (t : Thread) (r : Nat) (v : Word) : (t.setG r v).start = t.start := rfl
@[simp] theorem Thread.setG_rej (t : Thread) (r : Nat) (v : Word) : (t.setG r v).rej = t.rej := rfl
@[simp] theorem Thread.setG_held (t : Thread) (r : Nat) (v : Word) : (t.setG r v).held = t.held := rfl
@[simp] theorem Thread.setG_yielded (t : Thread) (r : Nat) (v : Word) : (t.setG r v).yielded = t.yielded := rfl
@[simp] theorem Thread.setG_preds (t : Thread) (r : Nat) (v : Word) : (t.setG r v).preds = t.preds := rfl
@[simp] theorem Thread.setG_handles (t : Thread) (r : Nat) (v : Word) : (t.setG r v).handles = t.handles := rfl
@[simp] theorem Thread.setG_stklim (t : Thread) (r : Nat) (v : Word) : (t.setG r v).stklim = t.stklim := rfl
@[simp] theorem Thread.setG_anyq (t : Thread) (r : Nat) (v : Word) : (t.setG r v).anyq = t.anyq := rfl
@[simp] theorem Thread.setG_hmode (t : Thread) (r : Nat) (v : Word) : (t.setG r v).hmode = t.hmode := rfl
@[simp] theorem Thread.setG_hcause (t : Thread) (r : Nat) (v : Word) : (t.setG r v).hcause = t.hcause := rfl
@[simp] theorem Thread.setG_hpc (t : Thread) (r : Nat) (v : Word) : (t.setG r v).hpc = t.hpc := rfl
@[simp] theorem Thread.setG_hpcHw (t : Thread) (r : Nat) (v : Word) : (t.setG r v).hpcHw = t.hpcHw := rfl
@[simp] theorem Thread.setG_hrec (t : Thread) (r : Nat) (v : Word) : (t.setG r v).hrec = t.hrec := rfl
@[simp] theorem Thread.setG_retHdr (t : Thread) (r : Nat) (v : Word) : (t.setG r v).retHdr = t.retHdr := rfl
@[simp] theorem Thread.setG_retRej (t : Thread) (r : Nat) (v : Word) : (t.setG r v).retRej = t.retRej := rfl
@[simp] theorem Thread.setG_repark (t : Thread) (r : Nat) (v : Word) : (t.setG r v).repark = t.repark := rfl
@[simp] theorem Thread.setG_parked (t : Thread) (r : Nat) (v : Word) : (t.setG r v).parked = t.parked := rfl
@[simp] theorem Thread.setG_parkHand (t : Thread) (r : Nat) (v : Word) : (t.setG r v).parkHand = t.parkHand := rfl
@[simp] theorem Thread.setG_keptPc (t : Thread) (r : Nat) (v : Word) : (t.setG r v).keptPc = t.keptPc := rfl
@[simp] theorem Thread.setG_keptCause (t : Thread) (r : Nat) (v : Word) : (t.setG r v).keptCause = t.keptCause := rfl
@[simp] theorem Thread.setG_taken (t : Thread) (r : Nat) (v : Word) : (t.setG r v).taken = t.taken := rfl
@[simp] theorem Thread.setG_recAt (t : Thread) (r : Nat) (v : Word) : (t.setG r v).recAt = t.recAt := rfl
@[simp] theorem Thread.setG_wait (t : Thread) (r : Nat) (v : Word) : (t.setG r v).wait = t.wait := rfl
@[simp] theorem Thread.setG_since (t : Thread) (r : Nat) (v : Word) : (t.setG r v).since = t.since := rfl
@[simp] theorem Thread.setG_arrived (t : Thread) (r : Nat) (v : Word) : (t.setG r v).arrived = t.arrived := rfl
@[simp] theorem Thread.setG_badStart (t : Thread) (r : Nat) (v : Word) : (t.setG r v).badStart = t.badStart := rfl
@[simp] theorem Thread.setG_fences (t : Thread) (r : Nat) (v : Word) : (t.setG r v).fences = t.fences := rfl
@[simp] theorem Thread.setG_badPreds (t : Thread) (r : Nat) (v : Word) : (t.setG r v).badPreds = t.badPreds := rfl
@[simp] theorem Thread.setG_issue (t : Thread) (r : Nat) (v : Word) : (t.setG r v).issue = t.issue := rfl
@[simp] theorem Thread.setG_restored (t : Thread) (r : Nat) (v : Word) : (t.setG r v).restored = t.restored := rfl

@[simp] theorem Thread.setQ_live (t : Thread) (r : BitVec 3) (v : Bool) : (t.setQ r v).live = t.live := rfl
@[simp] theorem Thread.setQ_helper (t : Thread) (r : BitVec 3) (v : Bool) : (t.setQ r v).helper = t.helper := rfl
@[simp] theorem Thread.setQ_slot (t : Thread) (r : BitVec 3) (v : Bool) : (t.setQ r v).slot = t.slot := rfl
@[simp] theorem Thread.setQ_pc (t : Thread) (r : BitVec 3) (v : Bool) : (t.setQ r v).pc = t.pc := rfl
@[simp] theorem Thread.setQ_hdr (t : Thread) (r : BitVec 3) (v : Bool) : (t.setQ r v).hdr = t.hdr := rfl
@[simp] theorem Thread.setQ_entering (t : Thread) (r : BitVec 3) (v : Bool) : (t.setQ r v).entering = t.entering := rfl
@[simp] theorem Thread.setQ_start (t : Thread) (r : BitVec 3) (v : Bool) : (t.setQ r v).start = t.start := rfl
@[simp] theorem Thread.setQ_rej (t : Thread) (r : BitVec 3) (v : Bool) : (t.setQ r v).rej = t.rej := rfl
@[simp] theorem Thread.setQ_held (t : Thread) (r : BitVec 3) (v : Bool) : (t.setQ r v).held = t.held := rfl
@[simp] theorem Thread.setQ_yielded (t : Thread) (r : BitVec 3) (v : Bool) : (t.setQ r v).yielded = t.yielded := rfl
@[simp] theorem Thread.setQ_regs (t : Thread) (r : BitVec 3) (v : Bool) : (t.setQ r v).regs = t.regs := rfl
@[simp] theorem Thread.setQ_handles (t : Thread) (r : BitVec 3) (v : Bool) : (t.setQ r v).handles = t.handles := rfl
@[simp] theorem Thread.setQ_stklim (t : Thread) (r : BitVec 3) (v : Bool) : (t.setQ r v).stklim = t.stklim := rfl
@[simp] theorem Thread.setQ_anyq (t : Thread) (r : BitVec 3) (v : Bool) : (t.setQ r v).anyq = t.anyq := rfl
@[simp] theorem Thread.setQ_hmode (t : Thread) (r : BitVec 3) (v : Bool) : (t.setQ r v).hmode = t.hmode := rfl
@[simp] theorem Thread.setQ_hcause (t : Thread) (r : BitVec 3) (v : Bool) : (t.setQ r v).hcause = t.hcause := rfl
@[simp] theorem Thread.setQ_hpc (t : Thread) (r : BitVec 3) (v : Bool) : (t.setQ r v).hpc = t.hpc := rfl
@[simp] theorem Thread.setQ_hpcHw (t : Thread) (r : BitVec 3) (v : Bool) : (t.setQ r v).hpcHw = t.hpcHw := rfl
@[simp] theorem Thread.setQ_hrec (t : Thread) (r : BitVec 3) (v : Bool) : (t.setQ r v).hrec = t.hrec := rfl
@[simp] theorem Thread.setQ_retHdr (t : Thread) (r : BitVec 3) (v : Bool) : (t.setQ r v).retHdr = t.retHdr := rfl
@[simp] theorem Thread.setQ_retRej (t : Thread) (r : BitVec 3) (v : Bool) : (t.setQ r v).retRej = t.retRej := rfl
@[simp] theorem Thread.setQ_repark (t : Thread) (r : BitVec 3) (v : Bool) : (t.setQ r v).repark = t.repark := rfl
@[simp] theorem Thread.setQ_parked (t : Thread) (r : BitVec 3) (v : Bool) : (t.setQ r v).parked = t.parked := rfl
@[simp] theorem Thread.setQ_parkHand (t : Thread) (r : BitVec 3) (v : Bool) : (t.setQ r v).parkHand = t.parkHand := rfl
@[simp] theorem Thread.setQ_keptPc (t : Thread) (r : BitVec 3) (v : Bool) : (t.setQ r v).keptPc = t.keptPc := rfl
@[simp] theorem Thread.setQ_keptCause (t : Thread) (r : BitVec 3) (v : Bool) : (t.setQ r v).keptCause = t.keptCause := rfl
@[simp] theorem Thread.setQ_taken (t : Thread) (r : BitVec 3) (v : Bool) : (t.setQ r v).taken = t.taken := rfl
@[simp] theorem Thread.setQ_recAt (t : Thread) (r : BitVec 3) (v : Bool) : (t.setQ r v).recAt = t.recAt := rfl
@[simp] theorem Thread.setQ_wait (t : Thread) (r : BitVec 3) (v : Bool) : (t.setQ r v).wait = t.wait := rfl
@[simp] theorem Thread.setQ_since (t : Thread) (r : BitVec 3) (v : Bool) : (t.setQ r v).since = t.since := rfl
@[simp] theorem Thread.setQ_arrived (t : Thread) (r : BitVec 3) (v : Bool) : (t.setQ r v).arrived = t.arrived := rfl
@[simp] theorem Thread.setQ_badStart (t : Thread) (r : BitVec 3) (v : Bool) : (t.setQ r v).badStart = t.badStart := rfl
@[simp] theorem Thread.setQ_badRegs (t : Thread) (r : BitVec 3) (v : Bool) : (t.setQ r v).badRegs = t.badRegs := rfl
@[simp] theorem Thread.setQ_fences (t : Thread) (r : BitVec 3) (v : Bool) : (t.setQ r v).fences = t.fences := rfl
@[simp] theorem Thread.setQ_issue (t : Thread) (r : BitVec 3) (v : Bool) : (t.setQ r v).issue = t.issue := rfl
@[simp] theorem Thread.setQ_restored (t : Thread) (r : BitVec 3) (v : Bool) : (t.setQ r v).restored = t.restored := rfl

@[simp] theorem Thread.setH_live (t : Thread) (r : Nat) (v : Handle) : (t.setH r v).live = t.live := rfl
@[simp] theorem Thread.setH_helper (t : Thread) (r : Nat) (v : Handle) : (t.setH r v).helper = t.helper := rfl
@[simp] theorem Thread.setH_slot (t : Thread) (r : Nat) (v : Handle) : (t.setH r v).slot = t.slot := rfl
@[simp] theorem Thread.setH_pc (t : Thread) (r : Nat) (v : Handle) : (t.setH r v).pc = t.pc := rfl
@[simp] theorem Thread.setH_hdr (t : Thread) (r : Nat) (v : Handle) : (t.setH r v).hdr = t.hdr := rfl
@[simp] theorem Thread.setH_entering (t : Thread) (r : Nat) (v : Handle) : (t.setH r v).entering = t.entering := rfl
@[simp] theorem Thread.setH_start (t : Thread) (r : Nat) (v : Handle) : (t.setH r v).start = t.start := rfl
@[simp] theorem Thread.setH_rej (t : Thread) (r : Nat) (v : Handle) : (t.setH r v).rej = t.rej := rfl
@[simp] theorem Thread.setH_held (t : Thread) (r : Nat) (v : Handle) : (t.setH r v).held = t.held := rfl
@[simp] theorem Thread.setH_yielded (t : Thread) (r : Nat) (v : Handle) : (t.setH r v).yielded = t.yielded := rfl
@[simp] theorem Thread.setH_regs (t : Thread) (r : Nat) (v : Handle) : (t.setH r v).regs = t.regs := rfl
@[simp] theorem Thread.setH_preds (t : Thread) (r : Nat) (v : Handle) : (t.setH r v).preds = t.preds := rfl
@[simp] theorem Thread.setH_stklim (t : Thread) (r : Nat) (v : Handle) : (t.setH r v).stklim = t.stklim := rfl
@[simp] theorem Thread.setH_anyq (t : Thread) (r : Nat) (v : Handle) : (t.setH r v).anyq = t.anyq := rfl
@[simp] theorem Thread.setH_hmode (t : Thread) (r : Nat) (v : Handle) : (t.setH r v).hmode = t.hmode := rfl
@[simp] theorem Thread.setH_hcause (t : Thread) (r : Nat) (v : Handle) : (t.setH r v).hcause = t.hcause := rfl
@[simp] theorem Thread.setH_hpc (t : Thread) (r : Nat) (v : Handle) : (t.setH r v).hpc = t.hpc := rfl
@[simp] theorem Thread.setH_hpcHw (t : Thread) (r : Nat) (v : Handle) : (t.setH r v).hpcHw = t.hpcHw := rfl
@[simp] theorem Thread.setH_hrec (t : Thread) (r : Nat) (v : Handle) : (t.setH r v).hrec = t.hrec := rfl
@[simp] theorem Thread.setH_retHdr (t : Thread) (r : Nat) (v : Handle) : (t.setH r v).retHdr = t.retHdr := rfl
@[simp] theorem Thread.setH_retRej (t : Thread) (r : Nat) (v : Handle) : (t.setH r v).retRej = t.retRej := rfl
@[simp] theorem Thread.setH_repark (t : Thread) (r : Nat) (v : Handle) : (t.setH r v).repark = t.repark := rfl
@[simp] theorem Thread.setH_parked (t : Thread) (r : Nat) (v : Handle) : (t.setH r v).parked = t.parked := rfl
@[simp] theorem Thread.setH_parkHand (t : Thread) (r : Nat) (v : Handle) : (t.setH r v).parkHand = t.parkHand := rfl
@[simp] theorem Thread.setH_keptPc (t : Thread) (r : Nat) (v : Handle) : (t.setH r v).keptPc = t.keptPc := rfl
@[simp] theorem Thread.setH_keptCause (t : Thread) (r : Nat) (v : Handle) : (t.setH r v).keptCause = t.keptCause := rfl
@[simp] theorem Thread.setH_taken (t : Thread) (r : Nat) (v : Handle) : (t.setH r v).taken = t.taken := rfl
@[simp] theorem Thread.setH_recAt (t : Thread) (r : Nat) (v : Handle) : (t.setH r v).recAt = t.recAt := rfl
@[simp] theorem Thread.setH_wait (t : Thread) (r : Nat) (v : Handle) : (t.setH r v).wait = t.wait := rfl
@[simp] theorem Thread.setH_since (t : Thread) (r : Nat) (v : Handle) : (t.setH r v).since = t.since := rfl
@[simp] theorem Thread.setH_arrived (t : Thread) (r : Nat) (v : Handle) : (t.setH r v).arrived = t.arrived := rfl
@[simp] theorem Thread.setH_badStart (t : Thread) (r : Nat) (v : Handle) : (t.setH r v).badStart = t.badStart := rfl
@[simp] theorem Thread.setH_badRegs (t : Thread) (r : Nat) (v : Handle) : (t.setH r v).badRegs = t.badRegs := rfl
@[simp] theorem Thread.setH_fences (t : Thread) (r : Nat) (v : Handle) : (t.setH r v).fences = t.fences := rfl
@[simp] theorem Thread.setH_badPreds (t : Thread) (r : Nat) (v : Handle) : (t.setH r v).badPreds = t.badPreds := rfl
@[simp] theorem Thread.setH_issue (t : Thread) (r : Nat) (v : Handle) : (t.setH r v).issue = t.issue := rfl
@[simp] theorem Thread.setH_restored (t : Thread) (r : Nat) (v : Handle) : (t.setH r v).restored = t.restored := rfl

theorem Thread.g_setG_same (t : Thread) (r : Nat) (v : Word) (h : r < 112) : (t.setG r v).g r = v :=
  vget_vset_same _ _ _ _ h

theorem Thread.g_setG_other (t : Thread) (r k : Nat) (v : Word) (h : r ≠ k) : (t.setG r v).g k = t.g k :=
  vget_vset_other _ _ _ _ _ h

theorem Thread.q_setQ_same (t : Thread) (n : BitVec 3) (v : Bool) (h : n ≠ 7) : (t.setQ n v).q n = v := by
  apply vget_vset_same
  have : n.toNat ≠ 7 := fun e => h (BitVec.eq_of_toNat_eq e)
  omega

theorem Thread.q_setQ_other (t : Thread) (n k : BitVec 3) (v : Bool) (h : n ≠ k) : (t.setQ n v).q k = t.q k :=
  vget_vset_other _ _ _ _ _ fun e => h (BitVec.eq_of_toNat_eq e)

/-- A write to q7 is ignored (R186). -/
theorem Thread.setQ_seven (t : Thread) (v : Bool) : t.setQ 7 v = t := by simp [Thread.setQ, vset]

/-- q7 is true (R186). -/
theorem Thread.q_seven (t : Thread) : t.q 7 = true := by simp [Thread.q, vget]

theorem Thread.h_setH_same (t : Thread) (n : Nat) (v : Handle) (h : n < 16) : (t.setH n v).h n = v :=
  vget_vset_same _ _ _ _ h

theorem Thread.h_setH_other (t : Thread) (n k : Nat) (v : Handle) (h : n ≠ k) : (t.setH n v).h k = t.h k :=
  vget_vset_other _ _ _ _ _ h

/-! ## Blocks and threads by name -/

theorem find_map_block (l : List Block) (id : Nat) (f : Block → Block) (hf : ∀ b, (f b).id = b.id) :
    (l.map fun b => if b.id == id then f b else b).find? (·.id == id) = (l.find? (·.id == id)).map f := by
  induction l with
  | nil => rfl
  | cons b l ih =>
    rw [List.map_cons, List.find?_cons, List.find?_cons]
    by_cases h : b.id = id
    · simp [h, hf]
    · have e : (b.id == id) = false := beq_eq_false_iff_ne.mpr h
      rw [ih]; simp [e]

theorem find_map_other (l : List Block) (id k : Nat) (f : Block → Block) (hf : ∀ b, (f b).id = b.id) (h : id ≠ k) :
    (l.map fun b => if b.id == id then f b else b).find? (·.id == k) = l.find? (·.id == k) := by
  induction l with
  | nil => rfl
  | cons b l ih =>
    rw [List.map_cons, List.find?_cons, List.find?_cons, ih]
    by_cases e : b.id = id
    · simp [e, hf, beq_eq_false_iff_ne.mpr h]
    · simp [e]

/-- A changed block reads as changed. -/
theorem State.block_modBlock (s : State) (id : Nat) (f : Block → Block) (hf : ∀ b, (f b).id = b.id) :
    (s.modBlock id f).block id = (s.block id).map f := find_map_block _ _ _ hf

/-- Every other block reads as before. -/
theorem State.block_modBlock_other (s : State) (id k : Nat) (f : Block → Block) (hf : ∀ b, (f b).id = b.id) (h : id ≠ k) :
    (s.modBlock id f).block k = s.block k := find_map_other _ _ _ _ hf h

/-- Two changes of one block are one. -/
theorem State.modBlock_modBlock (s : State) (id : Nat) (f g : Block → Block) (hf : ∀ b, (f b).id = b.id) :
    (s.modBlock id f).modBlock id g = s.modBlock id fun b => g (f b) := by
  simp only [State.modBlock, List.map_map]
  congr 1
  apply List.map_congr_left
  intro b _
  by_cases h : b.id = id <;> simp [Function.comp, h, hf]

theorem Block.thread_modThread (b : Block) (w : Who) (f : Thread → Thread) :
    (b.modThread w f).thread w = (b.thread w).map f := by
  cases w <;> simp [Block.modThread, Block.thread, lmod]

theorem Block.thread_modThread_other (b : Block) (w v : Who) (f : Thread → Thread) (h : w ≠ v) :
    (b.modThread w f).thread v = b.thread v := by
  cases w <;> cases v <;> simp_all [Block.modThread, Block.thread, lmod]

theorem Block.modThread_modThread (b : Block) (w : Who) (f g : Thread → Thread) :
    (b.modThread w f).modThread w g = b.modThread w fun t => g (f t) := by
  cases w with
  | vec t =>
    simp only [Block.modThread, lmod]
    congr 1
    apply List.ext_getElem?
    intro i
    by_cases h : t = i <;> simp [h, Function.comp_def]
  | ctl => simp [Block.modThread, Function.comp_def]

/-- Two changes of one thread are one. -/
theorem State.modThread_modThread (s : State) (blk : Nat) (w : Who) (f g : Thread → Thread) :
    (s.modThread blk w f).modThread blk w g = s.modThread blk w fun t => g (f t) := by
  simp only [State.modThread]
  rw [State.modBlock_modBlock _ _ _ _ (by simp)]
  simp only [Block.modThread_modThread]

/-- A changed thread reads as changed. -/
theorem State.thread_modThread (s : State) (blk : Nat) (w : Who) (f : Thread → Thread) :
    (s.modThread blk w f).thread blk w = (s.thread blk w).map f := by
  simp only [State.thread, State.modThread]
  rw [State.block_modBlock _ _ _ (by simp)]
  cases s.block blk <;> simp [Block.thread_modThread]

/-- Every other thread of the block reads as before. -/
theorem State.thread_modThread_other (s : State) (blk : Nat) (w v : Who) (f : Thread → Thread) (h : w ≠ v) :
    (s.modThread blk w f).thread blk v = s.thread blk v := by
  simp only [State.thread, State.modThread]
  rw [State.block_modBlock _ _ _ (by simp)]
  cases s.block blk <;> simp [Block.thread_modThread_other, h]

/-- Every thread of another block reads as before. -/
theorem State.thread_modThread_away (s : State) (blk k : Nat) (w v : Who) (f : Thread → Thread) (h : blk ≠ k) :
    (s.modThread blk w f).thread k v = s.thread k v := by
  simp only [State.thread, State.modThread]
  rw [State.block_modBlock_other _ _ _ _ (by simp) h]

end Sys2Proof.Machine
end

