-- ==== Sys2Proof/Laws/Records.lean ====
section
/-! SUPPORT. Laws of the hardware's own writes and of log records: they leave the cores and the blocks alone. -/

namespace Sys2Proof.Machine

/-- What a doorbell can change: contexts, their events, and the interrupt vectors. -/
def Rung (s s' : State) : Prop :=
  ∃ x e m p, s' = { s with ctxs := x, events := e, msix := m, msixPend := p }

theorem Rung.refl (s : State) : Rung s s := ⟨s.ctxs, s.events, s.msix, s.msixPend, rfl⟩

theorem Rung.trans {a b c : State} (h : Rung a b) (k : Rung b c) : Rung a c := by
  obtain ⟨_, _, _, _, rfl⟩ := h
  obtain ⟨x, e, m, p, rfl⟩ := k
  exact ⟨x, e, m, p, rfl⟩

theorem Rung.foldl {α : Type} (f : State → α → State) (hf : ∀ s a, Rung s (f s a)) (l : List α) (s : State) :
    Rung s (l.foldl f s) := by
  induction l generalizing s with
  | nil => exact .refl s
  | cons a l ih => exact (hf s a).trans (ih _)

theorem ctxEvent_rung (s : State) (c : Nat) (cause : Cause) (info more : Nat) : Rung s (s.ctxEvent c cause info more) :=
  ⟨_, _, _, _, rfl⟩

/-- A tail that reaches the dispatcher moves its queue, or raises an event. -/
theorem ringTail_rung (s : State) (c q : Nat) (tail : Word) : Rung s (s.ringTail c q tail) := by
  unfold State.ringTail
  split
  · exact .refl s
  · simp only
    split
    · exact ctxEvent_rung _ _ _ _ _
    · exact ⟨_, s.events, s.msix, s.msixPend, rfl⟩

/-- The dispatcher changes nothing but its queues and the events. -/
theorem ring_rung (s : State) (pa n : Nat) : Rung s (s.ring pa n) := by
  unfold State.ring
  refine Rung.foldl _ (fun s c => ?_) _ s
  split
  · exact .refl s
  · split
    · exact Rung.foldl _ (fun s q => by
        split
        · exact ringTail_rung _ _ _ _
        · exact .refl s) _ s
    · exact .refl s

theorem homeWrite_cores (s : State) (pa : Nat) (bs : List Byte) :
    (s.homeWrite pa bs).cores = s.cores ∧ (s.homeWrite pa bs).blocks = s.blocks := by
  obtain ⟨x, e, m, p, h⟩ := ring_rung (s.physWrite pa bs) pa bs.length
  rw [State.homeWrite, h]
  exact ⟨rfl, rfl⟩

theorem dropCopies_cores (s : State) (pa n : Nat) :
    (s.dropCopies pa n).cores = s.cores ∧ (s.dropCopies pa n).blocks = s.blocks := ⟨rfl, rfl⟩

theorem landWrite_cores (s : State) (pa : Nat) (bs : List Byte) :
    (s.landWrite pa bs).cores = s.cores ∧ (s.landWrite pa bs).blocks = s.blocks :=
  ⟨(dropCopies_cores _ _ _).1.trans (homeWrite_cores s pa bs).1, (dropCopies_cores _ _ _).2.trans (homeWrite_cores s pa bs).2⟩

theorem postWrite_cores (s : State) (c pa : Nat) (bs : List Byte) :
    (s.postWrite c pa bs).cores = s.cores ∧ (s.postWrite c pa bs).blocks = s.blocks := by
  unfold State.postWrite
  split
  · exact ⟨rfl, rfl⟩
  · exact landWrite_cores s pa bs

/-- What leaves the cores and the blocks alone in each step leaves them alone. -/
theorem foldl_cores {α : Type} (f : State → α → State)
    (hf : ∀ s a, (f s a).cores = s.cores ∧ (f s a).blocks = s.blocks) (l : List α) (s : State) :
    (l.foldl f s).cores = s.cores ∧ (l.foldl f s).blocks = s.blocks := by
  induction l generalizing s with
  | nil => exact ⟨rfl, rfl⟩
  | cons a l ih => exact ⟨(ih _).1.trans (hf s a).1, (ih _).2.trans (hf s a).2⟩

theorem pinNear_cores (s : State) (pte : DWord) (line : Nat) :
    (s.pinNear pte line).cores = s.cores ∧ (s.pinNear pte line).blocks = s.blocks := by
  unfold State.pinNear
  split
  · exact ⟨rfl, rfl⟩
  · refine foldl_cores _ (fun s d => ?_) _ s
    split
    · exact ⟨rfl, rfl⟩
    · split <;> exact ⟨rfl, rfl⟩

theorem pinLines_cores (s : State) (pte : DWord) (pa n : Nat) :
    (s.pinLines pte pa n).cores = s.cores ∧ (s.pinLines pte pa n).blocks = s.blocks := by
  unfold State.pinLines
  split
  · exact ⟨rfl, rfl⟩
  · exact foldl_cores _ (fun s _ => pinNear_cores s _ _) _ s

/-- A write of the hardware changes no core and no block, whether it is made or waits. -/
theorem vwrite_cores {s s' : State} {c : Nat} {va : DWord} {bs : List Byte} (h : s.vwrite c va bs = .ok s') :
    s'.cores = s.cores ∧ s'.blocks = s.blocks := by
  unfold State.vwrite at h
  split at h
  · cases h
  · rename_i pte pa _
    split at h
    · cases h
    · split at h
      · cases h
      · injection h with h
        have a := postWrite_cores (s.pinLines pte pa bs.length) c pa bs
        have k := pinLines_cores s pte pa bs.length
        exact h ▸ ⟨a.1.trans k.1, a.2.trans k.2⟩

theorem logRecord_cores (s : State) (c : Nat) (cause core : Byte) (count : Nat) (blk : Word) (hdr : DWord) (thr : Nat)
    (heat : Option (BitVec 48)) :
    (s.logRecord c cause core count blk hdr thr heat).cores = s.cores ∧
      (s.logRecord c cause core count blk hdr thr heat).blocks = s.blocks := by
  unfold State.logRecord
  simp only
  split
  · exact ⟨rfl, rfl⟩
  · split
    · rename_i h
      exact ⟨(vwrite_cores h).1, (vwrite_cores h).2⟩
    · split <;> exact ⟨rfl, rfl⟩

/-- The records of an issue change no core and no block. -/
theorem logIssue_cores (s : State) (c core : Nat) (bid hdr : Word) (l : List (Cause × Nat × Nat)) :
    (s.logIssue c core bid hdr l).cores = s.cores ∧ (s.logIssue c core bid hdr l).blocks = s.blocks := by
  unfold State.logIssue
  induction logTally l generalizing s with
  | nil => exact ⟨rfl, rfl⟩
  | cons e l ih =>
    rw [List.foldl_cons]
    have h := logRecord_cores s c e.1 (BitVec.ofNat 8 core) e.2.2 bid (hdr.setWidth 64) e.2.1 none
    exact ⟨(ih _).1.trans h.1, (ih _).2.trans h.2⟩

theorem parkWrite_cores (s : State) (c : Nat) (a : DWord) (bs : List Byte) : (s.parkWrite c a bs).cores = s.cores := by
  unfold State.parkWrite
  split
  · rfl
  · split
    · rename_i h
      exact (vwrite_cores h).1
    · split <;> rfl

theorem setTaken_cores (s : State) (blk : Nat) (w : Who) : (s.setTaken blk w).cores = s.cores := by
  unfold State.setTaken
  split
  · rfl
  · split
    · rfl
    · exact parkWrite_cores _ _ _ _

theorem parkOne_cores (s : State) (blk : Nat) (m : Word) (k : Bool) (x : Parked) :
    (s.parkOne blk m k x).cores = s.cores := by
  unfold State.parkOne
  split
  · rfl
  · split
    · rfl
    · exact parkWrite_cores _ _ _ _

theorem recordEvent_cores (s : State) (e : CtxEvent) : (s.recordEvent e).cores = s.cores := by
  unfold State.recordEvent
  split <;> rfl

theorem parkEvent_cores (s : State) (blk : Nat) (x : Parked) : (s.parkEvent blk x).cores = s.cores := by
  unfold State.parkEvent
  split
  · rfl
  · split
    · rfl
    · simp only
      split
      · rw [State.tellRuntime, recordEvent_cores, setTaken_cores]
      · rfl

theorem countPark_cores (s : State) (blk : Nat) : (s.countPark blk).cores = s.cores := by
  unfold State.countPark
  split <;> rfl

/-- Taking an exception changes no core. -/
theorem parkGroup_cores (s : State) (blk : Nat) (l : List Parked) : (s.parkGroup blk l).cores = s.cores := by
  unfold State.parkGroup
  split
  · rfl
  · rename_i x l
    rw [parkEvent_cores, State.parkAll]
    generalize groupMask (x :: l) = k
    generalize x :: l = m
    rw [← countPark_cores s blk]
    generalize s.countPark blk = s
    induction m generalizing s with
    | nil => rfl
    | cons p m ih => rw [List.foldl_cons, ih, parkOne_cores]

/-- Where a thread passes on depends on the cores alone. -/
theorem onward_cores {s s' : State} (h : s'.cores = s.cores) (core c : Nat) (hdr pc : Word) (n : Nat) :
    s'.onward core c hdr pc n = s.onward core c hdr pc n := by
  have hc : s'.core = s.core := by funext k; simp [State.core, h]
  have hr : s'.residentCopy = s.residentCopy := by funext a b c; simp [State.residentCopy, State.copyOf, hc]
  simp [State.onward, State.headerAt, State.headerWord, hr]

end Sys2Proof.Machine
end

