-- ==== Sys2Proof/Laws/Issue.lean ====
section
/-! SUPPORT. Laws of an issue: what an instruction does when one thread issues it alone, for each kind of act. -/

namespace Sys2Proof.Machine

open Sys2Proof.Safety

theorem logIssue_nil (s : State) (c core : Nat) (bid hdr : Word) : s.logIssue c core bid hdr [] = s := rfl

theorem parkGroup_nil (s : State) (blk : Nat) : s.parkGroup blk [] = s := rfl

/-- The issue slot of one thread runs the instruction in that thread. -/
theorem issueThen_one {s : State} {b : Block} {w : Who} (h : s.cur = some (holder b.id w)) (i : Instr) (g : Guard)
    (f : State → Site → Act) (post : State → Nat → State) :
    s.issueThen i g f post = .next (post ({ s with cur := none }.issueFor b.id [w] i g f) b.id) := by
  cases w <;> simp [State.issueThen, h, holder]

theorem raise_nil (s : State) (blk : Nat) : s.raise blk [] = s := rfl

theorem parkFaults_nil (s : State) (blk : Nat) (alone : Bool) : s.parkFaults blk alone [] = s := by
  cases alone <;> rfl

/-- The faults of a thread that issues alone are its own. -/
theorem parkFaults_one (s : State) (b : Block) (w : Who) (t : Thread) (n : Nat) (p : Parked) :
    s.parkFaults b.id (t.alone [w]) [(t.issueNo n, p)] = parksWith s b w t p := by
  unfold State.parkFaults parksWith
  split
  · rfl
  · rename_i h
    have e : t.issueNo n = t.issue := by
      unfold Thread.alone at h
      unfold Thread.issueNo
      split <;> simp_all
    rw [e]

/-- A bundle of one thread that may execute and lacks nothing starts. -/
theorem bundleLacks_issues {s : State} {b : Block} {w : Who} {t : Thread} {i : Instr} {g : Guard}
    (h : Issues s b w t i g) : (issued s).bundleLacks b [w] i g = [] := by
  have e : (issued s).lacks b w i = [] := h.free
  simp [State.bundleLacks, h.thread, e]

/-- What a thread that issues alone does: its act, and nothing before it. -/
theorem runThread_issues {s : State} {b : Block} {w : Who} {t : Thread} {i : Instr} {g : Guard}
    (h : Issues s b w t i g) (f : State → Site → Act) :
    runThread i g f b.id s.nextId { st := issued s, logs := [], parks := [], moved := [] } w =
      let word := s.wordAt b.core b.ctx t.pc
      let iss := issueOf s t
      let o : IssueOut := { st := issued s, logs := [], parks := [], moved := [] }
      match f (issued s) (site s b w t) with
      | .done s logs =>
        { o with st := s, logs := logs.map fun p => (p.1, (tidOf w).toNat % 65536, p.2), moved := [(w, none)] }
      | .stall s x => { o with st := s.awaitIn b.id iss w x }
      | .fault c a d => o.park iss { who := w, cause := c, pc := t.pc, word := word, addr := a, detail := d }
      | .failed s c a d =>
        { o with st := s }.park iss { who := w, cause := c, pc := t.pc, word := word, addr := a, detail := d }
      | .report s c a d x =>
        { o with st := s }.park iss { who := w, cause := c, pc := t.pc, word := x.getD word, addr := some a, detail := d }
      | .jump s a => { o with st := s, moved := [(w, some a)] }
      | .past s c =>
        match s.onward b.core b.ctx t.hdr t.pc (wordsOf i) with
        | .within pc => { o with st := s }.park iss { who := w, cause := c, pc := pc, word := word }
        | .header a => { o with st := s }.park iss { who := w, cause := c, pc := a, enter := true, word := word }
        | .astray a => { o with st := s }.park iss { who := w, cause := c, pc := a, enter := true, word := word }
      | .gone s => { o with st := s } := by
  have hb : (issued s).block b.id = some b := h.block
  unfold runThread
  simp only [hb, h.thread, h.known, h.guard, h.allowed, h.idle, h.sound, Bool.not_true, Bool.false_eq_true, if_false,
    List.nil_append]
  rfl

theorem diverges_short (l : List (Who × Word)) (h : l.length ≤ 1) : diverges l = false := by
  match l with
  | [] => rfl
  | [_] => rfl
  | _ :: _ :: _ => simp at h

theorem targets_short (o : Onward) (l : List (Who × Option Word)) (h : l.length ≤ 1) : (targets o l).length ≤ 1 := by
  have hf := (List.length_filter_le (fun p : Who × Option Word => p.2.isSome) l).trans h
  cases o <;> simpa [targets, leaving]

theorem reconvOut_short (s : State) (b : Block) (hdr : Word) (l : List (Who × Word)) (h : l.length ≤ 1) :
    s.reconvOut b hdr l = false := by
  unfold State.reconvOut
  split
  · simp [diverges_short l h]
  · rfl

theorem absent_moved (o : IssueOut) (a : Act) (blk : Nat) (w : Who) : (o.absent a blk w).moved = o.moved := by
  unfold IssueOut.absent
  split <;> rfl

theorem runThread_moved (i : Instr) (g : Guard) (f : State → Site → Act) (blk iss : Nat) (s : State) (w : Who) :
    (runThread i g f blk iss { st := s, logs := [], parks := [], moved := [] } w).moved.length ≤ 1 := by
  unfold runThread
  repeat' split
  all_goals simp only [IssueOut.park, absent_moved, List.nil_append, List.length_cons, List.length_nil, Nat.zero_le, le_refl,
    Nat.zero_add]
  generalize f s _ = a
  cases a
  case past => simp only; split <;> simp
  all_goals simp

/-- The rest of an issue that runs in one thread. -/
theorem issueFor_issues {s : State} {b : Block} {w : Who} {t : Thread} {i : Instr} {g : Guard}
    (h : Issues s b w t i g) (f : State → Site → Act) :
    { s with cur := none }.issueFor b.id [w] i g f =
      (runThread i g f b.id s.nextId { st := issued s, logs := [], parks := [], moved := [] } w).finish b t i (t.alone [w])
        s.nextId := by
  have hb : (issued s).block b.id = some b := h.block
  have hw : (issued s).wordFault b w t i = none := h.placed
  have hm := runThread_moved i g f b.id s.nextId (issued s) w
  change (issued s).issueOver s.nextId b.id [w] i g f = _
  simp only [State.issueOver, hb, h.thread, hw, bundleLacks_issues h, List.isEmpty_nil, Bool.not_true, List.foldl_cons,
    List.foldl_nil, reconvOut_short _ _ _ _ (targets_short _ _ hm), Bool.and_false, Bool.false_eq_true, if_false]

/-- The end of a basic block with one thread that leaves it. -/
theorem depart_one (s : State) (b : Block) (w : Who) (t : Thread) (a : Word) :
    s.depart b t.hdr [(w, a)] = enters s b w t a := by
  have h : (winOf w).map (fun _ => ()) = (winOf w).map fun _ => () := rfl
  unfold State.depart enters
  cases w <;> simp [diverges, winOf, Thread.enterAt]

/-- An act that completes passes on, with its log records formed first. -/
theorem issueThen_done {s s' : State} {b : Block} {w : Who} {t : Thread} {i : Instr} {g : Guard} {f : State → Site → Act}
    {logs : List (Cause × Nat)} {pc : Onward} (post : State → Nat → State) (h : Issues s b w t i g)
    (hf : f (issued s) (site s b w t) = .done s' logs)
    (hp : Inside (s'.logIssue b.ctx b.core (BitVec.ofNat 32 b.bid) t.hdr
      (logs.map fun p => (p.1, (tidOf w).toNat % 65536, p.2))) b t i pc) :
    s.issueThen i g f post = .next (post (passes (s'.logIssue b.ctx b.core (BitVec.ofNat 32 b.bid) t.hdr
      (logs.map fun p => (p.1, (tidOf w).toNat % 65536, p.2))) b w t pc) b.id) := by
  rw [issueThen_one h.slot, issueFor_issues h f, runThread_issues h f, hf]
  obtain ⟨hp, ha⟩ := hp
  have hs : s'.onward b.core b.ctx t.hdr t.pc (wordsOf i) = pc := by
    rw [← onward_cores (logIssue_cores s' _ _ _ _ _).1]
    exact hp
  cases pc with
  | within pc =>
    simp only [IssueOut.finish, IssueOut.faults, hs, parkFaults_nil, hp, List.foldl_cons, List.foldl_nil]
    rfl
  | header a =>
    simp only [IssueOut.finish, IssueOut.faults, hs, parkFaults_nil, hp, leaving, List.map_cons, List.map_nil, Option.getD_none,
      depart_one]
    rfl
  | astray a => exact absurd rfl (ha a)

/-- An act that completes and logs nothing. -/
theorem issue_done {s s' : State} {b : Block} {w : Who} {t : Thread} {i : Instr} {g : Guard} {f : State → Site → Act}
    {pc : Onward} (h : Issues s b w t i g) (hf : f (issued s) (site s b w t) = .done s' [])
    (hp : Inside s' b t i pc) : s.issue i g f = .next (passes s' b w t pc) :=
  issueThen_done _ h hf hp

/-- The act of an instruction that works on the issuing thread. -/
theorem withThread_issues {s : State} {b : Block} {w : Who} {t : Thread} {i : Instr} {g : Guard}
    (h : Issues s b w t i g) (f : State → Site → Block → Thread → Act) :
    withThread f (issued s) (site s b w t) = f (issued s) (site s b w t) b t := by
  have hb : (issued s).block b.id = some b := h.block
  simp only [withThread, site, hb, h.thread]

/-- An instruction that only computes on its thread and logs nothing. -/
theorem issue_compute {s : State} {b : Block} {w : Who} {t t' : Thread} {i : Instr} {g : Guard}
    {f : Thread → Thread × List (Cause × Nat)} {pc : Onward} (h : Issues s b w t i g)
    (hp : Inside s b t i pc) (hf : f t = (t', [])) : s.issue i g (compute f) = .next (becomes s b w t pc t') := by
  have e : compute f (issued s) (site s b w t) = .done ((issued s).modThread b.id w fun _ => t') [] := by
    unfold compute
    rw [withThread_issues h, hf]
    rfl
  exact issue_done h e hp

/-- An instruction that only changes its thread. -/
theorem issue_plainly {s : State} {b : Block} {w : Who} {t : Thread} {i : Instr} {g : Guard} {f : Thread → Thread}
    {pc : Onward} (h : Issues s b w t i g) (hp : Inside s b t i pc) :
    s.issue i g (plainly f) = .next (becomes s b w t pc (f t)) :=
  issue_compute h hp rfl

/-- The place after a word is the same in a state with the same cores. -/
theorem inside_of_cores {s s' : State} {b : Block} {t : Thread} {i : Instr} {pc : Onward} (h : Inside s b t i pc)
    (hc : s'.cores = s.cores) : Inside s' b t i pc := ⟨(onward_cores hc _ _ _ _ _).trans h.1, h.2⟩

/-- An instruction that only computes on its thread, and logs. -/
theorem issue_compute_logs {s : State} {b : Block} {w : Who} {t t' : Thread} {i : Instr} {g : Guard}
    {f : Thread → Thread × List (Cause × Nat)} {logs : List (Cause × Nat)} {pc : Onward} (h : Issues s b w t i g)
    (hp : Inside s b t i pc) (hf : f t = (t', logs)) :
    s.issue i g (compute f) = .next (passes (((issued s).modThread b.id w fun _ => t').logIssue b.ctx b.core
      (BitVec.ofNat 32 b.bid) t.hdr (logs.map fun p => (p.1, (tidOf w).toNat % 65536, p.2))) b w t pc) := by
  have e : compute f (issued s) (site s b w t) = .done ((issued s).modThread b.id w fun _ => t') logs := by
    unfold compute
    rw [withThread_issues h, hf]
    rfl
  exact issueThen_done (fun s _ => s) h e (inside_of_cores hp (logIssue_cores _ _ _ _ _ _).1)

/-! ## The other acts -/

/-- An issue whose thread neither passes on nor leaves, and logs nothing. -/
theorem finish_rests (s : State) (b : Block) (t : Thread) (i : Instr) (l : List (Nat × Parked)) (alone : Bool) (n : Nat) :
    ({ st := s, logs := [], parks := l, moved := [] } : IssueOut).finish b t i alone n =
      rests (s.parkFaults b.id alone l) b t i := by
  have e : ({ st := s, logs := [], parks := l, moved := [] } : IssueOut).faults b t i n = l := by
    unfold IssueOut.faults
    split <;> simp
  unfold IssueOut.finish rests
  simp only [logIssue_nil, e]
  split <;> simp_all [leaving, State.depart]

/-- A thread that raises a cause parks at its word. -/
theorem issueThen_fault {s : State} {b : Block} {w : Who} {t : Thread} {i : Instr} {g : Guard} {f : State → Site → Act}
    {c : Cause} {a : Option DWord} {d : Nat} (post : State → Nat → State) (h : Issues s b w t i g)
    (hf : f (issued s) (site s b w t) = .fault c a d) :
    s.issueThen i g f post = .next (post (rests (parks (issued s) b w t c a d) b t i) b.id) := by
  rw [issueThen_one h.slot, issueFor_issues h f, runThread_issues h f, hf]
  simp only [IssueOut.park, List.nil_append, finish_rests]
  unfold issueOf
  rw [parkFaults_one]
  rfl

/-- A thread that raises a cause parks at its word. -/
theorem issue_fault {s : State} {b : Block} {w : Who} {t : Thread} {i : Instr} {g : Guard} {f : State → Site → Act}
    {c : Cause} {a : Option DWord} {d : Nat} (h : Issues s b w t i g)
    (hf : f (issued s) (site s b w t) = .fault c a d) :
    s.issue i g f = .next (rests (parks (issued s) b w t c a d) b t i) :=
  issueThen_fault _ h hf

/-- A thread that waits stays at its word. -/
theorem issueThen_stall {s s' : State} {b : Block} {w : Who} {t : Thread} {i : Instr} {g : Guard} {f : State → Site → Act}
    {x : Wait} (post : State → Nat → State) (h : Issues s b w t i g) (hf : f (issued s) (site s b w t) = .stall s' x) :
    s.issueThen i g f post = .next (post (rests (waits s s' b w t x) b t i) b.id) := by
  rw [issueThen_one h.slot, issueFor_issues h f, runThread_issues h f, hf]
  simp only [finish_rests, parkFaults_nil]
  rfl

/-- A thread that waits stays at its word. -/
theorem issue_stall {s s' : State} {b : Block} {w : Who} {t : Thread} {i : Instr} {g : Guard} {f : State → Site → Act}
    {x : Wait} (h : Issues s b w t i g) (hf : f (issued s) (site s b w t) = .stall s' x) :
    s.issue i g f = .next (rests (waits s s' b w t x) b t i) :=
  issueThen_stall _ h hf

/-- A thread that has left its word by itself. -/
theorem issue_gone {s s' : State} {b : Block} {w : Who} {t : Thread} {i : Instr} {g : Guard} {f : State → Site → Act}
    (h : Issues s b w t i g) (hf : f (issued s) (site s b w t) = .gone s') : s.issue i g f = .next (rests s' b t i) := by
  unfold State.issue
  rw [issueThen_one h.slot, issueFor_issues h f, runThread_issues h f, hf]
  simp only [finish_rests, parkFaults_nil]

/-- A transfer ends its basic block. -/
theorem transfer_last {s s' : State} {b : Block} {w : Who} {t : Thread} {i : Instr} (h : s.wordFault b w t i = none)
    (hx : isTransfer i = true) (hc : s'.cores = s.cores) (pc : Word) :
    s'.onward b.core b.ctx t.hdr t.pc (wordsOf i) ≠ .within pc := by
  rw [onward_cores hc]
  unfold State.wordFault at h
  unfold State.onward
  simp only [hx, Bool.true_and] at h ⊢
  split at h
  · cases h
  split at h
  · cases h
  split at h
  · cases h
  split at h
  · cases h
  · rename_i _ _ _ h4
    have : codeOff t.pc + 8 * wordsOf i = codeOff t.hdr + 8 * ((s.headerAt b.core b.ctx t.hdr).len + 1) := by
      simpa using h4
    rw [if_neg (by omega)]
    split <;> simp

/-- A transfer whose target is legal enters it. -/
theorem issue_jump {s s' : State} {b : Block} {w : Who} {t : Thread} {i : Instr} {g : Guard} {f : State → Site → Act}
    {a : Word} (h : Issues s b w t i g) (hx : isTransfer i = true) (hf : f (issued s) (site s b w t) = .jump s' a)
    (hc : s'.cores = s.cores) : s.issue i g f = .next (enters s' b w t a) := by
  unfold State.issue
  rw [issueThen_one h.slot, issueFor_issues h f, runThread_issues h f, hf]
  have e : ({ st := s', logs := [], parks := [], moved := [(w, some a)] } : IssueOut).faults b t i s.nextId = [] := by
    unfold IssueOut.faults
    split <;> simp
  unfold IssueOut.finish
  simp only [logIssue_nil, e, parkFaults_nil]
  split
  · rename_i pc e
    exact absurd e (transfer_last h.placed hx hc pc)
  · simp only [leaving, List.map_cons, List.map_nil, Option.getD_some, depart_one]
  · simp [leaving, depart_one]

/-! ## Translation at an issue -/

theorem reach_issued {s : State} {b : Block} {va : DWord} {wr rd : Bool} {pte : DWord} {pa : Nat}
    (h : s.reach b va wr rd = .ok pte pa) : (issued s).reach b va wr rd = .ok pte pa := by
  have table (z : State) : z.reachTable b va wr rd ≠ .ok pte pa := by
    unfold State.reachTable
    split
    · simp
    · split <;> simp
  have ht : (issued s).tlbFind b.core b.ctx (pageOf va) = s.tlbFind b.core b.ctx (pageOf va) := rfl
  unfold State.reach at h ⊢
  rw [ht]
  split at h
  · cases h
  · rename_i h1
    rw [if_neg h1]
    split at h
    · exact absurd h (table _)
    · split at h
      · rename_i h2
        simp only [h2, if_true]
        exact h
      · exact absurd h (table _)

theorem stackReach_issued {s : State} {b : Block} {t : Thread} {x : Word} {al n : Nat} {wr : Bool} {pte : DWord} {pa : Nat}
    (h : s.stackReach b t x al n wr = .ok pte pa) : (issued s).stackReach b t x al n wr = .ok pte pa := by
  unfold State.stackReach at h ⊢
  have hr (va : DWord) (q : DWord) (p : Nat) : (issued s).writeRefused q p n = s.writeRefused q p n ∧
      (issued s).readRefused q p n = s.readRefused q p n := ⟨rfl, rfl⟩
  simp only at h ⊢
  split at h
  · cases h
  · rename_i h1
    rw [if_neg h1]
    split at h
    · cases h
    · rename_i h2
      rw [if_neg h2]
      split at h
      · rename_i q p h3
        rw [reach_issued h3]
        simp only [(hr 0 q p).1, (hr 0 q p).2]
        exact h
      · rename_i h3
        exact absurd h (h3 _ _)

end Sys2Proof.Machine
end

