-- ==== Sys2Proof/Laws/Memory.lean ====
section
/-! SUPPORT. Laws of memory cells: every operation keeps the canonical form, a read after a write gives the byte written,
and a write leaves every other byte alone. -/

namespace Sys2Proof.Machine

/-! ## The canonical form -/

theorem memWfFrom_weaken (m : List Host.Cell) (lo hi : Nat) (h : lo ≤ hi) (w : memWfFrom hi m = true) :
    memWfFrom lo m = true := by
  cases m with
  | nil => rfl
  | cons c m =>
    obtain ⟨k, b⟩ := c
    simp only [memWfFrom, Bool.and_eq_true, decide_eq_true_eq] at w ⊢
    exact ⟨⟨by omega, w.1.2⟩, w.2⟩

theorem memSet_wfFrom (m : List Host.Cell) (lo a : Nat) (v : Byte) (h : lo ≤ a) (w : memWfFrom lo m = true) :
    memWfFrom lo (memSet m a v) = true := by
  induction m generalizing lo with
  | nil =>
    unfold memSet
    split
    · rfl
    · rename_i hv
      simpa [memWfFrom, h] using hv
  | cons c m ih =>
    obtain ⟨k, b⟩ := c
    have w0 := w
    simp only [memWfFrom, Bool.and_eq_true, decide_eq_true_eq] at w
    unfold memSet
    split
    · split
      · exact w0
      · rename_i ha hv
        simp only [memWfFrom, Bool.and_eq_true, decide_eq_true_eq]
        exact ⟨⟨h, by simpa using hv⟩, ⟨by omega, w.1.2⟩, w.2⟩
    · split
      · rename_i ha he
        subst he
        split
        · exact memWfFrom_weaken _ _ _ (by omega) w.2
        · rename_i hv
          simp only [memWfFrom, Bool.and_eq_true, decide_eq_true_eq]
          exact ⟨⟨h, by simpa using hv⟩, w.2⟩
      · simp only [memWfFrom, Bool.and_eq_true, decide_eq_true_eq]
        exact ⟨w.1, ih _ (by omega) w.2⟩

/-- A write of one byte keeps the canonical form. -/
theorem memSet_wf (m : List Host.Cell) (a : Nat) (v : Byte) (w : Memory.wf m = true) : Memory.wf (memSet m a v) = true :=
  memSet_wfFrom m 0 a v (Nat.zero_le a) w

/-- A write of bytes keeps the canonical form. -/
theorem memWrite_wf (bs : List Byte) (m : List Host.Cell) (a : Nat) (w : Memory.wf m = true) :
    Memory.wf (memWrite m a bs) = true := by
  induction bs generalizing m a with
  | nil => exact w
  | cons b bs ih => exact ih _ _ (memSet_wf m a b w)

theorem filter_wfFrom (p : Host.Cell → Bool) (m : List Host.Cell) (lo : Nat) (w : memWfFrom lo m = true) :
    memWfFrom lo (m.filter p) = true := by
  induction m generalizing lo with
  | nil => rfl
  | cons c m ih =>
    obtain ⟨k, b⟩ := c
    simp only [memWfFrom, Bool.and_eq_true, decide_eq_true_eq] at w
    rw [List.filter_cons]
    split
    · simp only [memWfFrom, Bool.and_eq_true, decide_eq_true_eq]
      exact ⟨w.1, ih _ w.2⟩
    · exact ih _ (memWfFrom_weaken _ _ _ (by omega) w.2)

/-- A clear keeps the canonical form. -/
theorem memClear_wf (m : List Host.Cell) (a n : Nat) (w : Memory.wf m = true) : Memory.wf (memClear m a n) = true :=
  filter_wfFrom _ m 0 w

/-! ## Reads -/

/-- An address below the first listed one reads 0. -/
theorem memGet_below (m : List Host.Cell) (lo a : Nat) (h : a < lo) (w : memWfFrom lo m = true) : memGet m a = 0 := by
  cases m with
  | nil => rfl
  | cons c m =>
    obtain ⟨k, b⟩ := c
    simp only [memWfFrom, Bool.and_eq_true, decide_eq_true_eq] at w
    have : a < k := by omega
    simp [memGet, this]

theorem memGet_memSet_from (m : List Host.Cell) (lo a x : Nat) (v : Byte) (w : memWfFrom lo m = true) :
    memGet (memSet m a v) x = if x = a then v else memGet m x := by
  induction m generalizing lo with
  | nil =>
    unfold memSet
    split
    · rename_i hv
      simp [memGet, hv]
    · simp only [memGet]
      split <;> split <;> first | rfl | omega
  | cons c m ih =>
    obtain ⟨k, b⟩ := c
    simp only [memWfFrom, Bool.and_eq_true, decide_eq_true_eq] at w
    unfold memSet
    split
    · rename_i ha
      split
      · rename_i hv
        simp only [memGet]
        split
        · split
          · exact hv.symm
          · rfl
        · have : ¬ x = a := by omega
          simp [this]
      · simp only [memGet]
        split
        · have h1 : ¬ x = a := by omega
          have h2 : x < k := by omega
          simp [h1, h2]
        · rfl
    · split
      · rename_i ha he
        subst he
        split
        · rename_i hv
          simp only [memGet]
          by_cases e : x = a
          · subst e
            rw [memGet_below m (x + 1) x (by omega) w.2]
            simp [hv]
          · by_cases l : x < a
            · rw [memGet_below m (a + 1) x (by omega) w.2]
              simp [l, e]
            · simp [e, l]
        · simp only [memGet]
          by_cases e : x = a
          · simp [e]
          · simp [e]
      · simp only [memGet]
        rw [ih _ w.2]
        by_cases e : x = a
        · have h1 : ¬ x < k := by omega
          have h2 : ¬ x = k := by omega
          simp [e, show ¬ a < k by omega, show ¬ a = k by omega]
        · simp [e]

/-- A byte reads as written, and every other byte as before. -/
theorem memGet_memSet (m : List Host.Cell) (a x : Nat) (v : Byte) (w : Memory.wf m = true) :
    memGet (memSet m a v) x = if x = a then v else memGet m x := memGet_memSet_from m 0 a x v w

/-- Outside the bytes written, every byte reads as before. -/
theorem memGet_memWrite_other (bs : List Byte) (m : List Host.Cell) (a x : Nat) (w : Memory.wf m = true)
    (h : x < a ∨ a + bs.length ≤ x) : memGet (memWrite m a bs) x = memGet m x := by
  induction bs generalizing m a with
  | nil => rfl
  | cons b bs ih =>
    simp only [List.length_cons] at h
    rw [memWrite, ih _ _ (memSet_wf m a b w) (by omega), memGet_memSet _ _ _ _ w, if_neg (by omega)]

/-- A byte written reads as written. -/
theorem memGet_memWrite_same (bs : List Byte) (m : List Host.Cell) (a i : Nat) (w : Memory.wf m = true) (h : i < bs.length) :
    memGet (memWrite m a bs) (a + i) = bs[i] := by
  induction bs generalizing m a i with
  | nil => simp at h
  | cons b bs ih =>
    rw [memWrite]
    cases i with
    | zero =>
      rw [memGet_memWrite_other _ _ _ _ (memSet_wf m a b w) (by omega), memGet_memSet _ _ _ _ w]
      simp
    | succ i =>
      simp only [List.length_cons] at h
      have := ih (memSet m a b) (a + 1) i (memSet_wf m a b w) (by omega)
      rw [show a + (i + 1) = a + 1 + i by omega, this]
      rfl

/-- Bytes written read back. -/
theorem memRead_memWrite (bs : List Byte) (m : List Host.Cell) (a : Nat) (w : Memory.wf m = true) :
    memRead (memWrite m a bs) a bs.length = bs := by
  have key : ∀ n i, i + n = bs.length → memRead (memWrite m a bs) (a + i) n = bs.drop i := by
    intro n
    induction n with
    | zero => intro i h; simp [memRead, List.drop_eq_nil_of_le (show bs.length ≤ i by omega)]
    | succ n ih =>
      intro i h
      have hi : i < bs.length := by omega
      rw [memRead, memGet_memWrite_same bs m a i w hi, Nat.add_assoc, ih (i + 1) (by omega), List.drop_eq_getElem_cons hi]
  simpa using key bs.length 0 (by omega)

end Sys2Proof.Machine
end

