-- ==== Sys2Proof/Laws/PerInstr.lean ====
section
/-! SUPPORT. The family Encoded: the raw reading of the fields an instruction is encoded in gives the instruction back.
One lemma per constructor; of an event, which has no encoding, it says nothing. -/

namespace Sys2Proof.Laws.Encoded

open Sys2Proof Sys2Proof.Laws

/-- The fields of an instruction, read raw, give it back: as a core word with its continuation words, and as a port word. -/
def Statement (i : Instr) : Prop :=
  (∀ f, encodeFields i = some f →
    rawInstr f ((encodeRest i).getD 0 0) ((encodeRest i).getD 1 0) = some i) ∧
  (∀ f, encodePort i = some f → rawPort f = some i)

theorem noPort {i : Instr} (h : encodePort i = none) (f : PortFields) (e : encodePort i = some f) : rawPort f = some i := by
  rw [h] at e; cases e

theorem noCore {i : Instr} (h : encodeFields i = none) (f : Fields) (e : encodeFields i = some f) :
    rawInstr f ((encodeRest i).getD 0 0) ((encodeRest i).getD 1 0) = some i := by
  rw [h] at e; cases e

theorem ofCore {i : Instr} {f : Fields} (he : encodeFields i = some f) (hp : encodePort i = none)
    (hr : rawInstr f ((encodeRest i).getD 0 0) ((encodeRest i).getD 1 0) = some i) : Statement i :=
  ⟨fun f' h => by rw [he] at h; cases h; exact hr, noPort hp⟩

theorem ofPort {i : Instr} {f : PortFields} (he : encodeFields i = none) (hp : encodePort i = some f)
    (hr : rawPort f = some i) : Statement i :=
  ⟨noCore he, fun f' h => by rw [hp] at h; cases h; exact hr⟩

theorem add (a b) : Statement (.add a b) := ofCore rfl rfl <| by
  show (readAlu _).map (Instr.add (guardOf _)) = _
  rw [readAlu_lay]; simp [layAlu, fmtR]
theorem sub (a b) : Statement (.sub a b) := ofCore rfl rfl <| by
  show (readAlu _).map (Instr.sub (guardOf _)) = _
  rw [readAlu_lay]; simp [layAlu, fmtR]
theorem mul (a b) : Statement (.mul a b) := ofCore rfl rfl <| by
  show (readAlu _).map (Instr.mul (guardOf _)) = _
  rw [readAlu_lay]; simp [layAlu, fmtR]
theorem mulhi (a b) : Statement (.mulhi a b) := ofCore rfl rfl <| by
  show (readAlu _).map (Instr.mulhi (guardOf _)) = _
  rw [readAlu_lay]; simp [layAlu, fmtR]
theorem mad (a b) : Statement (.mad a b) := ofCore rfl rfl <| by
  show (readAlu _).map (Instr.mad (guardOf _)) = _
  rw [readAlu_lay]; simp [layAlu, fmtR]
theorem madw (a b) : Statement (.madw a b) := ofCore rfl rfl <| by
  show (readAlu _).map (Instr.madw (guardOf _)) = _
  rw [readAlu_lay]; simp [layAlu, fmtR]
theorem min (a b) : Statement (.min a b) := ofCore rfl rfl <| by
  show (readAlu _).map (Instr.min (guardOf _)) = _
  rw [readAlu_lay]; simp [layAlu, fmtR]
theorem max (a b) : Statement (.max a b) := ofCore rfl rfl <| by
  show (readAlu _).map (Instr.max (guardOf _)) = _
  rw [readAlu_lay]; simp [layAlu, fmtR]
theorem abs (a b) : Statement (.abs a b) := ofCore rfl rfl <| by
  show (readAlu _).map (Instr.abs (guardOf _)) = _
  rw [readAlu_lay]; simp [layAlu, fmtR]
theorem neg (a b) : Statement (.neg a b) := ofCore rfl rfl <| by
  show (readAlu _).map (Instr.neg (guardOf _)) = _
  rw [readAlu_lay]; simp [layAlu, fmtR]
theorem and (a b) : Statement (.and a b) := ofCore rfl rfl <| by
  show (readAlu _).map (Instr.and (guardOf _)) = _
  rw [readAlu_lay]; simp [layAlu, fmtR]
theorem or (a b) : Statement (.or a b) := ofCore rfl rfl <| by
  show (readAlu _).map (Instr.or (guardOf _)) = _
  rw [readAlu_lay]; simp [layAlu, fmtR]
theorem xor (a b) : Statement (.xor a b) := ofCore rfl rfl <| by
  show (readAlu _).map (Instr.xor (guardOf _)) = _
  rw [readAlu_lay]; simp [layAlu, fmtR]
theorem not (a b) : Statement (.not a b) := ofCore rfl rfl <| by
  show (readAlu _).map (Instr.not (guardOf _)) = _
  rw [readAlu_lay]; simp [layAlu, fmtR]
theorem shl (a b) : Statement (.shl a b) := ofCore rfl rfl <| by
  show (readAlu _).map (Instr.shl (guardOf _)) = _
  rw [readAlu_lay]; simp [layAlu, fmtR]
theorem shr (a b) : Statement (.shr a b) := ofCore rfl rfl <| by
  show (readAlu _).map (Instr.shr (guardOf _)) = _
  rw [readAlu_lay]; simp [layAlu, fmtR]
theorem sar (a b) : Statement (.sar a b) := ofCore rfl rfl <| by
  show (readAlu _).map (Instr.sar (guardOf _)) = _
  rw [readAlu_lay]; simp [layAlu, fmtR]
theorem rol (a b) : Statement (.rol a b) := ofCore rfl rfl <| by
  show (readAlu _).map (Instr.rol (guardOf _)) = _
  rw [readAlu_lay]; simp [layAlu, fmtR]
theorem bfx (a b) : Statement (.bfx a b) := ofCore rfl rfl <| by
  show (readAlu _).map (Instr.bfx (guardOf _)) = _
  rw [readAlu_lay]; simp [layAlu, fmtR]
theorem bfi (a b) : Statement (.bfi a b) := ofCore rfl rfl <| by
  show (readAlu _).map (Instr.bfi (guardOf _)) = _
  rw [readAlu_lay]; simp [layAlu, fmtR]
theorem popc (a b) : Statement (.popc a b) := ofCore rfl rfl <| by
  show (readAlu _).map (Instr.popc (guardOf _)) = _
  rw [readAlu_lay]; simp [layAlu, fmtR]
theorem clz (a b) : Statement (.clz a b) := ofCore rfl rfl <| by
  show (readAlu _).map (Instr.clz (guardOf _)) = _
  rw [readAlu_lay]; simp [layAlu, fmtR]
theorem brev (a b) : Statement (.brev a b) := ofCore rfl rfl <| by
  show (readAlu _).map (Instr.brev (guardOf _)) = _
  rw [readAlu_lay]; simp [layAlu, fmtR]
theorem sel (a b) : Statement (.sel a b) := ofCore rfl rfl <| by
  show (readAlu _).map (Instr.sel (guardOf _)) = _
  rw [readAlu_lay]; simp [layAlu, fmtR]
theorem setp (a b) : Statement (.setp a b) := ofCore rfl rfl <| by
  show (readAlu _).map (Instr.setp (guardOf _)) = _
  rw [readAlu_lay]; simp [layAlu, fmtR]
theorem mov (a b) : Statement (.mov a b) := ofCore rfl rfl <| by
  show (readAlu _).map (Instr.mov (guardOf _)) = _
  rw [readAlu_lay]; simp [layAlu, fmtR]
theorem lea (a b) : Statement (.lea a b) := ofCore rfl rfl <| by
  show (readAlu _).map (Instr.lea (guardOf _)) = _
  rw [readAlu_lay]; simp [layAlu, fmtR]
theorem div (a b) : Statement (.div a b) := ofCore rfl rfl <| by
  show (readAlu _).map (Instr.div (guardOf _)) = _
  rw [readAlu_lay]; simp [layAlu, fmtR]
theorem rem (a b) : Statement (.rem a b) := ofCore rfl rfl <| by
  show (readAlu _).map (Instr.rem (guardOf _)) = _
  rw [readAlu_lay]; simp [layAlu, fmtR]
theorem sadd (a b) : Statement (.sadd a b) := ofCore rfl rfl <| by
  show (readAlu _).map (Instr.sadd (guardOf _)) = _
  rw [readAlu_lay]; simp [layAlu, fmtR]
theorem ssub (a b) : Statement (.ssub a b) := ofCore rfl rfl <| by
  show (readAlu _).map (Instr.ssub (guardOf _)) = _
  rw [readAlu_lay]; simp [layAlu, fmtR]
theorem addi (a b) : Statement (.addi a b) := ofCore rfl rfl <| by
  show some (Instr.addi (guardOf _) (readImm _)) = _
  rw [readImm_lay]; simp [layImm, fmtI]
theorem andi (a b) : Statement (.andi a b) := ofCore rfl rfl <| by
  show some (Instr.andi (guardOf _) (readImm _)) = _
  rw [readImm_lay]; simp [layImm, fmtI]
theorem ori (a b) : Statement (.ori a b) := ofCore rfl rfl <| by
  show some (Instr.ori (guardOf _) (readImm _)) = _
  rw [readImm_lay]; simp [layImm, fmtI]
theorem xori (a b) : Statement (.xori a b) := ofCore rfl rfl <| by
  show some (Instr.xori (guardOf _) (readImm _)) = _
  rw [readImm_lay]; simp [layImm, fmtI]
theorem movi (a b) : Statement (.movi a b) := ofCore rfl rfl <| by
  show some (Instr.movi (guardOf _) (readImm _)) = _
  rw [readImm_lay]; simp [layImm, fmtI]
theorem movhi (a b) : Statement (.movhi a b) := ofCore rfl rfl <| by
  show some (Instr.movhi (guardOf _) (readImm _)) = _
  rw [readImm_lay]; simp [layImm, fmtI]
theorem setpi (a b) : Statement (.setpi a b) := ofCore rfl rfl <| by
  show some (Instr.setpi (guardOf _) (readImm _)) = _
  rw [readImm_lay]; simp [layImm, fmtI]
theorem pand (a b) : Statement (.pand a b) := ofCore rfl rfl <| by
  show some (Instr.pand (guardOf _) (readPreds _)) = _
  rw [readPreds_lay]; simp [layPreds, fmtR]
theorem por (a b) : Statement (.por a b) := ofCore rfl rfl <| by
  show some (Instr.por (guardOf _) (readPreds _)) = _
  rw [readPreds_lay]; simp [layPreds, fmtR]
theorem pxor (a b) : Statement (.pxor a b) := ofCore rfl rfl <| by
  show some (Instr.pxor (guardOf _) (readPreds _)) = _
  rw [readPreds_lay]; simp [layPreds, fmtR]
theorem pnot (a b c) : Statement (.pnot a b c) := ofCore rfl rfl <| by
  simp [rawInstr, raw0, fmtR]
theorem movs (a b c) : Statement (.movs a b c) := ofCore rfl rfl <| by
  simp [rawInstr, raw0, fmtR]
theorem wrs (a b c) : Statement (.wrs a b c) := ofCore rfl rfl <| by
  simp [rawInstr, raw0, fmtR]
theorem fadd (a b) : Statement (.fadd a b) := ofCore rfl rfl <| by
  show (readAlu _).map (Instr.fadd (guardOf _)) = _
  rw [readAlu_lay]; simp [layAlu, fmtR]
theorem fsub (a b) : Statement (.fsub a b) := ofCore rfl rfl <| by
  show (readAlu _).map (Instr.fsub (guardOf _)) = _
  rw [readAlu_lay]; simp [layAlu, fmtR]
theorem fmul (a b) : Statement (.fmul a b) := ofCore rfl rfl <| by
  show (readAlu _).map (Instr.fmul (guardOf _)) = _
  rw [readAlu_lay]; simp [layAlu, fmtR]
theorem ffma (a b) : Statement (.ffma a b) := ofCore rfl rfl <| by
  show (readAlu _).map (Instr.ffma (guardOf _)) = _
  rw [readAlu_lay]; simp [layAlu, fmtR]
theorem fmin (a b) : Statement (.fmin a b) := ofCore rfl rfl <| by
  show (readAlu _).map (Instr.fmin (guardOf _)) = _
  rw [readAlu_lay]; simp [layAlu, fmtR]
theorem fmax (a b) : Statement (.fmax a b) := ofCore rfl rfl <| by
  show (readAlu _).map (Instr.fmax (guardOf _)) = _
  rw [readAlu_lay]; simp [layAlu, fmtR]
theorem fabs (a b) : Statement (.fabs a b) := ofCore rfl rfl <| by
  show (readAlu _).map (Instr.fabs (guardOf _)) = _
  rw [readAlu_lay]; simp [layAlu, fmtR]
theorem fneg (a b) : Statement (.fneg a b) := ofCore rfl rfl <| by
  show (readAlu _).map (Instr.fneg (guardOf _)) = _
  rw [readAlu_lay]; simp [layAlu, fmtR]
theorem fsetp (a b) : Statement (.fsetp a b) := ofCore rfl rfl <| by
  show (readAlu _).map (Instr.fsetp (guardOf _)) = _
  rw [readAlu_lay]; simp [layAlu, fmtR]
theorem frcp (a b) : Statement (.frcp a b) := ofCore rfl rfl <| by
  show (readAlu _).map (Instr.frcp (guardOf _)) = _
  rw [readAlu_lay]; simp [layAlu, fmtR]
theorem frsq (a b) : Statement (.frsq a b) := ofCore rfl rfl <| by
  show (readAlu _).map (Instr.frsq (guardOf _)) = _
  rw [readAlu_lay]; simp [layAlu, fmtR]
theorem fsqrt (a b) : Statement (.fsqrt a b) := ofCore rfl rfl <| by
  show (readAlu _).map (Instr.fsqrt (guardOf _)) = _
  rw [readAlu_lay]; simp [layAlu, fmtR]
theorem fex2 (a b) : Statement (.fex2 a b) := ofCore rfl rfl <| by
  show (readAlu _).map (Instr.fex2 (guardOf _)) = _
  rw [readAlu_lay]; simp [layAlu, fmtR]
theorem flg2 (a b) : Statement (.flg2 a b) := ofCore rfl rfl <| by
  show (readAlu _).map (Instr.flg2 (guardOf _)) = _
  rw [readAlu_lay]; simp [layAlu, fmtR]
theorem fsin (a b) : Statement (.fsin a b) := ofCore rfl rfl <| by
  show (readAlu _).map (Instr.fsin (guardOf _)) = _
  rw [readAlu_lay]; simp [layAlu, fmtR]
theorem fcos (a b) : Statement (.fcos a b) := ofCore rfl rfl <| by
  show (readAlu _).map (Instr.fcos (guardOf _)) = _
  rw [readAlu_lay]; simp [layAlu, fmtR]
theorem ftanh (a b) : Statement (.ftanh a b) := ofCore rfl rfl <| by
  show (readAlu _).map (Instr.ftanh (guardOf _)) = _
  rw [readAlu_lay]; simp [layAlu, fmtR]
theorem fdiv (a b) : Statement (.fdiv a b) := ofCore rfl rfl <| by
  show (readAlu _).map (Instr.fdiv (guardOf _)) = _
  rw [readAlu_lay]; simp [layAlu, fmtR]
theorem fclass (a b) : Statement (.fclass a b) := ofCore rfl rfl <| by
  show (readAlu _).map (Instr.fclass (guardOf _)) = _
  rw [readAlu_lay]; simp [layAlu, fmtR]
theorem fround (a b) : Statement (.fround a b) := ofCore rfl rfl <| by
  show (readAlu _).map (Instr.fround (guardOf _)) = _
  rw [readAlu_lay]; simp [layAlu, fmtR]
theorem fscale (a b) : Statement (.fscale a b) := ofCore rfl rfl <| by
  show (readAlu _).map (Instr.fscale (guardOf _)) = _
  rw [readAlu_lay]; simp [layAlu, fmtR]
theorem cvt (a b) : Statement (.cvt a b) := ofCore rfl rfl <| by
  show (readAlu _).map (Instr.cvt (guardOf _)) = _
  rw [readAlu_lay]; simp [layAlu, fmtR]
theorem pkBf16 (a b) : Statement (.pkBf16 a b) := ofCore rfl rfl <| by
  show (readAlu _).map (Instr.pkBf16 (guardOf _)) = _
  rw [readAlu_lay]; simp [layAlu, fmtR]
theorem upkBf16 (a b) : Statement (.upkBf16 a b) := ofCore rfl rfl <| by
  show (readAlu _).map (Instr.upkBf16 (guardOf _)) = _
  rw [readAlu_lay]; simp [layAlu, fmtR]
theorem pkF8 (a b) : Statement (.pkF8 a b) := ofCore rfl rfl <| by
  show (readAlu _).map (Instr.pkF8 (guardOf _)) = _
  rw [readAlu_lay]; simp [layAlu, fmtR]
theorem upkF8 (a b) : Statement (.upkF8 a b) := ofCore rfl rfl <| by
  show (readAlu _).map (Instr.upkF8 (guardOf _)) = _
  rw [readAlu_lay]; simp [layAlu, fmtR]
theorem npiEnc (a b) : Statement (.npiEnc a b) := ofCore rfl rfl <| by
  show (readAlu _).map (Instr.npiEnc (guardOf _)) = _
  rw [readAlu_lay]; simp [layAlu, fmtR]
theorem npiDec (a b) : Statement (.npiDec a b) := ofCore rfl rfl <| by
  show (readAlu _).map (Instr.npiDec (guardOf _)) = _
  rw [readAlu_lay]; simp [layAlu, fmtR]
theorem bscale (a b) : Statement (.bscale a b) := ofCore rfl rfl <| by
  show (readAlu _).map (Instr.bscale (guardOf _)) = _
  rw [readAlu_lay]; simp [layAlu, fmtR]
theorem bquant (a b) : Statement (.bquant a b) := ofCore rfl rfl <| by
  show (readAlu _).map (Instr.bquant (guardOf _)) = _
  rw [readAlu_lay]; simp [layAlu, fmtR]
theorem bdot (a b) : Statement (.bdot a b) := ofCore rfl rfl <| by
  show (readAlu _).map (Instr.bdot (guardOf _)) = _
  rw [readAlu_lay]; simp [layAlu, fmtR]
theorem bra (a b) : Statement (.bra a b) := ofCore rfl rfl <| by
  show some (Instr.bra (guardOf _) (Fields.imm32 _)) = _
  rw [imm32_lay]; simp [fmtI]
theorem mbr (a b) : Statement (.mbr a b) := ofCore rfl rfl <| by
  show some (Instr.mbr (guardOf (layMbr a b)) (readMbr (layMbr a b) (mbrWord2 b))) = _
  rw [readMbr_lay]; simp [layMbr, fmtR]
theorem call (a b) : Statement (.call a b) := ofCore rfl rfl <| by
  show some (Instr.call (guardOf _) (Fields.imm32 _)) = _
  rw [imm32_lay]; simp [fmtI]
theorem callo (a b c) : Statement (.callo a b c) := ofCore rfl rfl <| by
  simp [rawInstr, raw3, fmtI]
theorem calli (a b) : Statement (.calli a b) := ofCore rfl rfl <| by
  simp [rawInstr, raw3, fmtR]
theorem ret (a) : Statement (.ret a) := ofCore rfl rfl <| by
  simp [rawInstr, raw3, fmtR]
theorem exit (a) : Statement (.exit a) := ofCore rfl rfl <| by
  simp [rawInstr, raw3, fmtR]
theorem yield (a) : Statement (.yield a) := ofCore rfl rfl <| by
  simp [rawInstr, raw3, fmtR]
theorem nop (a) : Statement (.nop a) := ofCore rfl rfl <| by
  simp [rawInstr, raw3, fmtR]
theorem bri (a b) : Statement (.bri a b) := ofCore rfl rfl <| by
  simp [rawInstr, raw3, fmtR]
theorem brk (a b) : Statement (.brk a b) := ofCore rfl rfl <| by
  simp [rawInstr, raw3, fmtR]
theorem voteAll (a b c d) : Statement (.voteAll a b c d) := ofCore rfl rfl <| by
  simp [rawInstr, raw4, fmtR]
theorem voteAny (a b c d) : Statement (.voteAny a b c d) := ofCore rfl rfl <| by
  simp [rawInstr, raw4, fmtR]
theorem voteBal (a b c d) : Statement (.voteBal a b c d) := ofCore rfl rfl <| by
  simp [rawInstr, raw4, fmtR]
theorem shflIdx (a b c) : Statement (.shflIdx a b c) := ofCore rfl rfl <| by
  simp [rawInstr, raw4, layShfl, fmtR, readShfl]
theorem shflUp (a b c) : Statement (.shflUp a b c) := ofCore rfl rfl <| by
  simp [rawInstr, raw4, layShfl, fmtR, readShfl]
theorem shflDn (a b c) : Statement (.shflDn a b c) := ofCore rfl rfl <| by
  simp [rawInstr, raw4, layShfl, fmtR, readShfl]
theorem shflXor (a b c) : Statement (.shflXor a b c) := ofCore rfl rfl <| by
  simp [rawInstr, raw4, layShfl, fmtR, readShfl]
theorem qxH (a b) : Statement (.qxH a b) := ofCore rfl rfl <| by
  simp [rawInstr, raw4, layShfl, fmtR, readShfl]
theorem qxV (a b) : Statement (.qxV a b) := ofCore rfl rfl <| by
  simp [rawInstr, raw4, layShfl, fmtR, readShfl]
theorem qxD (a b) : Statement (.qxD a b) := ofCore rfl rfl <| by
  simp [rawInstr, raw4, layShfl, fmtR, readShfl]
theorem lredAdd (a b) : Statement (.lredAdd a b) := ofCore rfl rfl <| by
  show (readLane _).map (Instr.lredAdd (guardOf _)) = _
  rw [readLane_lay]; simp [layLane, fmtR]
theorem lredMax (a b) : Statement (.lredMax a b) := ofCore rfl rfl <| by
  show (readLane _).map (Instr.lredMax (guardOf _)) = _
  rw [readLane_lay]; simp [layLane, fmtR]
theorem lredMin (a b) : Statement (.lredMin a b) := ofCore rfl rfl <| by
  show (readLane _).map (Instr.lredMin (guardOf _)) = _
  rw [readLane_lay]; simp [layLane, fmtR]
theorem lscanAdd (a b) : Statement (.lscanAdd a b) := ofCore rfl rfl <| by
  show (readLane _).map (Instr.lscanAdd (guardOf _)) = _
  rw [readLane_lay]; simp [layLane, fmtR]
theorem matchLanes (a b c d) : Statement (.matchLanes a b c d) := ofCore rfl rfl <| by
  simp [rawInstr, raw4, fmtR]
theorem ld (a b) : Statement (.ld a b) := ofCore rfl rfl <| by
  show (readMem _).map (Instr.ld (guardOf _)) = _
  rw [readMem_lay]; simp [layMem, fmtR]
theorem ldAcq (a b) : Statement (.ldAcq a b) := ofCore rfl rfl <| by
  show (readMem _).map (Instr.ldAcq (guardOf _)) = _
  rw [readMem_lay]; simp [layMem, fmtR]
theorem ldNc (a b) : Statement (.ldNc a b) := ofCore rfl rfl <| by
  show (readMem _).map (Instr.ldNc (guardOf _)) = _
  rw [readMem_lay]; simp [layMem, fmtR]
theorem pf (a b) : Statement (.pf a b) := ofCore rfl rfl <| by
  show (readMem _).map (Instr.pf (guardOf _)) = _
  rw [readMem_lay]; simp [layMem, fmtR]
theorem pop (a b) : Statement (.pop a b) := ofCore rfl rfl <| by
  show (readMem _).map (Instr.pop (guardOf _)) = _
  rw [readMem_lay]; simp [layMem, fmtR]
theorem st (a b) : Statement (.st a b) := ofCore rfl rfl <| by
  show (readMem _).map (Instr.st (guardOf _)) = _
  rw [readMem_lay]; simp [layMem, fmtR]
theorem stRel (a b) : Statement (.stRel a b) := ofCore rfl rfl <| by
  show (readMem _).map (Instr.stRel (guardOf _)) = _
  rw [readMem_lay]; simp [layMem, fmtR]
theorem push (a b) : Statement (.push a b) := ofCore rfl rfl <| by
  show (readMem _).map (Instr.push (guardOf _)) = _
  rw [readMem_lay]; simp [layMem, fmtR]
theorem atomAdd (a b) : Statement (.atomAdd a b) := ofCore rfl rfl <| by
  show (readMem _).map (Instr.atomAdd (guardOf _)) = _
  rw [readMem_lay]; simp [layMem, fmtR]
theorem atomMin (a b) : Statement (.atomMin a b) := ofCore rfl rfl <| by
  show (readMem _).map (Instr.atomMin (guardOf _)) = _
  rw [readMem_lay]; simp [layMem, fmtR]
theorem atomMax (a b) : Statement (.atomMax a b) := ofCore rfl rfl <| by
  show (readMem _).map (Instr.atomMax (guardOf _)) = _
  rw [readMem_lay]; simp [layMem, fmtR]
theorem atomAnd (a b) : Statement (.atomAnd a b) := ofCore rfl rfl <| by
  show (readMem _).map (Instr.atomAnd (guardOf _)) = _
  rw [readMem_lay]; simp [layMem, fmtR]
theorem atomOr (a b) : Statement (.atomOr a b) := ofCore rfl rfl <| by
  show (readMem _).map (Instr.atomOr (guardOf _)) = _
  rw [readMem_lay]; simp [layMem, fmtR]
theorem atomXor (a b) : Statement (.atomXor a b) := ofCore rfl rfl <| by
  show (readMem _).map (Instr.atomXor (guardOf _)) = _
  rw [readMem_lay]; simp [layMem, fmtR]
theorem atomXchg (a b) : Statement (.atomXchg a b) := ofCore rfl rfl <| by
  show (readMem _).map (Instr.atomXchg (guardOf _)) = _
  rw [readMem_lay]; simp [layMem, fmtR]
theorem atomCas (a b) : Statement (.atomCas a b) := ofCore rfl rfl <| by
  show (readMem _).map (Instr.atomCas (guardOf _)) = _
  rw [readMem_lay]; simp [layMem, fmtR]
theorem atomInc (a b) : Statement (.atomInc a b) := ofCore rfl rfl <| by
  show (readMem _).map (Instr.atomInc (guardOf _)) = _
  rw [readMem_lay]; simp [layMem, fmtR]
theorem redAdd (a b) : Statement (.redAdd a b) := ofCore rfl rfl <| by
  show (readMem _).map (Instr.redAdd (guardOf _)) = _
  rw [readMem_lay]; simp [layMem, fmtR]
theorem redMin (a b) : Statement (.redMin a b) := ofCore rfl rfl <| by
  show (readMem _).map (Instr.redMin (guardOf _)) = _
  rw [readMem_lay]; simp [layMem, fmtR]
theorem redMax (a b) : Statement (.redMax a b) := ofCore rfl rfl <| by
  show (readMem _).map (Instr.redMax (guardOf _)) = _
  rw [readMem_lay]; simp [layMem, fmtR]
theorem redOr (a b) : Statement (.redOr a b) := ofCore rfl rfl <| by
  show (readMem _).map (Instr.redOr (guardOf _)) = _
  rw [readMem_lay]; simp [layMem, fmtR]
theorem nmcas (a b) : Statement (.nmcas a b) := ofCore rfl rfl <| by
  show (readMem _).map (Instr.nmcas (guardOf _)) = _
  rw [readMem_lay]; simp [layMem, fmtR]
theorem nmenq (a b) : Statement (.nmenq a b) := ofCore rfl rfl <| by
  show (readMem _).map (Instr.nmenq (guardOf _)) = _
  rw [readMem_lay]; simp [layMem, fmtR]
theorem nmchase (a b) : Statement (.nmchase a b) := ofCore rfl rfl <| by
  show (readMem _).map (Instr.nmchase (guardOf _)) = _
  rw [readMem_lay]; simp [layMem, fmtR]
theorem fence (a b) : Statement (.fence a b) := ofCore rfl rfl <| by
  simp [rawInstr, raw8, fmtR]
theorem barInit (a b c) : Statement (.barInit a b c) := ofCore rfl rfl <| by
  simp [rawInstr, raw8, fmtR]
theorem barArr (a b c) : Statement (.barArr a b c) := ofCore rfl rfl <| by
  simp [rawInstr, raw8, fmtR]
theorem barExp (a b c) : Statement (.barExp a b c) := ofCore rfl rfl <| by
  simp [rawInstr, raw8, fmtR]
theorem barWait (a b c d) : Statement (.barWait a b c d) := ofCore rfl rfl <| by
  simp [rawInstr, raw8, fmtR]
theorem waitany (a b c d) : Statement (.waitany a b c d) := ofCore rfl rfl <| by
  simp [rawInstr, raw8, fmtR]
theorem barTst (a b c d e) : Statement (.barTst a b c d e) := ofCore rfl rfl <| by
  simp [rawInstr, raw8, fmtR]
theorem heatArr (a b) : Statement (.heatArr a b) := ofCore rfl rfl <| by
  simp [rawInstr, raw8, fmtR]
theorem heatWait (a b c) : Statement (.heatWait a b c) := ofCore rfl rfl <| by
  simp [rawInstr, raw8, fmtR]
theorem fwait (a b) : Statement (.fwait a b) := ofCore rfl rfl <| by
  simp [rawInstr, raw8, fmtR]
theorem aalloc (a b c d) : Statement (.aalloc a b c d) := ofCore rfl rfl <| by
  simp [rawInstr, raw8, fmtR]
theorem afree (a b) : Statement (.afree a b) := ofCore rfl rfl <| by
  simp [rawInstr, raw8, fmtR]
theorem cpy (a b c) : Statement (.cpy a b c) := ofCore rfl rfl <| by
  show (readCompl _).map _ = _
  rw [readCompl_copy]; simp [layCopy, fmtR]
theorem cpyRed (a b c) : Statement (.cpyRed a b c) := ofCore rfl rfl <| by
  show (readCompl _).map _ = _
  rw [readCompl_copy]; simp [layCopy, fmtR]
theorem cpyBc (a b c) : Statement (.cpyBc a b c) := ofCore rfl rfl <| by
  show (readCompl _).map _ = _
  rw [readCompl_copy]; simp [layCopy, fmtR]
theorem chain (a b) : Statement (.chain a b) := ofCore rfl rfl <| by
  show (readChain (layChain a b) b.w2 b.w3).map (Instr.chain (guardOf (layChain a b))) = _
  rw [readChain_lay]; simp [layChain, fmtR]
theorem cpyT (a b c) : Statement (.cpyT a b c) := ofCore rfl rfl <| by
  show (readCompl _).map _ = _
  rw [readCompl_copy]; simp [layCopy, fmtR]
theorem cpyD (a b c d) : Statement (.cpyD a b c d) := ofCore rfl rfl <| by
  show (readCompl _).map _ = _
  rw [readCompl_copy]; simp [layCopy, fmtR]
theorem tbind (a b c d e f) : Statement (.tbind a b c d e f) := ofCore rfl rfl <| by
  simp [rawInstr, rawA, fmtR]
theorem tgive (a b) : Statement (.tgive a b) := ofCore rfl rfl <| by
  simp [rawInstr, rawA, fmtR]
theorem ttake (a b) : Statement (.ttake a b) := ofCore rfl rfl <| by
  simp [rawInstr, rawA, fmtR]
theorem tstat (a b c) : Statement (.tstat a b c) := ofCore rfl rfl <| by
  simp [rawInstr, rawA, fmtR]
theorem tfree (a b) : Statement (.tfree a b) := ofCore rfl rfl <| by
  simp [rawInstr, rawA, fmtR]
theorem mma (a b c d) : Statement (.mma a b c d) := ofCore rfl rfl <| by
  simp [rawInstr, rawA, fmtR]
theorem mmaBs (a b c d) : Statement (.mmaBs a b c d) := ofCore rfl rfl <| by
  simp [rawInstr, rawA, fmtR]
theorem mmaNp (a b c d e) : Statement (.mmaNp a b c d e) := ofCore rfl rfl <| by
  simp [rawInstr, rawA, fmtR]
theorem mmaCoop (a b c d e f g h) : Statement (.mmaCoop a b c d e f g h) := ofCore rfl rfl <| by
  simp [rawInstr, rawA, fmtR]
theorem mzero (a b) : Statement (.mzero a b) := ofCore rfl rfl <| by
  simp [rawInstr, rawA, fmtR]
theorem mdrain (a b c) : Statement (.mdrain a b c) := ofCore rfl rfl <| by
  simp [rawInstr, rawA, fmtR]
theorem csel (a b c) : Statement (.csel a b c) := ofCore rfl rfl <| by
  simp [rawInstr, rawA, fmtR]
theorem mseq (a b c) : Statement (.mseq a b c) := ofCore rfl rfl <| by
  simp [rawInstr, rawA, fmtR]
theorem hwait (a b) : Statement (.hwait a b) := ofCore rfl rfl <| by
  simp [rawInstr, rawB, fmtR]
theorem htest (a b c) : Statement (.htest a b c) := ofCore rfl rfl <| by
  simp [rawInstr, rawB, fmtR]
theorem hcancel (a b) : Statement (.hcancel a b) := ofCore rfl rfl <| by
  simp [rawInstr, rawB, fmtR]
theorem hpass (a b c) : Statement (.hpass a b c) := ofCore rfl rfl <| by
  simp [rawInstr, rawB, fmtR]
theorem hget (a b c) : Statement (.hget a b c) := ofCore rfl rfl <| by
  simp [rawInstr, rawB, fmtR]
theorem ovld (a b c) : Statement (.ovld a b c) := ofCore rfl rfl <| by
  simp [rawInstr, rawC, fmtR]
theorem ovpin (a b c) : Statement (.ovpin a b c) := ofCore rfl rfl <| by
  simp [rawInstr, rawC, fmtR]
theorem ovunpin (a b) : Statement (.ovunpin a b) := ofCore rfl rfl <| by
  simp [rawInstr, rawC, fmtR]
theorem ovevict (a b c) : Statement (.ovevict a b c) := ofCore rfl rfl <| by
  simp [rawInstr, rawC, fmtR]
theorem ovq (a b c) : Statement (.ovq a b c) := ofCore rfl rfl <| by
  simp [rawInstr, rawC, fmtR]
theorem trap (a b) : Statement (.trap a b) := ofCore rfl rfl <| by
  simp [rawInstr, rawD, fmtR]
theorem rdsr (a b c) : Statement (.rdsr a b c) := ofCore rfl rfl <| by
  simp [rawInstr, rawD, fmtR]
theorem wrsr (a b c) : Statement (.wrsr a b c) := ofCore rfl rfl <| by
  simp [rawInstr, rawD, fmtR]
theorem eret (a) : Statement (.eret a) := ofCore rfl rfl <| by
  simp [rawInstr, rawD, fmtR]
theorem park (a b c) : Statement (.park a b c) := ofCore rfl rfl <| by
  simp [rawInstr, rawD, fmtR]
theorem resume (a b c) : Statement (.resume a b c) := ofCore rfl rfl <| by
  simp [rawInstr, rawD, fmtR]
theorem kill (a b c) : Statement (.kill a b c) := ofCore rfl rfl <| by
  simp [rawInstr, rawD, fmtR]
theorem frsave (a b) : Statement (.frsave a b) := ofCore rfl rfl <| by
  simp [rawInstr, rawD, fmtR]
theorem frload (a b) : Statement (.frload a b) := ofCore rfl rfl <| by
  simp [rawInstr, rawD, fmtR]
theorem bsave (a b) : Statement (.bsave a b) := ofCore rfl rfl <| by
  simp [rawInstr, rawD, fmtR]
theorem brest (a b) : Statement (.brest a b) := ofCore rfl rfl <| by
  simp [rawInstr, rawD, fmtR]
theorem logpush (a b) : Statement (.logpush a b) := ofCore rfl rfl <| by
  simp [rawInstr, rawD, fmtR]
theorem tlbinv (a b c) : Statement (.tlbinv a b c) := ofCore rfl rfl <| by
  simp [rawInstr, rawD, fmtR]
theorem mcfNop : Statement .mcfNop := ofPort rfl rfl <| by
  simp [rawPort, portF]
theorem mcfMatch (a b) : Statement (.mcfMatch a b) := ofPort rfl rfl <| by
  simp [rawPort, portF]
theorem mcfLookup (a b c) : Statement (.mcfLookup a b c) := ofPort rfl rfl <| by
  simp [rawPort, portF]
theorem mcfLookupM (a b c) : Statement (.mcfLookupM a b c) := ofPort rfl rfl <| by
  simp [rawPort, portF]
theorem mcfHold (a) : Statement (.mcfHold a) := ofPort rfl rfl <| by
  simp [rawPort, portF]
theorem mcfComb (a b c d) : Statement (.mcfComb a b c d) := ofPort rfl rfl <| by
  simp [rawPort, portF]
theorem mcfWait (a b) : Statement (.mcfWait a b) := ofPort rfl rfl <| by
  simp [rawPort, portF]
theorem mcfFwd (a b c d) : Statement (.mcfFwd a b c d) := ofPort rfl rfl <| by
  simp [rawPort, portF]
theorem mcfRepl (a b c d e) : Statement (.mcfRepl a b c d e) := ofPort rfl rfl <| by
  simp [rawPort, portF]
theorem mcfEmit (a b c) : Statement (.mcfEmit a b c) := ofPort rfl rfl <| by
  simp [rawPort, portF]
theorem mcfBarup (a b) : Statement (.mcfBarup a b) := ofPort rfl rfl <| by
  simp [rawPort, portF]
theorem mcfGrant (a b c) : Statement (.mcfGrant a b c) := ofPort rfl rfl <| by
  simp [rawPort, portF]
theorem mcfNack (a b) : Statement (.mcfNack a b) := ofPort rfl rfl <| by
  simp [rawPort, portF]
theorem mcfCnt (a b c d) : Statement (.mcfCnt a b c d) := ofPort rfl rfl <| by
  simp [rawPort, portF]
theorem mcfJmp (a) : Statement (.mcfJmp a) := ofPort rfl rfl <| by
  simp [rawPort, portF]
theorem mcfJz (a b) : Statement (.mcfJz a b) := ofPort rfl rfl <| by
  simp [rawPort, portF]
theorem mcfJnz (a b) : Statement (.mcfJnz a b) := ofPort rfl rfl <| by
  simp [rawPort, portF]
theorem mcfSet (a b) : Statement (.mcfSet a b) := ofPort rfl rfl <| by
  simp [rawPort, portF, set_split]
theorem mcfSetHi (a b) : Statement (.mcfSetHi a b) := ofPort rfl rfl <| by
  simp [rawPort, portF]
theorem mcfAdd (a b c d) : Statement (.mcfAdd a b c d) := ofPort rfl rfl <| by
  simp [rawPort, portF, bit1]
theorem mcfAddImm (a b c) : Statement (.mcfAddImm a b c) := ofPort rfl rfl <| by
  simp [rawPort, portF, bit1]
theorem mcfLd (a b c) : Statement (.mcfLd a b c) := ofPort rfl rfl <| by
  simp [rawPort, portF]
theorem mcfSt (a b c) : Statement (.mcfSt a b c) := ofPort rfl rfl <| by
  simp [rawPort, portF]
theorem mcfOrder (a) : Statement (.mcfOrder a) := ofPort rfl rfl <| by
  simp [rawPort, portF]
theorem mcfDrain (a b c) : Statement (.mcfDrain a b c) := ofPort rfl rfl <| by
  simp [rawPort, portF]
theorem mcfLog (a b) : Statement (.mcfLog a b) := ofPort rfl rfl <| by
  simp [rawPort, portF]
theorem mcfEnd : Statement .mcfEnd := ofPort rfl rfl <| by
  simp [rawPort, portF]
theorem blockHeaderEntry (a b c) : Statement (.blockHeaderEntry a b c) := ⟨noCore rfl, noPort rfl⟩
theorem issueSlot (a b) : Statement (.issueSlot a b) := ⟨noCore rfl, noPort rfl⟩
theorem controlCoreIssue (a) : Statement (.controlCoreIssue a) := ⟨noCore rfl, noPort rfl⟩
theorem rejoinHoldTimeout (a b c d) : Statement (.rejoinHoldTimeout a b c d) := ⟨noCore rfl, noPort rfl⟩
theorem rendezvousTimeout (a b c) : Statement (.rendezvousTimeout a b c) := ⟨noCore rfl, noPort rfl⟩
theorem handlerEntry (a) : Statement (.handlerEntry a) := ⟨noCore rfl, noPort rfl⟩
theorem runtimeResume (a b) : Statement (.runtimeResume a b) := ⟨noCore rfl, noPort rfl⟩
theorem runtimeKill (a b) : Statement (.runtimeKill a b) := ⟨noCore rfl, noPort rfl⟩
theorem blockKill (a b) : Statement (.blockKill a b) := ⟨noCore rfl, noPort rfl⟩
theorem watchdogTimeout (a b) : Statement (.watchdogTimeout a b) := ⟨noCore rfl, noPort rfl⟩
theorem preemptContext (a) : Statement (.preemptContext a) := ⟨noCore rfl, noPort rfl⟩
theorem preemptionComplete (a) : Statement (.preemptionComplete a) := ⟨noCore rfl, noPort rfl⟩
theorem contextResume (a) : Statement (.contextResume a) := ⟨noCore rfl, noPort rfl⟩
theorem blockRetire (a) : Statement (.blockRetire a) := ⟨noCore rfl, noPort rfl⟩
theorem doorbellWrite (a b c) : Statement (.doorbellWrite a b c) := ⟨noCore rfl, noPort rfl⟩
theorem launchAccept (a b) : Statement (.launchAccept a b) := ⟨noCore rfl, noPort rfl⟩
theorem batchForm : Statement .batchForm := ⟨noCore rfl, noPort rfl⟩
theorem resourceAdvertise (a) : Statement (.resourceAdvertise a) := ⟨noCore rfl, noPort rfl⟩
theorem blockPlace (a) : Statement (.blockPlace a) := ⟨noCore rfl, noPort rfl⟩
theorem launchComplete (a) : Statement (.launchComplete a) := ⟨noCore rfl, noPort rfl⟩
theorem aallocStallFail (a) : Statement (.aallocStallFail a) := ⟨noCore rfl, noPort rfl⟩
theorem pageWalk (a b) : Statement (.pageWalk a b) := ⟨noCore rfl, noPort rfl⟩
theorem homeSliceAccess (a b) : Statement (.homeSliceAccess a b) := ⟨noCore rfl, noPort rfl⟩
theorem directoryInvalidate (a b) : Statement (.directoryInvalidate a b) := ⟨noCore rfl, noPort rfl⟩
theorem storeAck (a) : Statement (.storeAck a) := ⟨noCore rfl, noPort rfl⟩
theorem loadReturn (a) : Statement (.loadReturn a) := ⟨noCore rfl, noPort rfl⟩
theorem replicaCommit (a) : Statement (.replicaCommit a) := ⟨noCore rfl, noPort rfl⟩
theorem replicaUpdate (a) : Statement (.replicaUpdate a) := ⟨noCore rfl, noPort rfl⟩
theorem ackLostTimeout (a) : Statement (.ackLostTimeout a) := ⟨noCore rfl, noPort rfl⟩
theorem lineThaw (a) : Statement (.lineThaw a) := ⟨noCore rfl, noPort rfl⟩
theorem replicaLockTimeout (a) : Statement (.replicaLockTimeout a) := ⟨noCore rfl, noPort rfl⟩
theorem stackCacheSpill (a b c) : Statement (.stackCacheSpill a b c) := ⟨noCore rfl, noPort rfl⟩
theorem copyComplete (a b) : Statement (.copyComplete a b) := ⟨noCore rfl, noPort rfl⟩
theorem chainComplete (a b) : Statement (.chainComplete a b) := ⟨noCore rfl, noPort rfl⟩
theorem matrixStepComplete (a) : Statement (.matrixStepComplete a) := ⟨noCore rfl, noPort rfl⟩
theorem coopTimeout (a) : Statement (.coopTimeout a) := ⟨noCore rfl, noPort rfl⟩
theorem nmAgentExecute (a) : Statement (.nmAgentExecute a) := ⟨noCore rfl, noPort rfl⟩
theorem overlayLoadComplete (a b) : Statement (.overlayLoadComplete a b) := ⟨noCore rfl, noPort rfl⟩
theorem frctlWrite (a b) : Statement (.frctlWrite a b) := ⟨noCore rfl, noPort rfl⟩
theorem frctlErrClear (a) : Statement (.frctlErrClear a) := ⟨noCore rfl, noPort rfl⟩
theorem moncfgWrite (a b) : Statement (.moncfgWrite a b) := ⟨noCore rfl, noPort rfl⟩
theorem monitorClear (a) : Statement (.monitorClear a) := ⟨noCore rfl, noPort rfl⟩
theorem monitorLevelSample (a) : Statement (.monitorLevelSample a) := ⟨noCore rfl, noPort rfl⟩
theorem registerWrite (a b) : Statement (.registerWrite a b) := ⟨noCore rfl, noPort rfl⟩
theorem contextRecordWrite (a b) : Statement (.contextRecordWrite a b) := ⟨noCore rfl, noPort rfl⟩
theorem powerControlInterval (a) : Statement (.powerControlInterval a) := ⟨noCore rfl, noPort rfl⟩
theorem shapingWindowBoundary : Statement .shapingWindowBoundary := ⟨noCore rfl, noPort rfl⟩
theorem dwriteSend (a) : Statement (.dwriteSend a) := ⟨noCore rfl, noPort rfl⟩
theorem dwriteAccept (a) : Statement (.dwriteAccept a) := ⟨noCore rfl, noPort rfl⟩
theorem snapshotRead (a) : Statement (.snapshotRead a) := ⟨noCore rfl, noPort rfl⟩
theorem snapshotResponse (a) : Statement (.snapshotResponse a) := ⟨noCore rfl, noPort rfl⟩
theorem packageArrive (a) : Statement (.packageArrive a) := ⟨noCore rfl, noPort rfl⟩
theorem activityReport (a b) : Statement (.activityReport a b) := ⟨noCore rfl, noPort rfl⟩
theorem quenchArrivalReport (a b c d) : Statement (.quenchArrivalReport a b c d) := ⟨noCore rfl, noPort rfl⟩
theorem quenchApply (a b) : Statement (.quenchApply a b) := ⟨noCore rfl, noPort rfl⟩
theorem quenchDone (a b c) : Statement (.quenchDone a b c) := ⟨noCore rfl, noPort rfl⟩
theorem quenchRelease (a) : Statement (.quenchRelease a) := ⟨noCore rfl, noPort rfl⟩
theorem quenchSkewTimeout (a) : Statement (.quenchSkewTimeout a) := ⟨noCore rfl, noPort rfl⟩
theorem readmissionRequest (a b) : Statement (.readmissionRequest a b) := ⟨noCore rfl, noPort rfl⟩
theorem windowFreeze (a) : Statement (.windowFreeze a) := ⟨noCore rfl, noPort rfl⟩
theorem windowThaw (a) : Statement (.windowThaw a) := ⟨noCore rfl, noPort rfl⟩
theorem programBind (a) : Statement (.programBind a) := ⟨noCore rfl, noPort rfl⟩
theorem programUnbind (a b) : Statement (.programUnbind a b) := ⟨noCore rfl, noPort rfl⟩
theorem packetReceive (a) : Statement (.packetReceive a) := ⟨noCore rfl, noPort rfl⟩
theorem grantReceive (a) : Statement (.grantReceive a) := ⟨noCore rfl, noPort rfl⟩
theorem nackReceive (a) : Statement (.nackReceive a) := ⟨noCore rfl, noPort rfl⟩
theorem rowAck (a b c d e) : Statement (.rowAck a b c d e) := ⟨noCore rfl, noPort rfl⟩
theorem roundComplete (a b) : Statement (.roundComplete a b) := ⟨noCore rfl, noPort rfl⟩
theorem collectiveTimeout (a b) : Statement (.collectiveTimeout a b) := ⟨noCore rfl, noPort rfl⟩
theorem packageReset (a) : Statement (.packageReset a) := ⟨noCore rfl, noPort rfl⟩
theorem contextReset (a) : Statement (.contextReset a) := ⟨noCore rfl, noPort rfl⟩
theorem hearthDieReset (a) : Statement (.hearthDieReset a) := ⟨noCore rfl, noPort rfl⟩
theorem dieRejoin (a) : Statement (.dieRejoin a) := ⟨noCore rfl, noPort rfl⟩
theorem dieFailTimeout (a) : Statement (.dieFailTimeout a) := ⟨noCore rfl, noPort rfl⟩
theorem portEnable (a) : Statement (.portEnable a) := ⟨noCore rfl, noPort rfl⟩
theorem trainingComplete (a) : Statement (.trainingComplete a) := ⟨noCore rfl, noPort rfl⟩
theorem trainingTimeout (a) : Statement (.trainingTimeout a) := ⟨noCore rfl, noPort rfl⟩
theorem joinExchange (a b) : Statement (.joinExchange a b) := ⟨noCore rfl, noPort rfl⟩
theorem attestationReport (a b) : Statement (.attestationReport a b) := ⟨noCore rfl, noPort rfl⟩
theorem linkLoss (a) : Statement (.linkLoss a) := ⟨noCore rfl, noPort rfl⟩
theorem portClear (a) : Statement (.portClear a) := ⟨noCore rfl, noPort rfl⟩
theorem frameReceive (a b) : Statement (.frameReceive a b) := ⟨noCore rfl, noPort rfl⟩
theorem noPathTimeout (a) : Statement (.noPathTimeout a) := ⟨noCore rfl, noPort rfl⟩
theorem keyRefresh (a) : Statement (.keyRefresh a) := ⟨noCore rfl, noPort rfl⟩
theorem keyStarved (a) : Statement (.keyStarved a) := ⟨noCore rfl, noPort rfl⟩
theorem heatDomainForm (a b) : Statement (.heatDomainForm a b) := ⟨noCore rfl, noPort rfl⟩
theorem tlbinvRemovalComplete (a) : Statement (.tlbinvRemovalComplete a) := ⟨noCore rfl, noPort rfl⟩

end Sys2Proof.Laws.Encoded
end

