-- ==== Sys2Proof/Tests/Slice0.lean ====
section
/-! SUPPORT. Tests: words written out from the spec's encodings, ill-formed terms, single steps whose results the spec's
rules give, and, for each statement that has hypotheses, a state and operands that meet them. -/

set_option maxRecDepth 20000
set_option Elab.async false

namespace Sys2Proof.Tests

open Sys2Proof Sys2Proof.Machine Sys2Proof.Safety Sys2Proof.Claims


/-! ## Words of each class, written out from the tables of 09 to 14 -/

/-- The operands of an arithmetic word. -/
def alu (ty : ElemTy) (d a b c : Reg) (imm : BitVec 15) : Alu := ⟨ty, .rne, false, d, a, b, c, imm⟩

/-- A word of 64 bits decodes, and encodes back. -/
def reads (w : Nat) (i : Instr) : Bool := decodeTableWord 64 w == some i && encode i == some [BitVec.ofNat 64 w]

theorem test_decode_integer : reads 0x06180840A0800002 (.setp ⟨3, false⟩ (alu .i32 1 4 5 2 2)) = true := by decide
theorem test_decode_float : reads 0x1038181040100000 (.fadd always (alu .f32 3 1 2 0 0)) = true := by decide
theorem test_decode_convert :
    reads 0x2038307000018004 (.cvt always { alu .i32 6 7 0 0 4 with rnd := .rtz, sat := true }) = true := by decide
theorem test_decode_branch : reads 0x3038000000000003 (.bra always 3) = true := by decide
theorem test_decode_lanes : reads 0x41B83840A0800004 (.shflXor always ⟨7, 4, 5, 2⟩ 4) = true := by decide
theorem test_decode_load :
    reads 0x503829E0E090FFFF (.ld always ⟨.a, .b8, 5, 30, 7, false, false, .blk, true, 0xFFFF⟩) = true := by decide
theorem test_decode_store :
    reads 0x601048E2102A0000 (.st ⟨2, false⟩ ⟨.win, .b32, 9, 14, 16, true, false, .blk, false, 0⟩) = true := by decide
theorem test_decode_atomic :
    reads 0x7238D18FF0020004 (.redAdd always ⟨.glob, .b32, 26, 24, 127, true, false, .blk, false, 4⟩) = true := by decide
theorem test_decode_barrier : reads 0x80B8580000000002 (.barArr always 11 2) = true := by decide
theorem test_decode_copy : reads 0x903B99400000071A (.cpy always ⟨0x73, .pkg, true, 1, true, 2⟩ 20) = true := by decide
theorem test_decode_matrix : reads 0xA1780142A5800000 (.mma always 20 21 22) = true := by decide
theorem test_decode_handle : reads 0xB038000000000002 (.hwait always 2) = true := by decide
theorem test_decode_overlay : reads 0xC03B908000000000 (.ovld always 2 8) = true := by decide
theorem test_decode_system : reads 0xD1F8014000000000 (.frsave always 0x14) = true := by decide
/-- The words of the port program of 14_anvil_port_programs.md. -/
theorem test_decode_port :
    [decodeTableWord 32 0x11158000, decodeTableWord 32 0x14158000, decodeTableWord 32 0x21200001,
     decodeTableWord 32 0x2A6AC000, decodeTableWord 32 0x3C0C000C, decodeTableWord 32 0x41C00100,
     decodeTableWord 32 0x50100000, decodeTableWord 32 0x54114000] =
    [.mcfComb 4 5 6 0, .mcfWait 5 6, .mcfEmit 4 8 true, .mcfGrant 9 10 11, .mcfJnz 3 12, .mcfSet 7 0x100, .mcfOrder 4,
     .mcfDrain 0 4 5].map some := by decide

/-! Words that R193, R407 and R343 refuse: a class without instructions, a header, an operation that is not assigned, a type
that is reserved, a field that the row does not use, a bit that is reserved. -/

theorem test_refuses_class : decode 0xE038000000000000 0 0 = .error .reservedOp := by decide
theorem test_refuses_header : decode 0xF038000000000000 0 0 = .error .header := by decide
theorem test_refuses_type : decode 0x0038081040180000 0 0 = .error .reservedCode := by decide
theorem test_refuses_field : decode 0x0038081040400000 0 0 = .error .illegalUse := by decide
theorem test_refuses_bit : decode 0x3238000000000001 0 0 = .error .reservedBits := by decide
theorem test_refuses_short : decodeWords [0x3078000000000000] = .error .truncated := by decide
theorem test_refuses_port : decodePort 0x60000000 = .error .reservedOp := by decide

/-! ## Ill-formed instructions, one for each check of R407 -/

/-- None of the instructions is well formed. -/
def refuses (l : List Instr) : Bool := l.all fun i => !legal i

/-- An access of the global space. -/
def mem (size : Size) (d a : Reg) : Mem := ⟨.glob, size, d, a, 127, false, false, .blk, false, 0⟩

theorem test_ill_types : refuses [
    .add always (alu .f32 1 2 3 0 0), .mulhi always (alu .i8x4 1 2 3 0 0), .abs always (alu .n32 1 2 0 0 0),
    .mov always (alu .n32 1 2 0 0 0), .lea always (alu .i64 2 4 6 0 0), .fadd always (alu .i32 1 2 3 0 0),
    .fsetp always (alu .bf16x2 1 2 3 2 0), .fclass always (alu .bf16x2 1 2 0 0 0), .pkBf16 always (alu .bf16 1 2 3 0 0),
    .upkBf16 always (alu .f32 2 1 0 0 0), .pkF8 always (alu .f32 1 4 0 0 0), .npiEnc always (alu .i32 8 16 0 0 0),
    .bscale always (alu .f32 1 2 0 0 0), .bdot always (alu .i32 1 8 16 0 0),
    .lredAdd always ⟨.i64, .rne, 1, 2, 3⟩] = true := by decide
theorem test_ill_registers : refuses [
    .add always (alu .i32 112 2 3 0 0), .add always (alu .i64 3 2 4 0 0), .add always (alu .i64 2 3 4 0 0),
    .madw always (alu .i32 1 2 3 4 0), .popc always (alu .i32 112 2 0 0 0), .setp always (alu .i32 8 2 3 1 0),
    .sel always (alu .i32 1 2 3 8 0), .pkF8 always (alu .f8e4x4 1 2 0 0 0), .upkF8 always (alu .f8e4x4 2 1 0 0 0),
    .npiDec always (alu .i8x4 4 8 0 0 4), .movs always 112 0, .shflUp always ⟨112, 1, 2, 0⟩ 1,
    .barArr always 112 0, .heatArr always 1, .heatWait always 0 1, .hget always 1 0, .mseq always 112 false,
    .ovq always 112 1, .rdsr always 112 0, .rdsr always 1 0x11, .frsave always 1] = true := by decide
theorem test_ill_unused : refuses [
    .add always (alu .i32 1 2 3 1 0), .add always (alu .i32 1 2 3 0 1), .not always (alu .i32 1 2 1 0 0),
    .add always { alu .i32 1 2 3 0 0 with rnd := .rtz }, .add always { alu .i32 1 2 3 0 0 with sat := true },
    .fmin always { alu .f32 1 2 3 0 0 with rnd := .rtz }, .movi always ⟨1, 2, 0, 0⟩, .movi always ⟨1, 0, 2, 0⟩,
    .addi always ⟨2, 3, 1, 0⟩, .setpi always ⟨1, 2, 6, 0⟩, .setp always (alu .i32 1 2 3 2 6),
    .bfx always (alu .i32 1 2 0 0 0x7DF), .lea always (alu .i32 2 4 6 0 5), .cvt always (alu .i32 1 2 0 0 6),
    .cvt always { alu .i32 1 2 0 0 1 with rnd := .rtz }, .bdot always (alu .f8e4x4 1 8 16 0 4),
    .npiDec always (alu .i8x4 8 16 0 0 1)] = true := by decide
theorem test_ill_memory : refuses [
    .ld always (mem .b64 1 2), .ld always (mem .b128 2 2), .ld always (mem .b32 1 3), .ld always (mem .b32 112 2),
    .ld always { mem .b32 1 2 with sx := true }, .ldNc always { mem .b32 1 2 with space := .w },
    .ld always { mem .b32 1 0 with space := .win }, .ld always { mem .b32 1 2 with space := .stack },
    .push always (mem .b32 1 2), .pop always { mem .b32 1 0 with space := .stack, imm := 4 }, .pf always (mem .b32 1 2),
    .st always { mem .b8 1 2 with sx := true }, .atomAdd always (mem .b16 1 2), .atomCas always (mem .b32 1 2),
    .atomAdd always { mem .b32 1 2 with space := .win, b := 0 }, .redAdd always { mem .b64 2 2 with space := .win, b := 0 },
    .nmcas always (mem .b64 112 2), .nmenq always (mem .b64 111 2), .nmcas always (mem .b128 112 102)] = true := by decide
theorem test_ill_engines : refuses [
    .cpy always ⟨5, .blk, false, 0, false, 0⟩ 2, .cpy always ⟨0, .blk, false, 1, false, 0⟩ 2,
    .cpy always ⟨0, .blk, false, 0, false, 1⟩ 2, .cpy always ⟨0, .blk, false, 0, false, 0⟩ 3,
    .tbind always 3 1 0 false false, .tbind always 110 1 0 false false, .tbind always 2 1 2 false false,
    .tbind always 2 1 3 true false, .tlbinv always 2 3, .wrsr always 2 0x03, .wrsr always 1 0x12, .rdsr always 2 0x0E,
    .mcfMatch 13 1, .mcfFwd 0 1 13 false, .mcfEmit 0 1 false, .mcfComb 0 1 2 8] = true := by decide
/-- A link after an end link, and a link of an operation that does not exist. -/
theorem test_ill_chain : refuses [
    .chain always ⟨⟨0, .blk, false, 0, false, 0⟩, 2, 4, 6, false, false, .f32, .f32, 0x0000040000000000, 0⟩,
    .chain always ⟨⟨0, .blk, false, 0, false, 0⟩, 2, 4, 6, false, false, .f32, .f32, 0x4800, 0⟩] = true := by decide


/-! ## Scenes: one thread that stands at one word -/

/-- A block, one of its threads, and the state in which that thread holds the issue slot. -/
structure Scene where
  s : State
  b : Block
  w : Who
  t : Thread
  pc : Onward

/-- The overlay of a scene: a basic block of four words at 0x10 with XL and LIVE 110, then the header of a block of one word. -/
def image : OvlCopy :=
  { placedCopy 6 4 0 with words := [1, 16, 0xF04DC00000000002] ++ List.replicate 4 0x3238000000000000 ++
      [0xF01DC00000000002, 0x3238000000000000] }

/-- Page 0 maps to 0x40000, page 1, a HEAT page, to 0x50000. -/
def pages : List TlbEnt := [⟨0, 0, 0x40007, false⟩, ⟨0, 1, 0x58007, false⟩]

/-- A core that holds that overlay and the translations of two pages. -/
def homeCore : Core := { Core.reset with copies := [image], tlb := pages }

/-- The page table of context 0, root at 0x10000, with those two pages. -/
def table : List Host.Cell :=
  [(0x10000, 1), (0x10002, 2), (0x20000, 1), (0x20002, 3), (0x30000, 7), (0x30002, 4), (0x30008, 7), (0x30009, 0x80),
   (0x3000A, 5)]

/-- A window onto package 5 that takes reads and writes. -/
def window : Window :=
  { base := 0x20000, limit := 0x20100, key := 3, stamp := 0, budget := 0, peer := 5, pctx := 1, kind := 3, rule := 0,
    frz := false, resv := false }

/-- Context 0: a page table, a window, overlay 1, and overlay 2, which no core holds and which is not AUTO. -/
def homeCtx : Context :=
  { Context.reset 0 with ptroot := 0x10000, winN := some 4, windows := [(0, window)], ovlBase := some 0,
                         overlays := [(1, ⟨0, 1, true, false, false, []⟩), (2, ⟨0, 1, false, false, false, []⟩)] }

/-- The state around a block. -/
def around (b : Block) (x : Issue) : State :=
  { State.reset with boot := .done, nextId := 9, cur := some x, blocks := [b], cores := vset State.reset.cores 0 homeCore,
                     ctxs := vset State.reset.ctxs 0 homeCtx, mem := table }

/-- A thread at the first word of the scene's basic block. -/
def stander : Thread :=
  { Thread.fresh 0 with pc := 0x01000018, hdr := 0x01000010, stklim := 0x1000, regs := vset (Vector.replicate 112 0) 111 0x1010 }

/-- A block of the scene: 112 registers, four barrier objects, four tiles. -/
def home : Block :=
  { placedBlock 7 with lr := { LaunchRec.zero with nbar := 4, ntile := 4, bdim := 32, ovl := 1, hovl := 1, isq := 4, stk := 16 },
                       bars := List.replicate 4 { err := false, ph := false, exp := 2, arr := 0, tx := 0 },
                       tiles := List.replicate 4 Tile.unbound }

/-- The control thread of a block issues. -/
def ctl (fb : Block → Block := id) (ft : Thread → Thread := id) (fs : State → State := id) : Scene :=
  let t := ft stander
  let b := fb { home with ctl := some t }
  { s := fs (around b (.control 7)), b := b, w := .ctl, t := t, pc := .within 0x01000020 }

/-- The one vector thread of a block issues. -/
def vec (fb : Block → Block := id) (ft : Thread → Thread := id) (fs : State → State := id) : Scene :=
  let t := ft stander
  let b := fb { home with ctl := none, threads := [t] }
  { s := fs (around b (.bundle 7 [0])), b := b, w := .vec 0, t := t, pc := .within 0x01000020 }

/-- The scene's block is in its state, and its thread in its block. -/
def Scene.Stood (x : Scene) : Prop := x.s.block x.b.id = some x.b ∧ x.b.thread x.w = some x.t

/-- Whether the thread of a scene that stands there issues an instruction with a guard. -/
def Scene.issues (x : Scene) (i : Instr) (g : Guard) : Bool :=
  x.s.cur == some (holder x.b.id x.w) && x.s.wordFault x.b x.w x.t i == none && threadFault x.w x.t i == none &&
    x.s.lacks x.b x.w i == [] && x.t.pendings i == none && x.t.lost i == false && x.t.guardLost g == false &&
    x.t.guard g == true

/-- Whether it also passes on, inside its basic block or before the next header. -/
def Scene.passes (x : Scene) (i : Instr) : Bool :=
  x.s.onward x.b.core x.b.ctx x.t.hdr x.t.pc (wordsOf i) == x.pc &&
    (match x.pc with | .astray _ => false | .within _ => true | .header _ => true)

theorem Scene.met {x : Scene} {i : Instr} {g : Guard} (h : x.issues i g = true)
    (hs : x.Stood := by exact ⟨rfl, rfl⟩) : Issues x.s x.b x.w x.t i g := by
  unfold Scene.issues at h
  simp only [Bool.and_eq_true, beq_iff_eq] at h
  obtain ⟨⟨⟨⟨⟨⟨⟨h1, h2⟩, h3⟩, h4⟩, h5⟩, h6⟩, h7⟩, h8⟩ := h
  exact ⟨h1, hs.1, hs.2, h2, h3, h4, h5, h6, h7, h8⟩

theorem Scene.inside {x : Scene} {i : Instr} (h : x.passes i = true) : Inside x.s x.b x.t i x.pc := by
  unfold Scene.passes at h
  rw [Bool.and_eq_true, beq_iff_eq] at h
  refine ⟨h.1, fun a e => ?_⟩
  rw [e] at h
  exact Bool.noConfusion h.2

/-! ## The hypotheses of the statements are met

Each theorem takes a statement and draws its conclusion at named states: what its proof supplies is that the hypotheses hold
there, clause by clause. -/

/-- The instruction ends in a next state. -/
def Runs (i : Instr) (s : State) : Prop := ∃ t, exec i s = .next t

theorem go {i : Instr} {g : Guard} {f : Thread → Thread} (h : Completes i g f) (x : Scene)
    (hx : (x.issues i g && x.passes i) = true)
    (hs : x.Stood := by exact ⟨rfl, rfl⟩) : Runs i x.s := by
  rw [Bool.and_eq_true] at hx
  exact ⟨_, h _ _ _ _ _ (x.met hx.1 hs) (x.inside hx.2)⟩

theorem goLog {i : Instr} {g : Guard} {f : Thread → Thread} {l : Thread → List (Cause × Nat)}
    (h : CompletesLogging i g f l) (x : Scene) (hx : (x.issues i g && x.passes i) = true)
    (hs : x.Stood := by exact ⟨rfl, rfl⟩) : Runs i x.s := by
  rw [Bool.and_eq_true] at hx
  exact ⟨_, h _ _ _ _ _ (x.met hx.1 hs) (x.inside hx.2)⟩

theorem goWhen {i : Instr} {g : Guard} {pre : State → Block → Who → Thread → Prop}
    {f : State → Block → Who → Thread → State} (h : CompletesWhen i g pre f) (x : Scene)
    (hx : (x.issues i g && x.passes i) = true) (hp : pre x.s x.b x.w x.t)
    (hs : x.Stood := by exact ⟨rfl, rfl⟩) : Runs i x.s := by
  rw [Bool.and_eq_true] at hx
  exact ⟨_, h _ _ _ _ _ (x.met hx.1 hs) (x.inside hx.2) hp⟩

theorem goAlone {i : Instr} {g : Guard} {m : Reg} {f : Who → Thread → Thread} (h : MeetsAlone i g m f) (x : Scene)
    (hx : (x.issues i g && x.passes i) = true) (hp : LoneLane x.s x.b x.w x.t m)
    (hs : x.Stood := by exact ⟨rfl, rfl⟩) : Runs i x.s := by
  rw [Bool.and_eq_true] at hx
  exact ⟨_, h.1 _ _ _ _ _ (x.met hx.1 hs) (x.inside hx.2) hp⟩

theorem goAbsent {i : Instr} {g : Guard} {m : Reg} {f : Who → Thread → Thread} (h : MeetsAlone i g m f) (x : Scene)
    (hs : Stands x.s x.b x.w x.t i) (hl : x.t.guardLost g = false) (hg : x.t.guard g = false) (hx : x.passes i = true)
    (hp : ∀ c ∈ x.s.blocks, c.id = x.b.id → c.rdvs = []) : Runs i x.s :=
  ⟨_, h.2 _ _ _ _ _ hs hl hg (x.inside hx) hp⟩

theorem goRaises {i : Instr} {s : State} {b : Block} {w : Who} {t : Thread} {c : Cause} {a : Option DWord} {d : Nat}
    (h : Raises s b w t i c a d) : Runs i s := ⟨_, h⟩

theorem goWaits {i : Instr} {s : State} {b : Block} {w : Who} {t : Thread} {x : Wait} (h : Waits s b w t i x) : Runs i s :=
  ⟨_, h⟩

/-- Words of `add`, whose guard may be q3. -/
def sum : Alu := alu .i32 1 2 3 0 0

/-- A load of g2 that the thread of block 7 has issued and that has not returned. -/
def loadDue (w : Who) : Req :=
  { id := 3, core := 0, blk := 7, who := w, ctx := 0, issue := 2, pc := 0, hdr := 0, word := 0, va := 0x1000, pa := 0x1000,
    pte := 0, kind := .load 2 4 false false false, st := .issued, value := none, bad := none, since := 0, returned := false,
    nt := false, fences := [] }

/-- A scene whose thread has issued that load. -/
def due : Scene := ctl id id fun s => { s with reqs := [loadDue .ctl] }
/-- A scene whose handle h0 is pending. -/
def pending : Scene := ctl id fun t => t.setH 0 ⟨true, 5, 0, 0⟩
/-- A scene whose register g2 was lost. -/
def lost : Scene := ctl id fun t => { t with badRegs := [2] }
/-- A scene whose predicate q3 was lost. -/
def lostPred : Scene := ctl id fun t => { t with badPreds := [3] }
/-- A scene whose thread stands at the last word of its basic block, before the next header. -/
def last : Scene := { ctl id fun t => { t with pc := 0x01000030 } with pc := .header 0x01000038 }
/-- A scene of a vector thread with four registers, g0 and g1 its own. -/
def narrow : Scene := vec fun b => { b with lr := { b.lr with greg := 4 } }

theorem plain {i : Instr} {g : Guard} {f : Fields} (h : encodeFields i = some f) (hg : guardOf f = g)
    (hc : isCrossLane i = false) : Plain i g := ⟨⟨f, h, hg⟩, hc⟩

theorem witness_IssueChecks (h : Obligations.IssueChecks) :
    Runs (.add ⟨3, false⟩ sum) ctl.s ∧ Runs (.exit ⟨3, false⟩) last.s ∧ Runs (.add always sum) due.s ∧
    Runs (.mov always (alu .i32 1 112 0 0 0)) pending.s ∧ Runs (.add always sum) lost.s ∧
    Runs (.add ⟨3, false⟩ sum) lostPred.s ∧ Runs (.eret always) last.s ∧ Runs (.mzero always 2) vec.s ∧
    Runs (.add always sum) narrow.s ∧ Runs (.exit always) vec.s ∧ Runs (.exit always) ctl.s := by
  obtain ⟨h1, ⟨h2, h3⟩, -, -, h4⟩ := h
  refine ⟨⟨_, h1 _ _ _ ctl.b ctl.w ctl.t ctl.pc (plain rfl rfl rfl) ?_ ?_ ?_ ?_ (ctl.inside ?_)⟩,
    ⟨_, h1 _ _ _ last.b last.w last.t last.pc (plain rfl rfl rfl) ?_ ?_ ?_ ?_ (last.inside ?_)⟩,
    ⟨_, (h2 _ _ _ due.b due.w due.t (plain rfl rfl rfl) ?_ ?_ ?_).1 ?_ [2] ?_ ?_⟩,
    ⟨_, (((h2 _ _ _ pending.b pending.w pending.t (plain rfl rfl rfl) ?_ ?_ ?_).2 ?_).2 ?_ ?_).1
      ⟨0, ?_, ?_, ?_⟩ |>.choose_spec.2⟩,
    ⟨_, (((h2 _ _ _ lost.b lost.w lost.t (plain rfl rfl rfl) ?_ ?_ ?_).2 ?_).2 ?_ ?_).2 ?_ (.inl ⟨2, ?_, ?_⟩)⟩,
    ⟨_, ((h2 _ _ _ lostPred.b lostPred.w lostPred.t (plain rfl rfl rfl) ?_ ?_ ?_).2 ?_).1 ?_⟩,
    ⟨_, (h3 _ _ _ last.b last.w last.t (plain rfl rfl rfl) ?_ ?_ ?_).1 ⟨always, .inl rfl⟩ ?_⟩,
    ⟨_, (h3 _ _ _ vec.b vec.w vec.t (plain rfl rfl rfl) ?_ ?_ ?_).2 ⟨always, ?_⟩ ?_⟩,
    ⟨_, h4 _ narrow.b (.vec 0) [] narrow.t _ always 0x01 ⟨_, rfl, rfl⟩ ?_ (fun e => absurd e (by decide))
      (.inl ⟨[0], rfl, rfl⟩) rfl rfl ?_⟩,
    ⟨_, h4 _ vec.b (.vec 0) [] vec.t _ always 0x03 ⟨_, rfl, rfl⟩ ?_ (fun e => absurd e (by decide))
      (.inl ⟨[0], rfl, rfl⟩) rfl rfl ?_⟩,
    ⟨_, h4 _ ctl.b .ctl [] ctl.t _ always 0x03 ⟨_, rfl, rfl⟩ ?_ (fun e => absurd e (by decide))
      (.inr ⟨rfl, rfl⟩) rfl rfl ?_⟩⟩
  all_goals first | decide | (unfold NoneWaiting; decide) | (unfold Stands; decide) | skip
  exact .inr (.inr (.inr (.inl ⟨_, rfl⟩)))

/-- A park of the vector thread with a cause. -/
def parkOf (w : Who) : Parked := { who := w, cause := 0x21, pc := 0x01000018, word := 0 }

/-- A block with a control thread and a vector thread, which issues. -/
def both : Scene := vec fun b => { b with ctl := some stander }
/-- The same, with a park area at 0x8000. -/
def parksAt : Scene := vec (fun b => { b with ctl := some stander }) id fun s => s.modCtx 0 fun c => { c with parkbase := 0x8000 }

/-- A write that is not refused gives a state. -/
theorem wrote {ε α : Type} {x : Except ε α} (h : x.isOk = true) : ∃ z, x = .ok z := by
  cases x with
  | ok z => exact ⟨z, rfl⟩
  | error e => exact Bool.noConfusion h

theorem witness_ParksAndRecords (h : Obligations.ParksAndRecords) :
    (∃ t, parksAt.s.parkGroup 7 [parkOf (.vec 0)] = t) ∧ (∃ t, both.s.parkGroup 7 [parkOf (.vec 0)] = t) ∧
    (∃ t, ctl.s.parkGroup 7 [parkOf .ctl] = t) ∧ (∃ t, ((both.s.parkGroup 7 [parkOf (.vec 0)]).ctx 0).pseq = t) ∧
    (∃ t, ctl.s.logRecord 0 0x43 0 1 0 0 0 = t) := by
  obtain ⟨⟨-, h1, h3, -, -⟩, -, h2⟩ := h
  refine ⟨⟨_, (h1 parksAt.s parksAt.b parksAt.t (parkOf (.vec 0)) ?_ ?_ ?_ ?_).1 _ ?_ ?_ (wrote ?_).choose_spec⟩,
    ⟨_, (h1 both.s both.b both.t (parkOf (.vec 0)) ?_ ?_ ?_ ?_).2.1 ?_ ?_⟩,
    ⟨_, (h1 ctl.s ctl.b ctl.t (parkOf .ctl) ?_ ?_ ?_ ?_).2.2 ?_ ?_⟩,
    ⟨_, h3 both.s both.b (parkOf (.vec 0)) [] ?_ ?_ ?_⟩, ⟨_, (h2 ctl.s 0 0x43 0 1 0 0 0 ?_).1 ?_⟩⟩
  all_goals decide

/-- Everything an arithmetic row needs is a thread that issues. -/
theorem witness_IntegerRows (h : Obligations.IntegerRows) :
    Runs (.add always sum) ctl.s ∧ Runs (.madw always (alu .i32 2 4 5 6 0)) ctl.s ∧ Runs (.sadd always sum) vec.s ∧
    Runs (.abs always { alu .i8x4 1 2 0 0 0 with sat := true }) ctl.s ∧ Runs (.neg always (alu .i64 2 4 0 0 0)) ctl.s ∧
    Runs (.div always sum) ctl.s := by
  obtain ⟨h1, h2, h3⟩ := h
  refine ⟨go (h1 _ _).1 ctl ?_, go (h1 _ _).2.2.2.2.2.2.2 ctl ?_, goLog (h2 _ _).1 vec ?_,
    goLog ((h2 _ _).2.2.1 rfl).1 ctl ?_, go ((h2 _ _).2.2.2 rfl).2 ctl ?_, goLog (h3 _ _).1 ctl ?_⟩
  all_goals decide

theorem witness_BitRowsMoveBits (h : Obligations.BitRowsMoveBits) :
    Runs (.and always sum) ctl.s ∧ Runs (.shl always sum) ctl.s ∧ Runs (.sar always (alu .i64 2 4 6 0 0)) ctl.s ∧
    Runs (.bfx always (alu .i32 1 2 0 0 0x7C0)) ctl.s ∧ Runs (.bfi always (alu .n64 2 4 6 0 0xFC0)) ctl.s ∧
    Runs (.popc always (alu .i32 1 2 0 0 0)) ctl.s ∧ Runs (.clz always (alu .n64 1 2 0 0 0)) ctl.s := by
  have h1 := h always sum
  have h2 := h always (alu .i64 2 4 6 0 0)
  have h3 := h always (alu .i32 1 2 0 0 0x7C0)
  have h4 := h always (alu .n64 2 4 6 0 0xFC0)
  have h5 := h always (alu .i32 1 2 0 0 0)
  have h6 := h always (alu .n64 1 2 0 0 0)
  refine ⟨go (h1.1 ?_).choose_spec.2 ctl ?_, go (h1.2.2.2.2.1 ?_).choose_spec.2 ctl ?_,
    go (h2.2.2.2.2.2.2.1 ?_).choose_spec.2 ctl ?_, go (h3.2.2.2.2.2.2.2.2.2.1 ?_).choose_spec.2 ctl ?_,
    go (h4.2.2.2.2.2.2.2.2.2.2.1 ?_).choose_spec.2 ctl ?_, go (h5.2.2.2.2.2.2.2.2.2.2.2.1 ?_) ctl ?_,
    go (h6.2.2.2.2.2.2.2.2.2.2.2.2 ?_).choose_spec.2 ctl ?_⟩
  all_goals decide

theorem witness_MovesPredicatesUniforms (h : Obligations.MovesPredicatesUniforms) :
    Runs (.sel always (alu .i32 1 2 3 4 0)) ctl.s ∧ Runs (.setp always (alu .i64 1 2 4 1 5)) ctl.s ∧
    Runs (.addi always ⟨2, 4, 1, 7⟩) ctl.s ∧ Runs (.movhi always ⟨2, 0, 0, 7⟩) ctl.s ∧ Runs (.setpi always ⟨1, 2, 13, 7⟩) ctl.s ∧
    Runs (.pand always ⟨7, 1, 2, true⟩) ctl.s ∧ Runs (.movs always 3 63) vec.s ∧ Runs (.wrs always 3 63) vec.s := by
  obtain ⟨⟨h1, h2⟩, ⟨h3, -⟩, h4, h5⟩ := h
  refine ⟨go (h1 _ _).1 ctl ?_, go ((h1 _ _).2.2.2 ?_) ctl ?_, go ((h2 _ _).1 ?_) ctl ?_, go ((h2 _ _).2.2.2.2.2.1 ?_) ctl ?_,
    go ((h2 _ _).2.2.2.2.2.2 ?_) ctl ?_, go (h3 _ _).1 ctl ?_,
    ⟨_, h4 always 3 63 _ _ _ _ _ (vec.met ?_) (vec.inside ?_)⟩, ⟨_, h5 always 3 63 _ _ _ _ _ (vec.met ?_) (vec.inside ?_)⟩⟩
  all_goals decide


theorem witness_FloatRowsComplete (h : Obligations.FloatRowsComplete) :
    Runs (.fadd always (alu .f32 1 2 3 0 0)) ctl.s ∧ Runs (.ffma always (alu .bf16x2 1 2 3 4 0)) ctl.s ∧
    Runs (.frcp always (alu .f32 1 2 0 0 0)) ctl.s ∧ Runs (.fscale always (alu .bf16 1 2 3 0 0)) vec.s := by
  refine ⟨goLog (h _ _).1 ctl ?_, goLog (h _ _).2.2.2.2.1 ctl ?_, goLog (h _ _).2.2.2.2.2.1 ctl ?_,
    goLog (h _ _).2.2.2.2.2.2.2.2.2.2.2.2.2.2 vec ?_⟩
  all_goals decide

/-- 1.0 and 2.0 in F32 are numbers; so is 1.0 in BF16. -/
theorem witness_RoundingIsExact (h : Obligations.RoundingIsExact) :
    (∃ r, fdiv .f32 .rne (fval .f32 0x3F800000) (fval .f32 0x40000000) = r) ∧ (∃ r, roundRat .e4m3 .rdn false true 1000 3 = r) ∧
    (∃ c, fsqrt .f32 .rtz (fval .f32 0x40000000) = ⟨c, none⟩) ∧ (∃ c, frsq .bf16 .rtz (fval .bf16 0x3F80) = ⟨c, none⟩) ∧
    (∃ r, frcp .f32 .rne (fval .f32 0x40000000) = r) ∧ ∃ c, fround .f32 .rne (fval .f32 0x40000000) = ⟨c, none⟩ := by
  obtain ⟨h1, h2, h3, h4⟩ := h
  have one : number .f32 0x3F800000 = some 1 := by
    rw [number, if_neg (by decide), if_neg (by decide)]; norm_num [magnitude, FFmt.width, FFmt.frac, FFmt.emin]
  have two : number .f32 0x40000000 = some 2 := by
    rw [number, if_neg (by decide), if_neg (by decide)]; norm_num [magnitude, FFmt.width, FFmt.frac, FFmt.emin]
  have unit : number .bf16 0x3F80 = some 1 := by
    rw [number, if_neg (by decide), if_neg (by decide)]; norm_num [magnitude, FFmt.width, FFmt.frac, FFmt.emin]
  exact ⟨⟨_, (h1 .f32 .rne 0x3F800000 0x40000000 0x3F800000 1 2 1 (by decide) (by decide) (by decide) one two one).2.2.2.2
      (by norm_num)⟩, ⟨_, (h2 .e4m3 .rdn false true 1000 3 (by decide) (by decide)).2.2.2.2⟩,
    (h3 .f32 0x40000000 2 (by decide) two (by norm_num)).1.imp fun _ h => h.1,
    ((h3 .bf16 0x3F80 1 (by decide) unit (by norm_num)).2.2.2.2 (.inr rfl)).1.imp fun _ h => h.1,
    ⟨_, (h4 .f32 .rne 0x40000000 2 (.inl rfl) (by decide) two).1 (by norm_num)⟩,
    (h4 .f32 .rne 0x40000000 2 (.inl rfl) (by decide) two).2.2.imp fun _ h => h.1⟩

theorem witness_FloatSpecialCases (h : Obligations.FloatSpecialCases) :
    fdiv .f32 .rne (.num true 3 0) (.num false 0 0) = ⟨0xFF800000, some 0x41⟩ ∧
    frsq .bf16 .rup (.num true 1 0) = ⟨0x7FC0, some 0x40⟩ ∧ Runs (.fmin always (alu .f32 1 2 3 0 0)) ctl.s ∧
    Runs (.fsetp always (alu .bf16 1 2 3 2 7)) ctl.s ∧ Runs (.fclass always (alu .f32 1 2 0 0 0)) ctl.s := by
  obtain ⟨h1, h2⟩ := h
  have a := h1 .f32 .rne .nan .nan .nan true false 0 0 (.inl rfl)
  have b := h1 .bf16 .rup .nan .nan .nan true false 0 0 (.inr rfl)
  refine ⟨a.2.2.2.1 3 (by decide), (b.2.2.2.2.2.2.1 1 (by decide)).1, go ((h2 _ _).1 ?_) ctl ?_,
    go ((h2 _ _).2.2.2.2.1 ?_) ctl ?_, go ((h2 _ _).2.2.2.2.2 ?_) ctl ?_⟩
  all_goals decide

theorem witness_ConversionRows (h : Obligations.ConversionRows) :
    Runs (.cvt always { alu .i32 6 7 0 0 4 with rnd := .rtz, sat := true }) ctl.s ∧
    Runs (.cvt always (alu .f32 1 2 0 0 3)) ctl.s ∧ Runs (.pkBf16 always (alu .f32 1 2 3 0 0)) ctl.s ∧
    Runs (.pkF8 always (alu .f8e4x4 1 4 0 0 0)) ctl.s ∧ Runs (.upkF8 always (alu .f8e5x4 4 1 0 0 0)) ctl.s := by
  refine ⟨goLog ((h _ _).1 ?_ .f32 ?_) ctl ?_, goLog ((h _ _).1 ?_ .n64 ?_) ctl ?_, goLog (h _ _).2.1 ctl ?_,
    goLog ((h _ _).2.2.2.1 ?_) ctl ?_, go ((h _ _).2.2.2.2 ?_) ctl ?_⟩
  all_goals decide

theorem witness_ScaledArithmetic (h : Obligations.ScaledArithmetic) :
    Runs (.npiEnc always (alu .i8x4 8 16 0 0 0)) ctl.s ∧ Runs (.npiDec always (alu .i8x4 8 16 0 0 2)) ctl.s ∧
    Runs (.npiDec always (alu .i8x4 8 16 0 0 8)) ctl.s ∧ Runs (.bscale always (alu .f8e4x4 1 2 0 0 0)) ctl.s ∧
    Runs (.bquant always (alu .i8x4 1 4 2 0 0)) ctl.s ∧ Runs (.bdot always (alu .i8x4 1 8 16 0 4)) ctl.s ∧
    Runs (.bdot always (alu .f8e5x4 1 8 16 2 1)) ctl.s := by
  obtain ⟨h1, h2⟩ := h
  refine ⟨go (h1 _ _).1.choose_spec.2.2 ctl ?_, go ((h1 _ _).2 ?_).choose_spec.2.2 ctl ?_,
    go ((h1 _ _).2 ?_).choose_spec.2.2 ctl ?_, go ((h2 _ _).1 ?_).choose_spec.2 ctl ?_, goLog ((h2 _ _).2.1 ?_) ctl ?_,
    goLog ((h2 _ _).2.2.1 ?_ ?_) ctl ?_, goLog ((h2 _ _).2.2.2 ?_ ?_).choose_spec.2 ctl ?_⟩
  all_goals decide

/-- A vector thread at the last word of its basic block, with g1 a header address, and q1 true. -/
def leaver (v : Word) : Scene := vec id fun t => (({ t with pc := 0x01000030 }.setG 1 v).setQ 1 true)
/-- The same thread at the word before, for `mbr`. -/
def chooser (q : Bool) : Scene := vec id fun t => { t with pc := 0x01000028 }.setQ 1 q
/-- A return record lies on the stack of the thread. -/
def returner : Scene := vec id (fun t => { t with pc := 0x01000030 }) fun s =>
  { s with mem := table ++ [(0x41010, 0x38), (0x41013, 1)] }
/-- The image of `home`, with an entry table that names the header at 0x38. -/
def choices3 : MbrOps := ⟨⟨0, false⟩, ⟨1, false⟩, ⟨1, true⟩, ⟨1, true⟩, 9, 5, 0, 0⟩

/-- A header of the scene's overlay is a legal target. -/
theorem legalAt (s : State) (b : Block) (a : Word) (hz : a.extractLsb' 16 8 = 0)
    (ho : (s.ctx b.ctx).overlay (codeOvl a) = some ⟨0, 1, true, false, false, []⟩)
    (hr : a.toNat % 65536 % 8 = 0 ∧ a.toNat % 65536 < 4096) (hk : s.residentCopy b.core b.ctx (codeOvl a) = some image)
    (hw : (image.word (a.toNat % 65536)).extractLsb' 60 4 = 0xF) : LegalTarget s b a :=
  ⟨⟨hz, _, ho, hr.1, hr.2⟩, _, hk, List.not_mem_nil, hw⟩

theorem witness_TransfersOfControl (h : Obligations.TransfersOfControl) :
    Runs (.bra always 5) (leaver 0).s ∧ Runs (.bri always 1) (leaver 0x01000038).s ∧
    Runs (.mbr always choices3) (chooser true).s ∧ Runs (.mbr always ⟨⟨0, false⟩, ⟨0, false⟩, ⟨1, false⟩, ⟨1, false⟩, 9, 5, 0, 0⟩) (chooser false).s ∧
    Runs (.call always 0) (leaver 0).s ∧ Runs (.calli always 1) (leaver 0x01000010).s ∧ Runs (.callo always 1 0) (leaver 0).s ∧
    Runs (.ret always) returner.s := by
  obtain ⟨h1, h2⟩ := h
  refine ⟨⟨_, (h1 always _ _ _ _).1 5 ((leaver 0).met ?_) ?_ (legalAt _ _ _ ?_ ?_ ?_ ?_ ?_)⟩,
    ⟨_, (h1 always _ _ _ _).2.1 1 ((leaver 0x01000038).met ?_) (legalAt _ _ _ ?_ ?_ ?_ ?_ ?_)⟩,
    ⟨_, (h1 always _ _ _ _).2.2.1 choices3 1 (⟨1, false⟩, 5) ((chooser true).met ?_) ?_ ?_ ?_ ?_ (legalAt _ _ _ ?_ ?_ ?_ ?_ ?_)⟩,
    ⟨_, (h1 always _ _ _ _).2.2.2 _ 0x01000038 ((chooser false).met ?_) ?_ ?_⟩,
    ⟨_, (h2 always _ _ _ _).1 0 ((leaver 0).met ?_) ?_ (legalAt _ _ _ ?_ ?_ ?_ ?_ ?_) 0x40007 0x41008 ?_ ⟨?_, ?_⟩⟩,
    ⟨_, (h2 always _ _ _ _).2.1 1 ((leaver 0x01000010).met ?_) (legalAt _ _ _ ?_ ?_ ?_ ?_ ?_) 0x40007 0x41008 ?_ ⟨?_, ?_⟩⟩,
    ⟨_, (h2 always _ _ _ _).2.2.1 1 0 image ((leaver 0).met ?_) ?_ ?_ rfl ?_ ?_ ?_ ?_ (legalAt _ _ _ ?_ ?_ ?_ ?_ ?_) 0x40007
      0x41008 ?_ ⟨?_, ?_⟩⟩,
    ⟨_, (h2 always _ _ _ _).2.2.2 0x40007 0x41010 (returner.met ?_) ?_ ?_ ?_ ?_ ?_ (legalAt _ _ _ ?_ ?_ ?_ ?_ ?_)⟩⟩
  all_goals first | decide | rfl | skip
  intro j y hj hy
  obtain rfl : j = 0 := by omega
  cases hy
  decide

/-- A thread that stands where it may end its basic block, with g1 a code address. -/
def atEnd (v : Word) : Scene := vec id fun t => { t with pc := 0x01000030 }.setG 1 v
/-- The break enable of the context is set. -/
def breaks : Scene := ctl id id fun s => s.modCtx 0 fun c => { c with brken := true }

/-- The first true selector of these names no header. -/
def choices4 : MbrOps := ⟨⟨0, false⟩, ⟨1, false⟩, ⟨1, true⟩, ⟨1, true⟩, 9, 4, 0, 0⟩
/-- The thread of a scene that may leave has a stack pointer at the bottom of its stack. -/
def full : Scene := vec id fun t => ({ t with pc := 0x01000030 }.setG 1 0x01000010).setG 111 0
/-- A thread whose stack holds a return record that names no header. -/
def astray : Scene := vec id (fun t => { t with pc := 0x01000030 }) fun s =>
  { s with mem := table ++ [(0x41010, 0x11), (0x41013, 1)] }
/-- A call through entry 5 of an overlay that has one entry. -/
def loader : Scene := vec id (fun t => { t with pc := 0x01000030 }.setG 1 0x04000010) fun s => s.modCtx 0 fun c =>
  { c with overlays := [(1, ⟨0, 1, true, false, false, []⟩), (4, ⟨0, 1, true, false, false, []⟩)] }

theorem witness_EndsAndRefusedTransfers (h : Obligations.EndsAndRefusedTransfers) :
    Runs (.bra always 4) (atEnd 0).s ∧ Runs (.bra always 8192) (atEnd 0).s ∧ Runs (.call always 1) (atEnd 0).s ∧
    Runs (.mbr always choices4) (chooser true).s ∧ Runs (.bri always 1) (atEnd 0x01000011).s ∧
    Runs (.bri always 1) (atEnd 0x01001000).s ∧ Runs (.calli always 1) (atEnd 0x01010010).s ∧
    Runs (.callo always 3 0) (atEnd 0).s ∧ Runs (.callo always 1 5) (atEnd 0).s ∧ Runs (.ret always) astray.s ∧
    Runs (.bri always 1) (atEnd 0x02000010).s ∧ Runs (.calli always 1) (atEnd 0x02000010).s ∧
    Runs (.bri always 1) loader.s ∧ Runs (.callo always 2 0) (atEnd 0).s ∧ Runs (.call always 0) full.s ∧
    Runs (.calli always 1) full.s ∧ Runs (.ret always) full.s ∧
    Runs (.exit always) (atEnd 0).s ∧
    Runs (.yield always) vec.s ∧ Runs (.nop always) ctl.s ∧ Runs (.brk always 3) ctl.s ∧ Runs (.brk always 3) breaks.s := by
  obtain ⟨⟨h1, h3⟩, h2⟩ := h
  refine ⟨goRaises ((h1 always _ _ _ _).1 4 ((atEnd 0).met ?_) (.inr (.inr (.inr (.inr (.inr ⟨image, ?_, ?_, ?_⟩)))))),
    goRaises ((h1 always _ _ _ _).1 8192 ((atEnd 0).met ?_) (.inr (.inl ?_))),
    goRaises ((h1 always _ _ _ _).2.1 1 ((atEnd 0).met ?_) (.inr (.inr (.inr (.inr (.inr ⟨image, ?_, ?_, ?_⟩)))))),
    goRaises ((h1 always _ _ _ _).2.2.1 choices4 1 (⟨1, false⟩, 4) ((chooser true).met ?_) ?_ ?_ ?_
      (.inr (.inr (.inr (.inr (.inr ⟨image, ?_, ?_, ?_⟩)))))),
    goRaises ((h1 always _ _ _ _).2.2.2.1 1 ((atEnd _).met ?_) (.inr (.inr (.inl ?_)))),
    goRaises ((h1 always _ _ _ _).2.2.2.1 1 ((atEnd _).met ?_)
      (.inr (.inr (.inr (.inl ⟨⟨0, 1, true, false, false, []⟩, ?_, ?_⟩))))),
    goRaises ((h1 always _ _ _ _).2.2.2.2.1 1 ((atEnd _).met ?_) (.inl ?_)),
    goRaises ((h1 always _ _ _ _).2.2.2.2.2.1 3 0 ((atEnd 0).met ?_) ?_),
    goRaises ((h1 always _ _ _ _).2.2.2.2.2.2.1 1 5 image ((atEnd 0).met ?_) ?_ ?_ rfl (.inl ?_)),
    goRaises ((h1 always _ _ _ _).2.2.2.2.2.2.2 0x40007 0x41010 (astray.met ?_) ?_ ?_ ?_ ?_ (.inr (.inr (.inr (.inl ?_))))),
    goRaises ((((h3 always _ _ _ _).1 1 ⟨?_, ⟨0, 1, false, false, false, []⟩, ?_, ?_, ?_⟩).1 ((atEnd 0x02000010).met ?_)
      ⟨0, 1, false, false, false, []⟩ ?_ ?_).1 ?_),
    goRaises ((((h3 always _ _ _ _).1 1 ⟨?_, ⟨0, 1, false, false, false, []⟩, ?_, ?_, ?_⟩).2 ((atEnd 0x02000010).met ?_)
      ⟨0, 1, false, false, false, []⟩ ?_ ?_).1 ?_),
    ⟨_, ((((h3 always _ _ _ _).1 1 ⟨?_, ⟨0, 1, true, false, false, []⟩, ?_, ?_, ?_⟩).1 (loader.met ?_)
      ⟨0, 1, true, false, false, []⟩ ?_ ?_).2 ?_ _ _ rfl).1 ?_⟩,
    goRaises (((h3 always _ _ _ _).2.1 2 0 ((atEnd 0).met ?_) ⟨0, 1, false, false, false, []⟩ ?_ ?_).1 ?_),
    goRaises (((h3 always _ _ _ _).2.2.2.1 ⟨?_, .inr ?_⟩).1 0 (full.met ?_) ?_ (legalAt _ _ _ ?_ ?_ ?_ ?_ ?_)),
    goRaises (((h3 always _ _ _ _).2.2.2.1 ⟨?_, .inr ?_⟩).2.1 1 (full.met ?_) (legalAt _ _ _ ?_ ?_ ?_ ?_ ?_)),
    goRaises ((h3 always _ _ _ _).2.2.2.2 (full.met ?_) ?_ (.inr ?_)),
    ⟨_, (h2 always _ _ _ _).1 ((atEnd 0).met ?_) ?_⟩, ⟨_, (h2 always _ _ _ _).2.1 _ (vec.met ?_) (vec.inside ?_)⟩,
    ⟨_, (h2 always _ _ _ _).2.2.1 _ (ctl.met ?_) (ctl.inside ?_)⟩,
    ⟨_, (h2 always _ _ _ _).2.2.2.1 3 _ (ctl.met ?_) (ctl.inside ?_) ?_⟩,
    ⟨_, (h2 always _ _ _ _).2.2.2.2 3 _ (breaks.met ?_) (breaks.inside ?_) ?_⟩⟩
  all_goals first | decide | rfl | skip
  intro j y hj hy
  obtain rfl : j = 0 := by omega
  cases hy
  decide

/-- A lone vector thread whose mask in g3 names every lane; q3 is false. -/
def alone : Scene := vec id fun t => t.setG 3 0xFFFFFFFF

theorem witness_LoneLanesComplete (h : Obligations.LoneLanesComplete) :
    Runs (.voteAll always 1 2 3) alone.s ∧ Runs (.voteAll ⟨3, false⟩ 1 2 3) alone.s ∧ Runs (.shflIdx always ⟨1, 2, 3, 1⟩ (.reg 4)) alone.s ∧
    Runs (.shflDn always ⟨1, 2, 3, 1⟩ 31) ctl.s ∧ Runs (.lredAdd always ⟨.f32, .rne, 1, 2, 3⟩) alone.s ∧
    Runs (.lscanAdd always ⟨.i32, .rne, 1, 2, 3⟩) ctl.s ∧ Runs (.matchLanes always 1 2 3) alone.s := by
  obtain ⟨h1, -, -, h2, -, -, h3, -, -, -, -, h4, -, -, h5, h6⟩ := h
  refine ⟨goAlone (h1 always _ _ _) alone ?_ ⟨?_, ?_⟩, goAbsent (h1 ⟨3, false⟩ _ _ _) alone ?_ ?_ ?_ ?_ ?_, goAlone (h2 _ _ _) alone ?_ ⟨?_, ?_⟩,
    goAlone (h3 _ _ _) ctl ?_ ⟨?_, ?_⟩, goAlone (h4 _ _) alone ?_ ⟨?_, ?_⟩, goAlone (h5 _ _) ctl ?_ ⟨?_, ?_⟩,
    goAlone (h6 _ _ _ _) alone ?_ ⟨?_, ?_⟩⟩
  all_goals first | decide | (unfold Stands; decide)

/-- The arrival of a lane with its guard true, whose mask names lanes 0 to 2, as source 2. -/
def arrival (n : Nat) (v : Word) (p : Bool) : Arrival :=
  { who := .vec n, lane := n, guard := true, mask := 7, val := v, pred := p, src := 2, since := 0 }
/-- An instance of lanes 0 and 1. -/
def meeting : List Arrival := [arrival 0 5 true, arrival 1 7 false]

theorem meeting_each : OneEach meeting := by
  constructor
  · decide
  · intro x hx y hy e
    simp only [meeting, List.mem_cons, List.not_mem_nil, or_false] at hx hy
    obtain rfl | rfl := hx <;> obtain rfl | rfl := hy <;> first | rfl | cases e

theorem meeting_present : PresentAt meeting (arrival 0 5 true).lane (arrival 0 5 true) := by unfold PresentAt; decide

/-- Lane 0 takes the value of lane 1 by `qx.h`, and misses that of lane 2 by `shfl.idx`. -/
theorem witness_LaneValues (h : Obligations.LaneValues) :
    laneResult (.qxH always ⟨1, 2, 3, 1⟩) meeting (arrival 0 5 true) = { g := some (1, 7), q := some (1, false), causes := [] } ∧
    laneResult (.shflIdx always ⟨1, 2, 3, 1⟩ (.lane 2)) meeting (arrival 0 5 true) =
      { g := some (1, 0), q := some (1, true), causes := [] } ∧
    laneResult (.lredAdd always ⟨.i32, .rne, 1, 2, 3⟩) meeting (arrival 0 5 true) =
      { g := some (1, 12), q := none, causes := [] } ∧
    ∃ v, (laneResult (.lredAdd always ⟨.f32, .rne, 1, 2, 3⟩) meeting (arrival 0 5 true)).g = some (1, v) := by
  have a := h.1 meeting (arrival 0 5 true) meeting_each meeting_present
  refine ⟨(a.2.2.2.2 (.qxH always _) _ 1 (.inr (.inr (.inr (.inr (.inl ⟨_, rfl, rfl⟩)))))).1 1 (arrival 1 7 false) rfl ?_ ?_,
    (a.2.2.2.2 (.shflIdx always _ (.lane 2)) _ 2 (.inl ⟨_, _, rfl, rfl⟩)).2 ?_,
    (h.2.1 meeting (arrival 0 5 true) always _ meeting_each meeting_present (by decide) (.inl rfl)).1, ?_⟩
  rotate_left 3
  · obtain ⟨cs, e, -⟩ := (h.2.2 meeting (arrival 0 5 true) always ⟨.f32, .rne, 1, 2, 3⟩ meeting_each meeting_present
      (by decide) rfl).1
    exact ⟨_, by rw [e]⟩
  · decide
  · unfold PresentAt; decide
  · rintro l y e - ⟨hy, -, hl⟩
    obtain rfl : l = 2 := by omega
    revert hl
    revert hy
    revert y
    decide


/-- The address pair g2 of a thread. -/
def aimed (a : Nat) (t : Thread) : Thread := t.setPair 2 (BitVec.ofNat 64 a)
/-- A vector thread whose address is `a`. -/
def aims (a : Nat) : Scene := vec id (aimed a)
/-- The same in a helper lane. -/
def helps (a : Nat) : Scene := vec id fun t => { aimed a t with helper := true }
/-- A block with a page of each buffer, so that offset 0 is its own. -/
def buffered (a : Nat) : Scene := vec (fun b => { b with lr := { b.lr with wq := 1, aq := 1, cq := 1 } }) (aimed a)
/-- Operands of an access, address in g2. -/
def at2 (sp : Space) (sz : Size) (d b : Reg) : Mem := ⟨sp, sz, d, 2, b, true, false, .pkg, false, 0⟩
/-- An access of the stack. -/
def onStack (sz : Size) (d : Reg) : Mem := ⟨.stack, sz, d, 0, 127, false, false, .blk, false, 0⟩

/-- The runtime has mapped the window table at the address of the access: window 0 as R155 lays it out. -/
def tabled : Scene := vec id (aimed 0x1000) fun s => s.modCtx 0 fun c => { c with winMap := some 0x1000 }

theorem ok_of (x : Except Cause (List Byte)) (h : x.isOk = true) : x = .ok (x.toOption.getD []) := by
  cases x with
  | ok _ => rfl
  | error _ => cases h

theorem some_of (x : Option View) (h : x.isSome = true) : x = some (x.get h) := (Option.some_get h).symm

theorem no_reqs (x : Scene) (h : x.s.reqsOf x.b.id x.w = []) : Quiet x.s x.b x.w := h
theorem room (x : Scene) (h : decide (x.s.entriesUsed x.b.core < 1024) = true) : Room x.s x.b := by
  unfold Room; exact of_decide_eq_true h
theorem takes (x : Scene) (o : Mem) (wr : Bool) (v : Window)
    (h1 : (x.s.ctx x.b.ctx).window (x.t.handleNo o) = some v) (h2 : v.kind = 3) (h3 : v.rule.toNat < 10)
    (h4 : (x.t.winAddr o).toNat % sizeBytes o.size = 0)
    (h5 : (x.t.winAddr o).toNat + sizeBytes o.size ≤ v.limit.toNat - v.base.toNat) : WindowTakes x.s x.b x.t o wr v :=
  ⟨h1, .inl h2, h3, h4, h5⟩

theorem witness_GlobalAccesses (h : Obligations.GlobalAccesses) :
    (∃ t, (stander.putLoad 4 16 false (List.replicate 16 0)).preds = t) ∧
    (∃ v, (stander.putLoad 4 1 true [0x80]).g 4 = v ∧ v.toInt = -128) ∧
    Runs (.ld always (at2 .glob .b64 4 127)) (aims 0x1000).s ∧ Runs (.ld always (at2 .glob .b64 4 127)) tabled.s ∧
    Runs (.ldAcq always (at2 .win .b32 5 4)) (aims 0xFC).s ∧ Runs (.st always (at2 .glob .b32 4 127)) (aims 0x10000).s ∧
    Runs (.st always (at2 .glob .b128 4 127)) (aims 0xFFF0).s ∧ Runs (.stRel always (at2 .glob .b8 4 127)) (aims 0x10001).s ∧
    Runs (.st always (at2 .win .b16 4 4)) (aims 0xFE).s ∧ Runs (.st always (at2 .glob .b32 4 127)) (helps 0x1000).s := by
  obtain ⟨h1, h2, h3⟩ := h
  have l := h2 (.ld always (at2 .glob .b64 4 127)) always _ false false (.inl ⟨rfl, rfl, rfl⟩)
  have q := h2 (.ldAcq always (at2 .win .b32 5 4)) always _ true false (.inr (.inl ⟨rfl, rfl, rfl⟩))
  have s1 := h3 (.st always (at2 .glob .b128 4 127)) always _ none (.inl ⟨rfl, rfl⟩)
  have s2 := h3 (.stRel always (at2 .glob .b8 4 127)) always _ _ (.inr ⟨rfl, rfl⟩)
  have s3 := h3 (.st always (at2 .win .b16 4 4)) always _ none (.inl ⟨rfl, rfl⟩)
  have s4 := h3 (.st always (at2 .glob .b32 4 127)) always _ none (.inl ⟨rfl, rfl⟩)
  refine ⟨⟨_, (h1 stander 4 .b128 false (List.replicate 16 0) (by decide) (by decide)).2.2.2.2.1⟩,
    ⟨_, rfl, (h1 stander 4 .b8 true [0x80] (by decide) (by decide)).2.2.2.1 (by decide) rfl⟩,
    goWhen (l.1 0x40007 0x41000 rfl) (aims 0x1000) ?_ ⟨⟨?_, ?_⟩, ?_, ?_, no_reqs _ ?_, room _ ?_⟩,
    goWhen (l.2.1 [0, 0, 2, 0, 0, 0, 0, 1] rfl) tabled ?_ ⟨?_, ?_, no_reqs _ ?_, room _ ?_⟩,
    goWhen (q.2.2 window rfl) (aims 0xFC) ?_ ⟨takes _ _ _ _ ?_ ?_ ?_ ?_ ?_, room _ ?_⟩,
    goWhen (s4.2.1 0x58007 0x50000 rfl) (aims 0x10000) ?_ ⟨?_, ⟨?_, ?_⟩, ?_, ?_, ?_, ?_, room _ ?_⟩,
    goWhen (s1.1 0x40007 0x4FFF0 rfl) (aims 0xFFF0) ?_ ⟨?_, ⟨?_, ?_⟩, ?_, ?_, ?_, no_reqs _ ?_, room _ ?_⟩,
    goWhen (s2.2.1 0x58007 0x50001 rfl) (aims 0x10001) ?_ ⟨?_, ⟨?_, ?_⟩, ?_, ?_, ?_, ?_, room _ ?_⟩,
    goWhen (s3.2.2.1 window rfl) (aims 0xFE) ?_ ⟨?_, takes _ _ _ _ ?_ ?_ ?_ ?_ ?_, ?_, room _ ?_⟩,
    goWhen s4.2.2.2 (helps 0x1000) ?_ ?_⟩
  all_goals first | decide | rfl | (unfold Shaped; decide)

theorem witness_LocalAccessesComplete (h : Obligations.LocalAccessesComplete) :
    Runs (.ld always (at2 .w .b32 4 127)) (buffered 0xFFC).s ∧ Runs (.ldAcq always (onStack .b32 4)) vec.s ∧
    Runs (.pop always (onStack .b64 4)) vec.s ∧ Runs (.pf always (at2 .w .b8 0 127)) (aims 0x99999).s ∧
    Runs (.pf always (at2 .glob .b8 0 127)) (aims 0x99999).s ∧
    Runs (.st always (at2 .c .b64 4 127)) (buffered 0).s ∧ Runs (.st always (onStack .b8 4)) vec.s ∧
    Runs (.push always (onStack .b32 4)) vec.s ∧ Runs (.push always (onStack .b32 4)) (helps 0).s := by
  obtain ⟨⟨h1, h2, h3, h7⟩, h4, h5, h6⟩ := h
  have l := h1 (.ld always (at2 .w .b32 4 127)) always _ false false (.inl ⟨rfl, rfl, rfl⟩)
  have m := h1 (.ldAcq always (onStack .b32 4)) always _ true false (.inr (.inl ⟨rfl, rfl, rfl⟩))
  have c := h4 (.st always (at2 .c .b64 4 127)) always _ none (.inl ⟨rfl, rfl⟩)
  have k := h4 (.st always (onStack .b8 4)) always _ none (.inl ⟨rfl, rfl⟩)
  refine ⟨goWhen (l.1 .w 0xFFC trivial) (buffered 0xFFC) ?_ ⟨?_, ?_, no_reqs _ ?_, room _ ?_⟩,
    goWhen (m.2 0x40007 0x41010 [0, 0, 0, 0] rfl) vec ?_ ⟨?_, ?_, ?_, no_reqs _ ?_, room _ ?_⟩,
    goWhen (h2 _ _ 0x40007 0x41010 [0, 0, 0, 0, 0, 0, 0, 0]) vec ?_ ⟨?_, ?_, ?_, no_reqs _ ?_, room _ ?_⟩,
    goWhen (h3 _ (at2 .w .b8 0 127) ?_) (aims 0x99999) ?_ trivial,
    ⟨_, (h7 _ (at2 .glob .b8 0 127) _ _ _ _ _ rfl ((aims 0x99999).met ?_) ((aims 0x99999).inside ?_)
      (room _ ?_)).choose_spec.1⟩,
    goWhen (c.1 .c 0 trivial) (buffered 0) ?_ ⟨?_, ?_, room _ ?_⟩,
    ⟨_, (k.2 _ _ _ _ _ 0x40007 0x41010 rfl (vec.met ?_) (vec.inside ?_) ?_ (room _ ?_) ?_).choose_spec.2⟩,
    ⟨_, (h5 _ (onStack .b32 4) _ _ _ _ _ 0x40007 0x4100C (vec.met ?_) (vec.inside ?_) ?_ (room _ ?_) ?_).choose_spec.2⟩, goWhen (h6 _ _) (helps 0) ?_ ?_⟩
  all_goals first | decide | rfl

theorem witness_AtomicsAndReductions (h : Obligations.AtomicsAndReductions) :
    Runs (.atomAdd always (at2 .glob .b32 4 127)) (aims 0x1000).s ∧ Runs (.atomCas always (at2 .glob .b64 4 127)) (aims 0xFFF8).s ∧
    Runs (.atomInc always (at2 .glob .b32 4 127)) (helps 0).s ∧ Runs (.redOr always (at2 .glob .b64 4 127)) (aims 0x1000).s ∧
    Runs (.redMin always (at2 .glob .b32 4 127)) (aims 0x10004).s ∧ Runs (.redAdd always (at2 .win .b32 4 4)) (aims 4).s ∧
    Runs (.redMax always (at2 .glob .b32 4 127)) (helps 0).s ∧ atomicNew 15 8 255 255 0 = some 0 := by
  obtain ⟨⟨h1, h2, h3, h4, h5⟩, h6⟩ := h
  refine ⟨goWhen (h1 _ _ (at2 .glob .b32 4 127) 0 0x40007 0x41000 (.inl ⟨rfl, rfl⟩)) (aims 0x1000) ?_
      ⟨?_, ⟨?_, ?_⟩, ?_, ?_, no_reqs _ ?_, room _ ?_⟩,
    goWhen (h1 _ _ (at2 .glob .b64 4 127) 7 0x40007 0x4FFF8
      (.inr (.inr (.inr (.inr (.inr (.inr (.inr (.inl ⟨rfl, rfl⟩))))))))) (aims 0xFFF8) ?_
      ⟨?_, ⟨?_, ?_⟩, ?_, ?_, no_reqs _ ?_, room _ ?_⟩,
    goWhen (h2 _ _ (at2 .glob .b32 4 127) 15 (.inr (.inr (.inr (.inr (.inr (.inr (.inr (.inr ⟨rfl, rfl⟩))))))))) (helps 0) ?_ ?_,
    goWhen (h3 _ _ (at2 .glob .b64 4 127) 4 .redOr 0x40007 0x41000 (.inr (.inr (.inr ⟨rfl, rfl, rfl⟩))) ?_).1 (aims 0x1000) ?_
      ⟨?_, ⟨?_, ?_⟩, ?_, ?_, ?_, no_reqs _ ?_, room _ ?_⟩,
    goWhen (h3 _ _ (at2 .glob .b32 4 127) 1 .redMin 0x58007 0x50004 (.inr (.inl ⟨rfl, rfl, rfl⟩)) ?_).2 (aims 0x10004) ?_
      ⟨?_, ⟨?_, ?_⟩, ?_, ?_, ?_, room _ ?_⟩,
    goWhen (h4 _ _ (at2 .win .b32 4 4) 0 .redAdd window (.inl ⟨rfl, rfl, rfl⟩) rfl) (aims 4) ?_
      ⟨?_, takes _ _ _ _ ?_ ?_ ?_ ?_ ?_, room _ ?_⟩,
    goWhen (h5 _ _ (at2 .glob .b32 4 127) 2 .redMax (.inr (.inr (.inl ⟨rfl, rfl, rfl⟩)))) (helps 0) ?_ ?_,
    (h6 15 8 255 255 0 (.inr rfl) (by decide) (by decide)).1⟩
  all_goals first | decide | rfl | (unfold Shaped; decide)

theorem witness_AgentOperationsStart (h : Obligations.AgentOperationsStart) :
    Runs (.nmcas always (at2 .glob .b128 112 127)) (aims 0xFFF0).s ∧ Runs (.nmenq always (at2 .glob .b64 112 127)) (aims 0x1000).s ∧
    Runs (.nmchase always (at2 .glob .b64 112 127)) (aims 0x1008).s ∧ Runs (.nmcas always (at2 .glob .b128 127 127)) (helps 0).s := by
  refine ⟨goWhen (h _ (at2 .glob .b128 112 127)).1 (aims 0xFFF0) ?_ ⟨?_, ?_, ?_, no_reqs _ ?_, 0x40007, 0x4FFF0, ?_, ?_, ?_⟩,
    goWhen (h _ (at2 .glob .b64 112 127)).2.1 (aims 0x1000) ?_ ⟨?_, ?_, ?_, no_reqs _ ?_, 0x40007, 0x41000, ?_, ?_, ?_⟩,
    goWhen (h _ (at2 .glob .b64 112 127)).2.2.1 (aims 0x1008) ?_ ⟨?_, ?_, ?_, no_reqs _ ?_, 0x40007, 0x41008, ?_, ?_, ?_⟩,
    goWhen ((h _ (at2 .glob .b128 127 127)).2.2.2 _ (.inl rfl)) (helps 0) ?_ ?_⟩
  all_goals first | decide | rfl

/-- A block whose tile 0 holds the first 256 bytes of W, FILLING. -/
def tiled : Scene := vec (fun b => { b with
  lr := { b.lr with wq := 1 }, tiles := [{ Tile.unbound with bound := true, size := 256, st := .filling }] }) (aimed 0)
/-- A context whose rule takes words alone. -/
def shaped : Scene := vec id (aimed 0x10001) fun s => s.modCtx 0 fun c => { c with hrule := 2 }
/-- A format range covers the page of the address. -/
def ranged : Scene := vec id (aimed 0x1000) fun s =>
  { s with fr := vset s.fr 0 { FmtRange.reset with en := true, base := 8, lim := 16, str := 1 } }

theorem witness_AccessFaults (h : Obligations.AccessFaults) :
    Runs (.ld always (at2 .glob .b32 4 127)) (aims 0x1002).s ∧ Runs (.ld always (at2 .glob .b32 4 127)) (aims 0x1000000000000).s ∧
    Runs (.st always (at2 .w .b16 4 127)) (buffered 1).s ∧ Runs (.st always (at2 .w .b16 4 127)) (buffered 0x1000).s ∧
    Runs (.st always (at2 .w .b16 4 127)) tiled.s ∧ Runs (.ld always { onStack .b32 4 with imm := 2 }) vec.s ∧
    Runs (.ld always { onStack .b32 4 with imm := 0x1000 }) vec.s := by
  have h1 := h.1
  have ld (o : Mem) (x : Scene) (hx : x.issues (.ld always o) always = true)
      (hs : x.Stood := by exact ⟨rfl, rfl⟩) :=
    h1 (.ld always o) always o x.s x.b x.w x.t (.inl ⟨false, false, .inl ⟨rfl, rfl, rfl⟩⟩) (x.met hx hs)
  have st (o : Mem) (x : Scene) (hx : x.issues (.st always o) always = true) (hh : x.t.helper = false)
      (hs : x.Stood := by exact ⟨rfl, rfl⟩) :=
    h1 (.st always o) always o x.s x.b x.w x.t (.inr ⟨hh, none, .inl ⟨rfl, rfl⟩⟩) (x.met hx hs)
  refine ⟨goRaises ((ld (at2 .glob .b32 4 127) (aims 0x1002) ?_).1 ?_ ?_),
    goRaises ((ld (at2 .glob .b32 4 127) (aims 0x1000000000000) ?_).2.1 ?_ ?_ ?_ ?_),
    goRaises (((st (at2 .w .b16 4 127) (buffered 1) ?_ ?_).2.2.1 .w trivial).1 ?_),
    goRaises (((st (at2 .w .b16 4 127) (buffered 0x1000) ?_ ?_).2.2.1 .w trivial).2.1 ?_ ?_),
    goRaises (((st (at2 .w .b16 4 127) tiled ?_ ?_).2.2.1 .w trivial).2.2 0 ?_ ?_ ?_),
    goRaises (((ld { onStack .b32 4 with imm := 2 } vec ?_).2.2.2.1 ?_).1 ?_),
    goRaises (((ld { onStack .b32 4 with imm := 0x1000 } vec ?_).2.2.2.1 ?_).2 ?_ ?_)⟩
  all_goals first | decide | rfl

theorem witness_WindowAccessFaults (h : Obligations.AccessFaults) :
    Runs (.ld always (at2 .win .b32 4 4)) (aims 2).s ∧ Runs (.st always (at2 .win .b32 4 4)) (aims 2).s ∧
    Runs (.ld always (at2 .win .b32 4 111)) (aims 0).s := by
  have h1 := h.1
  have ld (o : Mem) (x : Scene) (hx : x.issues (.ld always o) always = true)
      (hs : x.Stood := by exact ⟨rfl, rfl⟩) :=
    h1 (.ld always o) always o x.s x.b x.w x.t (.inl ⟨false, false, .inl ⟨rfl, rfl, rfl⟩⟩) (x.met hx hs)
  have st (o : Mem) (x : Scene) (hx : x.issues (.st always o) always = true) (hh : x.t.helper = false)
      (hs : x.Stood := by exact ⟨rfl, rfl⟩) :=
    h1 (.st always o) always o x.s x.b x.w x.t (.inr ⟨hh, none, .inl ⟨rfl, rfl⟩⟩) (x.met hx hs)
  have kind (v : Window) (e : ((aims 2).s.ctx (aims 2).b.ctx).window ((aims 2).t.handleNo (at2 .win .b32 4 4)) = some v) :
      v = window := Option.some.inj (e.symm.trans (by rfl))
  refine ⟨goRaises (((ld (at2 .win .b32 4 4) (aims 2) ?_).2.2.2.2 ?_).1 ?_ (.inl ⟨false, false, .inl ⟨rfl, rfl, rfl⟩⟩)),
    goRaises (((st (at2 .win .b32 4 4) (aims 2) ?_ ?_).2.2.2.2 ?_).1 ?_ (.inr fun v e => .inl (by rw [kind v e]; decide))),
    goRaises (((ld (at2 .win .b32 4 111) (aims 0) ?_).2.2.2.2 ?_).2 ?_ ?_)⟩
  all_goals decide

theorem witness_StoreAndAtomicFaults (h : Obligations.AccessFaults) :
    Runs (.st always (at2 .glob .b64 4 127)) tabled.s ∧ Runs (.st always (at2 .glob .b8 4 127)) shaped.s ∧
    Runs (.st always (at2 .glob .b32 4 127)) ranged.s ∧ Runs (.atomAdd always (at2 .glob .b32 4 127)) (aims 0x10000).s := by
  obtain ⟨-, h2, h3⟩ := h
  refine ⟨goRaises ((h2 _ _ (at2 .glob .b64 4 127) none _ _ _ _ 0 0 (.inl ⟨rfl, rfl⟩) (tabled.met ?_) ?_ ?_).1 ?_ ?_),
    goRaises ((h2 _ _ (at2 .glob .b8 4 127) none _ _ _ _ 0x58007 0x50001 (.inl ⟨rfl, rfl⟩) (shaped.met ?_) ?_ ?_).2.1
      ⟨?_, ?_⟩ ?_ ?_ ?_),
    goRaises ((h2 _ _ (at2 .glob .b32 4 127) none _ _ _ _ 0x40007 0x41000 (.inl ⟨rfl, rfl⟩) (ranged.met ?_) ?_ ?_).2.2
      ⟨?_, ?_⟩ ?_ ?_ ?_),
    goRaises (h3 _ _ (at2 .glob .b32 4 127) 0 _ _ _ _ 0x58007 0x50000 (.inl ⟨rfl, rfl⟩) ((aims 0x10000).met ?_) ?_ ⟨?_, ?_⟩ ?_)⟩
  all_goals first | decide | rfl | (unfold Shaped; decide) | (unfold Unmapped; decide)


/-- An access of the thread that is on its way. -/
def onItsWay : Scene := vec id id fun s => { s with reqs := [{ loadDue (.vec 0) with kind := .store [1] true none }] }

/-- A store of another thread of the core is on its way. -/
def otherOnWay : Scene := vec id id fun s => { s with reqs := [{ loadDue (.vec 1) with kind := .store [1] true none }] }

/-- A thread whose wait has ended, with set and phase 1 in g2. -/
def ended (x : Wait) : Scene := vec id fun t => { t.setG 2 1 with wait := x }

theorem witness_BarriersFencesWaits (h : Obligations.BarriersFencesWaits) :
    Runs (.barInit always 1 2) vec.s ∧ Runs (.barArr always 4 3) vec.s ∧ Runs (.barArr always 4 3) otherOnWay.s ∧ Runs (.barExp always 0 2) vec.s ∧
    Runs (.barArr always 4 3) (helps 0).s ∧ Runs (.barWait always 1 0 2) (vec id fun t => t.setG 2 1).s ∧
    Runs (.barWait always 1 0 2) (ended (.over 0)).s ∧ Runs (.barWait always 1 0 2) vec.s ∧ Runs (.barTst always 1 2 0 2) vec.s ∧ Runs (.fence always .sys) vec.s ∧
    Runs (.fence always .pkg) onItsWay.s ∧ Runs (.waitany always 4 2 3) vec.s ∧
    Runs (.waitany always 4 2 3) (vec id fun t => (t.setG 2 3).setG 3 2).s ∧
    Runs (.waitany always 4 2 3) (ended (.over 31)).s ∧
    Runs (.waitany always 4 2 3) (vec id fun t => t.setG 2 1).s ∧ Runs (.fwait always 0xFFF) vec.s ∧
    Runs (.fwait always 0xFFF) (ended (.over 0)).s ∧
    Runs (.fwait always 0x800) (vec fun b => { b with flags := vset b.flags 11 1 }).s := by
  obtain ⟨⟨b1, b2, bw, b3, b4, -, b5, b6, b7⟩, ⟨f1, w1, w2, wo, w3, w4, w5⟩, -⟩ := h
  refine ⟨goWhen (b1 _ _ _) vec ?_ ?_, goWhen (b2 _ _ _) vec ?_ ⟨?_, no_reqs _ ?_, ?_⟩,
    goWaits (bw _ _ _ _ _ _ _ (otherOnWay.met ?_) ?_ (no_reqs _ ?_) ?_), goWhen (b4 _ _ _) vec ?_ ?_,
    goWhen (b3 _ _ _) (helps 0) ?_ ?_, goWhen (b5 _ _ _ _) (vec id fun t => t.setG 2 1) ?_ (.inr ?_),
    goWhen (b5 _ _ _ _) (ended (.over 0)) ?_ (.inl ?_), goWaits (b6 _ _ _ _ _ _ _ _ (vec.met ?_) ?_ ?_), goWhen (b7 _ _ _ _ _) vec ?_ ?_,
    goWhen (f1 _ _).1 vec ?_ ?_, goWaits ((f1 _ _).2 _ _ _ _ (onItsWay.met ?_) ?_ ?_), goWhen (w1 _ _ _ _) vec ?_ ?_,
    goWhen (w2 _ _ _ _ 1 ?_) (vec id fun t => (t.setG 2 3).setG 3 2) ?_ ⟨?_, ?_, ?_⟩,
    goWhen (wo _ _ _ _ 31) (ended (.over 31)) ?_ ⟨?_, ?_⟩,
    goWaits (w3 _ _ _ _ _ _ _ _ (Scene.met (x := vec id fun t => t.setG 2 1) ?_) ?_ ?_ ?_),
    goWhen (w4 _ _) vec ?_ (.inr ?_), goWhen (w4 _ _) (ended (.over 0)) ?_ (.inl ?_),
    goWaits (w5 _ _ _ _ _ _ 11 (Scene.met (x := vec fun b => { b with flags := vset b.flags 11 1 }) ?_) ?_ ?_ ?_ ?_)⟩
  all_goals first | decide | rfl | (unfold Ready; decide) | (unfold SourceDone; decide)

theorem witness_QuenchInstructions (h : Obligations.BarriersFencesWaits) :
    Runs (.heatArr always 2) (vec fun b => { b with lr := { b.lr with heatF := true } }).s ∧ Runs (.heatArr always 2) vec.s ∧
    Runs (.heatArr always 2) (helps 0).s ∧
    Runs (.heatArr always 2) (vec (fun b => { b with lr := { b.lr with heatF := true } }) fun t => { t with arrived := some 0 }).s ∧
    Runs (.heatWait always 1 2) (vec id id fun s => s.modCtx 0 fun c => { c with heat := 1 }).s ∧
    Runs (.heatWait always 1 2) vec.s := by
  obtain ⟨-, -, h1, h2, h3, h4, h5, h6⟩ := h
  refine ⟨goWhen (h1 _ _) (vec fun b => { b with lr := { b.lr with heatF := true } }) ?_ ⟨?_, ?_, ?_⟩,
    goWhen (h2 _ _) vec ?_ ⟨?_, ?_⟩, goWhen (h3 _ _) (helps 0) ?_ ?_,
    goWaits (h4 _ _ _ _ _ _ (Scene.met (x := vec (fun b => { b with lr := { b.lr with heatF := true } }) fun t =>
      { t with arrived := some 0 }) ?_) ?_ ?_ ?_),
    goWhen (h5 _ _ _) (vec id id fun s => s.modCtx 0 fun c => { c with heat := 1 }) ?_ ?_,
    goWaits (h6 _ _ _ _ _ _ _ (vec.met ?_) ?_)⟩
  all_goals decide

/-- A vector thread with a number in g2. -/
def counts (n : Nat) : Scene := vec id fun t => t.setG 2 (BitVec.ofNat 32 n)
/-- A thread of a block that holds accumulator units 4 and 5, whose address is in g2. -/
def holdsUnits (a : Nat) : Scene := vec (fun b => { b with regions := [(4, 2)] }) fun t => t.setG 2 (BitVec.ofNat 32 a)

/-- The bounds of a request: 0, 1, 256 and 257 units. -/
theorem witness_AccumulatorSpace (h : Obligations.AccumulatorSpace) :
    Runs (.aalloc always 4 1 2) (counts 0).s ∧ Runs (.aalloc always 4 1 2) (counts 257).s ∧
    Runs (.aalloc always 4 1 2) (counts 1).s ∧ Runs (.aalloc always 4 1 2) (counts 256).s ∧
    Runs (.afree always 2) (holdsUnits 0x104000).s ∧ Runs (.afree always 2) (holdsUnits 0x105000).s := by
  obtain ⟨h1, h2, -, h3, h4⟩ := h
  refine ⟨goWhen (h1 _ _ _ _) (counts 0) ?_ ⟨?_, .inl ?_⟩, goWhen (h1 _ _ _ _) (counts 257) ?_ ⟨?_, .inr ?_⟩,
    ⟨_, h2 _ _ _ _ 1 _ _ _ _ _ ((counts 1).met ?_) ((counts 1).inside ?_) ?_ ?_ ?_ ?_ ?_⟩,
    ⟨_, h2 _ _ _ _ 256 _ _ _ _ _ ((counts 256).met ?_) ((counts 256).inside ?_) ?_ ?_ ?_ ?_ ?_⟩,
    goWhen (h3 _ _ (4, 2)) (holdsUnits 0x104000) ?_ ⟨?_, ?_, ?_⟩, goRaises (h4 _ _ _ _ _ _ ((holdsUnits 0x105000).met ?_) ?_ ?_)⟩
  all_goals first | decide | (unfold NoRequests; decide)

theorem witness_HandleInstructions (h : Obligations.HandleInstructions) :
    Runs (.hwait always 0xFFFF) vec.s ∧ Runs (.hwait always 1) pending.s ∧ Runs (.htest always 1 0) pending.s ∧
    Runs (.hcancel always 0) pending.s ∧ Runs (.hcancel always 0) vec.s ∧ Runs (.hpass always 1 0) vec.s ∧
    Runs (.hpass always 3 3) vec.s ∧ Runs (.hget always 2 0) vec.s := by
  obtain ⟨h1, h2, h3, h4, h5, h6, h7, h8⟩ := h
  refine ⟨goWhen (h1 _ _) vec ?_ ?_, goWaits (h2 _ _ _ _ _ _ 0 (pending.met ?_) ?_ ?_ ?_), goWhen (h3 _ _ _) pending ?_ ?_,
    goWhen (h4 _ _) pending ?_ ?_, goWhen (h5 _ _) vec ?_ ?_, goWhen (h6 _ _ _ ?_) vec ?_ ?_, goWhen (h7 _ _) vec ?_ ?_,
    goWhen (h8 _ _ _) vec ?_ ?_⟩
  all_goals decide


/-- A command that names handle h0, package scope. -/
def toH0 : Compl := ⟨112, .pkg, false, 0, false, 0⟩
/-- Puts bytes into the page at 0x1000 of the scenes. -/
def holds (cs : List Host.Cell) (s : State) : State := { s with mem := table ++ cs }
/-- A scene whose descriptor has the given cells; without one it is an empty copy. -/
def described (cs : List Host.Cell) : Scene := vec id (aimed 0x1000) (holds cs)
/-- A tile of one byte elements, 256 bytes of a buffer. -/
def bytesOf (k : Buf) (x : TileSt) : Tile :=
  { Tile.unbound with bound := true, lay := { fmt := 5, buf := k, base := 0, s0 := 1, s1 := 1, s2 := 1, perm := 0 },
                      size := 256, st := x }
/-- A descriptor of a copy of one byte to tile 0, and a block whose tile 0 takes it. -/
def spreads : Scene := vec (fun b => { b with lr := { b.lr with aq := 1 }, tiles := [bytesOf .a .empty] }) (aimed 0x1000)
  (holds [(0x41010, 1), (0x41014, 1), (0x41018, 1), (0x4101C, 1), (0x41020, 1), (0x41024, 1), (0x41058, 5), (0x41059, 5),
    (0x4105B, 2)])

theorem witness_CopiesStart (h : Obligations.CopiesStart) :
    Runs (.cpy always toH0 2) (described []).s ∧ Runs (.cpyRed always toH0 2) (described [(0x4105A, 1)]).s ∧
    Runs (.cpyRed always toH0 2) (described []).s ∧ Runs (.cpy always toH0 2) (described [(0x4105C, 1)]).s ∧
    Runs (.cpy always toH0 2) (helps 0).s ∧ Runs (.cpyBc always toH0 2) spreads.s ∧
    Runs (.cpyBc always toH0 2) (helps 0).s ∧ Runs (.cpy always toH0 2) (aims 0x1040).s := by
  obtain ⟨h1, h2, h3, h4⟩ := h
  have c := h1 (.cpy always toH0 2) always toH0 2 false (.inl ⟨rfl, rfl⟩)
  have r := h1 (.cpyRed always toH0 2) always toH0 2 true (.inr ⟨rfl, rfl⟩)
  refine ⟨goWhen (c.1 _) (described []) ?_ ⟨?_, no_reqs _ ?_, ?_, ⟨?_, ?_, ok_of _ ?_⟩, ?_, ?_, ?_⟩,
    goWhen (r.1 _) (described [(0x4105A, 1)]) ?_ ⟨?_, no_reqs _ ?_, ?_, ⟨?_, ?_, ok_of _ ?_⟩, ?_, ?_, ?_⟩,
    goWhen (r.2.1 _ 0x12) (described []) ?_ ⟨?_, no_reqs _ ?_, ?_, ⟨?_, ?_, ok_of _ ?_⟩, ?_, ?_, ?_⟩,
    goWhen (c.2.1 _ 0x12) (described [(0x4105C, 1)]) ?_ ⟨?_, no_reqs _ ?_, ?_, ⟨?_, ?_, ok_of _ ?_⟩, ?_, ?_, ?_⟩,
    goWhen c.2.2 (helps 0) ?_ ?_,
    goWhen (h2 _ _ _ _ 0 0 (.int false 8)) spreads ?_ ⟨?_, no_reqs _ ?_, ?_, ⟨?_, ?_, ok_of _ ?_⟩, ?_, ?_, ?_, ?_, ?_, ?_⟩,
    goWhen (h3 _ _ _) (helps 0) ?_ ?_, goRaises (h4 _ _ _ _ _ _ _ ⟨_, .inl rfl⟩ ((aims 0x1040).met ?_) ?_ ?_)⟩
  all_goals first | decide | (unfold FlagsFree; decide)

/-- A view of one byte at virtual address 0x1000. -/
def oneByte : View := ⟨0x1000, 1, 1, 1, 5, false, false, 0, 0, 0, 0⟩
/-- A block whose tile 0 has that view, in a state and with an owner. -/
def viewed (x : TileSt) (e : Bool) : Scene :=
  vec (fun b => { b with lr := { b.lr with aq := 1 }, tiles := [{ bytesOf .a x with view := some oneByte, ownerE := e }] })
/-- A scene whose thread passes on by a chain of three words. -/
def past3 (x : Scene) : Scene := { x with pc := .within 0x01000030 }
/-- A chain of operands that are all 0, its sides tiles or not. -/
def linked (x y : Bool) : ChainOps := ⟨toH0, 2, 2, 127, x, y, .f8e4, .f8e4, 0, 0⟩

theorem witness_TileCopiesAndChainsStart (h : Obligations.TileCopiesAndChainsStart) :
    Runs (.cpyT always toH0 127) (viewed .empty false).s ∧ Runs (.cpyD always toH0 127 true) (viewed .ready true).s ∧
    Runs (.cpyT always toH0 2) (helps 0).s ∧ Runs (.chain always (linked false false)) vec.s ∧
    Runs (.chain always (linked false true)) (viewed .empty false).s ∧
    Runs (.chain always (linked true false)) (viewed .ready true).s ∧ Runs (.chain always (linked false true)) vec.s ∧
    Runs (.chain always (linked false true)) (helps 0).s := by
  obtain ⟨⟨h1, h2, h3⟩, h4⟩ := h
  refine ⟨goWhen (h1 _ _ _ _) (viewed .empty false) ?_ ⟨?_, ?_, ?_, ?_, rfl, ?_⟩,
    goWhen (h2 _ _ _ _ _) (viewed .ready true) ?_ ⟨?_, ?_, ?_, ?_, rfl, ?_⟩,
    goWhen (h3 _ _ _ _ (.inl rfl)) (helps 0) ?_ ?_, goWhen (h4 _ _).1 (past3 vec) ?_ ⟨?_, ?_, ?_, ?_, ?_⟩,
    goWhen (h4 _ _).1 (past3 (viewed .empty false)) ?_ ⟨?_, ?_, ?_, ?_, ?_⟩,
    goWhen (h4 _ _).1 (past3 (viewed .ready true)) ?_ ⟨?_, ?_, ?_, ?_, ?_⟩,
    goWhen ((h4 _ _).2.1 0x0C) (past3 vec) ?_ ⟨?_, ?_, ?_, ?_⟩, goWhen (h4 _ _).2.2 (past3 (helps 0)) ?_ ?_⟩
  all_goals first | decide | (unfold FlagsFree; decide)

/-- A thread that names tile 0 with 256 bytes of buffer A, layout word for unsigned bytes, and a view record at 0x1000. -/
def toBind : Scene := vec (fun b => { b with lr := { b.lr with aq := 1 } })
  (fun t => (((aimed 0x1000 t).setG 4 0x02A00000).setG 5 1).setG 8 256)
  (holds [(0x41008, 1), (0x4100C, 1), (0x41010, 1), (0x41014, 5)])

theorem witness_TileInstructions (h : Obligations.TileInstructions) :
    Runs (.tbind always 4 8 127 false true) toBind.s ∧ Runs (.tbind always 4 8 2 true false) toBind.s ∧
    Runs (.tgive always 127) (viewed .ready false).s ∧ Runs (.ttake always 127) (viewed .ready true).s ∧
    Runs (.tstat always 4 127) (viewed .filling false).s ∧ Runs (.tfree always 127) (viewed .draining false).s ∧
    Runs (.ttake always 127) (helps 0).s ∧ Runs (.tgive always 2) (counts 4).s := by
  obtain ⟨h1, h2, h3, h4, h5, h6, h7, h8⟩ := h
  refine ⟨goWhen (h1 _ _ _ _ _ _ 1) toBind ?_ ⟨?_, ⟨rfl, ?_, ?_, ?_, ?_, ?_, ?_, ?_⟩, ?_, ?_⟩,
    goWhen (h2 _ _ _ _ _ _ 1 _ _) toBind ?_ ⟨?_, ⟨rfl, ?_, ?_, ?_, ?_, ?_, ?_, ?_⟩, ⟨?_, ?_⟩, no_reqs _ ?_, ⟨?_, ?_, ok_of _ ?_⟩, some_of _ ?_⟩,
    goWhen (h3 _ _) (viewed .ready false) ?_ ⟨fun r hr => absurd hr List.not_mem_nil, ?_, ?_, ?_, ?_⟩, goWhen (h4 _ _) (viewed .ready true) ?_ ⟨?_, ?_, ?_, ?_, ?_⟩,
    goWhen (h5 _ _ _) (viewed .filling false) ?_ ?_, goWhen (h6 _ _) (viewed .draining false) ?_ ⟨?_, ?_⟩,
    goWhen (h7 _ _ _ (.inr (.inl rfl))) (helps 0) ?_ ?_, goRaises (h8 _ _ _ _ _ _ _ (.inl rfl) ((counts 4).met ?_) ?_ ?_)⟩
  all_goals decide

/-- A tile whose rows share their elements, in a state the matrix unit takes. -/
def flatTile (f : Nat) (k : Buf) (st : TileSt) : Tile :=
  { Tile.unbound with bound := true, lay := { fmt := f, buf := k, base := 0, s0 := 1, s1 := 0, s2 := 0, perm := 0 },
                      size := 256, st := st, ownerE := true }

/-- A control thread with a C tile 0, an A tile 1 and a B tile 2, an index tile 3 and a value tile 4. -/
def feeds (ft : Thread → Thread) : Scene := ctl (fun b => { b with
    lr := { b.lr with ntile := 5 }
    tiles := [flatTile 0 .c .ready, flatTile 1 .a .ready, flatTile 1 .w .ready, flatTile 7 .a .ready, flatTile 0 .a .ready] }) ft

theorem witness_MatrixInstructions (h : Obligations.MatrixInstructions) :
    Runs (.mma always 4 127 127) (feeds fun t => t.setG 4 0x20100).s ∧ Runs (.mzero always 127) (feeds id).s ∧
    Runs (.mdrain always 4 5) (feeds fun t => (t.setG 4 0x100).setG 5 0x40).s ∧
    Runs (.csel always 4 127) (feeds fun t => t.setG 4 0x040300).s ∧ Runs (.mma always 127 127 127) (feeds id).s ∧
    Runs (.mseq always 4 true) (feeds id).s ∧ Runs (.mseq always 4 false) (feeds id).s := by
  obtain ⟨⟨h1, h2, h3, h4, h5⟩, h6⟩ := h
  refine ⟨goWhen (h1 _ _ _ _ _ .mma (.inl ⟨rfl, rfl⟩)) (feeds fun t => t.setG 4 0x20100) ?_ ⟨?_, ?_, ?_, ?_, ?_, ?_⟩,
    goWhen (h2 _ _) (feeds id) ?_ ⟨?_, ?_, ?_, ?_, ?_, ?_⟩,
    goWhen (h3 _ _ _) (feeds fun t => (t.setG 4 0x100).setG 5 0x40) ?_ ⟨?_, ?_, ?_, ?_, ?_, ?_⟩,
    goWhen (h4 _ _ _) (feeds fun t => t.setG 4 0x040300) ?_ ⟨?_, ?_, ?_, ?_, ?_, ?_⟩,
    goRaises (h5 _ _ _ _ _ _ _ _ _ .mma (.inl ⟨rfl, rfl⟩) ((feeds id).met ?_) ?_ ?_ ?_),
    goWhen (h6 _ _ _).1 (feeds id) ?_ ?_, goWhen (h6 _ _ _).1 (feeds id) ?_ ?_⟩
  all_goals decide

/-- `mma.coop` of two participants from lane 0 on, gA in g4 and gB in g5. -/
def shared : Instr := .mmaCoop always 4 5 127 false .mma 1 0
/-- The overlay whose first word is that instruction. -/
def sharedImage : OvlCopy :=
  { image with words := image.words.set 3 (((encode shared).getD []).headD 0) }
/-- A control thread with C tile 0, A tile 1, B tile 2 and M = 128 in its words. -/
def joins (t : Thread) : Thread := (t.setG 4 0x20100).setG 5 1
/-- A gang of two blocks on one core: block 8, second of the gang, has issued the operation. -/
def pair : Scene := ctl (fun b => { b with lr := { b.lr with gang := 2 }, tiles := (feeds id).b.tiles }) joins
  fun s => { s with
    cores := vset s.cores 0 { homeCore with copies := [sharedImage] }
    blocks := s.blocks ++ s.blocks.map fun b => { b with
      id := 8, bid := b.bid + 1, coop := some { gb := 1, s0 := 0, p := 2, l := 0, since := 0, cfg := 64 } } }

/-- Both participants are among those whose formats and tiles are checked. -/
theorem pair_parts : (((pair.s.modBlock 7 fun y => { y with coop := some { gb := 1, s0 := 0, p := 2, l := 0, since := 0, cfg := 64 } }).coopParts
    pair.b 2 0).map (·.blk.id)) = [7, 8] := by decide

theorem witness_CooperativeProductsStart (h : Obligations.CooperativeProductsStart) : Runs shared pair.s := by
  refine goWhen (h always 4 5 127 false .mma 1 0 _) pair ?_ ⟨?_, ?_, ?_, ?_, ?_, ?_, ?_, ?_, ?_, ?_, ?_, ?_, rfl, ?_, ?_, ?_, ?_⟩
  all_goals decide

theorem stays {s : State} {b : Block} {t : Thread} {i : Instr} (pc : Word)
    (h : s.onward b.core b.ctx t.hdr t.pc (wordsOf i) = .within pc) : Inside s b t i (.within pc) := ⟨h, fun _ e => nomatch e⟩

theorem goIn {i : Instr} {s : State} {b : Block} {w : Who} {t : Thread} {s' : State} (h : PassesIn i s b w t s') (pc : Onward)
    (hi : Inside s' b t i pc) : Runs i s := ⟨_, h pc hi⟩

/-- A copy of overlay 2. -/
def second : OvlCopy := { image with id := 8, refs := [⟨0, 2, false, false⟩], mask := 2 }
/-- A thread whose core also holds some copies, and whose g2 names an overlay. -/
def names2 (n : Nat) (k : List OvlCopy) : Scene := vec id (fun t => t.setG 2 (BitVec.ofNat 32 n))
  fun s => { s with cores := vset s.cores 0 { homeCore with copies := image :: k } }

/-- A thread that names overlay 2, whose launch reserves no slot. -/
def cramped : Scene := vec (fun b => { b with lr := { b.lr with isq := 0 } }) fun t => t.setG 2 2

theorem witness_OverlayInstructionsAct (h : Obligations.OverlayInstructionsAct) :
    Runs (.ovld always 0 2) (names2 1 []).s ∧ Runs (.ovld always 0 2) (names2 5 []).s ∧
    Runs (.ovld always 0 2) cramped.s ∧ Runs (.ovld always 0 2) (names2 2 []).s ∧
    Runs (.ovpin always 1 2) (names2 2 [{ second with loading := true }]).s ∧
    Runs (.ovpin always 1 2) (names2 2 [second]).s ∧ Runs (.ovpin always 1 2) (names2 2 []).s ∧
    Runs (.ovunpin always 2) (names2 2 [{ second with pins := [((7, 2), 1)] }]).s ∧ Runs (.ovunpin always 2) (names2 2 [second]).s ∧
    Runs (.ovevict always 1 2) (names2 2 []).s ∧ Runs (.ovevict always 1 2) (names2 2 [{ second with loading := true }]).s ∧
    Runs (.ovevict always 1 2) (names2 2 [second]).s ∧ Runs (.ovevict always 1 2) (names2 1 []).s ∧
    Runs (.ovunpin always 2) (names2 5 []).s ∧ Runs (.ovq always 4 2) (names2 2 []).s ∧ Runs (.ovq always 4 2) (names2 1 []).s ∧
    Runs (.ovld always 0 2) (helps 0).s ∧ Runs (.ovpin always 1 2) (helps 0).s ∧ Runs (.ovunpin always 2) (helps 0).s := by
  obtain ⟨h, q1, q2, q3, q4, q5⟩ := h
  have l (x : Scene) := (h always 2 x.s x.b x.w x.t).1 0
  have p (x : Scene) := (h always 2 x.s x.b x.w x.t).2.1 1
  have u (x : Scene) := (h always 2 x.s x.b x.w x.t).2.2.1
  have e (x : Scene) := (h always 2 x.s x.b x.w x.t).2.2.2.1 1
  have n (x : Scene) := (h always 2 x.s x.b x.w x.t).2.2.2.2
  refine ⟨goIn (((l (names2 1 []) ((names2 1 []).met ?_) ?_ ?_).1 image ?_ ?_ ?_ ?_).1 ?_) (.within 0x01000020) ?_,
    goIn (((l (names2 5 []) ((names2 5 []).met ?_) ?_ ?_).2.1 ?_).1 ?_) (.within 0x01000020) ?_,
    goIn (((l cramped (cramped.met ?_) ?_ ?_).2.2.1 0x0F _ rfl).1 ?_) (.within 0x01000020) ?_,
    goIn ((l (names2 2 []) ((names2 2 []).met ?_) ?_ ?_).2.2.2 _ _ rfl ?_) (.within 0x01000020) ?_,
    goWaits ((p (names2 2 [{ second with loading := true }]) ((names2 2 [{ second with loading := true }]).met ?_) ?_ ?_).1 _ rfl ?_),
    goIn ((p (names2 2 [second]) ((names2 2 [second]).met ?_) ?_ ?_).2.1 second ?_ ?_ ?_) (.within 0x01000020) ?_,
    goIn ((p (names2 2 []) ((names2 2 []).met ?_) ?_ ?_).2.2 ?_) (.within 0x01000020) ?_,
    goIn ((u (names2 2 [{ second with pins := [((7, 2), 1)] }]) ((names2 2 [{ second with pins := [((7, 2), 1)] }]).met ?_) ?_ ?_).1 _ rfl ?_)
      (.within 0x01000020) ?_,
    goIn ((u (names2 2 [second]) ((names2 2 [second]).met ?_) ?_ ?_).2 ?_) (.within 0x01000020) ?_,
    goIn ((e (names2 2 []) ((names2 2 []).met ?_) ?_ ?_).1 ?_) (.within 0x01000020) ?_,
    goIn ((e (names2 2 [{ second with loading := true }]) ((names2 2 [{ second with loading := true }]).met ?_) ?_ ?_).2.1 _ rfl ?_)
      (.within 0x01000020) ?_,
    goIn ((e (names2 2 [second]) ((names2 2 [second]).met ?_) ?_ ?_).2.2.1 second _ ?_ ?_ rfl ?_) (.within 0x01000020) ?_,
    goIn ((e (names2 1 []) ((names2 1 []).met ?_) ?_ ?_).2.2.2 image _ ?_ ?_ rfl ?_) (.within 0x01000020) ?_,
    goRaises (n (names2 5 []) _ (.inl rfl) ((names2 5 []).met ?_) ?_ ?_),
    goWhen (q1 _ _ _) (names2 2 []) ?_ ?_, goWhen (q2 _ _ _ image) (names2 1 []) ?_ ?_, goWhen (q3 _ _ _) (helps 0) ?_ ?_,
    goWhen (q4 _ _ _ _ (.inl rfl)) (helps 0) ?_ ?_, goWhen (q5 _ _) (helps 0) ?_ ?_⟩
  all_goals first | decide | (unfold SourceDone; decide) | (unfold Valid; decide) | exact stays _ rfl

/-- A scene whose thread is in handler mode. -/
def handler (ft : Thread → Thread) (fs : State → State) : Scene := ctl id (fun t => ft { t with hmode := true }) fs

theorem witness_SpecialRegisters (h : Obligations.SpecialRegisters) :
    Runs (.rdsr always 4 0x00) vec.s ∧ Runs (.rdsr always 4 0x11) vec.s ∧ Runs (.rdsr always 4 0x01) vec.s ∧
    Runs (.rdsr always 4 0x02) vec.s ∧ Runs (.rdsr always 4 0x02) ctl.s ∧ Runs (.rdsr always 4 0x0B) vec.s ∧
    Runs (.rdsr always 4 0x0B) ctl.s ∧ Runs (.wrsr always 4 0x0D) vec.s ∧ Runs (.wrsr always 4 0x12) (handler id id).s ∧
    Runs (.wrsr always 4 0x13) (handler id id).s ∧ Runs (.wrsr always 4 0x21) (handler id id).s ∧
    Runs (.wrsr always 4 0x22) (handler id id).s ∧ Runs (.wrsr always 4 0x26) (handler id id).s := by
  obtain ⟨h1, h2, h3, h4, h5, h6, w1, w2, w3, w4, w5, w6⟩ := h
  refine ⟨goWhen (h1 _ _ _ 0) vec ?_ ?_, goWhen (h1 _ _ _ 0) vec ?_ ?_, goWhen (h2 _ _ 0) vec ?_ ⟨?_, ?_⟩,
    goWhen (h3 _ _ 0) vec ?_ ⟨?_, ?_⟩, goWhen (h4 _ _ _ (.inr rfl)) ctl ?_ ?_, goWhen (h5 _ _ 0) vec ?_ ?_,
    goWhen (h6 _ _) ctl ?_ ?_, goWhen (w1 _ _) vec ?_ ?_, goWhen (w2 _ _) (handler id id) ?_ ?_,
    goWhen (w3 _ _) (handler id id) ?_ ?_, goWhen (w4 _ _) (handler id id) ?_ ?_, goWhen (w5 _ _) (handler id id) ?_ ?_,
    goWhen (w6 _ _) (handler id id) ?_ ?_⟩
  all_goals decide

/-- A handler's thread that names vector thread 0, and that thread. -/
def warden (v : Word) (u : Thread → Thread) : Scene :=
  ctl (fun b => { b with threads := [u stander] }) fun t => { t.setG 2 v with hmode := true }

theorem witness_ThreadControl (h : Obligations.ThreadControl) :
    Runs (.park always 1 2) (warden 0 id).s ∧ Runs (.resume always 1 2) (warden 0 fun t => { t with parked := true }).s ∧
    Runs (.kill always 1 2) (warden 0 id).s ∧ Runs (.kill always 1 2) (warden 0xFFFFFFFF id).s ∧
    Runs (.park always 1 2) (warden 0xFFFFFFFF id).s ∧ Runs (.resume always 1 2) (warden 0 id).s ∧
    Runs (.kill always 1 2) (warden 5 id).s := by
  have k (x : Scene) := h always 1 2 x.s x.b x.w x.t
  have one (v : Word) (u : Thread → Thread) (hv : v = 0) : Names (warden v u).b v (.vec 0) (u stander) :=
    ⟨rfl, .inr ⟨0, rfl, by rw [hv]; rfl, by rw [hv]; decide⟩⟩
  have self (u : Thread → Thread) : Names (warden 0xFFFFFFFF u).b 0xFFFFFFFF .ctl (warden 0xFFFFFFFF u).t := ⟨rfl, .inl ⟨rfl, rfl⟩⟩
  have only (v : Word) (u : Thread → Thread) (hv : v = 0) (x : Who) (y : Thread)
      (hn : Names (warden v u).b v x y) : y = u stander := by
    obtain ⟨e, ⟨rfl, hc⟩ | ⟨n, rfl, hm, -⟩⟩ := hn
    · rw [hv] at hc; exact absurd hc (by decide)
    · obtain rfl : n = 0 := by rw [← hm, hv]; rfl
      exact (Option.some.inj e).symm
  have itself (u : Thread → Thread) (x : Who) (y : Thread) (hn : Names (warden 0xFFFFFFFF u).b 0xFFFFFFFF x y) : x = .ctl := by
    obtain ⟨-, ⟨rfl, -⟩ | ⟨n, -, -, hv⟩⟩ := hn
    · rfl
    · exact absurd rfl hv
  have nobody (u : Thread → Thread) (x : Who) (y : Thread) (hn : Names (warden 5 u).b 5 x y) : y.live = false := by
    obtain ⟨e, ⟨rfl, hc⟩ | ⟨n, rfl, hm, -⟩⟩ := hn
    · exact absurd hc (by decide)
    · obtain rfl : n = 5 := by rw [← hm]; rfl
      cases e
  refine ⟨goIn ((k (warden 0 id)).1 (.vec 0) _ ((warden 0 id).met ?_) (one 0 id rfl) ?_ ?_ ?_ ?_) (.within 0x01000020) ?_,
    goIn (((k (warden 0 fun t => { t with parked := true })).2.1 (.vec 0) _
      ((warden 0 fun t => { t with parked := true }).met ?_) (one 0 _ rfl) ?_ ?_).2 ?_ ?_) (.within 0x01000020) ?_,
    goIn (((k (warden 0 id)).2.2.1 (.vec 0) _ ((warden 0 id).met ?_) (one 0 id rfl) ?_).1 ?_) (.within 0x01000020) ?_,
    ⟨_, ((k (warden 0xFFFFFFFF id)).2.2.1 .ctl _ ((warden 0xFFFFFFFF id).met ?_) (self id) ?_).2 ?_⟩,
    goIn ((k (warden 0xFFFFFFFF id)).2.2.2 _ (.inl ⟨rfl, fun x u hn => .inr (.inr (itself id x u hn))⟩) ((warden 0xFFFFFFFF id).met ?_)) (.within 0x01000020) ?_,
    goIn ((k (warden 0 id)).2.2.2 _ (.inr (.inl ⟨rfl, fun x u hn => .inr ((only 0 id rfl x u hn).symm ▸ rfl)⟩)) ((warden 0 id).met ?_)) (.within 0x01000020) ?_,
    goIn ((k (warden 5 id)).2.2.2 _ (.inr (.inr ⟨rfl, nobody id⟩)) ((warden 5 id).met ?_)) (.within 0x01000020) ?_⟩
  all_goals first | decide | exact stays _ rfl

/-- A handler's thread whose address pair is `a`. -/
def keeps (a : Nat) (cs : List Host.Cell) : Scene := handler (aimed a) (holds cs)

/-- A block with a held thread, a rejoin record and a candidate that the thread stands in. -/
def kept : Block :=
  { home with ctl := none, threads := [{ stander with held := true, rej := some 0x01000040 }],
              rejoins := [⟨0x01000040, none, 1, 1, 7, 0, false⟩], cands := [⟨7, 0x01000010, some 0x01000040, 0, 3⟩] }
/-- Its state, some time after the thread was held. -/
def keeping : State := { State.reset with tick := 7000 }

theorem witness_SavingAndRestoring (h : Obligations.SavingAndRestoring) :
    Runs (.frsave always 2) (keeps 0x1000 []).s ∧ Runs (.frload always 2) (keeps 0x1000 []).s ∧
    Runs (.bsave always 2) (keeps 0x1008 []).s ∧
    Runs (.brest always 2) (keeps 0x1000 [(0x41006, 1), (0x4100E, 1), (0x41016, 1), (0x4101E, 1)]).s ∧
    Runs (.frsave always 2) (keeps 0x1008 []).s ∧ Runs (.brest always 2) (keeps 0x1004 []).s ∧
    Bar.ofImage (Bar.image ⟨true, true, 1025, 4095, -2147483648⟩) = some ⟨true, true, 1025, 4095, -2147483648⟩ ∧
    Bar.ofImage (Bar.image ⟨false, false, 1, 0, 2147483647⟩) = some ⟨false, false, 1, 0, 2147483647⟩ ∧
    field (keeping.frontierBytes kept) 84 4 = 0xFFFFFFFF ∧
    (readFrontier 90000 ((keeping.frontierBytes kept).take 64) ((keeping.frontierBytes kept).drop 64)).clean = true := by
  obtain ⟨h1, h2, h3⟩ := h
  refine ⟨goIn ((h1 always 2 _ _ _ _).1 _ ((keeps 0x1000 []).met ?_) ?_ (no_reqs _ ?_) ?_ rfl) (.within 0x01000020) ?_,
    goIn ((h1 always 2 _ _ _ _).2.1 _ _ ((keeps 0x1000 []).met ?_) ?_ (no_reqs _ ?_) ⟨?_, ?_, rfl⟩ ?_ ?_ ?_ ⟨?_, ?_, rfl⟩ ?_ ?_ ?_)
      (.within 0x01000020) ?_,
    goIn ((h1 always 2 _ _ _ _).2.2.1 _ ((keeps 0x1008 []).met ?_) ?_ (no_reqs _ ?_) ?_ rfl) (.within 0x01000020) ?_,
    goIn ((h1 always 2 _ _ _ _).2.2.2.1 _ _
      ((keeps 0x1000 [(0x41006, 1), (0x4100E, 1), (0x41016, 1), (0x4101E, 1)]).met ?_) ?_ (no_reqs _ ?_) ?_ rfl rfl ?_)
      (.within 0x01000020) ?_,
    goRaises ((h1 always 2 _ _ _ _).2.2.2.2 _ (.inl ⟨.inl rfl, ?_⟩) ((keeps 0x1008 []).met ?_)),
    goRaises ((h1 always 2 _ _ _ _).2.2.2.2 _ (.inr ⟨.inr rfl, ?_⟩) ((keeps 0x1004 []).met ?_)),
    (h2 ⟨true, true, 1025, 4095, -2147483648⟩ (by decide) (by decide) (by decide) (by decide) (by decide)).1,
    (h2 ⟨false, false, 1, 0, 2147483647⟩ (by decide) (by decide) (by decide) (by decide) (by decide)).1,
    ((h3 keeping kept ?_ ?_ ?_ ?_ ?_).2.2.1 0 _ rfl).2.1, ((h3 keeping kept ?_ ?_ ?_ ?_ ?_).2.2.2.2 90000 ?_).1⟩
  all_goals first | decide | exact stays _ rfl

/-- A handler that returns to an address, from the last word of its basic block. -/
def returns (a : Word) (hw : Bool) (re : Bool) : Scene :=
  handler (fun t => { t with pc := 0x01000030, hpc := a, hpcHw := hw, repark := re }) id

/-- A control thread that is alone and was not restored: no thread of its block was. -/
theorem none_restored (x : Scene) (h1 : x.b.threads = []) (h2 : (x.b.thread .ctl).all (!·.restored) = true) (v : Who) (u : Thread)
    (h : x.b.thread v = some u) (hr : u.restored = true) : x.s.recordOpen x.b v u = true := by
  cases v with
  | ctl => rw [h] at h2; rw [Option.all_some, hr] at h2; exact Bool.noConfusion h2
  | vec n => simp only [Block.thread, h1, List.getElem?_nil] at h; cases h

theorem witness_SystemExtras (h : Obligations.SystemExtras) :
    Runs (.trap always 5) vec.s ∧ Runs (.trap always 5) last.s ∧ Runs (.eret always) (returns 0x01000018 true false).s ∧
    Runs (.eret always) (returns 0x01000010 false false).s ∧ Runs (.eret always) (returns 0x02000018 false false).s ∧
    Runs (.eret always) (returns 0x01000018 false false).s ∧ Runs (.eret always) (returns 0x01000011 false false).s ∧
    Runs (.eret always) (returns 0x01000018 true true).s ∧ Runs (.logpush always 2) vec.s ∧ Runs (.logpush always 2) (helps 0).s ∧
    Runs (.tlbinv always 2 1) (handler id id).s := by
  obtain ⟨h1, h2, h3, h4⟩ := h
  refine ⟨⟨_, (h1 always _ _ _ _).1 5 _ (vec.met ?_) (vec.inside ?_)⟩,
    ⟨_, (h1 always _ _ _ _).1 5 _ (last.met ?_) (last.inside ?_)⟩,
    ⟨_, (h1 always _ _ _ _).2.1 ((returns 0x01000018 true false).met ?_) ?_ ?_ ?_ ?_⟩,
    ⟨_, (h1 always _ _ _ _).2.2.1 ((returns 0x01000010 false false).met ?_) ?_ ?_ ?_ ?_ (.inr ?_)⟩,
    ⟨_, (h1 always _ _ _ _).2.2.1 ((returns 0x02000018 false false).met ?_) ?_ ?_ ?_ ?_ (.inl ?_)⟩,
    goRaises ((h1 always _ _ _ _).2.2.2.1 image ((returns 0x01000018 false false).met ?_) ?_ ?_ ?_ ?_ ?_ ?_),
    goRaises ((h1 always _ _ _ _).2.2.2.2.1 ((returns 0x01000011 false false).met ?_) ?_ ?_ ?_),
    ⟨_, (h1 always _ _ _ _).2.2.2.2.2 ((returns 0x01000018 true true).met ?_) ?_ ?_ (none_restored _ rfl ?_)⟩,
    goWhen (h2 _ _) vec ?_ ?_, goWhen (h3 _ _) (helps 0) ?_ ?_, ⟨_, h4 _ _ _ _ _ _ _ ((handler id id).met ?_) (no_reqs _ ?_)⟩⟩
  all_goals decide

/-- A thread that stands before the header of the scene. -/
def before (t : Thread) : Thread := { t with pc := 0x01000010, entering := true }
/-- The state between issues. -/
def idle (s : State) : State := { s with cur := none, tick := 10 ^ 12 }
/-- A context that is being pre-empted. -/
def stopping (s : State) : State := idle (s.modCtx 0 fun c => { c with pre := .stopping })

/-- A control thread, and a vector thread, that stands before a header. -/
def ctlBefore (fs : State → State) : Scene := ctl id before fs
def vecBefore : Scene := vec id before idle

theorem lone_ctl (x : Scene) (h1 : x.b.threads = []) (v : Who) (u : Thread) (h : x.b.thread v = some u) (hv : v ≠ .ctl) : False := by
  cases v with
  | ctl => exact hv rfl
  | vec n => simp only [Block.thread, h1, List.getElem?_nil] at h; cases h

theorem lone_vec (x : Scene) (h1 : x.b.threads.length = 1) (h2 : x.b.ctl = none) (v : Who) (u : Thread)
    (h : x.b.thread v = some u) (hv : v ≠ .vec 0) : False := by
  cases v with
  | ctl => simp only [Block.thread, h2] at h; cases h
  | vec n =>
    have := (List.getElem?_eq_some_iff.mp h).1
    exact hv (congrArg Who.vec (by omega))

theorem ctl_before (fs : State → State) (h : (fs (around (ctlBefore fs).b (.control 7))).block 7 = some (ctlBefore fs).b) :
    Before (ctlBefore fs).s (ctlBefore fs).b .ctl (ctlBefore fs).t 0x01000010 :=
  ⟨h, rfl, ⟨rfl, rfl, rfl, rfl, rfl, rfl⟩, fun v u hu hv _ _ => lone_ctl (ctlBefore fs) rfl v u hu hv⟩

theorem vec_before : Before vecBefore.s vecBefore.b (.vec 0) vecBefore.t 0x01000010 :=
  ⟨rfl, rfl, ⟨rfl, rfl, rfl, rfl, rfl, rfl⟩, fun v u hu hv _ _ => lone_vec vecBefore rfl rfl v u hu hv⟩

/-- A control thread that stands before word 0x18, which is no header, and one whose header asks for the last form. -/
def noHeader : Scene := ctl id (fun t => { t with pc := 0x01000018, entering := true }) idle
def badHeader : Scene := ctl id before fun s => idle { s with
  cores := vset s.cores 0 { homeCore with copies := [{ image with words := image.words.set 2 0xF000000000000002 }] } }

/-- A block whose thread 0 enters its rejoin point, which thread 1 has entered. -/
def rejoining : Block :=
  { home with threads := [{ stander with rej := some 0x01000010 }]
              rejoins := [⟨0x01000010, none, 3, 2, 0, 0, false⟩] }

theorem witness_HeadersAreEntered (h : Obligations.HeadersAreEntered) :
    Runs (.blockHeaderEntry 7 none 0x01000010) (ctlBefore idle).s ∧ Runs (.blockHeaderEntry 7 (some 0) 0x01000010) vecBefore.s ∧
    (Block.rejoinStep { home with threads := [stander] } 0 0 0x01000010 = { home with threads := [stander] }) ∧
    (∃ u, (rejoining.rejoinStep 0 0 0x01000010).thread (.vec 0) = some u) ∧
    (Block.rejoinStep { rejoining with rejoins := [] } 0 0 0x01000010 =
      Block.modThread { rejoining with rejoins := [] } (.vec 0) fun u => { u with rej := none }) ∧
    Runs (.blockHeaderEntry 7 none 0x01000010) (ctlBefore stopping).s ∧ Runs (.blockHeaderEntry 7 none 0x01000010) badHeader.s ∧
    Runs (.blockHeaderEntry 7 none 0x01000018) noHeader.s := by
  obtain ⟨h1, h2, h3, h4, h8, h5, h6, h7⟩ := h
  refine ⟨⟨_, h1 _ (ctlBefore idle).b _ _ image _ (ctl_before idle rfl) ⟨?_, ?_, rfl, ?_⟩ ?_ ?_ ?_ ?_⟩,
    ⟨_, h2 _ vecBefore.b 0 _ _ image _ vec_before ⟨?_, ?_, rfl, ?_⟩ ?_ ?_ ?_⟩,
    h3 _ 0 0 0x01000010 stander ?_ ?_,
    (h4 rejoining 0 0 0x01000010 { stander with rej := some 0x01000010 } ⟨0x01000010, none, 3, 2, 0, 0, false⟩ ?_ ?_ ?_ ?_).imp
      fun _ e => e.1,
    h8 { rejoining with rejoins := [] } 0 0 0x01000010 { stander with rej := some 0x01000010 } ?_ ?_ ?_ ?_,
    ⟨_, h5 _ (ctlBefore stopping).b .ctl _ _ (ctl_before stopping rfl) ?_ ?_⟩,
    ⟨_, h6 _ badHeader.b badHeader.t 0x01000010 { image with words := image.words.set 2 0xF000000000000002 } _ 0x03
      ⟨rfl, rfl, ⟨rfl, rfl, rfl, rfl, rfl, rfl⟩, fun v u hu hv _ _ => lone_ctl badHeader rfl v u hu hv⟩ ⟨?_, ?_, rfl, ?_⟩ ?_ ?_ ?_⟩,
    ⟨_, h7 noHeader.s noHeader.b .ctl noHeader.t 0x01000018 image
      ⟨rfl, rfl, ⟨rfl, rfl, rfl, rfl, rfl, rfl⟩, fun v u hu hv _ _ => lone_ctl noHeader rfl v u hu hv⟩ ?_ ?_ ?_ ?_ ?_⟩⟩
  all_goals decide

/-- The block of a scene, changed, in a state between issues, changed. -/
def held (fb : Block → Block) (ft : Thread → Thread) (fs : State → State := id) : Scene := vec fb ft fun s => fs (idle s)
def heldCtl (fb : Block → Block) (ft : Thread → Thread) (fs : State → State := id) : Scene := ctl fb ft fun s => fs (idle s)
/-- A record of the rejoin point 0x01000010 that thread 1 has entered. -/
def record : Rejoin := ⟨0x01000010, none, 3, 2, 0, 0, false⟩
/-- An instance that lane 0 has met. -/
def lonely : Rdv := ⟨some 0, 0x01000018, .qxH always ⟨1, 2, 3, 1⟩, [arrival 0 5 true]⟩
/-- A park of vector thread 3, for the handler. -/
def news : ParkEvent := { who := .vec 3, cause := 0x13, hrec := 0x2000, order := 0 }

theorem witness_SlotsAndBounds (h : Obligations.SlotsAndBounds) :
    Runs (.issueSlot 0 3) (held id id).s ∧ Runs (.issueSlot 0 0) (held id id).s ∧
    (∃ t, (held id id).b.thread (.vec 0) = some t ∧ (held id id).s.eligible (held id id).b (.vec 0) t = true) ∧
    Runs (.controlCoreIssue 0) (held id id).s ∧ Runs (.controlCoreIssue 0) (heldCtl id id).s ∧
    Runs (.rejoinHoldTimeout 7 0 0x01000010 none) (held (fun b => { b with rejoins := [record] }) id).s ∧
    (∀ t, ((held (fun b => { b with rejoins := [{ record with ent := 1 }] }) fun t => { t with held := true }).b.releaseOver 0
      0x01000010 none).thread (.vec 0) = some t → t.held = false) ∧
    Runs (.rendezvousTimeout 7 0 0x01000018) (held (fun b => { b with rdvs := [lonely] }) id).s ∧
    Runs (.watchdogTimeout 7 (.vec 0)) (held id (fun t => { t with wait := .bar 0 0 })
      fun s => s.modCtx 0 fun c => { c with wdog := 1 }).s ∧
    Runs (.handlerEntry 7) (heldCtl (fun b => { b with parks := [news] }) before).s ∧
    InHandler ((held id id).s.takePreempt 7 (.vec 0)) 7 (.vec 0) 0x1F 0x01000018 0 0x01000010 := by
  obtain ⟨⟨h1, h2, h3, h4, h5⟩, w1, w2, w3, w4, w5, w6⟩ := h
  obtain ⟨g, hg, hb, hw⟩ : ∃ g, (held id id).s.groupsOn 0 0 = [g] ∧ g.blk = 7 ∧ State.bundleOf (held id id).s (held id id).b g = [0] :=
    ⟨_, rfl, rfl, rfl⟩
  refine ⟨⟨_, h1 (held id id).s 0 3 ?_ ⟨?_, rfl, ?_, ?_, ?_, ?_⟩ ?_⟩,
    (h2 (held id id).s 0 0 g (held id id).b ?_ ⟨?_, rfl, ?_, ?_, ?_, ?_⟩ (by rw [hg]; exact .head _)
      (fun x hx hn => absurd (by rw [hg] at hx; exact List.mem_singleton.mp hx) hn) (by rw [hb]; rfl)).imp fun _ e => e.1,
    (h3 (held id id).s (held id id).b g 0 (by rw [hw]; exact .head _)).imp fun _ e => ⟨e.1, e.2.1⟩,
    ⟨_, h4 (held id id).s 0 ⟨?_, rfl, ?_, ?_, ?_, ?_⟩ ?_⟩,
    (h5 (heldCtl id id).s 0 (heldCtl id id).b ⟨?_, rfl, ?_, ?_, ?_, ?_⟩ ?_ ?_).imp fun _ e => e.1,
    ⟨_, w1 _ (held (fun b => { b with rejoins := [record] }) id).b record rfl (.head _) ?_ ?_ ?_⟩,
    fun t => w2 _ { record with ent := 1 } 0 t (.head _) ?_ ?_ ?_,
    ⟨_, w3 _ (held (fun b => { b with rdvs := [lonely] }) id).b lonely _ 0 rfl rfl ?_ rfl ?_ ?_⟩,
    ⟨_, w4 _ (held id fun t => { t with wait := .bar 0 0 }).b (.vec 0) _ rfl rfl ?_ ?_ ?_ ?_ ?_ ?_⟩,
    (w5 _ (heldCtl (fun b => { b with parks := [news] }) before).b news [] _ image 0x01000010 _ rfl rfl rfl ?_ ?_ ?_ ?_ (.inl ?_) ?_ ?_ ?_
      ⟨?_, ?_, rfl, ?_⟩ ?_ ?_).imp fun _ e => e.1,
    w6 (held id id).s (held id id).b (.vec 0) _ image 0x01000010 _ rfl rfl ?_ ?_ ⟨?_, ?_, rfl, ?_⟩ ?_ ?_⟩
  all_goals first | decide | (unfold Over; decide)

/-- A thread that has ended. -/
def over_ (t : Thread) : Thread := { t with live := false }

/-- A block whose threads have ended. -/
theorem ended_vec (x : Scene) (h1 : x.b.threads.length = 1) (h2 : x.b.ctl = none) (h3 : (x.b.thread (.vec 0)).all (!·.live) = true) :
    AllEnded x.b := by
  intro w t h
  by_cases hw : w = .vec 0
  · rw [hw] at h; rw [h] at h3; simpa using h3
  · exact (lone_vec x h1 h2 w t h hw).elim

/-- A block whose one thread parked, and a context whose park records begin at an address. -/
def stopped (a : DWord) : Scene :=
  held id (fun t => { t with parked := true, keptPc := 0x01000018 })
    fun s => holds [(0x4100C, 0x10), (0x4100F, 1)] (s.modCtx 0 fun c => { c with parkbase := a })
/-- A block whose one thread parked at the start of its launch's overlay. -/
def unstarted : Scene := held id (fun t => { t with parked := true, keptPc := 0x01000000 })
/-- A block that is saved when it ends. -/
def saved : Scene := held (fun b => { b with saving := true }) over_ fun s => s.modCtx 0 fun c => { c with pre := .stopping }
/-- A state without blocks whose context 0 is in a phase of pre-emption. -/
def quiet (p : Preempt) : State := idle ({ State.reset with boot := .done }.modCtx 0 fun c => { c with pre := p })
/-- A block that waits for the whole accumulator buffer while it holds a unit of its own. -/
def starved : Scene :=
  held (fun b => { b with lr := { b.lr with cq := 1 }, areqs := [⟨.vec 0, 256, 4, 1, 0⟩] }) fun t => { t with wait := .aalloc }

theorem witness_BlocksAreEnded (h : Obligations.BlocksAreEnded) :
    Runs (.runtimeResume 7 (.vec 0)) (stopped 0).s ∧ Runs (.runtimeResume 7 (.vec 0)) unstarted.s ∧
    Runs (.runtimeResume 7 (.vec 0)) (stopped 0x1000).s ∧
    Runs (.runtimeKill 7 (.vec 0)) (held (fun b => { b with ctl := some stander }) fun t => { t with parked := true }).s ∧
    Runs (.runtimeKill 7 .ctl) (heldCtl id fun t => { t with parked := true }).s ∧ Runs (.blockKill 7 0x13) (held id id).s ∧
    Runs (.preemptContext 0) (quiet .running) ∧ Runs (.preemptionComplete 0) (quiet .stopping) ∧
    Runs (.contextResume 0) (quiet .stopped) ∧ Runs (.blockRetire 7) (held id over_).s ∧ Runs (.blockRetire 7) saved.s ∧
    Runs (.aallocStallFail 0) starved.s := by
  obtain ⟨⟨h1, h0, h2, h3, h4, h5⟩, b1, b2, b3, b4, b5, b6⟩ := h
  refine ⟨⟨_, h1 (stopped 0).s (stopped 0).b (.vec 0) _ ?_ rfl rfl ?_ ?_ ?_ ?_ ?_ ?_⟩,
    ⟨_, h0 unstarted.s unstarted.b (.vec 0) _ ?_ rfl rfl ?_ ?_ ?_ ?_ ?_ ?_⟩,
    ⟨_, h2 (stopped 0x1000).s (stopped 0x1000).b (.vec 0) _ _ ?_ rfl rfl ?_ ?_ ?_ rfl ?_ ?_ ?_⟩,
    ⟨_, h3 (held (fun b => { b with ctl := some stander }) fun t => { t with parked := true }).s
      (held (fun b => { b with ctl := some stander }) fun t => { t with parked := true }).b 0 _ stander ?_ rfl rfl ?_ ?_ rfl ?_ ?_⟩,
    ⟨_, h4 (heldCtl id fun t => { t with parked := true }).s (heldCtl id fun t => { t with parked := true }).b _ ?_ rfl rfl ?_ ?_ ?_ ?_ fun i u e =>
      (lone_ctl (heldCtl id fun t => { t with parked := true }) rfl _ _ e (by simp)).elim⟩,
    (h5 (held id id).s (held id id).b 0x13 ?_ rfl).imp fun _ e => e.choose_spec.1,
    ⟨_, b1 (quiet .running) 0 ?_ ?_ ?_ ?_⟩, ⟨_, b2 (quiet .stopping) 0 ?_ ?_ ?_ ?_ ?_⟩, ⟨_, b3 (quiet .stopped) 0 ?_ ?_ ?_⟩,
    (b4 (held id over_).s (held id over_).b rfl (ended_vec _ rfl rfl rfl) ?_ ?_ ?_ ?_ ?_ ?_ ?_).imp fun _ e => e.1,
    (b5 saved.s saved.b rfl (ended_vec _ rfl rfl rfl) ?_ ?_ ?_ ?_ ?_ ?_ ?_ ?_ ?_ ?_).imp fun _ e => e.1,
    ⟨_, b6 starved.s 0 [] 7 ⟨.vec 0, 256, 4, 1, 0⟩ ?_ ?_ ?_⟩⟩
  all_goals first
    | decide
    | (unfold NoRequests; decide)
    | exact fun r hr _ => absurd (show r ∈ ([] : List Req) from hr) List.not_mem_nil

/-- A launch record of one block of one thread, with `n` predecessors. -/
def launchBytes (n : Byte) : List Byte :=
  List.replicate 8 0 ++ [1, 0, 0, 8] ++ List.replicate 7 0 ++ [1] ++ List.replicate 16 0 ++ [n] ++ List.replicate 219 0
/-- The launch of that record, ready, the first of its queue. -/
def oneLaunch : Launch :=
  { seq := 3, ctx := 0, q := 0, idx := 0, addr := 0x8000, lr := readLaunch (launchBytes 0), npred := 0, handed := 0, back := [],
    ended := 0, status := 0, skip := none, judged := true, gone := false }
/-- The state in which context 0 has one queue of two slots, the first with a record, and some launches. -/
def queued (n : Byte) (l : List Launch) : State :=
  { State.reset with
    boot := .done, tick := 256, launches := l, mem := table
    dies := vset State.reset.dies 0 { State.reset.die 0 with adv := [CoreRes.empty], queue := [(3, [0])] }
    ctxs := vset State.reset.ctxs 0 { homeCtx with
      hslots := 64, dbaddr := 0x1000, nq := 1, qos := 1, inAct := true
      queues := [{ base := 0x8000, n := 1, ring := [(0, launchBytes n)], tail := 1, acc := l.length, spent := l.map fun x => (0, x.idx) }] } }

/-- The same while the die of the doorbell page is being reset. -/
def rungLate : State := { queued 1 [] with dies := vset (queued 1 []).dies 0 { (queued 1 []).die 0 with st := .resetting 0 } }

theorem witness_LaunchesAreAccepted (h : Obligations.LaunchesAreAccepted) :
    Runs (.doorbellWrite 0 15 0xFFFFFFFF) (queued 1 []) ∧ Runs (.doorbellWrite 0 15 0xFFFFFFFF) rungLate ∧
    (∃ k, (((queued 1 []).ringTail 0 0 2).ctx 0).queue 0 = some k ∧ k.tail = 2) ∧
    (queued 1 []).ringTail 0 0 3 = (queued 1 []).ctxEvent 0 0x01 0 3 ∧
    Runs (.launchAccept 0 0) (queued 1 []) ∧ Runs (.launchAccept 0 0) ((queued 1 []).modCtx 0 fun c => { c with hslots := 0 }) ∧
    (readLaunch (launchBytes 7)).npred = field (launchBytes 7) 0x24 2 ∧
    (queued 1 []).refuses 0 { readLaunch (launchBytes 0) with bdim := 1025 } = true := by
  obtain ⟨⟨h1, h1', h2, h3⟩, h4, h5, h6, h7⟩ := h
  refine ⟨(h1 (queued 1 []) 0 15 0xFFFFFFFF 0x41000 ?_ rfl rfl rfl ?_ ?_ ?_).imp fun _ e => e.1,
    (h1' rungLate 0 15 0xFFFFFFFF 0x41000 ?_ rfl rfl rfl ?_ ?_).imp fun _ e => e.choose_spec.1,
    ⟨_, h2 (queued 1 []) 0 0 2 _ ?_ rfl ?_, ?_⟩, h3 (queued 1 []) 0 0 3 _ rfl ?_,
    (h4 (queued 1 []) 0 0 _ ?_ rfl rfl ?_ ?_ ?_ ?_ ?_).imp fun _ e => e.1,
    (h5 ((queued 1 []).modCtx 0 fun c => { c with hslots := 0 }) 0 0 _ rfl rfl ?_ ?_ ?_ ?_).imp fun _ e => e.1,
    (h6 (launchBytes 7) ?_).links.2.1, (h7 (queued 1 []) 0 _).mpr (.inr (.inr (.inl ?_)))⟩
  all_goals decide

/-- A launch that is skipped, with a completion word in page 0 and an interrupt. -/
def skipped : Launch := { oneLaunch with skip := some 0x01, lr := { oneLaunch.lr with done := 0x1000, irq := true } }

theorem witness_LaunchesRunAndComplete (h : Obligations.LaunchesRunAndComplete) :
    Runs .batchForm (queued 0 [oneLaunch]) ∧ Runs (.resourceAdvertise 0) (queued 0 []) ∧
    Runs (.blockPlace 0) (queued 0 [oneLaunch]) ∧
    (∃ b ∈ ((queued 0 [oneLaunch]).placeBlock 5 oneLaunch 0).blocks, b.core = 5) ∧
    Runs (.launchComplete 3) (queued 0 [skipped]) ∧ Runs (.launchComplete 3) (queued 0 [{ oneLaunch with ended := 1 }]) ∧
    (∃ t, (queued 2 [{ oneLaunch with npred := 2 }]).decrement 0x8000 0 = t) ∧
    (queued 0 [oneLaunch]).decrement 0x8000 0 = (queued 0 [oneLaunch]).ctxEvent 0 0x03 0x8000 0 ∧
    (queued 0 []).decrement 0x8000 0 = (queued 0 []).ctxEvent 0 0x03 0x8000 0 ∧
    ((queued 2 []).decrement 0x8000 0).launches = [] ∧
    (queued 2 []).decrement 0x8200 5 = (queued 2 []).ctxEvent 5 0x03 0x8200 0 := by
  obtain ⟨⟨h1, h2, h3, h4⟩, h5, h6, h7, h8, h9, h10⟩ := h
  obtain ⟨b, hb⟩ : ∃ b, (queued 0 [oneLaunch]).noteReady.batches = [b] ∧ ((queued 0 [oneLaunch]).ctx b.l.ctx).inAct = true :=
    ⟨_, rfl, rfl⟩
  have one (x : Batch) (hx : x ∈ (queued 0 [oneLaunch]).noteReady.batches) : x = b := by
    rw [hb.1] at hx; exact List.mem_singleton.mp hx
  refine ⟨(h1 (queued 0 [oneLaunch]) b rfl ?_ (by rw [hb.1]; exact .head _) (fun x hx => one x hx ▸ hb.2)
      fun x hx hn => absurd (one x hx) hn).imp fun _ e => e.1,
    ⟨_, h2 (queued 0 []) 0 ?_ ?_⟩, ⟨_, h3 (queued 0 [oneLaunch]) 0 3 0 [] [] oneLaunch 0 ?_ rfl rfl ?_ ?_ ?_ ?_⟩,
    (h4 (queued 0 [oneLaunch]) 5 oneLaunch 0).imp fun _ e => ⟨e.1, e.2.2.2.2.1⟩,
    ⟨_, h5 (queued 0 [skipped]) skipped _ rfl (.inl ?_) ?_ ?_ ?_ ?_ (wrote ?_).choose_spec ?_⟩,
    ⟨_, h6 (queued 0 [{ oneLaunch with ended := 1 }]) { oneLaunch with ended := 1 } rfl (.inr ⟨?_, rfl⟩) ?_ ?_ ?_ ?_⟩,
    ⟨_, h7 (queued 2 [{ oneLaunch with npred := 2 }]) 0x8000 0 0 0 0 _ 0 { oneLaunch with npred := 2 } ?_ rfl rfl ?_ rfl rfl
      rfl ?_ ?_ ?_⟩, h8 (queued 0 [oneLaunch]) 0x8000 0 0 0 0 _ 0 ?_ rfl rfl ?_,
    (h9 (queued 0 []) 0x8000 0 0 0 0 _ ?_ ?_ rfl rfl).1 ?_, ((h9 (queued 2 []) 0x8000 0 0 0 0 _ ?_ ?_ rfl rfl).2 ?_).1,
    h10 (queued 2 []) 0x8200 5 ?_⟩
  all_goals decide

/-- An access of four bytes of page 0 by the vector thread of block 7, and its state. -/
def access (k : ReqKind) (st : ReqSt) : Req := { loadDue (.vec 0) with kind := k, st := st, pa := 0x41000, pte := 0x40007 }
/-- A load into g2, and a store. -/
def loads : ReqKind := .load 2 4 false false false
def stores (ack : Bool) : ReqKind := .store [1, 2, 3, 4] ack none
/-- The state with some accesses on their way. -/
def flying (rs : List Req) (fs : State → State := id) : State := fs { (vec id id idle).s with reqs := rs }
/-- Die 1 has a copy of the line, or die 0 has. -/
def cached (die : Nat) (s : State) : State := { s with near := [⟨die, 0x820, List.replicate 128 9⟩] }
/-- The line is replicated. -/
def replicated (r : Req) : Req := { r with pte := 0x44007 }
/-- The access has a value. -/
def valued (r : Req) : Req := { r with value := some [1, 2, 3, 4] }

theorem at_home (r : Req) (fs : State → State) (h1 : (flying [r] fs).req r.id = some r)
    (h2 : r.st = .issued ∧ r.value = none ∧ r.bad = none) (h3 : (flying [r] fs).mayPlace r = true)
    (h4 : (flying [r] fs).frozenLines = []) (h5 : ((flying [r] fs).die (homeDie r.pa)).st = .up) : AtHome (flying [r] fs) r :=
  ⟨h1, h2, h3, fun _ hf => absurd (h4 ▸ hf) List.not_mem_nil, h5⟩

theorem no_own (r : Req) (fs : State → State) (h : (flying [r] fs).reqs = [r]) (e : Req) : ¬ OwnStore (flying [r] fs) r e := by
  rintro ⟨hm, -, -, hlt, -⟩
  rw [h, List.mem_singleton] at hm
  exact Nat.lt_irrefl _ (hm ▸ hlt)

theorem witness_WritesTakeTheirPlace (h : Obligations.WritesTakeTheirPlace) :
    Runs (.homeSliceAccess 3 true) (flying [access (stores false) .issued]) ∧
    Runs (.homeSliceAccess 3 true) (flying [access (stores false) .issued] (cached 1)) ∧
    Runs (.homeSliceAccess 3 false) (flying [access (stores true) .issued] (cached 0)) ∧
    (State.homeWrite (flying []) 0x41000 [1]).mem = memWrite table 0x41000 [1] ∧
    Runs (.homeSliceAccess 3 false) (flying [access (stores true) .issued] (cached 1)) ∧
    Runs (.homeSliceAccess 3 false) (flying [access (.atomic 0 true 2 4 5 0 false) .issued]) ∧
    Runs (.homeSliceAccess 3 false) (flying [access (.atomic 7 true 2 4 5 1 true) .issued] (cached 1)) ∧
    Runs (.directoryInvalidate 3 1) (flying [access (stores true) (.home [1, 2] 0)] (cached 1)) ∧
    Runs (.directoryInvalidate 3 1) (flying [access (stores true) (.home [1] 0)] (cached 1)) ∧
    Runs (.storeAck 3) (flying [access (stores true) .done]) := by
  obtain ⟨h1, h2, h4, h5, h6, h7⟩ := h
  refine ⟨⟨_, h1 _ (access (stores false) .issued) _ _ _ _ (at_home _ id rfl ?_ ?_ rfl ?_) rfl ?_ ?_ ?_⟩,
    ⟨_, h1 _ (access (stores false) .issued) _ _ _ _ (at_home _ (cached 1) rfl ?_ ?_ rfl ?_) rfl ?_ ?_ ?_⟩,
    ⟨_, h1 _ (access (stores true) .issued) _ _ _ _ (at_home _ (cached 0) rfl ?_ ?_ rfl ?_) rfl ?_ ?_ ?_⟩, h2 (flying []) _ _,
    ⟨_, h1 _ (access (stores true) .issued) _ _ _ _ (at_home _ (cached 1) rfl ?_ ?_ rfl ?_) rfl ?_ ?_ ?_⟩,
    ⟨_, h4 _ (access (.atomic 0 true 2 4 5 0 false) .issued) _ _ _ _ _ _ _ _ (at_home _ id rfl ?_ ?_ rfl ?_) rfl ?_ ?_ ?_ ?_⟩,
    ⟨_, h4 _ (access (.atomic 7 true 2 4 5 1 true) .issued) _ _ _ _ _ _ _ _ (at_home _ (cached 1) rfl ?_ ?_ rfl ?_) rfl ?_ ?_ ?_ ?_⟩,
    ⟨_, h5 _ (access (stores true) (.home [1, 2] 0)) 1 _ _ rfl rfl ?_ ?_ ⟨2, ?_, ?_⟩⟩,
    ⟨_, h6 _ (access (stores true) (.home [1] 0)) 1 _ _ _ _ rfl rfl rfl ?_⟩,
    ⟨_, h7 _ (access (stores true) .done) rfl ?_ ?_⟩⟩
  all_goals decide

/-- The L1 of core 0 has the line. -/
def firstLevel (s : State) : State := { s with l1 := [⟨0, 0x820, List.replicate 128 9⟩] }
/-- The load of a core of die 1. -/
def abroad : Req := { access loads .issued with core := 20 }
/-- A store of the thread before its load. -/
def earlier : Req := { access (stores false) .issued with id := 2 }

theorem earlier_alone (e : Req) (h : OwnStore (flying [earlier, access loads .issued]) (access loads .issued) e) : e = earlier := by
  obtain ⟨hm, -, -, hlt, -⟩ := h
  simp only [flying, id, List.mem_cons, List.not_mem_nil, or_false] at hm
  obtain rfl | rfl := hm
  · rfl
  · exact absurd hlt (Nat.lt_irrefl _)

theorem witness_LoadsBindAndReturn (h : Obligations.LoadsBindAndReturn) :
    Runs (.homeSliceAccess 3 false) (flying [access loads .issued]) ∧
    Runs (.homeSliceAccess 3 false) (flying [access loads .issued] firstLevel) ∧
    Runs (.homeSliceAccess 3 false) (flying [access loads .issued] (cached 0)) ∧
    Runs (.homeSliceAccess 3 false) (flying [abroad] (cached 0)) ∧
    Runs (.homeSliceAccess 3 false) (flying [earlier, access loads .issued]) ∧
    Runs (.loadReturn 3) (flying [valued (access loads .issued)]) ∧
    Runs (.loadReturn 3) (flying [access (.own 2 [5]) .done]) ∧
    Runs (.loadReturn 3) (flying [valued (access (.atomic 0 true 2 4 5 0 true) .done)]) ∧
    Runs (.loadReturn 3) (flying [{ access loads .issued with bad := some 0x13 }]) := by
  obtain ⟨⟨h1, h2, h4, h3⟩, v1, v4, v2, v3⟩ := h
  refine ⟨⟨_, h1 _ (access loads .issued) _ _ _ _ _ (at_home _ id rfl ?_ ?_ rfl ?_) rfl ?_ ?_ ?_ ?_ (no_own _ id rfl)⟩,
    ⟨_, h2 _ (access loads .issued) _ _ _ _ _ _ (at_home _ firstLevel rfl ?_ ?_ rfl ?_) rfl ?_ rfl ?_ (no_own _ firstLevel rfl)⟩,
    ⟨_, h4 _ (access loads .issued) _ _ _ _ _ _ (at_home _ (cached 0) rfl ?_ ?_ rfl ?_) rfl ?_ ?_ (.inl rfl) ?_
      (no_own _ (cached 0) rfl)⟩,
    ⟨_, h4 _ abroad _ _ _ _ _ _ (at_home _ (cached 0) rfl ?_ ?_ rfl ?_) rfl ?_ ?_ (.inr ⟨?_, rfl⟩) ?_
      (no_own _ (cached 0) rfl)⟩,
    ⟨_, h3 (flying [earlier, access loads .issued]) (access loads .issued) _ _ _ _ _ earlier _ _ _
      ⟨rfl, ?_, ?_, ?_, ?_⟩ rfl ?_ ?_ ?_ ?_ ⟨.head _, ?_, ?_, ?_, ?_, ?_⟩ rfl earlier_alone rfl ?_ ?_⟩,
    ⟨_, v1 _ (valued (access loads .issued)) _ _ _ _ _ _ rfl rfl rfl ?_ ?_⟩,
    ⟨_, v4 _ (access (.own 2 [5]) .done) _ _ rfl rfl ?_⟩,
    ⟨_, v2 _ (valued (access (.atomic 0 true 2 4 5 0 true) .done)) _ _ _ _ _ _ _ rfl rfl rfl ?_ ?_ ?_⟩,
    (v3 (flying [{ access loads .issued with bad := some 0x13 }]) { access loads .issued with bad := some 0x13 } _ _ _ _ _ _ _ _ rfl rfl rfl
      ?_ rfl ?_ rfl ?_ ?_ ?_ rfl ?_).imp fun _ e => e.choose_spec.1⟩
  all_goals first | decide | (unfold NoCopies; decide)

/-- A thread waits for a walk, for a read of page 0 or of page 5, which is not mapped. -/
def walking (va : DWord) : Scene := held id fun t => { t with wait := .walk va false true }
/-- A thread waits for a walk of page 0, which lies in a page of 32 MiB. -/
def bigPage : Scene := held id (fun t => { t with wait := .walk 0x1000 false true })
  fun s => { s with mem := [(0x10000, 1), (0x10002, 2), (0x20000, 7), (0x20001, 0x10), (0x20003, 2)] }
/-- The line of virtual address 0x1000 in the stack cache. -/
def lined (d : Bool) : Scene := held (fun b => { b with stack := [⟨0x20, List.replicate 128 7, d, 0, []⟩] }) id
/-- A stack cache that is full, the line of virtual address 0x1000 used longest ago. -/
def fullLines : Scene :=
  held (fun b => { b with stack := (List.range 512).map fun i => ⟨0x21F - i, [], false, 511 - i, []⟩ }) id

theorem fullLines_full : 512 ≤ (fullLines.s.stackLines fullLines.b.core).length := by decide +kernel

theorem witness_CommitsWalksStackLines (h : Obligations.CommitsWalksStackLines) :
    Runs (.replicaCommit 3) (flying [replicated (access (stores false) .issued)]) ∧
    Runs (.replicaUpdate 3) (flying [replicated (access (stores false) (.locked 0))]) ∧
    Runs (.replicaLockTimeout 3) (flying [replicated (access (stores false) (.locked 0))]) ∧
    Runs (.ackLostTimeout 3) (flying [access (stores true) (.home [1] 0)]) ∧
    Runs (.lineThaw 0x820) (flying [access (stores true) (.home [1] 0)] fun s => { s with frozenLines := [⟨0x820, 1⟩] }) ∧
    Runs (.pageWalk 0 0) (walking 0x1000).s ∧ Runs (.pageWalk 0 511) bigPage.s ∧ Runs (.pageWalk 0 5) (walking 0x50000).s ∧
    Runs (.stackCacheSpill 7 0x20 .fill) (held id id).s ∧ Runs (.stackCacheSpill 7 0x20 .spillKeep) (lined true).s ∧
    Runs (.stackCacheSpill 7 0x20 .spillDrop) fullLines.s ∧ Runs (.stackCacheSpill 7 0x20 .spillDrop) (lined false).s := by
  obtain ⟨⟨h1, h2, h3, h4, h5⟩, w1, w2, w3, w4, w5, w6⟩ := h
  refine ⟨⟨_, h1 _ (replicated (access (stores false) .issued)) (at_home _ id rfl ?_ ?_ rfl ?_) ?_ ?_ ?_⟩,
    ⟨_, h2 _ (replicated (access (stores false) (.locked 0))) _ _ _ _ rfl rfl rfl ?_⟩,
    (h3 (flying [replicated (access (stores false) (.locked 0))]) (replicated (access (stores false) (.locked 0))) _ rfl rfl ?_).elim
      fun _ e => ⟨_, e.2⟩,
    ⟨_, h4 _ (access (stores true) (.home [1] 0)) 1 [] 0 rfl rfl ?_ ?_⟩,
    (h5 (flying [access (stores true) (.home [1] 0)] fun s => { s with frozenLines := [⟨0x820, 1⟩] }) ⟨0x820, 1⟩ 0x820 ?_).imp
      fun _ e => e.1,
    ⟨_, w1 (walking 0x1000).s 0 0 _ (walking 0x1000).b 0x40007 false rfl rfl ?_ (.inl ?_) ?_⟩,
    ⟨_, w1 bigPage.s 0 511 _ bigPage.b 0x02001007 true rfl rfl ?_ (.inr ⟨rfl, ?_⟩) ?_⟩,
    (w2 (walking 0x50000).s 0 5 _ (walking 0x50000).b _ _ rfl ?_ rfl ?_ rfl ?_ ?_ ?_
      (fun v u hv hu _ => (lone_vec (walking 0x50000) rfl rfl v u hu hv).elim) ?_ rfl).imp fun _ e => e.choose_spec.1,
    ⟨_, w3 (held id id).s (held id id).b 0x20 _ _ rfl rfl ?_ rfl ?_ ?_ ?_ ?_ ?_ ?_⟩,
    ⟨_, w4 (lined true).s (lined true).b 0x20 _ 0x40007 0x41000 rfl rfl ?_ ?_ ?_ rfl ?_ ?_ ?_ ?_ ?_⟩,
    ⟨_, w5 fullLines.s fullLines.b 0x20 _ rfl rfl ?_ ?_ fullLines_full rfl⟩,
    ⟨_, w6 (lined false).s (lined false).b 0x20 _ rfl rfl ?_ ?_⟩⟩
  all_goals decide

/-- An engine command of the vector thread of block 7, with handle h0, and the state that holds it. -/
def command (k : CmdKind) : Cmd :=
  { id := 4, blk := 7, who := .vec 0, ctx := 0, core := 0, kind := k, va := 0x1000, hdl := some 0, flags := [], bar := none,
    scope := .pkg, stop := false, upto := 10, tid := 0, hdr := 0x01000010, since := 0, run := .start }
def commanded (k : CmdKind) (fs : State → State := id) : Scene := held id id fun s => fs { s with cmds := [command k] }
/-- The copy of one element from 0x1000 to 0x1100. -/
def oneWord : CmdKind := .copy (.addr 0x1000 [] 0) (.addr 0x1100 [] 0) [1, 1, 1, 1, 1, 1] 0 0 0 false none
/-- An access of the thread that was lost. -/
def gone (s : State) : State := { s with reqs := [access (stores true) (.aborted 0x15 1)] }
/-- A search for key 5, link at offset 8: the list at 0x1000 begins with a node at 0x1040, whose key is 5. -/
def listed (s : State) : State := holds [(0x41000, 0x40), (0x41001, 0x10), (0x41048, 5)] s

/-- The copy of that element with a reduction, I32 addition. -/
def adds : CmdKind := .copy (.addr 0x1000 [] 0) (.addr 0x1100 [] 0) [1, 1, 1, 1, 1, 1] 8 8 3 false none
/-- The copies between that address and tile 0. -/
def toTile : CmdKind := .copy (.addr 0x1000 [] 0) (.tile 0 0) [1, 1, 1, 1, 1, 1] 0 0 0 false none
def ofTile : CmdKind := .copy (.tile 0 0) (.addr 0x1000 [] 0) [1, 1, 1, 1, 1, 1] 0 0 0 false none
/-- A command of a block whose tile 0 is flat and lies in C. -/
def withTile (k : CmdKind) : Scene :=
  held (fun b => { b with lr := { b.lr with cq := 1 }, tiles := [flatTile 0 .c .empty] }) id
    fun s => { s with cmds := [command k] }

theorem witness_CommandsAndAgents (h : Obligations.CommandsAndAgents) :
    Runs (.copyComplete 4 0) (commanded (.badCopy 0x12 0 (.addr 0 [] 0) (.tile 0 0))).s ∧
    Runs (.copyComplete 4 0) (commanded oneWord).s ∧
    Runs (.chainComplete 4 0) (commanded (.chain { linked false false with sf := .f32, df := .f32 } 0x1000 0x1100 0 0 1 [])).s ∧
    Runs (.copyComplete 4 0) (commanded oneWord gone).s ∧
    (∃ t, (commanded oneWord).s.endCmd (command oneWord) 0 ⟨0, 1, 4, 4, []⟩ = t) ∧
    Runs (.nmAgentExecute 4) (commanded (.nmcas 15 [0, 0, 0, 0] [1, 2, 3, 4])).s ∧
    Runs (.nmAgentExecute 4) (commanded (.nmcas 0 [] [])).s ∧ Runs (.nmAgentExecute 4) (commanded (.nmcas 16 [] [])).s ∧
    Runs (.nmAgentExecute 4) (commanded (.nmenq 0x1040)).s ∧ Runs (.nmAgentExecute 4) (commanded (.nmchase 5 0x800) listed).s := by
  obtain ⟨⟨h1, h2, h3, h4, h5⟩, -, a1, a2, a4, a3⟩ := h
  refine ⟨⟨_, h1 _ (command (.badCopy 0x12 0 (.addr 0 [] 0) (.tile 0 0))) (commanded oneWord).b _ _ _ _ _ ⟨rfl, rfl, ?_, rfl, rfl⟩
      rfl ?_ rfl⟩,
    ⟨_, h2 _ (command oneWord) (commanded oneWord).b 0x1000 0x1100 [] [] _ _ (.flt .f32) (.flt .f32) _ _ _ _ ⟨rfl, rfl, ?_, rfl, rfl⟩ rfl rfl rfl
      rfl rfl rfl ⟨_, _, _, ⟨?_, _, rfl, rfl⟩, ⟨?_, rfl, ?_⟩, rfl⟩ ?_⟩,
    ⟨_, h3 _ (command (.chain { linked false false with sf := .f32, df := .f32 } 0x1000 0x1100 0 0 1 [])) (commanded oneWord).b _ 0x1000
      0x1100 _ _ _ ⟨rfl, rfl, ?_, rfl, rfl⟩ rfl rfl rfl rfl rfl rfl ⟨_, _, _, ⟨?_, _, rfl, rfl⟩, ⟨?_, rfl, ?_⟩, rfl⟩ ?_⟩,
    ⟨_, h4 (commanded oneWord gone).s (command oneWord) (commanded oneWord).b 0x15 _ _ _ _ _ _ _ _ rfl rfl rfl rfl rfl rfl rfl ?_ ?_⟩,
    ⟨_, h5 (commanded oneWord).s (command oneWord) 0 _ ?_ ?_⟩,
    ⟨_, a1 (commanded (.nmcas 15 [0, 0, 0, 0] [1, 2, 3, 4])).s (command (.nmcas 15 [0, 0, 0, 0] [1, 2, 3, 4])) (commanded oneWord).b
      _ _ _ _ ⟨rfl, rfl, ?_, rfl, rfl⟩ rfl ?_ ?_ rfl⟩,
    ⟨_, a2 (commanded (.nmcas 0 [] [])).s (command (.nmcas 0 [] [])) (commanded oneWord).b _ _ _ ⟨rfl, rfl, ?_, rfl, rfl⟩ rfl (.inl rfl)⟩,
    ⟨_, a2 (commanded (.nmcas 16 [] [])).s (command (.nmcas 16 [] [])) (commanded oneWord).b _ _ _ ⟨rfl, rfl, ?_, rfl, rfl⟩ rfl (.inr ?_)⟩,
    ⟨_, a4 (commanded (.nmenq 0x1040)).s (command (.nmenq 0x1040)) (commanded oneWord).b _ _ _ _ ⟨rfl, rfl, ?_, rfl, rfl⟩ rfl ?_ ?_ rfl rfl
      rfl rfl rfl⟩,
    ⟨_, a3 (commanded (.nmchase 5 0x800) listed).s (command (.nmchase 5 0x800)) (commanded oneWord).b _ _ _ _ ⟨rfl, rfl, ?_, rfl, rfl⟩
      rfl ?_ ?_ ?_ ?_ rfl ?_ ?_ rfl ?_⟩⟩
  all_goals first | decide | (unfold Follows; decide)

/-- The elements of copies, between memory and memory, into a tile, out of one, and of a reduction. -/
theorem witness_CopiesMoveElements (h : Obligations.CommandsAndAgents) :
    (∃ t, (commanded oneWord).s.engineAdvance 4 = t) ∧ (∃ t, (withTile toTile).s.engineAdvance 4 = t) ∧
    (∃ t, (withTile ofTile).s.engineAdvance 4 = t) ∧ (∃ t, (commanded adds).s.engineAdvance 4 = t) ∧
    ropComb 3 5 0xFFFFFFFF = (4, none) ∧ convElem (.flt .e5m2) (.flt .e5m2) false 0x7F = (0x7F, none) ∧
    exec (.copyComplete 4 0) (commanded oneWord).s = exec (.copyComplete 4 0) ((commanded oneWord).s.engineAdvance 4) := by
  obtain ⟨-, ⟨m1, m2, m3, m4, m5, m6, m7⟩, -⟩ := h
  refine ⟨⟨_, m1 _ (command oneWord) (commanded oneWord).b 0 0x1000 0x1100 [] [] _ _ _ (.flt .f32) (.flt .f32) _ _ _ _ _
      ⟨rfl, rfl, ?_, rfl, rfl, rfl, rfl, rfl⟩ rfl ?_ rfl rfl rfl rfl ⟨?_, _, rfl, rfl⟩ ⟨?_, rfl, ?_⟩⟩,
    ⟨_, m2 _ (command toTile) (withTile toTile).b 0 0x1000 0 0 [] _ _ _ (.flt .f32) (.flt .f32) _ _ _ _
      ⟨rfl, rfl, ?_, rfl, rfl, rfl, rfl, rfl⟩ rfl ?_ rfl rfl rfl rfl ⟨?_, _, rfl, rfl⟩ rfl⟩,
    ⟨_, m3 _ (command ofTile) (withTile ofTile).b 0 0 0 0x1000 [] _ _ _ (.flt .f32) (.flt .f32) _ _ _ _
      ⟨rfl, rfl, ?_, rfl, rfl, rfl, rfl, rfl⟩ rfl ?_ rfl rfl rfl rfl rfl ?_ ⟨?_, rfl, ?_⟩⟩,
    ⟨_, m4 _ (command adds) (commanded adds).b 0 0x1000 0x1100 [] [] _ _ (.int true 32) 3 _ _ _ _ _ _ _ _
      ⟨rfl, rfl, ?_, rfl, rfl, rfl, rfl, rfl⟩ ?_ rfl ?_ rfl rfl ⟨?_, _, rfl, rfl⟩ ?_ rfl rfl rfl⟩,
    (m5 5 0xFFFFFFFF ?_ ?_).2.2.1.trans ?_, (m6 (.flt .e5m2) .f32 .f32 false 0x7F).1,
    m7 _ (command oneWord) (commanded oneWord).b 0 _ _ _ _ _ (.flt .f32) (.flt .f32) _ _ _ 0 ⟨rfl, rfl, ?_, rfl, rfl, rfl, rfl, rfl⟩ rfl ?_ rfl rfl rfl
      rfl rfl ?_ ?_⟩
  all_goals decide

/-- A matrix operation of block 7 on C tile 0, of some steps, and a core whose queue holds it alone. -/
def mzeroOf (n : Nat) (f : Option (Cause × Nat)) : MatOp :=
  { id := 5, blk := 7, kind := .zero, ga := 0, gb := 0, gc := 0, step := 0, steps := n, used := [(0, 0)], flags := [],
    begun := true, since := 0, halts := false, group := 5, fail := f, logs := [], seen := [], hdr := 0x01000010 }
def sequencing (n : Nat) (f : Option (Cause × Nat)) : Scene :=
  held (fun b => { b with lr := { b.lr with cq := 1 }, tiles := [flatTile 0 .c .ready] }) id
    fun s => { s with cores := vset s.cores 0 { homeCore with seq := [mzeroOf n f] } }

/-- The same core, whose operation of two steps stops at its next step boundary. -/
def stopsSoon : Scene :=
  held (fun b => { b with lr := { b.lr with cq := 1 }, tiles := [flatTile 0 .c .ready] }) id
    fun s => { s with cores := vset s.cores 0 { homeCore with seq := [{ mzeroOf 2 none with halts := true }] } }

/-- A control thread that waits for the other participant of its product. -/
def cooperating : Scene := heldCtl (fun b => { b with coop := some { gb := 1, s0 := 0, p := 2, l := 0, since := 0, cfg := 64 } }) id

/-- A package whose core 3 holds some copies, and the image at 0x1000. -/
def bare (l : List OvlCopy) : State :=
  { State.reset with boot := .done, nextId := 9, ctxs := vset State.reset.ctxs 0 homeCtx, mem := table
                     cores := vset State.reset.cores 3 { homeCore with copies := l } }
def imageRead : List Byte := (((bare []).coreSpan 3 0 0x1000 256).toOption).getD []
/-- A core that loads an image into one slot. -/
def coming (a : Nat) : OvlCopy :=
  { second with loading := true, addr := a, nslots := 1, digest := sha3 imageRead, order := 0, loader := none }
def loadingCore (a : Nat) : State := bare [coming a]

theorem phys_cores (s : State) (cs : Vector Core 160) : ∀ n pa,
    ({ s with cores := cs } : State).physRead pa n = s.physRead pa n
  | 0, _ => rfl
  | n + 1, pa => by
    simp only [State.physRead, phys_cores s cs n]
    rfl

theorem read_cores (s : State) (cs : Vector Core 160) (c n : Nat) (va : DWord)
    (h : (vget cs 3 Core.reset).tlb = (vget s.cores 3 Core.reset).tlb) :
    ({ s with cores := cs } : State).coreRead 3 c va n = s.coreRead 3 c va n := by
  unfold State.coreRead State.readAt State.coreXlat State.leafFor State.tlbFind State.core State.walk State.leafAt State.physWord
  simp only [phys_cores, h]
  rfl

theorem span_cores (s : State) (cs : Vector Core 160) (c : Nat) (h : (vget cs 3 Core.reset).tlb = (vget s.cores 3 Core.reset).tlb) :
    ∀ n va, ({ s with cores := cs } : State).coreSpan 3 c va n = s.coreSpan 3 c va n
  | 0, _ => rfl
  | n + 1, va => by simp only [State.coreSpan, read_cores s cs _ _ _ h, span_cores s cs c h n]

theorem span_append (s : State) (c n : Nat) : ∀ m va, (s.coreSpan 3 c va m).isOk = true →
    (s.coreSpan 3 c (va + 16 * m) n).isOk = true → (s.coreSpan 3 c va (n + m)).isOk = true
  | 0, _, _, h => h
  | m + 1, va, h1, h2 => by
    rw [Nat.mul_add, Nat.mul_one, ← Nat.add_assoc, Nat.add_right_comm] at h2
    rw [← Nat.add_assoc]
    unfold State.coreSpan at h1 ⊢
    simp only at h1 ⊢
    split at h1
    · have e := span_append s c n m (va + 16)
      cases h : s.coreSpan 3 c (va + 16) m <;> rw [h] at h1 e
      · cases h1
      · cases h' : s.coreSpan 3 c (va + 16) (n + m) <;> rw [h'] at e
        · cases e rfl h2
        · rfl
    · cases h1
    · cases h1

theorem image_quarters : ((bare []).coreSpan 3 0 0x1000 64).isOk = true ∧ ((bare []).coreSpan 3 0 0x1400 64).isOk = true ∧
    ((bare []).coreSpan 3 0 0x1800 64).isOk = true ∧ ((bare []).coreSpan 3 0 0x1C00 64).isOk = true := by
  refine ⟨?_, ?_, ?_, ?_⟩
  all_goals decide +kernel

theorem image_reads : ((bare []).coreSpan 3 0 0x1000 256).isOk = true :=
  have ⟨h1, h2, h3, h4⟩ := image_quarters
  span_append (bare []) 0 192 64 0x1000 h1 (span_append (bare []) 0 128 64 0x1400 h2 (span_append (bare []) 0 64 64 0x1800 h3 h4))

theorem readImage_of (s : State) (core c : Nat) (k : OvlCopy) (l : List Byte)
    (h : s.coreSpan core c k.addr (k.nslots * 256) = .ok l) (hd : sha3 l = k.digest) :
    s.readImage core c k = .ok (leWords (k.nslots * 512) l) := by
  unfold State.readImage
  simp only [h, hd, beq_self_eq_true, ↓reduceIte]

theorem core_three (l : List OvlCopy) :
    (vget (vset State.reset.cores 3 { homeCore with copies := l }) 3 Core.reset).tlb = pages := by
  rw [vget_vset_same _ _ _ _ (by decide)]; rfl

theorem image_read : (loadingCore 0x1000).readImage 3 0 (coming 0x1000) = .ok (leWords 512 imageRead) :=
  readImage_of _ _ _ (coming 0x1000) _
    ((span_cores (bare []) _ 0 ((core_three _).trans (core_three _).symm) 256 0x1000).trans (ok_of _ image_reads)) rfl

theorem witness_StepsAndLoads (h : Obligations.StepsAndLoads) :
    Runs (.matrixStepComplete 0) (sequencing 1 none).s ∧ Runs (.matrixStepComplete 0) (sequencing 2 none).s ∧
    Runs (.matrixStepComplete 0) stopsSoon.s ∧ (MatOp.count (mzeroOf 2 none) [(0x41, 3)]).logs = addCause [] 0x41 ∧
    (MatOp.count { mzeroOf 2 none with step := 1, gb := 0xC0, seen := [(0x41, 3)] } [(0x41, 3)]).logs = [] ∧
    dotUpdate 0x02 0x02 0x00 0 [0x38] [0x7F] (fval .bf16 0x3F80) (fval .bf16 0x3F80) = (0x7FC00000, none) ∧
    (∃ r, dotUpdate 0x02 0x02 0x00 0 [0x38] [0x38] (fval .bf16 0x3F80) (fval .bf16 0x3F80) = r) ∧
    Runs (.matrixStepComplete 0) (sequencing 1 (some (0x0C, 0))).s ∧ Runs (.coopTimeout 7) cooperating.s ∧
    Runs (.overlayLoadComplete 3 8) (loadingCore 0x1000) ∧ Runs (.overlayLoadComplete 3 8) (loadingCore 0x50000) := by
  obtain ⟨h1, h2, h3, n1, -, d1, h4, h5, h6, h7⟩ := h
  refine ⟨⟨_, h1 (sequencing 1 none).s 0 (mzeroOf 1 none) (sequencing 1 none).b 0 ?_ ⟨rfl, ?_, rfl, ?_, ?_, ?_⟩ rfl ?_ ?_⟩,
    ⟨_, h2 (sequencing 2 none).s 0 (mzeroOf 2 none) (sequencing 2 none).b ?_ ⟨rfl, ?_, rfl, ?_, ?_, ?_⟩ ?_ ?_ ?_⟩,
    ⟨_, h3 stopsSoon.s 0 { mzeroOf 2 none with halts := true } stopsSoon.b ?_ ⟨rfl, ?_, rfl, ?_, ?_, ?_⟩ ?_ ?_ ?_⟩,
    (n1 (mzeroOf 2 none) 0x41 3).1 (.inl ?_),
    (n1 { mzeroOf 2 none with step := 1, gb := 0xC0, seen := [(0x41, 3)] } 0x41 3).2 ?_,
    (d1 0x02 0x02 .e4m3 .e4m3 0 [0x38] [0x7F] 0x3F80 0x3F80 rfl rfl rfl ?_ ?_ ?_ ?_ ?_).1 ?_,
    ⟨_, (d1 0x02 0x02 .e4m3 .e4m3 0 [0x38] [0x38] 0x3F80 0x3F80 rfl rfl rfl ?_ ?_ ?_ ?_ ?_).2 _ _ _ _ rfl rfl rfl rfl ?_⟩,
    ⟨_, h4 (sequencing 1 (some (0x0C, 0))).s 0 (mzeroOf 1 (some (0x0C, 0))) (sequencing 1 (some (0x0C, 0))).b 0x0C 0 ?_ rfl ?_ rfl rfl ?_⟩,
    ⟨_, h5 cooperating.s cooperating.b _ rfl rfl ?_ ?_ ?_⟩,
    (h6 (loadingCore 0x1000) 3 (coming 0x1000) ⟨0, 2, false, false⟩ _ ?_ rfl rfl rfl rfl ?_ image_read ?_).imp fun _ e => e.1,
    (h7 (loadingCore 0x50000) 3 (coming 0x50000) ⟨0, 2, false, false⟩ [] _ ?_ rfl rfl ?_ rfl ?_).imp fun _ e => e.1⟩
  all_goals first | decide | (unfold Over; decide) | decide +kernel

/-- A package whose boot sequence has run. -/
def awake : State := { State.reset with boot := .done }
/-- A package whose format range 0 covers eight planes of one unit. -/
def rangeUnit (en : Bool) (fmt : BitVec 5) : State :=
  { awake with fr := vset State.reset.fr 0 { FmtRange.reset with lim := 8, str := 1, en := en, fmt := fmt } }
/-- The monitors of die 0, the first with a configuration. -/
def monitored (v : Word) : State :=
  awake.modDie 0 fun d => { d with mons := vset d.mons 0 { Mon.reset with cfg := v } }

/-- Some cycles after the boot sequence. -/
def later : State := { awake with tick := 100 }

theorem witness_PowerAndMonitors (h : Obligations.PowerAndMonitors) :
    Runs (.registerWrite (.shape 7) 0x7FFFFFFF) awake ∧ Runs (.powerControlInterval []) { awake with tick := 1 } ∧
    Runs (.powerControlInterval []) { awake with powered := 1 } ∧ Runs (.powerControlInterval [⟨1000, false⟩]) awake ∧
    Runs .shapingWindowBoundary awake ∧ Runs (.moncfgWrite (.die 0 31) 0xC0000007) awake ∧
    Runs (.moncfgWrite (.anvil 3) 0x20000103) later ∧ Runs (.monitorClear (.die 7 31)) later ∧
    Mon.clear { Mon.reset with at_ := 4, own := [9] } 4 =
      Mon.count { Mon.reset with at_ := 4, own := [9], min := 0xFFFFFFFF, max := 0, h := Vector.replicate 16 0 } 9 ∧
    Runs (.monitorLevelSample (.die 0 0)) (monitored 0x80000006) ∧ Runs (.monitorLevelSample (.die 0 0)) later ∧
    (Mon.sample { Mon.reset with cfg := 0x80000000 } 0 5).min = 5 ∧
    Mon.bucket { Mon.reset with cfg := 0xC0000000 } 16383 = 14 ∧ Mon.bucket { Mon.reset with cfg := 0x81000000 } 31 = 15 := by
  obtain ⟨h1, -, h0, h3, h4, h5, h6, h7, -, h2, h8, h11, h9, h10⟩ := h
  refine ⟨(h1 awake 7 0x7FFFFFFF 15 ?_ ?_ ?_).imp fun _ e => e.1, ⟨_, h0 _ _ (.inl ?_)⟩, ⟨_, h0 _ _ (.inr ?_)⟩,
    (h3 awake [⟨1000, false⟩] 7 ?_ ?_ ?_).imp fun _ e => e.1,
    (h4 awake 0 ?_ ?_).imp fun _ e => e.1, ⟨_, h5 awake (.die 0 31) 0xC0000007 ?_ ?_ ?_ ?_⟩,
    ⟨_, h6 later (.anvil 3) 0x20000103 ?_ ?_ ?_ ?_ ?_⟩, ⟨_, h7 later (.die 7 31) ?_ ?_⟩,
    h2 { Mon.reset with at_ := 4, own := [9] } 9 rfl, ⟨_, h8 (monitored 0x80000006) 0 0 ?_ ?_ ?_ ?_⟩,
    ⟨_, h11 later (.die 0 0) (.inl ?_)⟩,
    BitVec.eq_of_toNat_eq ((h9 { Mon.reset with cfg := 0x80000000 } 0 5 ?_ ?_).1.trans ?_),
    ((h10 { Mon.reset with cfg := 0xC0000000 } 16383).2 ?_).2 13 ?_ ?_ ?_,
    (h10 { Mon.reset with cfg := 0x81000000 } 31).1 ?_⟩
  all_goals decide

/-- Context 0 has windows, overlays, collectives and one queue of two slots. -/
def recordsOf : State := (queued 1 []).modCtx 0 fun c => { c with collN := 3 }

theorem witness_RangesAndRecords (h : Obligations.RangesAndRecords) :
    Runs (.frctlWrite 0 0x98) (rangeUnit false 0) ∧ (18 ≤ ((rangeUnit true 0x12).range 0).fmt.toNat) ∧
    Runs (.frctlWrite 0 0x80) (rangeUnit false 0) ∧ Runs (.frctlWrite 0 0x99) (rangeUnit true 0x12) ∧
    (∃ l, (rangeUnit true 0x14).physRead 0x3FFFF 1 = l) ∧
    (∃ l, (State.modRange (rangeUnit true 0x14) 0 fun r => { r with planes := true }).physRead 0x20000 1 = l) ∧
    (rangeUnit true 0x12).physRead 0x40000 1 = [memGet (rangeUnit true 0x12).mem 0x40000] ∧
    Runs (.contextRecordWrite 0 (.window 15 window)) recordsOf ∧
    Runs (.contextRecordWrite 0 (.overlay 255 ⟨0, 1, true, false, false, []⟩)) recordsOf ∧
    (∀ r, r.ctype ≠ 3 → Runs (.contextRecordWrite 0 (.collective 2 r)) recordsOf) ∧
    Runs (.contextRecordWrite 0 (.ring 0 1 (List.replicate 256 0))) recordsOf ∧
    Runs (.contextRecordWrite 63 (.region .windows 0x800000 16)) recordsOf ∧
    Runs (.contextRecordWrite 63 (.region .windows 0x1700001 16)) recordsOf := by
  obtain ⟨⟨f1, f2, f3, f4, -⟩, ⟨d1, d2, -⟩, -, -, -, -, -, r1, r2, r3, r4, r6, r5⟩ := h
  refine ⟨⟨_, f1 (rangeUnit false 0) 0 0x98 _ ?_ ?_ rfl ?_ ?_ ?_⟩, (f2 (rangeUnit true 0x12) 0 _ ?_).1,
    ⟨_, f3 (rangeUnit false 0) 0 0x80 ?_ ?_ ?_ ?_ ?_ ?_⟩, ⟨_, f4 (rangeUnit true 0x12) 0 0x99 ?_ ?_ ?_ ?_ ?_⟩,
    ⟨_, (d1 (rangeUnit true 0x14) 0 0x3FFFF ?_ ?_ ?_ ?_ ?_ ?_ ?_).2 ?_⟩,
    ⟨_, (d1 (State.modRange (rangeUnit true 0x14) 0 fun r => { r with planes := true }) 0 0x20000 ?_ ?_ ?_ ?_ ?_ ?_ ?_).1 ?_⟩,
    d2 (rangeUnit true 0x12) 0x40000 ?_,
    (r1 recordsOf 0 15 window 4 ?_ ?_ rfl ?_ ?_).imp fun _ e => e.1,
    (r2 recordsOf 0 255 ⟨0, 1, true, false, false, []⟩ ?_ ?_ ?_).imp fun _ e => e.1,
    fun r hr => (r3 recordsOf 0 2 r ?_ ?_ ?_ fun e => absurd e hr).imp fun _ e => e.1,
    (r4 recordsOf 0 0 1 _ _ ?_ ?_ rfl ?_ ?_).imp fun _ e => e.choose_spec.1, ⟨_, r6 recordsOf 63 16 0x800000 ?_ ?_ ?_⟩,
    ⟨_, r5 recordsOf 63 .windows 16 0x1700001 _ ?_ rfl ?_⟩⟩
  all_goals decide

/-- A package whose context 0 is changed; port 3 is up. -/
def heated (fc : Context → Context) : State :=
  idle { bare [] with ctxs := vset State.reset.ctxs 0 (fc homeCtx), ports := vset State.reset.ports 3 { Port.reset with st := .up } }
/-- A deferred store of one byte by package 5 to page 1, and one of this package on its way there. -/
def coming5 : DWrite := ⟨5, none, false, 0, 0, 0xFFFF, 0, 0, 0x10001, .store 0, [9]⟩
def going (room : Option Nat) : Outbound :=
  { id := 3, seq := 0, bid := 0, who := .vec 0, bound := false, heat := 0, peer := 5, budget := room,
    w := { coming5 with spkg := 0, win := 0 } }
def sends (room : Option Nat) (n : Nat := 0) : State := heated fun c => { c with outbound := [going room], seqNo := n }
/-- The same while no port is UP. -/
def stuck : State := { sends none with ports := State.reset.ports }
/-- A snapshot read of package 5, and one of this package that waits for package 5. -/
def asks (key : Word) : SnapReq := ⟨5, 3, 0, key, 0x1000, 4⟩
def asked : State := flying [access (.snap 2 4 false false 0 5 1 3) .issued]
  fun s => { s with ports := vset s.ports 3 { Port.reset with st := .up } }

theorem witness_DeferredWritesTravel (h : Obligations.DeferredWritesTravel) :
    Runs (.dwriteSend 3) (sends none) ∧ Runs (.dwriteSend 3) (sends (some 1)) ∧ Runs (.dwriteSend 3) (sends (some 0)) ∧
    Runs (.dwriteSend 3) (sends none (2 ^ 32)) ∧ Runs (.dwriteSend 3) stuck ∧ Runs (.dwriteAccept coming5) (heated id) ∧
    Runs (.dwriteAccept { coming5 with addr := 0x50000 }) (heated id) ∧
    (heated fun c => { c with heat := 1 }).checkWrite coming5 = some (0x1A, 1) ∧
    (heated fun c => { c with susp := [5] }).checkWrite coming5 = some (0x1D, 0) ∧
    (heated fun c => { c with ikey := 1 }).checkWrite coming5 = some (0x0A, 0) := by
  obtain ⟨h1, h2, h8, h9, h3, h4, h5, h6, h7⟩ := h
  refine ⟨(h1 (sends none) 3 0 (going none) rfl ?_ ?_ ?_ (.inr ?_)).imp fun _ e => e.1,
    (h1 (sends (some 1)) 3 0 (going (some 1)) rfl ?_ ?_ ?_ (.inr ?_)).imp fun _ e => e.1,
    (h2 (sends (some 0)) 3 0 (going (some 0)) rfl ?_ ?_ ?_ (.inr ?_)).imp fun _ e => e.1,
    (h8 (sends none (2 ^ 32)) 3 0 (going none) rfl ?_ ?_ (.inr ?_)).imp fun _ e => e.1,
    ⟨_, h9 stuck 3 0 (going none) rfl ?_⟩, (h3 (heated id) coming5 ?_ ?_ ?_ ?_).imp fun _ e => e.1,
    (h4 (heated id) { coming5 with addr := 0x50000 } _ _ ?_ ?_ rfl).imp fun _ e => e.1,
    h5 (heated fun c => { c with heat := 1 }) coming5 ?_, h6 (heated fun c => { c with susp := [5] }) coming5 ?_ ?_,
    h7 (heated fun c => { c with ikey := 1 }) coming5 ?_ ?_ ?_ ?_ ?_⟩
  all_goals first | decide | (unfold PathTo; decide)

/-- Package 5 has frozen a range of context 0. -/
def frozen5 : State := heated fun c => { c with frozen := [⟨5, 2, 0, 0x10000, 0x10100, false⟩] }

theorem witness_SnapshotsAndFreezes (h : Obligations.SnapshotsAndFreezes) :
    Runs (.snapshotRead (asks 0)) (heated id) ∧ Runs (.snapshotRead (asks 1)) (heated id) ∧
    Runs (.snapshotResponse ⟨3, 0, [1, 2, 3, 4], 7⟩) asked ∧ Runs (.snapshotResponse ⟨3, 0x0A, [], 0⟩) asked ∧
    Runs (.windowFreeze (.inbound 5 2 0 0 0x10000 0x10100)) (heated id) ∧ Runs (.windowFreeze (.own 0 0)) (heated id) ∧
    Runs (.windowThaw (.inbound 5 2 0 0 0x10000 0x10100)) frozen5 ∧ Runs (.windowThaw (.own 0 0)) (heated id) := by
  obtain ⟨h1, h2, h3, h4, h5, h6, h7, h8⟩ := h
  refine ⟨⟨_, h1 (heated id) (asks 0) _ ?_ ?_ ?_ (ok_of _ ?_) ?_ ?_⟩, ⟨_, h2 (heated id) (asks 1) ?_ ?_ ?_ ?_⟩,
    ⟨_, h3 asked ⟨3, 0, [1, 2, 3, 4], 7⟩ (access (.snap 2 4 false false 0 5 1 3) .issued) 2 false false 0 5 1 3 rfl rfl rfl rfl ?_ ?_ ?_
      rfl⟩,
    ⟨_, h4 asked ⟨3, 0x0A, [], 0⟩ (access (.snap 2 4 false false 0 5 1 3) .issued) 2 4 false false 0 5 1 3 rfl rfl rfl rfl ?_ ?_ ?_ ?_⟩,
    ⟨_, h5 (heated id) 5 2 0 0 0x10000 0x10100 (.inr ?_)⟩, ⟨_, h6 (heated id) 0 0 window ?_ ?_ ?_ ?_ ?_⟩,
    ⟨_, h7 frozen5 5 2 0 0 0x10000 0x10100 (.inr ?_)⟩, ⟨_, h8 (heated id) 0 0 window ?_ ?_ ?_⟩⟩
  all_goals decide

/-- Package 5 is a member, and more. -/
def two (fc : Context → Context := id) : State := heated fun c => fc { c with members := [0, 5] }
/-- A thread of a heat-bound block that has not arrived. -/
def late : Scene := held (fun b => { b with lr := { b.lr with heatF := true } }) id
/-- A thread that parked after it arrived. -/
def lateParked : Scene := held (fun b => { b with lr := { b.lr with heatF := true } }) fun t => { t with arrived := some 0, parked := true }
/-- The heat of context 0 is applied, with some writes. -/
def applying (ws : List DWrite) : State := two fun c => { c with closed := true, arrivals := [0, 5], actRep := true, buffer := ws }
/-- A reduce operation on the word, or on the eight bytes, at 0x10000. -/
def reduces (k : DKind) (d : List Byte) : DWrite := { coming5 with addr := 0x10000, kind := k, data := d }
/-- The store again, under another rule. -/
def stored (rule : BitVec 4) : DWrite := { coming5 with seq := 1, data := [7], kind := .store rule }

theorem word_at (k : DKind) (hk : isStore { coming5 with kind := k } = false) (hr : ruleOf { coming5 with kind := k } ≤ 9) :
    WordWrites [reduces k [1, 0, 0, 0], { reduces k [2, 0, 0, 0] with seq := 1 }] 0x10000 := by
  refine ⟨by decide, fun w hw => ?_, fun w hw _ => ?_, fun w hw => ?_, ⟨_, .head _, .inl hk⟩⟩ <;>
    obtain rfl | rfl : w = _ ∨ w = _ := by simpa using hw
  all_goals first | exact hr | decide | exact ⟨rfl, rfl⟩ | exact ⟨Nat.le_refl _, Nat.le_refl _, List.cons_ne_nil _ _⟩

theorem witness_AppliesResolveUnits (h : Obligations.AppliesResolveUnits) :
    byteUnit [coming5, stored 0] 0x10001 = .value 7 [] ∧ byteUnit [stored 9] 0x10001 = .value 7 [] ∧
    byteUnit [stored 9, stored 9] 0x10001 = .conflict ∧ byteUnit [coming5, stored 9] 0x10001 = .conflict ∧
    ((heated id).applied 0 [reduces (.redAdd 9) [1, 0, 0, 0], { reduces (.redAdd 9) [2, 0, 0, 0] with seq := 1 }]).clash = [0x10000] ∧
    ((heated id).applied 0 [reduces (.redAdd 0) [1, 0, 0, 0], { reduces (.redAdd 0) [2, 0, 0, 0] with seq := 1 }]).clash = [] ∧
    ((heated id).applied 0 [reduces (.redMax 9) (List.replicate 8 1)]).clash = [] ∧
    (heated id).unitOld 0 0x10001 1 = leNat (memRead (heated id).mem 0x50001 1) ∧ Runs (.quenchApply 0 []) (applying [coming5]) ∧
    Runs (.quenchApply 0 []) (applying [coming5, stored 9]) ∧
    coming5 ∉ (((applying [coming5]).ctx 0).heatWrites [(5, some 0xFFFF)]) := by
  obtain ⟨⟨-, u2, u3, u4, u5, u6⟩, a1, a2, a3⟩ := h
  refine ⟨(u2 [coming5, stored 0] 0x10001 0 (.inl rfl) ?_).trans rfl, (u2 [stored 9] 0x10001 9 (.inr (.inr rfl)) ?_).trans rfl,
    (u2 [stored 9, stored 9] 0x10001 9 (.inr (.inr rfl)) ?_).trans rfl, u3 [coming5, stored 9] 0x10001 ?_ ?_,
    congrArg _ ((u4 (heated id) 0 _ 0x10000 (word_at (.redAdd 9) rfl ?_)).1 ?_),
    congrArg _ ((u4 (heated id) 0 _ 0x10000 (word_at (.redAdd 0) rfl ?_)).2 ?_),
    congrArg _ (u5 (heated id) 0 (reduces (.redMax 9) (List.replicate 8 1)) 0x10000 rfl ?_ rfl rfl ?_),
    u6 (heated id) 0 0x10001 1 0x58007 0x50001 rfl (fun i hi => by obtain rfl : i = 0 := by omega
                                                                   rfl),
    (a1 (applying [coming5]) 0 0x10001 [9] 0x58007 0x50001 ?_ ?_ ?_ rfl rfl rfl ?_ ?_ ?_ ?_).imp fun _ e => e.1,
    (a2 (applying [coming5, stored 9]) 0 0x10001 ?_ ?_ ?_ rfl rfl rfl).imp fun _ e => e.1,
    (a3 (applying [coming5]) 0 5 0xFFFF coming5 rfl rfl rfl rfl).1⟩
  all_goals first | decide | (unfold Clashes; decide) | (unfold Whole; decide)

/-- The quench of context 0 began at tick 0, and the tree has had its time. -/
def quenched : State := two fun c => { c with closed := true, tq := some 0 }
def ripe : State := { quenched with tick := Config.treeLatency 0 + quenched.stagger }
/-- Package 5 has not arrived, and the skew is over. -/
def skewed : State := two fun c => { c with arrivals := [0], skewAt := some 0, skewMs := 1 }
/-- A package of a domain whose root is package 0. -/
def follower : State := { heated (fun c => { c with members := [0, 5, 7], closed := true }) with pkg := 5 }

theorem witness_QuenchesEnd (h : Obligations.QuenchesEnd) :
    Runs (.heatDomainForm 0 ⟨[0, 5], [5]⟩) (heated id) ∧ Runs (.packageArrive 0) (heated id) ∧ Runs (.packageArrive 0) late.s ∧
    Runs (.packageArrive 0) lateParked.s ∧ Runs (.activityReport 0 0) two ∧ Runs (.activityReport 0 5) two ∧
    Runs (.quenchArrivalReport 0 5 [] []) two ∧
    Runs (.quenchDone 0 5 []) (two fun c => { c with closed := true, arrivals := [0, 5], actRep := true }) ∧
    Runs (.quenchRelease ⟨0, 1, []⟩) ripe ∧ Runs (.quenchRelease ⟨0, 1, []⟩) (two fun c => { c with tq := some (10 ^ 12 + 1) }) ∧
    Runs (.quenchRelease ⟨0, 8, [0]⟩) (two fun c => { c with selfSusp := true, susp := [0], readmit := [0] }) ∧
    Runs (.quenchSkewTimeout ⟨0, [], []⟩) skewed ∧ Runs (.quenchSkewTimeout ⟨0, [7], []⟩) follower ∧
    Runs (.readmissionRequest 0 5) (two fun c => { c with susp := [5] }) := by
  obtain ⟨h1, h2, h3, h0, h4, h5, h8, h9, h10, h13, h11, h14, h12⟩ := h
  refine ⟨(h1 (heated id) 0 [0, 5] [5] ?_ ?_ ?_).imp fun _ e => e.1, (h2 (heated id) 0 ?_ ?_).imp fun _ e => e.1,
    ⟨_, h3 late.s 0 late.b 0 late.t (.head _) ?_ ?_ rfl ?_ ?_ (.inl ?_)⟩,
    ⟨_, h3 lateParked.s 0 lateParked.b 0 lateParked.t (.head _) ?_ ?_ rfl ?_ ?_ (.inr ?_)⟩, ⟨_, h0 two 0 ?_⟩,
    (h4 two 0 5 ?_ (.inr ?_) ?_ ?_ ?_).imp fun _ e => e.1, (h5 two 0 5 [] [] ?_ ?_ ?_ ?_ ?_ ?_).imp fun _ e => e.1,
    (h8 (two fun c => { c with closed := true, arrivals := [0, 5], actRep := true }) 0 5 [] ?_ ?_ ?_ ?_ ?_ ?_ ?_ ?_ ?_ ?_).imp
      fun _ e => e.1,
    (h9 ripe 0 0 1 [] ?_ rfl rfl (Nat.le_of_eq (by rw [Nat.zero_add]; rfl)) (.inr ?_) ?_).imp fun _ e => e.1,
    ⟨_, h10 (two fun c => { c with tq := some (10 ^ 12 + 1) }) 0 (10 ^ 12 + 1) 1 [] rfl rfl
      (Nat.lt_of_lt_of_le (Nat.lt_succ_self _) (Nat.le_trans (Nat.le_add_right _ _) (Nat.le_add_right _ _)))⟩,
    (h13 (two fun c => { c with selfSusp := true, susp := [0], readmit := [0] }) 0 8 [0] ?_ ?_ ?_ ?_ ?_ ?_).imp fun _ e => e.1,
    (h11 skewed 0 0 [] [] ?_ ?_ ?_ ?_ ?_ ?_ ?_ ?_ ?_).imp fun _ e => e.1,
    (h14 follower 0 [7] [] 7 ?_ ?_ ?_ ?_ ?_ ?_ ?_ ?_ ?_ ?_ ?_).imp fun _ e => e.1,
    ⟨_, h12 (two fun c => { c with susp := [5] }) 0 5 ?_ (.inr ?_) ?_ ?_⟩⟩
  all_goals decide

/-- A collective of packages 0 and 5 whose member list is at 0x1000, of a type, served by program 5. -/
def joint (ty : Nat) : CollRec :=
  { ctype := ty, opf := 0, prog := 5, cbar := 0, nrank := 2, myrank := 0, nbytes := 256, memb := 0x1000, dst := 0x1100, cdone := 0x1200,
    inbase := 0, bbytes := 0, root := 0, resv := false }
/-- Collective 2 of context 0 is that one, and program 5 is bound. -/
def served (ty : Nat) (fs : State → State := id) : State :=
  fs { heated (fun c => { c with collN := 3, colls := [(2, joint ty)], ctmo := 1 }) with
    mem := table ++ [(0x41004, 5)], bindings := [placedBinding 0] }
/-- A packet of package 5 for it. -/
def fromFive (ty : BitVec 4) : Packet := { Packet.blank with type := ty, coll := 2, spkg := 5, srank := 1, chunk := 0x77 }
/-- A request of round 0 to rank 1, and a round. -/
def wanted (row : Option Nat) : DReq := ⟨0, 2, 0, 1, 0x77, 0x1100, 0x1300, row⟩
def roundZero (up : Option Cause) : Round :=
  { ctx := 0, coll := 2, round := 0, begun := some 0, fail := 0, barup := up, upAt := 0, granted := 0, refused := 0, stamp := 0,
    emits := [], drained := false, ended := false }
/-- A program of two words, two slots, two counters and one queue, to be bound as program 6. -/
def toServe : BindReq := ⟨0, 6, 71, [0, 0], [(0, 0), (7, 1)], 4094, 2, 254, 2, 15, 1⟩

theorem queues_five (fs : State → State) (h0 : (served 1 fs).reaches (fromFive 1) = true)
    (h1 : (served 1 fs).packetHeld (fromFive 1) = false ∧ (served 1 fs).discards (fromFive 1) = none)
    (h2 : ((served 1 fs).ctx 0).coll 2 = some (joint 1)) (h3 : (served 1 fs).bindingOf 0 5 = some (0, placedBinding 0)) :
    Queues (served 1 fs) (fromFive 1) (placedBinding 0) (joint 1) 0 :=
  ⟨h0, ⟨rfl, h1⟩, h2, h3, by decide⟩

/-- Inbound queue 0 holds 512 packets. -/
def choked (s : State) : State := { s with inq := vset s.inq 0 (List.replicate 512 (fromFive 1)) }

theorem witness_CollectivesRun (h : Obligations.CollectivesRun) :
    Runs (.programBind toServe) (served 1) ∧ Runs (.programBind { toServe with prog := 5 }) (served 1) ∧
    Runs (.programBind toServe) State.reset ∧
    Runs (.programUnbind 0 5) (served 1) ∧ Runs (.packetReceive { fromFive 1 with ver := 2 }) (served 1) ∧
    Runs (.packetReceive { fromFive 3 with bf := true, wrd := true }) (served 1) ∧
    (served 1).discards { fromFive 1 with ver := 2 } = some 0x1C ∧ Runs (.packetReceive (fromFive 1)) (served 1) ∧
    Runs (.packetReceive (fromFive 1)) (served 1 choked) ∧
    Runs (.grantReceive (fromFive 7)) (served 3 fun s => { s with dreqs := [wanted none] }) ∧
    Runs (.nackReceive (fromFive 8)) (served 3 fun s => { s with dreqs := [wanted none] }) ∧
    Runs (.grantReceive (fromFive 7)) (served 3) ∧ Runs (.nackReceive (fromFive 8)) (served 3) ∧
    Runs (.rowAck 0 2 0 1 0x77) (served 3 fun s => { s with dreqs := [wanted (some 4)] }) ∧
    Runs (.roundComplete 0 2) (served 1 fun s => { s with rounds := [roundZero (some 0)] }) ∧
    Runs (.collectiveTimeout 0 2) (served 1 fun s => { s with rounds := [roundZero none] }) ∧
    Runs (.collectiveTimeout 0 2) (served 1 fun s => { s with rounds := [roundZero none], stagB := true, pkg := 1, delta := 1, groups := 1 }) := by
  obtain ⟨⟨h1, h2, hb, h3, h4, h0, h5, h6, h7⟩, r1, r2, rl, r3, r4, r5, r6⟩ := h
  refine ⟨⟨_, h1 (served 1) toServe ?_ ?_ ?_⟩, ⟨_, h2 (served 1) { toServe with prog := 5 } (placedBinding 0) (.head _) rfl rfl⟩,
    ⟨_, hb State.reset toServe ?_⟩, (h3 (served 1) 0 5 0 (placedBinding 0) ?_ rfl).imp fun _ e => e.1,
    ⟨_, h4 (served 1) { fromFive 1 with ver := 2 } _ ?_ ?_ rfl ?_ rfl⟩,
    ⟨_, h0 (served 1) { fromFive 3 with bf := true, wrd := true } ?_ ?_ (.inr (.inr ⟨rfl, rfl⟩))⟩, h5 (served 1) { fromFive 1 with ver := 2 } ?_,
    (h6 (served 1) (fromFive 1) (joint 1) 0 (placedBinding 0) (queues_five id ?_ ?_ rfl rfl) ?_).imp fun _ e => e.1,
    ⟨_, h7 (served 1 choked) (fromFive 1) (joint 1) 0 (placedBinding 0) (queues_five choked ?_ ?_ rfl rfl) ?_⟩,
    (r1 (served 3 fun s => { s with dreqs := [wanted none] }) (fromFive 7) (joint 3) (wanted none) _ _ rfl ?_ ?_ ?_ rfl rfl rfl rfl ?_ ?_
      (ok_of _ ?_)).imp fun _ e => e.1,
    ⟨_, r2 (served 3 fun s => { s with dreqs := [wanted none] }) (fromFive 8) (joint 3) (wanted none) _ rfl ?_ ?_ ?_ ?_ rfl rfl rfl
      (wrote ?_).choose_spec⟩,
    ⟨_, rl (served 3) (fromFive 7) (joint 3) (.inl rfl) ?_ ?_ ?_ ?_ rfl rfl rfl _ (.inl ⟨rfl, rfl⟩)⟩,
    ⟨_, rl (served 3) (fromFive 8) (joint 3) (.inr rfl) ?_ ?_ ?_ ?_ rfl rfl rfl _ (.inr ⟨rfl, rfl⟩)⟩,
    ⟨_, r3 (served 3 fun s => { s with dreqs := [wanted (some 4)] }) 0 2 0 1 0x77 (joint 3) (wanted (some 4)) [] [] ?_ rfl ?_ rfl ?_
      (fun _ hx => absurd hx List.not_mem_nil)⟩,
    (r4 (served 1 fun s => { s with rounds := [roundZero (some 0)] }) 0 2 (joint 1) (roundZero (some 0)) 0 _ rfl ⟨rfl, rfl⟩ rfl rfl ?_ ?_
      ?_ (wrote ?_).choose_spec).imp fun _ e => e.1,
    (r5 (served 1 fun s => { s with rounds := [roundZero none] }) 0 2 (joint 1) (roundZero none) 0 1 _ rfl ⟨rfl, rfl⟩ rfl rfl rfl ?_ rfl
      ?_ ?_ rfl ?_ ?_ (wrote ?_).choose_spec).imp fun _ e => e.1,
    (r6 (served 1 fun s => { s with rounds := [roundZero none], stagB := true, pkg := 1, delta := 1, groups := 1 }) 0 2 (joint 1)
      (roundZero none) 0 1 rfl ⟨rfl, rfl⟩ rfl rfl rfl rfl ?_ rfl ?_ ?_ rfl ?_).imp fun _ e => e.1⟩
  all_goals decide

/-- The contribution of this package, in an open round that has not failed, to a REDUCE whose rank 0 is package 0. -/
def gathers (n : Nat) (ty : Nat) : CollRec := { joint ty with nbytes := n, inbase := 0x1000, bbytes := 4 }
/-- A block with an alias window on collective 2 of `n` bytes, whose thread stores at an offset of it. -/
def deposits (n ty : Nat) (lim : BitVec 48) (a : Nat) (fb : Block → Block := id) : Scene :=
  vec fb (fun t => (aimed a t).setG 4 0) fun s => s.modCtx 0 fun c => { c with
    collN := 3, colls := [(2, gathers n ty)]
    windows := [(0, { window with base := 0, limit := lim, key := 2, kind := BitVec.ofNat 3 (aliasKind (gathers n ty)) })] }
/-- A piece of four bytes of that collective, and the state that takes it. -/
def piece (n : Nat) : AliasWait := ⟨none, .vec 0, 0, 0, 0, 2, n, [1, 2, 3, 4], none⟩
def takesPieces (n ty me : Nat) (k : Option Contrib) (x : List Round) : State :=
  { heated (fun c => { c with collN := 3, colls := [(2, { gathers n ty with myrank := me })], members := [0] }) with
    mem := table ++ [(0x41004, 5)], contribs := k.toList, rounds := x }
/-- The contribution whose chunk 0 has launched. -/
def gaveFirst : Contrib := { ctx := 0, coll := 2, round := 0, bytes := [], launched := [0], stamps := [], misuse := false }
/-- A binding of program 5 whose tree holds the operands of ranks 0 and 1. -/
def treed (me : Nat) : State :=
  { takesPieces 256 0 me none [] with bindings := [{ placedBinding 0 with
      tree := (List.range 2).map fun j => { coll := 2, round := 0, chunk := 0, rank := j, form := .f, bytes := List.replicate 256 0 } }] }

theorem some_pair {α β : Type} {x : Option (α × β)} (h : x.isSome = true) : x = some ((x.get h).1, (x.get h).2) :=
  (Option.some_get h).symm

/-- A store through the alias window, and what it brings. -/
def storesWin : Mem := at2 .win .b32 9 4

theorem witness_AliasStores (h : Obligations.ContributionsAndTrees) :
    Runs (.st always storesWin) (deposits 256 0 256 252).s ∧ Runs (.st always storesWin) (deposits 256 0 256 254).s ∧
    Runs (.st always storesWin) (deposits 256 0 256 256).s ∧ Runs (.st always storesWin) (deposits 256 0 255 0).s ∧
    Runs (.st always { storesWin with size := .b8 }) (deposits 256 0 256 255).s ∧
    Runs (.st always storesWin) (deposits 256 3 16 0).s ∧ Runs (.st always storesWin) (deposits 256 0 256 2).s := by
  obtain ⟨a, -⟩ := h
  obtain ⟨h1, h2⟩ := a (.st always storesWin) always storesWin none (.inl ⟨rfl, rfl⟩) rfl
  obtain ⟨-, h3⟩ := a (.st always { storesWin with size := .b8 }) always { storesWin with size := .b8 } none (.inl ⟨rfl, rfl⟩) rfl
  refine ⟨goWhen (h1 { window with base := 0, limit := 256, key := 2, kind := 5 } 2 (gathers 256 0)) (deposits 256 0 256 252) ?_
      ⟨rfl, rfl, ⟨?_, ?_, ?_, rfl, ?_, ?_, ?_⟩, ?_, ?_, ?_, ?_, room _ ?_⟩,
    goRaises ((h2 _ _ _ _ _ ((deposits 256 0 256 254).met ?_) rfl rfl ?_ ?_).1 ?_ ?_),
    goRaises ((h2 _ _ _ _ _ ((deposits 256 0 256 256).met ?_) rfl rfl ?_ ?_).2.1 ?_ ?_),
    goRaises ((h2 _ _ _ _ _ ((deposits 256 0 255 0).met ?_) rfl rfl ?_ ?_).2.2.1 ?_ fun coll r e => ?_),
    goRaises ((h3 _ _ _ _ _ ((deposits 256 0 256 255).met ?_) rfl rfl ?_ ?_).2.2.2 2 (gathers 256 0) ?_ ⟨?_, ?_, ?_, rfl, ?_, ?_, ?_⟩
      (.inl ?_)),
    goRaises ((h2 _ _ _ _ _ ((deposits 256 3 16 0).met ?_) rfl rfl ?_ ?_).2.2.2 2 (gathers 256 3) ?_ ⟨?_, ?_, ?_, rfl, ?_, ?_, ?_⟩
      (.inr (.inl ?_))),
    goRaises ((h2 _ _ _ _ _ ((deposits 256 0 256 2).met ?_) rfl rfl ?_ ?_).2.2.2 2 (gathers 256 0) ?_ ⟨?_, ?_, ?_, rfl, ?_, ?_, ?_⟩
      (.inr (.inr ?_)))⟩
  all_goals first | decide | (unfold InWindow; decide) | skip
  obtain ⟨-, hk, -, hr, -, -, hl⟩ := e
  obtain rfl : coll = 2 := hk.symm
  obtain rfl : r = gathers 256 0 := (Option.some.inj hr).symm
  exact absurd hl (by decide)

/-- A contribution of which a byte, or nothing, has been stored. -/
def gave (l : List (Nat × Byte)) : Contrib := { gaveFirst with bytes := l, launched := [] }
/-- A whole chunk of four bytes. -/
theorem whole_chunk (a : Nat) (h : InChunk (gathers 4 0) 0 a) :
    byteOver (contribOf (takesPieces 4 0 0 none []) (piece 0) (gathers 4 0)) (piece 0) a ≠ none := by
  obtain ⟨-, -, h⟩ := h
  have h : a < 4 := h
  obtain rfl | rfl | rfl | rfl : a = 0 ∨ a = 1 ∨ a = 2 ∨ a = 3 := by omega
  all_goals decide

/-- Four bytes land at an offset of a collective. -/
theorem lands (n : Nat) (s : State) (r : CollRec) (h1 : r.ctype < 3) (h2 : n + 4 ≤ r.nbytes)
    (h3 : n / r.chunk = (n + 4 - 1) / r.chunk) (h4 : s.aliasWaits = []) (h5 : n / r.chunk ∉ (contribOf s (piece n) r).launched) :
    Lands s (piece n) r :=
  ⟨h1, List.cons_ne_nil _ _, h2, h3, fun k e => (Option.some_ne_none k e.symm).elim, h4, h5⟩

/-- A block of a launch bound to the collective, and one of no such launch. -/
def bound : Block := { home with bid := 3, lr := { home.lr with collF := true } }

theorem witness_Contributions (h : Obligations.ContributionsAndTrees) :
    (∃ t, (takesPieces 256 0 0 (some gaveFirst) []).aliasPiece (piece 4) (gathers 256 0) = t) ∧
    (contribOf (State.aliasPiece (takesPieces 256 1 1 none []) (piece 4) { gathers 256 1 with myrank := 1 }) (piece 4)
      { gathers 256 1 with myrank := 1 }).misuse = true ∧
    MisuseDue (State.aliasPiece (takesPieces 256 1 1 none [roundZero none]) (piece 4) { gathers 256 1 with myrank := 1 }) (piece 4)
      { gathers 256 1 with myrank := 1 } ∧
    ((takesPieces 256 0 0 none []).aliasPiece (piece 0) (gathers 256 0)).outbox = (takesPieces 256 0 0 none []).outbox ∧
    (∃ o, ((takesPieces 4 0 0 none []).aliasPiece (piece 0) (gathers 4 0)).outbox = (takesPieces 4 0 0 none []).outbox ++ [o]) ∧
    (contribOf ((takesPieces 256 0 0 (some (gave [(4, 9)])) []).aliasPiece (piece 4) (gathers 256 0)) (piece 4)
      (gathers 256 0)).misuse = true ∧
    (∃ t, (deposits 256 0 256 0).s.launchBound bound = t) ∧
    (deposits 256 0 256 0).s.launchBound home = (deposits 256 0 256 0).s ∧
    (∃ t, (takesPieces 256 0 0 none []).contribute 0 2 3 = t) ∧
    (∃ y, ((takesPieces 256 0 0 none [roundZero none]).contribute 0 2 64).round 0 2
      ((takesPieces 256 0 0 none [roundZero none]).contrib 0 2 (gathers 256 0)).round = some y ∧ y.fail = 0x12) := by
  obtain ⟨-, ⟨-, -, c3, c4, c5⟩, ⟨l1, l2, l3, l4⟩, -⟩ := h
  have c4a := c4 (takesPieces 256 1 1 none []) (piece 4) { gathers 256 1 with myrank := 1 }
    (lands 4 _ _ (by decide) (by decide) (by decide) rfl (by decide)) rfl (by decide)
  have c4b := c4 (takesPieces 256 1 1 none [roundZero none]) (piece 4) { gathers 256 1 with myrank := 1 }
    (lands 4 _ _ (by decide) (by decide) (by decide) rfl (by decide)) rfl (by decide)
  refine ⟨⟨_, c3 _ (piece 4) (gathers 256 0) ?_ ?_⟩, c4a.2.2.2 ?_, c4b.2.2.1 _ rfl,
    ((c5 (takesPieces 256 0 0 none []) (piece 0) (gathers 256 0) (lands 0 _ _ ?_ ?_ ?_ rfl ?_) ?_ ?_ ?_ ?_).1
      ⟨4, ⟨?_, ?_, ?_⟩, ?_⟩).1,
    ((c5 (takesPieces 4 0 0 none []) (piece 0) (gathers 4 0) (lands 0 _ _ ?_ ?_ ?_ rfl ?_) ?_ ?_ ?_ ?_).2.1
      whole_chunk).1.imp fun _ e => e.1,
    (c5 (takesPieces 256 0 0 (some (gave [(4, 9)])) []) (piece 4) (gathers 256 0) (lands 4 _ _ ?_ ?_ ?_ rfl ?_) ?_ ?_ ?_ ?_).2.2
      ⟨4, ?_, ?_, ?_⟩ ⟨0, ⟨?_, ?_, ?_⟩, ?_⟩ ?_,
    ⟨_, l1 (deposits 256 0 256 0).s bound _ 2 (gathers 256 0) rfl ?_ rfl ⟨?_, ?_, ?_, rfl, ?_, ?_, ?_⟩⟩,
    l2 (deposits 256 0 256 0).s home ?_,
    ⟨_, l3 (takesPieces 256 0 0 none []) 0 2 (gathers 256 0) 3 _ rfl ?_ ?_ ?_ ?_ (ok_of _ ?_)⟩,
    l4 (takesPieces 256 0 0 none [roundZero none]) 0 2 (gathers 256 0) 64 (roundZero none) rfl ?_ ?_ ?_ rfl rfl⟩
  all_goals decide

/-- A RESULT of a REDUCE for chunk 0. -/
def result : Packet := { fromFive 2 with chunk := 0, data := [1, 2, 3, 4] }

theorem witness_Trees (h : Obligations.ContributionsAndTrees) :
    2 ∈ childRanks 4 0 ∧ parentRank 6 = 4 ∧
    rankNode (fun (a : Slot) _ => a) (fun _ => slotOf .f []) 3 2 0 = slotOf .f [] ∧
    (∃ y, treeFold 0 (slotOf .f []) [] [] = some (y, []) ∧ y = slotOf .f []) ∧
    (∃ o, ((treed 1).firmReduce 0 0 2 { gathers 256 0 with myrank := 1 } 0 0).outbox = (treed 1).outbox ++ [o]) ∧
    (∃ o ∈ ((treed 0).firmReduce 0 0 2 (gathers 256 0) 0 0).outbox, o.pkt.type = 2) ∧
    (∃ m, ((treed 0).firmTake 0 0 2 (gathers 256 0) result 0).mem = m) := by
  obtain ⟨-, -, -, t1, -, t3, t4, t5, t6, t7, t8⟩ := h
  refine ⟨(t1 4 0 2 ?_ ?_).mpr ⟨?_, 1, ?_, rfl⟩, (t3 6 ?_ ?_).2.trans ?_,
    (t4 (fun a _ => a) (fun _ => slotOf .f []) 3 0 ?_ ?_).trans ?_, ⟨_, rfl, (t5 0 [] (slotOf .f []) [] _ [] rfl).1⟩,
    (t6 (treed 1) 0 0 2 { gathers 256 0 with myrank := 1 } 0 0 _ (slotOf .f (List.replicate 256 0)) [] _ _ _ rfl
      ⟨[⟨2, 0, 0, 1, .f, List.replicate 256 0⟩], rfl, rfl⟩ rfl ?_ rfl ?_).imp fun _ e => e.1,
    (t7 (treed 0) 0 0 2 (gathers 256 0) 0 0 _ (slotOf .f (List.replicate 256 0)) [slotOf .f (List.replicate 256 0)] _ _ 1 _ rfl
      ⟨[⟨2, 0, 0, 0, .f, List.replicate 256 0⟩, ⟨2, 0, 0, 1, .f, List.replicate 256 0⟩], rfl, rfl⟩ (some_pair ?_) rfl
      (fun k hk => ?_) ?_ ?_ rfl ?_).imp fun _ e => ⟨e.1, e.2.2.2.1⟩,
    ⟨_, t8 (treed 0) 0 0 2 (gathers 256 0) result 0 _ rfl ?_ rfl ?_ (wrote ?_).choose_spec⟩⟩
  all_goals first | decide | skip
  have hk : k < 2 := hk
  obtain rfl | rfl : k = 0 ∨ k = 1 := by omega
  all_goals exact ⟨_, rfl⟩

/-- Die 2 has been resetting since tick 0, and a load of a line of its home is on its way. -/
def dying : State := (flying [access loads .issued]).modDie (homeDie 0x41000) fun d => { d with st := .resetting 0 }
/-- A control thread that waits for its removal. -/
def removing : Scene :=
  heldCtl id (fun t => { t with wait := .tlbinv 4 }) fun s => { s with invs := [⟨4, 7, .ctl, 0, 1, 0x1000⟩] }

/-- An image whose partition of the Anvil's store is not the one of R9. Whether another boots is the answer of the
cryptography, which is free. -/
def split : Image :=
  { body := [], signature := [], pkgId := 0, regions := [512], ctlBase := 0, ctlBytes := 0, nearMax := 0, spillBase := 0, spillSize := 0,
    certPkg := 0, certKey := [], certSig := [], certPod := [], accepted := [], podKeys := [] }

theorem witness_ResetsRestart (h : Obligations.ResetsRestart) :
    (∀ img, Runs (.packageReset img) State.reset) ∧ imageBoots split = none ∧ Runs (.contextReset 0) (heated id) ∧ Runs (.hearthDieReset 7) (heated id) ∧
    Runs (.dieRejoin (homeDie 0x41000)) dying ∧ Runs (.dieFailTimeout (homeDie 0x41000)) dying ∧
    Runs (.tlbinvRemovalComplete 4) removing.s := by
  obtain ⟨h1, h0, h7, h2, h3, h4, h5, h6⟩ := h
  refine ⟨fun img => ?_, (h7 split).trans (if_neg fun e => absurd e.2.1 (by decide)), (h2 (heated id) 0 ?_ ?_ ?_ ?_ ?_ ?_).imp fun _ e => e.choose_spec.1,
    (h3 (heated id) 7 ?_ ?_ ?_ ?_).imp fun _ e => e.1, ⟨_, h4 dying _ 0 ?_⟩,
    (h5 dying _ 0 (access loads .issued) _ _ _ _ _ ?_ ?_ ?_ (.head _) rfl rfl rfl rfl rfl).imp fun _ e => e.1,
    ⟨_, h6 removing.s _ removing.b _ rfl rfl rfl ?_ ?_ ?_⟩⟩
  rotate_left
  all_goals first | decide | skip
  cases e : imageBoots img with
  | none => exact ⟨_, h0 _ img e⟩
  | some keys => exact ⟨_, h1 _ img keys e⟩

/-- A package whose port 3 is in a state. -/
def linked3 (x : PortSt) : State := (served 1).modLink 3 fun k => { k with st := x, refreshing := x == .up }
/-- Every port is down, for 100 ms. -/
def cutOff : State := { served 1 with pathLost := some 0, ports := State.reset.ports }

theorem only_three (q : Nat) (h : q ≠ 3) : ((linked3 .up).port q).st ≠ .up := by
  by_cases hl : q < 64
  · exact (by decide : ∀ q, q < 64 → q ≠ 3 → ((linked3 .up).port q).st ≠ .up) q hl h
  · rw [show (linked3 .up).port q = Port.reset from dif_neg hl]
    decide

/-- The packet of package 5 as its bytes, for a frame that the cipher opens to them. -/
def delivered : List Byte := (fromFive 1).bytes

theorem witness_PortsAndLinks (h : Obligations.PortsAndLinks) :
    Runs (.portEnable 3) (linked3 .down) ∧ Runs (.trainingComplete 3) (linked3 (.training (10 ^ 12))) ∧
    Runs (.trainingTimeout 3) (linked3 (.training 0)) ∧
    Runs (.joinExchange 3 ⟨5, [1], [], 0⟩) { linked3 .joining with accepted := [[1]] } ∧
    Runs (.joinExchange 3 ⟨5, [1], [], 0⟩) (linked3 .joining) ∧ (∀ m, Runs (.attestationReport 3 m) (linked3 .attesting)) ∧
    (∀ m, (m : AttestMsg).nonce = 1 → (linked3 .attesting).attestFault 3 m = some .report) ∧
    Runs (.portClear 3) (linked3 .refused) ∧ Runs (.linkLoss 3) (linked3 .up) ∧ (∀ f, Runs (.frameReceive 3 f) (linked3 .up)) ∧
    packetOf delivered = some (fromFive 1) ∧ Runs (.noPathTimeout 5) cutOff ∧
    (∃ l, (cutOff.tellWaiting 5).events = l) ∧ Runs (.keyRefresh 3) ((served 1).modLink 3 fun k => { k with st := .up }) ∧
    Runs (.keyStarved 3) (linked3 .up) := by
  obtain ⟨h1, h2, h3, h4, -, h5, h6, h7, h8, h9, h10, -, -, h11, h12, h13, h14, h15⟩ := h
  refine ⟨⟨_, h1 (linked3 .down) 3 ?_ ?_⟩, ⟨_, h2 (linked3 (.training (10 ^ 12))) 3 (10 ^ 12) ?_ ?_⟩,
    ⟨_, h3 (linked3 (.training 0)) 3 0 ?_ ?_⟩, ⟨_, h4 { linked3 .joining with accepted := [[1]] } 3 ⟨5, [1], [], 0⟩ ?_ ?_⟩,
    ⟨_, h5 (linked3 .joining) 3 ⟨5, [1], [], 0⟩ ?_ ?_⟩, fun m => ⟨_, h6 (linked3 .attesting) 3 m ?_⟩,
    fun m e => h7 (linked3 .attesting) 3 m (.inl (by rw [e]; decide)), ⟨_, h8 (linked3 .refused) 3 ?_ ?_⟩,
    (h9 (linked3 .up) 3 ?_ ?_ fun q hq => only_three q hq).imp fun _ e => e.1, fun f => ⟨_, h10 (linked3 .up) 3 f ?_⟩,
    (h11 (fromFive 1) ?_).1, ⟨_, h12 cutOff 5 0 rfl ?_ ?_ ?_ ?_⟩, ⟨_, h13 cutOff 5 ?_⟩,
    ⟨_, h14 ((served 1).modLink 3 fun k => { k with st := .up }) 3 ?_ ?_⟩, (h15 (linked3 .up) 3 ?_ ?_).imp fun _ e => e.1⟩
  all_goals decide

/-- What a frame delivers: its port, its packet and its binding are met, and what the cipher answers is free. -/
theorem witness_FramesDeliver (h : Obligations.PortsAndLinks) (f : Frame) (hf : ∃ o,
    Config.frameOpen ((linked3 .up).port 3).key f.pn f.bytes = some o ∧ (o = (.reliableOrdered, delivered) ∨ o = (.unreliable, delivered))) :
    Runs (.frameReceive 3 f) (linked3 .up) := by
  obtain ⟨-, -, -, -, -, -, -, -, -, -, -, h1, h2, h3, -⟩ := h
  obtain ⟨o, e, rfl | rfl⟩ := hf
  · exact (h1 (linked3 .up) 3 f delivered (fromFive 1) (joint 1) 0 (placedBinding 0) (by decide) e (h3 _ (by decide)).1
      ⟨by decide, ⟨rfl, by decide, by decide⟩, rfl, rfl, by decide⟩ (by decide)).imp fun _ e => e.1
  · exact ⟨_, h2 (linked3 .up) 3 f delivered (by decide) e⟩

/-- A slot that is FULL with four bytes, in form F or W, or EMPTY. -/
def slotOf4 (full : Bool) (x : Form) : Slot := { full := full, form := x, bytes := List.replicate 256 1, len := 4 }
/-- Order queue 0: a REQ and an EOL of package 5. -/
def ordered : List OqEnt := [⟨fromFive 6, false⟩, ⟨fromFive 9, false⟩]
/-- A port thread at word 0 of a program of two words that serves collective 2, with slots 0 and 1 FULL and slot 2 EMPTY. -/
def onPort (ft : PThread → PThread) (fb : Binding → Binding := id) (fs : State → State := id) : State :=
  served 1 fun s => fs { s with
    cur := some (.port 0 0)
    bindings := [fb { placedBinding 0 with
      words := [0, 0], ctrs := [5, 9], oqs := [ordered], slots := [slotOf4 true .w, slotOf4 true .w, slotOf4 false .w]
      threads := [ft { PThread.start 0 0 with bound := some (2, 0), cp := some (fromFive 1) }] }] }
/-- Puts a number into register v1. -/
def v1 (n : Nat) (t : PThread) : PThread := t.setReg 1 (BitVec.ofNat 32 n)

theorem goPort {ins : Instr} {pre : State → Binding → PThread → Prop} {eff : State → Nat → Nat → Binding → PThread → State}
    (h : PortCompletes ins pre eff) (s : State) (b : Binding) (t : PThread) (hs : PortHolds s 0 0 b t) (hp : pre s b t) : Runs ins s :=
  ⟨_, h _ _ _ _ _ hs hp⟩
theorem goPortTo {ins : Instr} {pre : Binding → PThread → Prop} {pc : Nat} (h : PortJumps ins pre pc) (s : State) (b : Binding)
    (t : PThread) (hs : PortHolds s 0 0 b t) (hp : pre b t) : Runs ins s := ⟨_, h _ _ _ _ _ hs hp⟩
theorem goPortWait {ins : Instr} {pre : State → Binding → PThread → Prop} {eff : State → Nat → Nat → State} (h : PortWaits ins pre eff)
    (s : State) (b : Binding) (t : PThread) (hs : PortHolds s 0 0 b t) (hp : pre s b t) : Runs ins s := ⟨_, h _ _ _ _ _ hs hp⟩
theorem goPortStop {ins : Instr} {pre : State → Binding → PThread → Prop} (h : PortStops ins pre) (s : State) (b : Binding)
    (t : PThread) (hs : PortHolds s 0 0 b t) (hp : pre s b t) : Runs ins s := ⟨_, h _ _ _ _ _ hs hp⟩

theorem witness_PortOperations (h : Obligations.PortOperations) :
    Runs .mcfNop (onPort id) ∧ Runs (.mcfSet 15 0x3FFFF) (onPort id) ∧ Runs (.mcfJmp 1) (onPort id) ∧ Runs (.mcfJz 2 1) (onPort id) ∧
    Runs (.mcfJz 1 1) (onPort (v1 3)) ∧ Runs (.mcfJnz 1 1) (onPort (v1 3)) ∧ Runs (.mcfJnz 2 1) (onPort id) ∧
    Runs (.mcfJmp 2) (onPort id) ∧ Runs .mcfEnd (onPort id) ∧ Runs (.mcfLookupM 3 1 2) (onPort (v1 2)) ∧
    Runs (.mcfLookupM 3 1 2) (onPort id) ∧ Runs (.mcfCnt 3 2 2 false) (onPort id) ∧ Runs (.mcfGrant 3 2 1) (onPort (v1 4)) ∧
    Runs (.mcfGrant 3 2 1) (onPort (v1 4) id fun s => s.modCtx 0 fun c => { c with colls := [(2, joint 3)] }) ∧
    Runs (.mcfGrant 3 2 1) (onPort (v1 5)) ∧ Runs (.mcfLd 3 2 63) (onPort id) ∧ Runs (.mcfSt 3 2 63) (onPort id) ∧
    Runs (.mcfLd 3 1 0) (onPort (v1 4095)) := by
  obtain ⟨⟨h1, h2, -, -, -, h3, h4, h5, h6, h7, h8, h9⟩, ⟨-, r1, r2, r3, r4, r5, r6, r7, r8, -, r9⟩, -⟩ := h
  refine ⟨goPort h1 (onPort id) _ _ ⟨rfl, rfl, rfl⟩ ?_, goPort (h2 _ _) (onPort id) _ _ ⟨rfl, rfl, rfl⟩ ?_,
    goPortTo (h3 1 1 rfl) (onPort id) _ _ ⟨rfl, rfl, rfl⟩ ?_, goPortTo (h4 2 1) (onPort id) _ _ ⟨rfl, rfl, rfl⟩ ?_,
    goPort (h5 _ _) (onPort (v1 3)) _ _ ⟨rfl, rfl, rfl⟩ ?_, goPortTo (h6 _ _) (onPort (v1 3)) _ _ ⟨rfl, rfl, rfl⟩ ?_,
    goPort (h7 _ _) (onPort id) _ _ ⟨rfl, rfl, rfl⟩ ?_, goPortStop (h8 _) (onPort id) _ _ ⟨rfl, rfl, rfl⟩ ?_,
    ⟨_, h9 (onPort id) 0 0 _ _ ⟨rfl, rfl, rfl⟩⟩, goPort (r1 _ _ _ (joint 1) 0) (onPort (v1 2)) _ _ ⟨rfl, rfl, rfl⟩ ⟨rfl, ?_, rfl⟩,
    goPort (r2 _ _ _) (onPort id) _ _ ⟨rfl, rfl, rfl⟩ ?_, goPort (r3 _ _ _ _ 5) (onPort id) _ _ ⟨rfl, rfl, rfl⟩ ?_,
    goPort (r4 _ _ _ 5 9) (onPort (v1 4)) _ _ ⟨rfl, rfl, rfl⟩ ⟨?_, ?_, ?_, ?_, ?_⟩,
    goPort (r5 _ _ _ 5 9 2) (onPort (v1 4) id fun s => s.modCtx 0 fun c => { c with colls := [(2, joint 3)] }) _ _ ⟨rfl, rfl, rfl⟩
      ⟨?_, ?_, ?_, ?_, ?_⟩,
    goPort (r6 _ _ _ 5 9) (onPort (v1 5)) _ _ ⟨rfl, rfl, rfl⟩ ⟨?_, ?_, ?_⟩,
    goPort (r7 _ _ _ (slotOf4 true .w)) (onPort id) _ _ ⟨rfl, rfl, rfl⟩ rfl,
    goPort (r8 _ _ _ (slotOf4 true .w)) (onPort id) _ _ ⟨rfl, rfl, rfl⟩ rfl,
    goPortStop (r9 (.mcfLd 3 1 0) ⟨3, 1, 0, .inl rfl⟩) (onPort (v1 4095)) _ _ ⟨rfl, rfl, rfl⟩
      (by rintro d a w (e | e) <;> cases e; rfl)⟩
  all_goals decide

/-- The inbound queue of the engine holds a packet. -/
def received (s : State) : State := { s with inq := vset s.inq 0 [fromFive 1] }
/-- The thread's CP is of a type. -/
def binds1 (ty : BitVec 4) (t : PThread) : PThread := { t with cp := some (fromFive ty) }
/-- The header at v5 names collective 2. -/
def heads (t : PThread) : PThread := t.setReg 6 2

/-- An order queue that holds all the requests that it may. -/
def crowded : List OqEnt := List.replicate 8192 ⟨fromFive 6, false⟩

theorem crowded_full : (crowded.filter fun e => !e.taken).length = 8192 := by
  rw [crowded, List.filter_replicate_of_pos rfl, List.length_replicate]

theorem witness_PortPacketsAndQueues (h : Obligations.PortPacketsAndQueues) :
    Runs (.mcfMatch 4 1) (onPort id id received) ∧ Runs (.mcfMatch 4 2) (onPort id id received) ∧
    Runs (.mcfHold 1) (onPort (v1 2)) ∧ Runs (.mcfHold 2) (onPort id) ∧ Runs (.mcfWait 2 2) (onPort id) ∧
    Runs (.mcfWait 1 2) (onPort (v1 2)) ∧ Runs (.mcfFwd 1 2 5 true) (onPort heads) ∧ Runs (.mcfRepl 1 1 5 false 0) (onPort heads id fun s => s.modBinding 0
      fun b => { b with slots := lmod b.slots 0 fun x => { x with bytes := List.replicate 256 0 } }) ∧
    Runs (.mcfEmit 2 2 false) (onPort id) ∧ Runs (.mcfEmit 2 2 false) (onPort fun t => { t with bound := none }) ∧
    Runs (.mcfBarup 1 2) (onPort (v1 2)) ∧ Runs (.mcfBarup 1 2) (onPort (v1 65536)) ∧ Runs (.mcfNack 2 5) (onPort heads) ∧ Runs (.mcfOrder 2) (onPort (binds1 9)) ∧
    Runs (.mcfOrder 2) (onPort (binds1 9) fun b => { b with oqs := [crowded] }) ∧
    Runs (.mcfDrain 4 2 2) (onPort id) ∧ Runs (.mcfDrain 4 2 1) (onPort (v1 1) fun b => { b with oqs := [ordered.drop 1] }) ∧
    Runs (.mcfDrain 4 2 1) (onPort (v1 2)) := by
  obtain ⟨h1, h2, h3, h4, h5, h6, h7, h8, h9, h10, h11, h17, h12, h13, h18, h14, h15, h16⟩ := h
  refine ⟨goPort (h1 _ _ (fromFive 1)) (onPort id id received) _ _ ⟨rfl, rfl, rfl⟩ ?_,
    goPortWait (h2 _ _) (onPort id id received) _ _ ⟨rfl, rfl, rfl⟩ ?_,
    goPort (h3 _ (fromFive 1) (slotOf4 false .w)) (onPort (v1 2)) _ _ ⟨rfl, rfl, rfl⟩ ⟨rfl, rfl, rfl⟩,
    goPortStop (h4 _) (onPort id) _ _ ⟨rfl, rfl, rfl⟩ (.inr ⟨slotOf4 true .w, rfl, rfl⟩),
    goPort (h5 _ _ (slotOf4 true .w) (slotOf4 true .w)) (onPort id) _ _ ⟨rfl, rfl, rfl⟩ ⟨rfl, rfl, .inr rfl, rfl⟩,
    goPortWait (h6 _ _ (slotOf4 false .w) (slotOf4 true .w)) (onPort (v1 2)) _ _ ⟨rfl, rfl, rfl⟩ ⟨rfl, rfl, rfl, rfl⟩,
    goPort (h7 _ _ _ _ (slotOf4 true .w)) (onPort heads) _ _ ⟨rfl, rfl, rfl⟩ ⟨rfl, rfl, ?_⟩,
    goPort (h8 _ _ _ _ _ _ _) (onPort heads id fun s => s.modBinding 0 fun b =>
      { b with slots := lmod b.slots 0 fun x => { x with bytes := List.replicate 256 0 } }) _ _ ⟨rfl, rfl, rfl⟩ ⟨rfl, rfl, rfl, ?_⟩,
    goPort (h9 _ _ _ (slotOf4 true .w) 2 0) (onPort id) _ _ ⟨rfl, rfl, rfl⟩ ⟨rfl, rfl, rfl, ?_⟩,
    goPortStop (h10 _ _ _) (onPort fun t => { t with bound := none }) _ _ ⟨rfl, rfl, rfl⟩ rfl,
    goPort (h11 _ _ (joint 1)) (onPort (v1 2)) _ _ ⟨rfl, rfl, rfl⟩ rfl,
    goPort (h17 _ _) (onPort (v1 65536)) _ _ ⟨rfl, rfl, rfl⟩ ?_, goPort (h12 _ _) (onPort heads) _ _ ⟨rfl, rfl, rfl⟩ ⟨?_, ?_⟩,
    goPort (h13 _ (fromFive 9) ordered) (onPort (binds1 9)) _ _ ⟨rfl, rfl, rfl⟩ ⟨rfl, rfl, .inr rfl, ?_⟩,
    goPortWait (h18 _ (fromFive 9) crowded) (onPort (binds1 9) fun b => { b with oqs := [crowded] }) _ _ ⟨rfl, rfl, rfl⟩
      ⟨rfl, rfl, .inr rfl, Nat.le_of_eq crowded_full.symm⟩,
    goPort (h14 _ _ _ ordered ⟨fromFive 6, false⟩) (onPort id) _ _ ⟨rfl, rfl, rfl⟩ ⟨rfl, ?_, ?_⟩,
    goPort (h15 _ _ _ (ordered.drop 1)) (onPort (v1 1) fun b => { b with oqs := [ordered.drop 1] }) _ _ ⟨rfl, rfl, rfl⟩ ⟨rfl, ?_, ?_⟩,
    goPortWait (h16 _ _ _ ordered) (onPort (v1 2)) _ _ ⟨rfl, rfl, rfl⟩ ⟨rfl, ?_⟩⟩
  all_goals decide

theorem witness_PortCombines (h : Obligations.PortOperations) :
    Runs (.mcfComb 1 2 2 4) (onPort (v1 2)) ∧ (combElem 0xB 0xFFFFFFFF 0).1 = 0xFFFFFFFF ∧
    Runs (.mcfComb 2 1 2 4) (onPort (v1 2)) := by
  obtain ⟨-, -, h1, h2, h3⟩ := h
  refine ⟨goPort (h1 _ _ _ _ (slotOf4 true .w) (slotOf4 true .w) (slotOf4 false .w)) (onPort (v1 2)) _ _ ⟨rfl, rfl, rfl⟩
      ⟨rfl, rfl, rfl, rfl, rfl, rfl, ?_, ?_⟩,
    (h2 0xFFFFFFFF 0 ?_ ?_).2.2.2.2.1.trans ?_,
    goPortStop (h3 _ _ _ _ (slotOf4 false .w) (slotOf4 true .w)) (onPort (v1 2)) _ _ ⟨rfl, rfl, rfl⟩ ⟨rfl, rfl, ?_, .inl rfl⟩⟩
  all_goals decide

/-- Decoding and encoding agree on `add` of registers at the ends of their range, and on the port program's `end`. -/
theorem witness_DecodeEncodeAgree (h : Obligations.DecodeEncodeAgree) :
    decodeWords [0xFFFFFFFFFFFFFFFF] ≠ .ok (.nop always) ∧
    (∃ ws, encode (.add always (alu .i32 111 127 0 0 0)) = some ws ∧ decodeWords ws = .ok (.add always (alu .i32 111 127 0 0 0))) ∧
    ∃ w, encodePortWord .mcfEnd = some w ∧ decodePort w = .ok .mcfEnd := by
  obtain ⟨⟨h1, -⟩, h2, -⟩ := h
  refine ⟨by decide, ⟨_, rfl, h1 _ _ ?_ rfl⟩, ⟨_, rfl, h2 _ _ ?_ rfl⟩⟩
  all_goals decide

/-- The overlay of the scenes with another first word. -/
def worded (w : DWord) : Scene := ctl id id fun s => { s with
  cores := vset s.cores 0 { homeCore with copies := [{ image with words := image.words.set 3 w }] } }
/-- What the agenda holds next. -/
def planned (x : Machine.Task) : State := { State.reset with agenda := [x] }

theorem witness_StepRunsDecoded (h : Obligations.StepRunsDecoded) :
    step ctl.s = exec (.nop always) ctl.s ∧ (∃ t, step (worded 0xF000000000000000).s = .next t) ∧
    (∃ t, step (worded 0xFFFFFFFF).s = .next t) ∧
    step (onPort id (fun b => { b with words := [0x41C00100] })) = exec (.mcfSet 7 0x100) (onPort id fun b => { b with words := [0x41C00100] }) ∧
    step (planned (.event (.portEnable 3))) = exec (.portEnable 3) State.reset ∧ (∃ t, step (planned (.port 3)) = .next t) ∧
    ∃ t, step (planned (.wait 5)) = .next t := by
  obtain ⟨h1, h2, h3, h4, h5⟩ := h
  refine ⟨(h1 ctl.s (.control 7) ctl.b .ctl [] ctl.t image ⟨rfl, rfl, rfl, rfl, rfl, rfl, rfl⟩).1 _ ?_,
    ⟨_, (h1 (worded 0xF000000000000000).s (.control 7) ctl.b .ctl [] ctl.t _ ⟨rfl, rfl, rfl, rfl, rfl, rfl, rfl⟩).2 ?_⟩,
    ⟨_, (h1 (worded 0xFFFFFFFF).s (.control 7) ctl.b .ctl [] ctl.t _ ⟨rfl, rfl, rfl, rfl, rfl, rfl, rfl⟩).2 ?_⟩,
    h2 _ 0 0 _ _ _ _ rfl rfl rfl rfl ?_, h3 _ _ [] rfl rfl, ⟨_, h4 _ _ [] rfl rfl⟩, ⟨_, h5 _ _ [] rfl rfl⟩⟩
  all_goals first | decide | (intro i e; cases e)

theorem witness_StepKeepsMemory (h : Obligations.StepKeepsMemory) : ∃ s', step (planned (.wait 5)) = .next s' ∧ MemOk s' := by
  obtain ⟨s', e⟩ : ∃ s', step (planned (.wait 5)) = .next s' := ⟨_, rfl⟩
  exact ⟨s', e, h _ _ (by unfold MemOk; decide) e⟩

/-! ## Single steps whose results the spec's worked examples state -/

/-- The thread of a scene after it issues an instruction. -/
def left (x : Scene) (i : Instr) : Option Thread :=
  match exec i x.s with
  | .next t => (t.block 7).bind (·.thread x.w)
  | _ => none

/-- A register after the scene's thread issues an instruction. -/
def leftG (x : Scene) (i : Instr) (g : Nat) : Option Word := (left x i).map fun t => vget t.regs g 0

/-- Predicates q1 and q2 after the scene's thread issues an instruction. -/
def leftQ (x : Scene) (i : Instr) : Option (Bool × Bool) := (left x i).map fun t => (vget t.preds 1 true, vget t.preds 2 true)

/-- A scene whose thread holds words in its registers, q3 being true. -/
def given (l : List (Nat × Word)) : Scene :=
  ctl id fun t => { t with regs := l.foldl (fun v p => vset v p.1 p.2) t.regs, preds := vset t.preds 3 true }

/-- Addition wraps (R101, R204). -/
theorem test_add_wraps : leftG (given [(2, 0xFFFFFFFF), (3, 2)]) (.add always (alu .i32 1 2 3 0 0)) 1 = some 1 := by decide
/-- The destination may be a source (R200). -/
theorem test_add_overlap : leftG (given [(1, 5), (2, 7)]) (.add always (alu .i32 1 1 2 0 0)) 1 = some 12 := by decide
/-- 09_isa_arithmetic.md, Example 1: `setp` under i32. -/
theorem test_setp_signed : leftQ (given [(4, 0xFFFFFFFF), (5, 1)]) (.setp ⟨3, false⟩ (alu .i32 1 4 5 2 2)) =
    some (true, false) := by decide
/-- 09_isa_arithmetic.md, Example 1: `setp` under n32. -/
theorem test_setp_unsigned : leftQ (given [(4, 0xFFFFFFFF), (5, 1)]) (.setp ⟨3, false⟩ (alu .n32 1 4 5 2 2)) =
    some (false, true) := by decide
/-- 09_isa_arithmetic.md, Example 1: the four lanes of `cvt.i32.f32.rtz.sat`. -/
theorem test_cvt_lanes :
    [0x40490FDB, 0xC0200000, 0xCF800000, 0x7FC00000].map (cvtOf .i32 .f32 .rtz true) =
      [(3, none), (0xFFFFFFFE, none), (0x80000000, some 0x44), (0, some 0x40)] := by decide
theorem test_cvt_step : leftG (given [(7, 0xC0200000)])
    (.cvt always { alu .i32 6 7 0 0 4 with rnd := .rtz, sat := true }) 6 = some 0xFFFFFFFE := by decide
/-- 05_number_formats.md, Example 1: FP32 to E4M3. -/
theorem test_convert_e4m3 :
    ([0x43E40000, 0x43E80000, 0x43E88000, 0xFF800000].map fun v => convert .e4m3 .rne false (fval .f32 v)) =
      [⟨0x7E, none⟩, ⟨0x7E, none⟩, ⟨0x7F, some 0x42⟩, ⟨0x7F, some 0x42⟩] := by decide
theorem test_convert_e4m3_sat :
    ([0x43E88000, 0xFF800000].map fun v => convert .e4m3 .rne true (fval .f32 v)) =
      [⟨0x7E, some 0x44⟩, ⟨0xFE, some 0x44⟩] := by decide
/-- 05_number_formats.md, Example 2: one weight at every precision. -/
theorem test_npi_values : ((List.range 7).map fun j => npiValue (j + 2) (0xB5 / 2 ^ (6 - j))) =
    [-96, -80, -72, -76, -74, -75, -75] := by decide
/-- 05_number_formats.md, Example 4: the sum of four ranks on the canonical tree. -/
theorem test_tree_sum :
    (addF32 (addF32 0x3F800000 0x33800000).1 (addF32 0x33800000 0x33800000).1).1 = 0x3F800001 := by decide
/-- 14_anvil_port_programs.md, Example 1: three ranks of BF16. -/
theorem test_tree_bf16 :
    (treeFold 0 (slotOf .f (elemBytes 4 [0x3F800000])) []
      [slotOf .f (elemBytes 4 [0x3B800000]), slotOf .f (elemBytes 4 [0x3B800000])]).map (fun x => emitBytes x.1 true) =
      some [0x81, 0x3F] := by decide
/-- 09_isa_arithmetic.md, Example 2: one block quantised and dotted. -/
theorem test_bscale : leftG (given [(49, 0x41400000)]) (.bscale always (alu .i8x4 52 49 0 0 0)) 52 = some 0x3DC2 := by decide
theorem test_bquant :
    leftG (given [(0, 0xC1400000), (1, 0xC1340000), (2, 0xC1280000), (3, 0xC11C0000), (52, 0x3DC2)])
      (.bquant always (alu .i8x4 32 0 52 0 0)) 32 = some 0x99918981 := by decide
theorem test_bdot : accFloat 0 (fval .bf16 0x3F80) (fval .bf16 0x3DC2) (intVal (-127)) false = ⟨0xC1407C00, none⟩ := by decide
/-- 12_isa_engines.md, Example 2: ties and special values of `csel`. -/
theorem test_csel_ranks :
    (rankColumn 6 [0x40000000, 0x7FC00000, 0x80000000, 0x40000000, 0, 0xFF800000]).map (·.2) = [0, 3, 2, 4, 5, 1] := by decide
/-- 11_isa_memory_and_sync.md, Example 3: bytes before arrivals. -/
theorem test_barrier_phase :
    (((((Bar.init 32).start 2).engine 4096 false).expect 4096).arrive).arrive =
      { err := false, ph := true, exp := 2, arr := 0, tx := 0 } := by decide
/-- 01_package.md, Example 1: core 137 lies on die 6. -/
theorem test_core_die : dieOf 137 = 6 := by decide
/-- The bank permutation of PERM = 2 (R88). -/
theorem test_permutation : [0x2200, 0x2400, 0x2600].map (permute 2) = [0x2210, 0x2420, 0x2630] := by decide
/-- A taken branch stands at its target (R229). -/
theorem test_branch : (left last (.bra always 5)).map (·.pc) = some 0x01000038 := by decide
/-- A false guard leaves the registers (R179). -/
theorem test_false_guard : leftG (given [(1, 9), (2, 1)]) (.add ⟨2, false⟩ (alu .i32 1 2 2 0 0)) 1 = some 9 := by decide

end Sys2Proof.Tests
end

/-! # Format ranges and context records (R102, R104, R107 to R111, R155, R358) -/

namespace Sys2Proof.Machine

open Sys2Proof.Claims

/-! ## What the runtime does while the application cores run (R350) -/

theorem State.byRuntime_done {s : State} (hs : s.boot = .done) (r : Result) : s.byRuntime r = r := by
  simp [State.byRuntime, State.appCores, hs, Config.appCores]

/-! ## Format ranges by number -/

theorem extractLsb'_one_beq {w : Nat} (v : BitVec w) (i : Nat) : (v.extractLsb' i 1 == 1) = v.getLsbD i := by
  have hbit : (v.extractLsb' i 1).getLsbD 0 = v.getLsbD i := by simp
  rw [← hbit]
  generalize v.extractLsb' i 1 = b
  revert b
  decide

theorem frCtl_eq (v : DWord) :
    frCtl v = { clr := v.getLsbD 31, en := v.getLsbD 7, planes := v.getLsbD 6, fmt := v.extractLsb' 0 5 } := by
  simp only [frCtl, extractLsb'_one_beq]

theorem State.modRange_range (s : State) (n : Nat) (f : FmtRange → FmtRange) :
    s.modRange n f = s.modRange n fun _ => f (s.range n) := by
  by_cases hn : n < 32 <;> simp [State.modRange, State.range, vmod, vget, hn]

theorem State.mem_fr {s : State} {r : FmtRange} : r ∈ s.fr.toList ↔ ∃ m, m < 32 ∧ s.range m = r := by
  simp only [Vector.mem_toList_iff, Vector.mem_iff_getElem, State.range, vget]
  exact exists_congr fun m => ⟨fun ⟨hm, e⟩ => ⟨hm, by simpa [hm] using e⟩, fun ⟨hm, e⟩ => ⟨hm, by simpa [hm] using e⟩⟩

/-- An enabled range beside number `n` is one of those that `State.enables` compares with. -/
theorem State.range_mem_others {s : State} {n i : Nat} (hi : i < 32) (hne : i ≠ n) (hen : (s.range i).en = true) :
    s.range i ∈ (s.fr.toList.zipIdx.filter fun p => p.2 != n && p.1.en).map (·.1) := by
  refine List.mem_map.mpr ⟨(s.range i, i), List.mem_filter.mpr ⟨?_, by simp [hne, hen]⟩, rfl⟩
  rw [List.mk_mem_zipIdx_iff_getElem?]
  simp [State.range, vget, hi]

theorem spansApart_iff {a b c d : Nat} : spansApart a b c d = true ↔ b ≤ a ∨ d ≤ c ∨ b ≤ c ∨ d ≤ a := by
  simp [spansApart, or_assoc]

/-- What a range that may be enabled meets (R107, R108). -/
theorem State.enables_sound {s : State} {n : Nat} {r : FmtRange} (h : s.enables n r = true) :
    frFmt r.fmt = true ∧ r.lo ≤ r.hi ∧ r.hi - r.lo = 8 * r.plane ∧
      ∀ i, i < 32 → i ≠ n → (s.range i).en = true → spansApart r.lo r.hi (s.range i).lo (s.range i).hi = true := by
  simp only [State.enables, Bool.and_eq_true, decide_eq_true_eq, beq_iff_eq, List.all_eq_true] at h
  obtain ⟨⟨⟨⟨⟨hfmt, hle⟩, hsize⟩, -⟩, hapart⟩, -⟩ := h
  exact ⟨hfmt, hle, hsize, fun i hi hne hen => hapart _ (State.range_mem_others hi hne hen)⟩

/-! ## FRCTL (R108, R111) -/

/-- FRCTL_WRITE with its fields as bits of the value written: ERR is cleared first where bit 31 asks for it. -/
theorem exec_frctlWrite {s : State} {n : Nat} (v : DWord) (hs : s.boot = .done) (hn : n < 32) :
    let planes := v.getLsbD 6
    let fmt := v.extractLsb' 0 5
    let r := { s.range n with err := (s.range n).err && !v.getLsbD 31 }
    let err := r.err || r.planes != planes || r.fmt != fmt
    let r' := { r with en := true, planes := planes, fmt := fmt }
    exec (.frctlWrite n v) s = .next (
      if r.en then
        if v.getLsbD 7 then s.modRange n fun _ => { r with err := err }
        else (s.flushRange r).modRange n fun _ => { r with err := err, en := false }
      else if v.getLsbD 7 then
        if s.enables n r' then (s.flushRange r').modRange n fun _ => r' else s.modRange n fun _ => { r with err := true }
      else s.modRange n fun _ => { r with planes := planes, fmt := if frFmt fmt then fmt else r.fmt }) := by
  have hclr : (if v.getLsbD 31 then { s.range n with err := false } else s.range n) =
      { s.range n with err := (s.range n).err && !v.getLsbD 31 } := by
    cases v.getLsbD 31 <;> simp
  change execFrctlWrite n v s = _
  simp only [execFrctlWrite, State.byRuntime_done hs, frCtl_eq, hclr, if_neg (Nat.not_le.mpr hn)]
  split
  · split <;> rfl
  · split
    · split <;> rfl
    · rfl

theorem formatRanges : FormatRanges := by
  refine ⟨?enabling, ?legal, ?refused, ?enabled, fun s n hs => State.byRuntime_done hs _,
    fun s n x hs => State.byRuntime_done hs _, fun s n x hs => State.byRuntime_done hs _⟩
  case enabling =>
    rintro s n v r hs hn rfl hoff hen hok
    simp only [exec_frctlWrite v hs hn, hoff, hen, hok, if_true, if_false, Bool.false_eq_true]
    rfl
  case legal =>
    intro s n r h
    obtain ⟨hfmt, hle, hsize, hapart⟩ := State.enables_sound h
    simp only [frFmt, Bool.and_eq_true, decide_eq_true_eq] at hfmt
    simp only [FmtRange.lo, FmtRange.hi, FmtRange.plane] at hle hsize hapart
    refine ⟨hfmt.1, hfmt.2, by omega, ?_⟩
    rintro i k hi hne rfl hen
    rcases spansApart_iff.mp (hapart i hi hne hen) with hempty | hrest
    · exact .inl (BitVec.eq_of_toNat_eq (by omega))
    · exact .inr (by omega)
  case refused =>
    intro s n v hs hn hoff hen hclr hbad
    rw [State.modRange_range]
    simp only [exec_frctlWrite v hs hn, hoff, hen, hclr, if_true, if_false, Bool.false_eq_true, Bool.not_false,
      Bool.and_true, hbad]
  case enabled =>
    intro s n v hs hn hon hen hclr
    rw [State.modRange_range]
    simp only [exec_frctlWrite v hs hn, hon, hen, hclr, if_true, Bool.not_false, Bool.and_true]

/-! ## Loads from a range (R104, R109) -/

/-- The one enabled range that holds an address is the range found there. -/
theorem State.rangeAt_eq_some {s : State} {n pa : Nat} (hn : n < 32) (hen : (s.range n).en = true)
    (hlo : (s.range n).lo ≤ pa) (hhi : pa < (s.range n).hi)
    (hone : ∀ m, m < 32 → m ≠ n → (s.range m).en = true → ¬((s.range m).lo ≤ pa ∧ pa < (s.range m).hi)) :
    s.rangeAt pa = some (s.range n) := by
  cases hfound : s.rangeAt pa with
  | none =>
    have hnone := List.find?_eq_none.mp hfound _ (State.mem_fr.mpr ⟨n, hn, rfl⟩)
    simp [hen, hlo, hhi] at hnone
  | some r =>
    obtain ⟨m, hm, rfl⟩ := State.mem_fr.mp (List.mem_of_find?_eq_some hfound)
    have hholds := List.find?_some hfound
    simp only [Bool.and_eq_true, decide_eq_true_eq] at hholds
    obtain ⟨⟨hen', hlo'⟩, hhi'⟩ := hholds
    by_cases hmn : m = n
    · rw [hmn]
    · exact absurd ⟨hlo', hhi'⟩ (hone m hm hmn hen')

theorem State.rangeAt_eq_none {s : State} {pa : Nat}
    (hnone : ∀ m, m < 32 → (s.range m).en = true → ¬((s.range m).lo ≤ pa ∧ pa < (s.range m).hi)) :
    s.rangeAt pa = none := by
  refine List.find?_eq_none.mpr fun r hr => ?_
  obtain ⟨m, hm, rfl⟩ := State.mem_fr.mp hr
  simpa using hnone m hm

@[simp] theorem State.physRead_one (s : State) (pa : Nat) : s.physRead pa 1 = [s.physByte pa] := rfl

theorem State.physByte_of_rangeAt {s : State} {pa : Nat} {r : FmtRange} (h : s.rangeAt pa = some r) :
    s.physByte pa = rangeByte s.mem r pa := by
  simp [State.physByte, h]

theorem State.physByte_of_no_range {s : State} {pa : Nat} (h : s.rangeAt pa = none) : s.physByte pa = memGet s.mem pa := by
  simp [State.physByte, h]

/-- Bit `i` of a little-endian number lies in byte `i / 8`. -/
theorem testBit_leNat_memRead (m : List Host.Cell) (n a i : Nat) (h : i < 8 * n) :
    (leNat (memRead m a n)).testBit i = (memGet m (a + i / 8)).toNat.testBit (i % 8) := by
  induction n generalizing a i with
  | zero => omega
  | succ n ih =>
    have hsplit := Nat.testBit_two_pow_mul_add (leNat (memRead m (a + 1) n)) (memGet m a).isLt i
    rw [memRead, leNat, Nat.add_comm, show 256 = 2 ^ 8 from rfl, hsplit]
    split
    · next hlow => rw [Nat.div_eq_of_lt hlow, Nat.mod_eq_of_lt hlow, Nat.add_zero]
    · next hhigh =>
      have hbyte : a + 1 + (i - 8) / 8 = a + i / 8 := by omega
      have hbit : (i - 8) % 8 = i % 8 := by omega
      rw [ih _ _ (by omega), hbyte, hbit]

/-- Bit of a weight in a plane: planes count from 0, weights are packed eight to a byte. -/
def planeBit (m : List Host.Cell) (r : FmtRange) (i p : Nat) : Bool :=
  (memGet m (r.lo + p * r.plane + i / 8)).toNat.testBit (i % 8)

/-- A plane's bit of weight `i` is bit `i % 32` of the plane's 32-bit word `i / 32`. -/
theorem planeBit_word (m : List Host.Cell) (r : FmtRange) (i p : Nat) :
    (leNat (memRead m (r.lo + p * r.plane + 4 * (i / 32)) 4)).testBit (i % 32) = planeBit m r i p := by
  have hbyte : r.lo + p * r.plane + 4 * (i / 32) + i % 32 / 8 = r.lo + p * r.plane + i / 8 := by omega
  have hbit : i % 32 % 8 = i % 8 := by omega
  rw [testBit_leNat_memRead _ _ _ _ (by omega), planeBit, hbyte, hbit]

/-- The number whose bits, highest first, are those that `b` gives for a list. -/
def bitsNat (b : Nat → Bool) (l : List Nat) : Nat := l.foldl (fun t p => 2 * t + (b p).toNat) 0

theorem bitsNat_concat (b : Nat → Bool) (l : List Nat) (p : Nat) :
    bitsNat b (l ++ [p]) = 2 * bitsNat b l + (b p).toNat := by
  simp [bitsNat]

theorem bitsNat_range_lt (b : Nat → Bool) (k : Nat) : bitsNat b (List.range k) < 2 ^ k := by
  induction k with
  | zero => simp [bitsNat]
  | succ k ih =>
    have hbit : (b k).toNat ≤ 1 := Bool.toNat_le _
    rw [List.range_succ, bitsNat_concat]
    omega

/-- The claim's sum over integers is the number of the bits. -/
theorem foldl_bits_eq (b : Nat → Bool) (l : List Nat) :
    l.foldl (fun (v : Int) p => 2 * v + if b p = true then 1 else 0) 0 = bitsNat b l := by
  induction l using List.reverseRecOn with
  | nil => rfl
  | append_singleton l p ih =>
    rw [List.foldl_append, ih, bitsNat_concat]
    cases hbit : b p <;> simp [hbit]

/-- A signed number of `k` bits is negative when its top bit is set. -/
theorem natSigned_of_lt {k t : Nat} (hk : 0 < k) (ht : t < 2 ^ k) :
    natSigned k t = if (2 : Int) ^ (k - 1) ≤ t then (t : Int) - 2 ^ k else t := by
  obtain ⟨j, rfl⟩ : ∃ j, k = j + 1 := ⟨k - 1, by omega⟩
  have hsign : 2 * t < 2 ^ (j + 1) ↔ ¬(2 : Int) ^ j ≤ t := by
    rw [Nat.pow_succ, not_le]
    norm_cast
    omega
  rw [natSigned, Nat.mod_eq_of_lt ht, Nat.add_sub_cancel]
  simp only [hsign, ite_not]

/-- The byte that EXPAND mode delivers: the value of the first planes of its weight (R104, R109). -/
theorem rangeByte_expand {r : FmtRange} (m : List Host.Cell) (pa : Nat) (h : r.planes = false) :
    rangeByte m r pa = BitVec.ofInt 8 (npiValue (r.fmt.toNat - 16)
      (bitsNat (planeBit m r (pa - r.lo)) (List.range (r.fmt.toNat - 16)))) := by
  simp only [rangeByte, h, Bool.false_eq_true, if_false, bitsNat, planeBit, Nat.toNat_testBit]

/-- The byte that PLANES mode delivers: the stored byte of one of the first planes, else zero (R109). -/
theorem rangeByte_planes {r : FmtRange} (m : List Host.Cell) (pa : Nat) (h : r.planes = true) :
    rangeByte m r pa = if (pa - r.lo) / r.plane < r.fmt.toNat - 16 then memGet m pa else 0 := by
  simp only [rangeByte, h, if_true]

theorem rangesDecode : RangesDecode := by
  refine ⟨?_, fun s pa h => ?_, fun _ _ _ => rfl⟩
  · intro s n pa hn r lo plane k i hen hfmt hfmt' hlo hhi hone
    have hbyte : s.physByte pa = rangeByte s.mem r pa :=
      State.physByte_of_rangeAt (State.rangeAt_eq_some hn hen hlo hhi hone)
    refine ⟨fun hmode => ?_, ?_⟩
    · rw [State.physRead_one, hbyte, rangeByte_planes _ _ hmode]
      rfl
    · intro hmode bit top v
      have htop : top = bitsNat (planeBit s.mem r i) (List.range k) := by
        rw [← foldl_bits_eq]
        refine List.foldl_ext _ _ _ fun t j hj => ?_
        have hplane : 7 - (7 - j) = j := by have := List.mem_range.mp hj; omega
        have hbit : bit (7 - j) = planeBit s.mem r i j := by
          rw [← planeBit_word]
          simp only [bit, hplane]
          rfl
        rw [hbit]
      rw [State.physRead_one, hbyte, rangeByte_expand _ _ hmode, npiValue,
        natSigned_of_lt (by omega) (bitsNat_range_lt _ _)]
      simp only [v, htop]
      rfl
  · rw [State.physRead_one, State.physByte_of_no_range (State.rangeAt_eq_none h)]

/-! ## Context records (R4, R10, R155, R358) -/

theorem State.ctx_modCtx (s : State) {c : Nat} (f : Context → Context) (hc : c < 64) :
    (s.modCtx c f).ctx c = f (s.ctx c) :=
  vget_vmod_same _ _ _ _ hc

/-- An entry written with FRZ 0 reads back with STAMP 0, whether or not the entry before it froze a range (R155, R165). -/
theorem State.putWindow_lookup {s : State} {c n : Nat} {h : BitVec 16} {w : Window} (hc : c < 64)
    (hn : (s.ctx c).winN = some n) (hh : h.toNat < 2 ^ n) (hfrz : w.frz = false) :
    ((s.putWindow c h w).ctx c).windows.lookup h.toNat = some { w with stamp := 0 } := by
  have hstays (t : State) : t.freezesHere w = false := by simp [State.freezesHere, hfrz]
  simp only [State.putWindow, hn, Option.any_some, hh, decide_true, if_true, hstays, Bool.false_eq_true, if_false]
  rw [State.ctx_modCtx _ _ hc]
  simp

/-- A placed queue reads, after a change that keeps its size, as changed. -/
theorem State.queue_modQueue {s : State} {c q : Nat} {k : Queue} {f : Queue → Queue} (hc : c < 64)
    (hk : (s.ctx c).queue q = some k) (hf : (f k).n = k.n) : ((s.modQueue c q f).ctx c).queue q = some (f k) := by
  simp only [Context.queue, Option.ite_none_right_eq_some, Option.filter_eq_some_iff] at hk
  obtain ⟨hq, hget, hplaced⟩ := hk
  simp only [State.modQueue, State.ctx_modCtx _ _ hc, Context.queue, lmod, List.getElem?_modify, hq, hget, if_true]
  simpa [Option.filter, hf] using hplaced

/-- The runtime's write of a record puts it into its slot and leaves the tail and the count of accepted records. -/
theorem State.putRing_queue {s : State} {c q slot : Nat} {bs : List Byte} {k : Queue} (hc : c < 64)
    (hk : (s.ctx c).queue q = some k) (hslot : slot < 2 ^ k.n) (hbs : bs.length = 256) :
    ∃ k', ((s.putRing c q slot bs).ctx c).queue q = some k' ∧ k'.recordAt slot = bs ∧ k'.tail = k.tail ∧
      k'.acc = k.acc := by
  refine ⟨_, State.queue_modQueue hc hk ?_, ?_⟩
  all_goals simp [hslot, hbs, Queue.recordAt, Queue.putRecord]

theorem State.servable_of {s : State} {c : Nat} {r : CollRec}
    (h : r.ctype = 3 → ∀ b ∈ s.bindings, b.ctx = c → b.prog = r.prog → b.ctrs.length = 256) :
    s.servable c r = true := by
  by_cases htype : r.ctype = 3
  · simp only [State.servable, Bool.or_eq_true, List.all_eq_true]
    refine .inr fun b hb => ?_
    have := h htype b hb
    simp only [Bool.not_eq_true', Bool.and_eq_false_iff, beq_eq_false_iff_ne, beq_iff_eq]
    tauto
  · simp [State.servable, htype]

/-- A structure that leaves the control region has no free place there (R10). -/
theorem State.ctlFree_outside {s : State} {c base bytes : Nat} {st : CtlStruct} (h : 24 * 1048576 < base + bytes) :
    s.ctlFree c st base bytes = false := by
  have hout : ¬base + bytes ≤ Config.controlRegion := Nat.not_le.mpr h
  simp [State.ctlFree, hout]

theorem State.placeStruct_free {s : State} {c base n bytes : Nat} {st : CtlStruct} (hbytes : structBytes st n = some bytes)
    (hfree : s.ctlFree c st base bytes = true) :
    s.placeStruct c st base n = s.modCtx c fun x => x.place st base n := by
  simp [State.placeStruct, hbytes, hfree]

theorem State.placeStruct_refused {s : State} {c base n bytes : Nat} {st : CtlStruct}
    (hbytes : structBytes st n = some bytes) (hfull : s.ctlFree c st base bytes = false) :
    s.placeStruct c st base n = s.ctxEvent c 0x09 base n := by
  simp [State.placeStruct, hbytes, hfull]

/-- A write of one field of a record, made where its value is in range. -/
theorem exec_contextRecordWrite_field {s : State} {c : Nat} {f : CtxField} {ok : Bool} {g : Context → Context}
    {p : Prop} [Decidable p] (hs : s.boot = .done) (hok : ok = true ↔ p)
    (hf : execContextRecordWrite c f s = s.byRuntime (.next (if ok then s.modCtx c g else s))) :
    exec (.contextRecordWrite c f) s = .next (if p then s.modCtx c g else s) := by
  change execContextRecordWrite c f s = _
  rw [hf, State.byRuntime_done hs]
  simp only [hok]

theorem contextRecords : ContextRecords := by
  refine ⟨?qos, ?queues, ?handlerRule, ?parkbase, ?handlerSlots, ?window, ?overlay, ?collective, ?ring, ?windowTable,
    ?outside⟩
  case qos =>
    intro s c v hs
    exact State.byRuntime_done hs _
  case queues =>
    intro s c v hs
    exact exec_contextRecordWrite_field hs decide_eq_true_iff rfl
  case handlerRule =>
    intro s c v hs
    exact exec_contextRecordWrite_field hs decide_eq_true_iff rfl
  case parkbase =>
    intro s c v hs
    exact exec_contextRecordWrite_field hs beq_iff_eq rfl
  case handlerSlots =>
    intro s c v hs
    exact exec_contextRecordWrite_field hs (by simp) rfl
  case window =>
    intro s c h w n hs hc hn hh hfrz
    exact ⟨s.putWindow c h w, State.byRuntime_done hs _, State.putWindow_lookup hc hn hh hfrz⟩
  case overlay =>
    intro s c id e hs hc hplaced
    refine ⟨_, (State.byRuntime_done hs _).trans (congrArg _ (if_pos hplaced)), ?_⟩
    simp [State.ctx_modCtx _ _ hc]
  case collective =>
    intro s c id r hs hc hid hserved
    have hok : (id.toNat < (s.ctx c).collN && s.servable c r) = true := by simp [hid, State.servable_of hserved]
    refine ⟨_, (State.byRuntime_done hs _).trans (congrArg _ (if_pos hok)), ?_⟩
    simp [State.ctx_modCtx _ _ hc]
  case ring =>
    intro s c q slot bs k hs hc hk hslot hbs
    obtain ⟨k', hk'⟩ := State.putRing_queue hc hk hslot hbs
    exact ⟨s.putRing c q slot bs, k', State.byRuntime_done hs _, hk'⟩
  case windowTable =>
    intro s c n base hs hn hfree
    exact (State.byRuntime_done hs _).trans (congrArg _ (State.placeStruct_free (by simp [structBytes, hn]) hfree))
  case outside =>
    intro s c st n base bytes hs hbytes hout
    exact (State.byRuntime_done hs _).trans
      (congrArg _ (State.placeStruct_refused hbytes (State.ctlFree_outside hout)))

/-- Settles O44: writes to the format ranges, the loads that they decode, and writes to context records. -/
theorem rangesAndRecords : Obligations.RangesAndRecords := ⟨formatRanges, rangesDecode, contextRecords⟩

end Sys2Proof.Machine

/-! # Accumulator space (R64, R270 to R272) -/

namespace Sys2Proof.Machine

open Sys2Proof.Safety Sys2Proof.Claims

/-! ## A state whose two blocks share a name

A grant changes the registers of a thread that the block's name and the thread's name find. Where a second block has the same
name, its thread keeps every register but those that the grant writes; the statement gives it all of the first thread's. Placement
gives each block a new name, so no run is meant to reach such a state: the statement ranges over every state and does not ask
that names differ. -/

/-- A thread before the first of two words, which asks for the 256 units that g2 says. -/
def asker : Thread :=
  { Thread.fresh 0 with pc := 0x01000018, hdr := 0x01000010, regs := vset (Vector.replicate 112 0) 2 256 }

/-- A block whose control thread asks. -/
def askingBlock : Block := { placedBlock 7 with ctl := some asker }

/-- A block of the same name on another core, whose control thread holds 1 in g5. -/
def namesake : Block := { askingBlock with core := 1, ctl := some (asker.setG 5 1) }

/-- The asking thread issues, and a second block has its block's name. -/
def sharedName : State :=
  { State.reset with
    boot := .done, nextId := 9, cur := some (.control 7), blocks := [askingBlock, namesake],
    cores := vset State.reset.cores 0 { Core.reset with copies := [placedCopy 6 2 0] } }

/-- g5 of the control thread of each block. -/
def g5s (s : State) : List (Option Word) := s.blocks.map fun b => b.ctl.map (·.g 5)

/-- g5 of the control threads after a step. -/
def g5sAfter : Result → List (Option Word)
  | .next s => g5s s
  | _ => []

/-- What the thread asks: the address into g4, the success into q1, the units from g2. -/
def ask : Instr := .aalloc always 4 1 2

theorem asker_issues : Issues sharedName askingBlock .ctl asker ask always :=
  ⟨rfl, rfl, rfl, by decide, by decide, by decide, by decide, by decide, by decide, by decide⟩

theorem asker_inside : Inside sharedName askingBlock asker ask (.within 0x01000020) := ⟨by decide, nofun⟩

theorem sharedName_noRequests : NoRequests sharedName := by
  unfold NoRequests
  decide

set_option maxRecDepth 4000 in
theorem sharedName_fits : fitting sharedName askingBlock.core 256 ≠ [] := by decide

set_option maxRecDepth 4000 in
/-- The namesake's thread keeps its g5. -/
theorem exec_ask_g5s : g5sAfter (exec ask sharedName) = [some 0, some 1] := by decide

/-- In the state that the statement gives, it has the asker's. -/
theorem meetsIn_ask_g5s :
    g5sAfter (.next (meetsIn (grants sharedName askingBlock 256) askingBlock .ctl (.within 0x01000020)
      (granted sharedName askingBlock asker 4 1 256))) = [some 0, some 0] := by decide

/-- Refutes O21: a grant at once, in a state where another block has the name of the block that asks, leaves the other registers
of that block's thread as they are, where the statement replaces the whole thread. -/
theorem not_accumulatorSpace : ¬ Obligations.AccumulatorSpace := by
  rintro ⟨-, hgrant, -⟩
  have hexec : exec ask sharedName = _ := hgrant always 4 1 2 256 sharedName askingBlock .ctl asker (.within 0x01000020)
    asker_issues asker_inside sharedName_noRequests (by decide) (by decide) (by decide) sharedName_fits
  have hg5s := exec_ask_g5s
  rw [hexec, meetsIn_ask_g5s] at hg5s
  exact absurd hg5s (by decide)

end Sys2Proof.Machine

/-! # Doorbells, launch records and their acceptance (R48, R51, R52, R60, R355) -/

namespace Sys2Proof.Machine

open Sys2Proof.Safety Sys2Proof.Claims

/-! ## Bytes of a number -/

@[simp] theorem leBytes_length (n v : Nat) : (leBytes n v).length = n := by
  induction n generalizing v with
  | zero => rfl
  | succ n ih => simp [leBytes, ih]

theorem leNat_lt (bs : List Byte) : leNat bs < 256 ^ bs.length := by
  induction bs with
  | nil => simp [leNat]
  | cons b bs ih =>
    have hb := b.isLt
    simp only [leNat, List.length_cons, pow_succ]
    omega

/-! ## Doorbells (R355) -/

theorem State.ring_mem (s : State) (pa n : Nat) : (s.ring pa n).mem = s.mem := by
  obtain ⟨_, _, _, _, h⟩ := ring_rung s pa n
  rw [h]

theorem State.landWrite_mem (s : State) (pa : Nat) (bs : List Byte) : (s.landWrite pa bs).mem = memWrite s.mem pa bs := by
  rw [State.landWrite, State.dropCopies, State.homeWrite, State.ring_mem, State.physWrite]

theorem exec_doorbellWrite {s : State} {c q : Nat} {tail : Word} {d : Nat} (hq : q < 16) (hb : s.boot = .done)
    (hl : s.hostLink = true) (hd : s.doorbellAt c = some d) (hlive : s.dead (d + 4 * q) 4 = false) :
    exec (.doorbellWrite c q tail) s = .next (s.postWrite c (d + 4 * q) (leBytes 4 tail.toNat)) := by
  change execDoorbellWrite c q tail s = _
  simp [execDoorbellWrite, State.hostUp, hb, hl, hd, hlive, Nat.not_le.mpr hq]

theorem State.postWrite_open {s : State} {pa : Nat} {bs : List Byte} (c : Nat) (h : s.shut pa bs.length = false) :
    s.postWrite c pa bs = s.landWrite pa bs := by
  simp [State.postWrite, h]

theorem State.postWrite_shut {s : State} {pa : Nat} {bs : List Byte} (c : Nat) (h : s.shut pa bs.length = true) :
    s.postWrite c pa bs = { s with nextId := s.nextId + 1, posted := s.posted ++ [⟨s.nextId, c, pa, bs⟩] } := by
  simp [State.postWrite, h]

theorem doorbellsRing : DoorbellsRing := by
  refine ⟨?stores, ?waits, ?taken, ?ahead⟩
  case stores =>
    intro s c q tail d hq hb hl hd hwf hlive hopen
    refine ⟨_, exec_doorbellWrite hq hb hl hd hlive, ?_⟩
    rw [State.postWrite_open c (by simpa using hopen), State.landWrite_mem]
    refine ⟨?_, fun a ha => memGet_memWrite_other _ _ _ _ hwf (by simpa using ha)⟩
    simpa using memRead_memWrite (leBytes 4 tail.toNat) s.mem (d + 4 * q) hwf
  case waits =>
    intro s c q tail d hq hb hl hd hlive hshut
    refine ⟨_, _, (exec_doorbellWrite hq hb hl hd hlive).trans
      (congrArg _ (State.postWrite_shut c (by simpa using hshut))), rfl, rfl, rfl, rfl⟩
  case taken =>
    intro s c q tail k hc hk hle
    simp only [State.ringTail, hk, Nat.not_lt.mpr hle, if_false]
    exact State.queue_modQueue hc hk rfl
  case ahead =>
    intro s c q tail k hk hlt
    simp only [State.ringTail, hk, hlt, if_true]

/-! ## Launch records (R48, R51) -/

theorem recField_eq_field (bs : List Byte) (o n : Nat) : recField bs o n = field bs o n := rfl

theorem field_lt (bs : List Byte) (o n : Nat) : field bs o n < 256 ^ n :=
  (leNat_lt _).trans_le (Nat.pow_le_pow_right (by omega) (List.length_take_le _ _))

theorem leNat_ne_zero_iff (bs : List Byte) : leNat bs ≠ 0 ↔ ∃ b ∈ bs, b ≠ 0 := by
  induction bs with
  | nil => simp [leNat]
  | cons b bs ih =>
    have hb : b.toNat ≠ 0 ↔ b ≠ 0 := by simp [BitVec.toNat_eq]
    simp only [leNat, List.mem_cons, exists_eq_or_imp, ← ih, ← hb]
    omega

theorem recDirty_iff (bs : List Byte) (o n : Nat) : recDirty bs o n = true ↔ field bs o n ≠ 0 := by
  simp [recDirty, field, leNat_ne_zero_iff]

theorem natBit_eq_testBit (v i : Nat) : natBit v i = v.testBit i := by
  rw [natBit, Nat.testBit_eq_decide_div_mod_eq]
  rfl

/-- A field of `n` bytes read as a number of as many bits. -/
theorem toNat_ofNat_field (bs : List Byte) (o n w : Nat) (hw : 2 ^ w = 256 ^ n) :
    (BitVec.ofNat w (field bs o n)).toNat = field bs o n := by
  rw [BitVec.toNat_ofNat, hw, Nat.mod_eq_of_lt (field_lt _ _ _)]

theorem readLaunch_laid (bs : List Byte) : Laid bs (readLaunch bs) := by
  constructor
  case resv => simp [readLaunch, recField_eq_field, recDirty_iff, or_assoc]
  case flags => simp [readLaunch, recField_eq_field, natBit_eq_testBit]
  all_goals simp [readLaunch, recField_eq_field, toNat_ofNat_field, -BitVec.toNat_ofNat]

/-! ## The records that the dispatcher refuses (R51, R56) -/

/-- Every unit below `total` is free at first, so a run of no more units fits. -/
theorem takeRun_range_isSome {total n : Nat} (h : n ≤ total) : (takeRun (List.range total) n).isSome = true := by
  by_cases hn : n = 0
  · simp [takeRun, hn]
  · have hrun : 0 ∈ runsIn (List.range total) n := by
      simp only [runsIn, List.mem_filter, List.mem_range, List.all_eq_true, List.contains_iff_mem]
      exact ⟨by omega, fun k hk => by omega⟩
    rw [takeRun, if_neg hn]
    split
    · next h0 => simp [h0] at hrun
    · rfl

/-- A lane group of an empty core holds its windows of the largest block (R25). -/
theorem windowsIn_le {n lg : Nat} (hlg : lg < 4) (hn : n ≤ 1024) : windowsIn n lg ≤ 16 := by
  have hall : ∀ g < 4, ((List.range 32).filter fun w => w % 4 == g).length ≤ 16 := by decide
  exact (((List.range_sublist.mpr (by omega)).filter _).length_le).trans (hall lg hlg)

theorem LaunchRec.inRange_iff (r : LaunchRec) : r.inRange = true ↔
    1 ≤ r.bdim ∧ r.bdim ≤ 1024 ∧ r.gang ≤ 20 ∧ 8 ≤ r.greg ∧ r.greg ≤ 112 ∧ r.greg % 8 = 0 ∧ r.wq ≤ 512 ∧
      r.aq ≤ 256 ∧ r.cq ≤ 256 ∧ r.nbar ≤ 16 ∧ 1 ≤ r.isq ∧ r.isq ≤ 64 ∧ r.ntile ≤ 256 ∧ r.nsucc ≤ 64 ∧
      r.stkbase.toNat % 256 = 0 ∧ r.done.toNat % 4 = 0 ∧ (r.cond = true → r.predaddr.toNat % 4 = 0) := by
  simp only [LaunchRec.inRange, Bool.and_eq_true, Bool.or_eq_true, decide_eq_true_eq, beq_iff_eq, Bool.not_eq_true', and_assoc]
  cases r.cond <;> simp

/-- A field out of its range. -/
theorem LaunchRec.not_inRange_iff (r : LaunchRec) : ¬ r.inRange = true ↔
    r.bdim = 0 ∨ 1024 < r.bdim ∨ 20 < r.gang ∨ r.greg < 8 ∨ 112 < r.greg ∨ r.greg % 8 ≠ 0 ∨ 512 < r.wq ∨ 256 < r.aq ∨
      256 < r.cq ∨ 16 < r.nbar ∨ r.isq = 0 ∨ 64 < r.isq ∨ 256 < r.ntile ∨ 64 < r.nsucc ∨ r.stkbase.toNat % 256 ≠ 0 ∨
      r.done.toNat % 4 ≠ 0 ∨ (r.cond = true ∧ r.predaddr.toNat % 4 ≠ 0) := by
  rw [LaunchRec.inRange_iff]
  cases r.cond <;>
    simp only [Bool.false_eq_true, false_imp_iff, true_imp_iff, false_and, true_and, and_true, or_false] <;> omega

/-- A record in range fits an empty core as soon as its instruction slots do (R56). -/
theorem CoreRes.empty_take_eq_none {r : LaunchRec} (h : r.inRange = true) (hslots c seq : Nat) :
    CoreRes.empty.take hslots c seq r = none ↔ hslots < r.isq := by
  obtain ⟨_, hbdim, _, _, hgreg, _, hwq, haq, hcq, hnbar, _, hisq, hntile, -⟩ := r.inRange_iff.mp h
  have hpad : r.padded ≤ 1024 := by unfold LaunchRec.padded; omega
  have hthreads : r.padded ≤ Config.threadSlots := hpad.trans (by decide)
  have hregs : r.padded * r.greg ≤ Config.coreRegs := (Nat.mul_le_mul hpad hgreg).trans (by decide)
  have hbars : r.nbar ≤ Config.coreBars := hnbar.trans (by decide)
  have hwins (g : Nat) (hg : g < 4) : windowsIn r.padded g ≤ Config.windowsPerGroup := windowsIn_le hg hpad
  obtain ⟨w, hw⟩ := Option.isSome_iff_exists.mp (takeRun_range_isSome (total := Config.wUnits) hwq)
  obtain ⟨a, ha⟩ := Option.isSome_iff_exists.mp (takeRun_range_isSome (total := Config.aUnits) haq)
  obtain ⟨k, hk⟩ := Option.isSome_iff_exists.mp (takeRun_range_isSome (total := Config.cUnits) hcq)
  have htake : CoreRes.empty.take hslots c seq r = none ↔ ¬(r.isq ≤ hslots ∧ r.isq ≤ Config.storeSlots) := by
    simp [CoreRes.take, CoreRes.empty, Config.blockSlots, Config.coreTiles, slotSum, hthreads, hwins, hregs, hbars,
      hntile, hw, ha, hk]
  rw [htake, Config.storeSlots]
  omega

theorem State.refuses_iff (s : State) (c : Nat) (r : LaunchRec) :
    s.refuses c r = true ↔ Refusable (s.ctx c).hslots r := by
  have hrefuses : s.refuses c r = true ↔ r.resv = true ∨ ¬ r.inRange = true ∨
      (r.gang ≠ 0 ∧ (r.gdim.toNat + 1) % r.gang ≠ 0) ∨ (s.ctx c).hslots < r.isq := by
    by_cases h : r.inRange = true
    · simp [State.refuses, LaunchRec.blocks, CoreRes.empty_take_eq_none, h, or_assoc]
    · simp [State.refuses, h]
  rw [hrefuses, LaunchRec.not_inRange_iff]
  simp only [Refusable, or_assoc]

/-! ## Launches by SEQ -/

section
variable {s : State} {l : Launch} {ls : List Launch}

theorem find_append_of_forall_ne (h : ∀ x ∈ ls, x.seq ≠ l.seq) :
    (ls ++ [l]).find? (·.seq == l.seq) = some l := by
  have hnone : ls.find? (·.seq == l.seq) = none := by simpa using h
  simp [List.find?_append, hnone]

/-- A launch added last under a new SEQ is the one of that SEQ. -/
theorem State.launch_of_append (hs : s.launches = ls ++ [l]) (h : ∀ x ∈ ls, x.seq ≠ l.seq) : s.launch l.seq = some l := by
  rw [State.launch, hs, find_append_of_forall_ne h]

/-- A change of a launch added last under a new SEQ changes it alone. -/
theorem State.modLaunch_of_append (hs : s.launches = ls ++ [l]) (h : ∀ x ∈ ls, x.seq ≠ l.seq) (f : Launch → Launch) :
    s.modLaunch l.seq f = { s with launches := ls ++ [f l] } := by
  have hmap : (ls.map fun x => if x.seq == l.seq then f x else x) = ls :=
    (List.map_congr_left fun x hx => if_neg (by simpa using h x hx)).trans (List.map_id ls)
  rw [State.modLaunch, hs, List.map_append, hmap]
  simp

/-- The predicate of a launch that has predecessors is not read yet. -/
theorem State.judge_of_npred (hl : s.launch l.seq = some l) (hn : l.npred ≠ 0) : s.judge l.seq = s := by
  simp [State.judge, hl, hn]

end

/-! ## Ready heat-bound launches (R449) -/

/-- What noting the ready launches can change: whether the heat of a context was active. -/
def Noted (s s' : State) : Prop := ∃ x, s' = { s with ctxs := x } ∧ ∀ c, ∃ a, s'.ctx c = { s.ctx c with active := a }

theorem Noted.refl (s : State) : Noted s s := ⟨s.ctxs, rfl, fun _ => ⟨_, rfl⟩⟩

theorem Noted.trans {a b c : State} (h : Noted a b) (k : Noted b c) : Noted a c := by
  obtain ⟨_, rfl, h⟩ := h
  obtain ⟨y, rfl, k⟩ := k
  refine ⟨y, rfl, fun c => ?_⟩
  obtain ⟨_, h⟩ := h c
  obtain ⟨e, k⟩ := k c
  exact ⟨e, by rw [k, h]⟩

theorem Noted.foldl {α : Type} (f : State → α → State) (hf : ∀ s a, Noted s (f s a)) (l : List α) (s : State) :
    Noted s (l.foldl f s) := by
  induction l generalizing s with
  | nil => exact .refl s
  | cons a l ih => exact (hf s a).trans (ih _)

theorem vget_vmod_out {α : Type} {n : Nat} (v : Vector α n) (i j : Nat) (f : α → α) (d : α) (h : n ≤ i) :
    vget (vmod v i f) j d = vget v j d := by
  simp [vmod, Nat.not_lt.mpr h]

/-- A changed context reads as changed, where there is one of that number, and every other as before. -/
theorem State.ctx_modCtx_cases (s : State) (c k : Nat) (f : Context → Context) :
    (s.modCtx c f).ctx k = f (s.ctx k) ∨ (s.modCtx c f).ctx k = s.ctx k := by
  by_cases hc : c < 64
  · by_cases hk : c = k
    · subst hk
      exact .inl (State.ctx_modCtx s f hc)
    · exact .inr (vget_vmod_other _ _ _ _ _ hk)
  · exact .inr (vget_vmod_out _ _ _ _ _ (by omega))

theorem noteReady_noted (s : State) : Noted s s.noteReady := by
  refine Noted.foldl _ (fun s l => ?_) _ s
  split
  · refine ⟨_, rfl, fun c => ?_⟩
    rcases State.ctx_modCtx_cases s l.ctx c fun x => { x with active := true } with h | h
    · exact ⟨true, h⟩
    · exact ⟨_, h⟩
  · exact .refl s

theorem State.noteReady_eq_self {s : State} (h : ∀ l ∈ s.launches, l.lr.heatF = false) : s.noteReady = s := by
  refine (List.foldl_ext _ (fun s _ => s) s fun t l hl => ?_).trans (List.foldl_fixed _)
  simp [h l hl]

/-! ## Acceptance (R51, R52) -/

@[simp] theorem Queue.recordAt_putRecord (k : Queue) (slot : Nat) (bs : List Byte) :
    (k.putRecord slot bs).recordAt slot = bs := by
  simp [Queue.recordAt, Queue.putRecord]

@[simp] theorem Queue.recordAt_accept (k : Queue) (slot : Nat) : k.accept.recordAt slot = k.recordAt slot := rfl

/-- The next record of a queue. -/
def Queue.next (k : Queue) : List Byte := k.recordAt (k.acc % 2 ^ k.n)

/-- The queue whose next record has been accepted as the launch with a SEQ. -/
def Queue.afterAccept (k : Queue) (seq : Nat) : Queue :=
  (k.putRecord (k.acc % 2 ^ k.n) (patchRecord k.next 0x50 (leBytes 8 seq))).accept

/-- The launch that a queue's next record becomes. -/
def nextLaunch (s : State) (c q : Nat) (k : Queue) : Launch := accepted s c q k (readLaunch k.next)

/-- The state that holds the launch of a queue's next record, before it is judged or refused. -/
def holdsNext (s : State) (c q : Nat) (k : Queue) : State :=
  State.modQueue { s with seq := s.seq + 1, launches := s.launches ++ [nextLaunch s c q k] } c q fun x =>
    (x.putRecord (k.acc % 2 ^ k.n) (patchRecord k.next 0x50 (leBytes 8 s.seq.toNat))).accept

section
variable {s : State} {c q : Nat} {k : Queue}

theorem State.modQueue_hslots (s : State) (c q i : Nat) (f : Queue → Queue) :
    ((s.modQueue c q f).ctx i).hslots = (s.ctx i).hslots := by
  unfold State.modQueue
  rcases State.ctx_modCtx_cases s c i fun x => { x with queues := lmod x.queues q f } with h | h <;> rw [h]

/-- Entering a launch leaves the instruction slots of its context, and so what is refused. -/
theorem holdsNext_refuses (s : State) (c q : Nat) (k : Queue) (r : LaunchRec) :
    (holdsNext s c q k).refuses c r = s.refuses c r := by
  rw [State.refuses, holdsNext, State.modQueue_hslots]
  rfl

theorem exec_launchAccept (hk : (s.ctx c).queue q = some k) (hb : s.boot = .done) (htail : k.acc < k.tail)
    (hpre : (s.ctx c).pre ≠ .resetting) :
    exec (.launchAccept c q) s = .next (
      if s.refuses c (readLaunch k.next) then
        ((holdsNext s c q k).skipLaunch s.seq.toNat 0x01).ctxEvent c 0x01 (k.base + 256 * (k.acc % 2 ^ k.n)) 0
      else ((holdsNext s c q k).judge s.seq.toNat).noteReady) := by
  have hgo : (s.boot != .done || decide (k.tail ≤ k.acc) || (s.ctx c).pre == .resetting) = false := by
    simp [hb, htail, hpre]
  change execLaunchAccept c q s = _
  simp only [execLaunchAccept, hk, hgo, Bool.false_eq_true, if_false]
  rw [← holdsNext_refuses s c q k, apply_ite Host.Outcome.next]
  rfl

theorem holdsNext_launches : (holdsNext s c q k).launches = s.launches ++ [nextLaunch s c q k] := rfl

theorem holdsNext_queue (hc : c < 64) (hk : (s.ctx c).queue q = some k) :
    ((holdsNext s c q k).ctx c).queue q = some (k.afterAccept s.seq.toNat) :=
  State.queue_modQueue (s := { s with seq := s.seq + 1, launches := s.launches ++ [nextLaunch s c q k] }) hc hk rfl

theorem Queue.next_afterAccept (k : Queue) (seq : Nat) :
    (k.afterAccept seq).recordAt (k.acc % 2 ^ k.n) = k.next.take 0x50 ++ leBytes 8 seq ++ k.next.drop 0x58 := by
  simp [Queue.afterAccept, patchRecord]

/-- A new SEQ is no launch's, so the launch of the record is the one that is judged. -/
theorem holdsNext_judge (hnew : ∀ l ∈ s.launches, l.seq ≠ s.seq.toNat) (hn : (readLaunch k.next).npred ≠ 0) :
    (holdsNext s c q k).judge s.seq.toNat = holdsNext s c q k :=
  State.judge_of_npred (l := nextLaunch s c q k) (State.launch_of_append holdsNext_launches hnew) hn

theorem holdsNext_skipLaunch (hnew : ∀ l ∈ s.launches, l.seq ≠ s.seq.toNat) (cause : Cause) :
    (holdsNext s c q k).skipLaunch s.seq.toNat cause =
      { holdsNext s c q k with
        launches := s.launches ++ [{ nextLaunch s c q k with skip := some cause, gone := true }] } :=
  State.modLaunch_of_append (l := nextLaunch s c q k) holdsNext_launches hnew _

end

theorem recordsAreAccepted : RecordsAreAccepted := by
  refine ⟨?accepts, ?refused, fun bs _ => readLaunch_laid bs, State.refuses_iff⟩
  case accepts =>
    intro s c q k hc hk hb htail hpre hfits hn hnew
    have hexec := exec_launchAccept hk hb htail hpre
    rw [Queue.next, hfits, if_neg Bool.false_ne_true, holdsNext_judge hnew hn] at hexec
    obtain ⟨x, hnoted, hctx⟩ := noteReady_noted (holdsNext s c q k)
    obtain ⟨a, hctx⟩ := hctx c
    refine ⟨_, hexec, by rw [hnoted]; rfl, by rw [hnoted]; rfl, k.afterAccept s.seq.toNat, ?_, rfl, rfl, k.next_afterAccept _⟩
    rw [hctx]
    exact holdsNext_queue hc hk
  case refused =>
    intro s c q k hk hb htail hpre hrefused hnew
    have hexec := exec_launchAccept hk hb htail hpre
    rw [Queue.next, hrefused, if_pos rfl, holdsNext_skipLaunch hnew] at hexec
    exact ⟨_, hexec, rfl, rfl, rfl⟩

/-- Settles O36: doorbells, launch records, and their acceptance or refusal. -/
theorem launchesAreAccepted : Obligations.LaunchesAreAccepted := ⟨doorbellsRing, recordsAreAccepted⟩

end Sys2Proof.Machine

/-! # Batches, placed blocks and completed launches (R54 to R61, R77) -/

namespace Sys2Proof.Machine

open Sys2Proof.Safety Sys2Proof.Claims

/-! ## The batch that goes out (R54, R55) -/

theorem State.die_modDie (s : State) {d : Nat} (f : Die → Die) (hd : d < 8) : (s.modDie d f).die d = f (s.die d) :=
  vget_vmod_same _ _ _ _ hd

/-- A batch goes to a die of the package. -/
theorem State.batchDie_lt (s : State) (l : Launch) : (s.batchDie l).1 < 8 := by
  have hall : ∀ ds : List Nat, (∀ d ∈ ds, d < 8) → ∀ best : Nat × Nat, best.1 < 8 →
      (ds.foldl (fun best d => let n := s.fitCount d l; if best.2 < n then (d, n) else best) best).1 < 8 := by
    intro ds hds
    induction ds with
    | nil => exact fun _ h => h
    | cons d ds ih =>
      intro best hbest
      refine ih (fun x hx => hds x (.tail _ hx)) _ ?_
      simp only
      split
      · exact hds d (.head _)
      · exact hbest
  exact hall _ (fun d hd => List.mem_range.mp hd) _ (by decide)

theorem State.die_lt_of_mem_batches {s : State} {b : Batch} (h : b ∈ s.batches) : b.die < 8 := by
  obtain ⟨l, -, hl⟩ := List.mem_filterMap.mp h
  simp only [Option.ite_none_right_eq_some, Option.ite_none_left_eq_some, Option.some.injEq] at hl
  obtain ⟨-, -, rfl⟩ := hl
  exact s.batchDie_lt l

/-- The context that is served is one of those offered, and none has a smaller virtual time. -/
theorem State.servedCtx_least (s : State) {cs : List Nat} (h : cs ≠ []) :
    ∃ r ∈ cs, s.servedCtx cs = some r ∧ ∀ d ∈ cs, (s.ctx r).vt ≤ (s.ctx d).vt := by
  induction cs with
  | nil => exact absurd rfl h
  | cons c cs ih =>
    rcases eq_or_ne cs [] with rfl | hne
    · exact ⟨c, .head _, rfl, by simp⟩
    · obtain ⟨r, hr, hserved, hleast⟩ := ih hne
      simp only [State.servedCtx, hserved, List.forall_mem_cons]
      split
      · next hc =>
        have hle : (s.ctx c).vt ≤ (s.ctx r).vt := by
          simp only [Bool.or_eq_true, Bool.and_eq_true, decide_eq_true_eq, beq_iff_eq] at hc
          rcases hc with hlt | ⟨heq, -⟩
          · exact le_of_lt hlt
          · exact le_of_eq heq
        exact ⟨c, .head _, rfl, le_refl _, fun d hd => hle.trans (hleast d hd)⟩
      · next hc =>
        have hle : (s.ctx r).vt ≤ (s.ctx c).vt := by
          simp only [Bool.or_eq_true, decide_eq_true_eq, not_or, not_lt] at hc
          exact hc.1
        exact ⟨r, .tail _ hr, rfl, hle, hleast⟩

/-- The one context with the smallest virtual time is served. -/
theorem State.servedCtx_eq {s : State} {cs : List Nat} {c : Nat} (hc : c ∈ cs)
    (hleast : ∀ d ∈ cs, d ≠ c → (s.ctx c).vt < (s.ctx d).vt) : s.servedCtx cs = some c := by
  obtain ⟨r, hr, hserved, hmin⟩ := s.servedCtx_least (List.ne_nil_of_mem hc)
  by_cases hrc : r = c
  · rw [hserved, hrc]
  · exact absurd (hmin c hc) (not_le.mpr (hleast r hr hrc))

/-- A batch of a context comes before another of it: the higher PRIO, then the lower SEQ (R54). -/
def Batch.Before (x y : Batch) : Prop :=
  y.l.lr.prio < x.l.lr.prio ∨ (x.l.lr.prio = y.l.lr.prio ∧ x.l.seq < y.l.seq)

/-- The batch that is sent of a context is one of those offered, and none comes before it. -/
theorem bestBatch_first {bs : List Batch} (h : bs ≠ []) : ∃ r ∈ bs, bestBatch bs = some r ∧ ∀ x ∈ bs, ¬ x.Before r := by
  induction bs with
  | nil => exact absurd rfl h
  | cons b bs ih =>
    rcases eq_or_ne bs [] with rfl | hne
    · exact ⟨b, .head _, rfl, by simp [Batch.Before]⟩
    · obtain ⟨r, hr, hbest, hfirst⟩ := ih hne
      simp only [bestBatch, hbest, List.forall_mem_cons]
      simp only [Batch.Before] at hfirst ⊢
      split
      · next hb =>
        simp only [Bool.or_eq_true, Bool.and_eq_true, decide_eq_true_eq, beq_iff_eq] at hb
        exact ⟨b, .head _, rfl, by omega, fun x hx => by have := hfirst x hx; omega⟩
      · next hb =>
        simp only [Bool.or_eq_true, Bool.and_eq_true, decide_eq_true_eq, beq_iff_eq] at hb
        exact ⟨r, .tail _ hr, rfl, by omega, hfirst⟩

/-- The one batch that comes before every other is sent. -/
theorem bestBatch_eq {bs : List Batch} {b : Batch} (hb : b ∈ bs) (hfirst : ∀ x ∈ bs, x ≠ b → b.Before x) :
    bestBatch bs = some b := by
  obtain ⟨r, hr, hbest, hnone⟩ := bestBatch_first (List.ne_nil_of_mem hb)
  by_cases hrb : r = b
  · rw [hbest, hrb]
  · exact absurd (hfirst r hr hrb) (hnone b hb)

/-- Where every context that can be served is in the set already, its virtual time stays (R54). -/
theorem State.updateAct_ctx {s : State} {act : List Nat} (h : ∀ c ∈ act, (s.ctx c).inAct = true) (c : Nat) :
    ∃ a, (s.updateAct act).ctx c = { s.ctx c with inAct := a } := by
  have hctx : s.ctx c = vget s.ctxs c (Context.reset 0) := rfl
  by_cases hc : c < 64
  · have hin : c ∈ act → s.ctxs[c].inAct = true := fun hmem => by simpa [hctx, vget, hc] using h c hmem
    simp only [State.updateAct, State.ctx, vget, hc, dite_true, Vector.getElem_mapIdx, List.contains_iff_mem]
    split
    · next hmem =>
      refine ⟨true, ?_⟩
      split <;> simp [hin hmem]
    · exact ⟨false, rfl⟩
  · exact ⟨(s.ctx c).inAct, by simp [State.ctx, vget, hc]⟩

theorem State.ctx_lt_of_inAct {s : State} {c : Nat} (h : (s.ctx c).inAct = true) : c < 64 := by
  by_contra hc
  simp [State.ctx, vget, hc, Context.reset] at h

/-- A batch joins the queue of its die. -/
theorem State.sendBatch_die_queue (s : State) {b : Batch} (hd : b.die < 8) :
    ((s.sendBatch b).die b.die).queue = (s.die b.die).queue ++ [(b.l.seq, b.bids)] := by
  change ((State.modDie _ b.die _).die b.die).queue = _
  rw [State.die_modDie _ _ hd]
  rfl

/-- A batch advances its context's virtual time by its blocks over the weight (R54). -/
theorem State.sendBatch_vt (s : State) {b : Batch} (hc : b.l.ctx < 64) :
    ((s.sendBatch b).ctx b.l.ctx).vt = (s.ctx b.l.ctx).vt +
      ((b.bids.length * 65536 : Nat) : Rat) / ((s.ctx b.l.ctx).qos.toNat : Rat) :=
  congrArg Context.vt (State.ctx_modCtx _ _ hc)

/-- The contexts whose batches can be sent. -/
def offered (s : State) : List Nat := (s.batches.map (·.l.ctx)).eraseDups

theorem mem_offered {s : State} {c : Nat} : c ∈ offered s ↔ ∃ x ∈ s.batches, x.l.ctx = c := by
  rw [offered, List.mem_eraseDups, List.mem_map]

/-- The state in which the dispatcher chooses a batch: the ready launches noted, and the set of contexts that can be served
brought up to date. -/
def choosing (s : State) : State := s.noteReady.updateAct (offered s.noteReady)

theorem choosing_tick (s : State) : (choosing s).tick = s.tick := by
  obtain ⟨x, hnoted, -⟩ := noteReady_noted s
  exact (congrArg State.tick hnoted :)

theorem choosing_dies (s : State) : (choosing s).dies = s.dies := by
  obtain ⟨x, hnoted, -⟩ := noteReady_noted s
  exact (congrArg State.dies hnoted :)

/-- A batch that goes out: the one of the context served that comes first there. -/
theorem exec_batchForm {s : State} {c : Nat} {b : Batch} (hb : s.boot = .done) (htick : s.lastBatch + 16 ≤ s.tick)
    (hserved : (choosing s).servedCtx (offered s.noteReady) = some c)
    (hbest : bestBatch (s.noteReady.batches.filter fun x => x.l.ctx == c) = some b) :
    exec .batchForm s = .next { (choosing s).sendBatch b with lastBatch := (choosing s).tick } := by
  have hgo : (s.boot != .done || decide (s.tick < s.lastBatch + 4 * Config.anvilTicks)) = false := by
    have hdue : s.lastBatch + 4 * Config.anvilTicks ≤ s.tick := htick
    simp [hb, hdue]
  rw [choosing, offered] at hserved
  change execBatchForm s = _
  simp only [execBatchForm, hgo, Bool.false_eq_true, if_false, hserved, hbest]
  rfl

section
variable {s : State} {b : Batch}

/-- Where the contexts that can be served were in the set already, each keeps its virtual time and its weight. -/
theorem choosing_ctx (hact : ∀ x ∈ s.noteReady.batches, (s.ctx x.l.ctx).inAct = true) (c : Nat) :
    ((choosing s).ctx c).vt = (s.ctx c).vt ∧ ((choosing s).ctx c).qos = (s.ctx c).qos := by
  obtain ⟨-, -, hctx⟩ := noteReady_noted s
  have hin : ∀ d ∈ offered s.noteReady, (s.noteReady.ctx d).inAct = true := by
    intro d hd
    obtain ⟨y, hy, rfl⟩ := mem_offered.mp hd
    obtain ⟨a, ha⟩ := hctx y.l.ctx
    rw [ha]
    exact hact y hy
  obtain ⟨a, ha⟩ := hctx c
  obtain ⟨e, he⟩ := State.updateAct_ctx hin c
  rw [choosing, he, ha]
  exact ⟨rfl, rfl⟩

/-- The context of the batch that comes before every other is served. -/
theorem choosing_servedCtx (hmem : b ∈ s.noteReady.batches)
    (hact : ∀ x ∈ s.noteReady.batches, (s.ctx x.l.ctx).inAct = true)
    (hfirst : ∀ x ∈ s.noteReady.batches, x ≠ b → Sooner s b x) :
    (choosing s).servedCtx (offered s.noteReady) = some b.l.ctx := by
  refine State.servedCtx_eq (mem_offered.mpr ⟨b, hmem, rfl⟩) fun c hc hne => ?_
  obtain ⟨y, hy, rfl⟩ := mem_offered.mp hc
  rw [(choosing_ctx hact _).1, (choosing_ctx hact _).1]
  rcases hfirst y hy (by rintro rfl; exact hne rfl) with ⟨-, hlt⟩ | ⟨heq, -⟩
  · exact hlt
  · exact absurd heq.symm hne

/-- The batch that comes before every other is first in its context. -/
theorem bestBatch_of_sooner (hmem : b ∈ s.noteReady.batches)
    (hfirst : ∀ x ∈ s.noteReady.batches, x ≠ b → Sooner s b x) :
    bestBatch (s.noteReady.batches.filter fun x => x.l.ctx == b.l.ctx) = some b := by
  refine bestBatch_eq (List.mem_filter.mpr ⟨hmem, by simp⟩) fun y hy hne => ?_
  obtain ⟨hy, hyc⟩ := List.mem_filter.mp hy
  rcases hfirst y hy hne with ⟨hc, -⟩ | ⟨-, hbefore⟩
  · exact absurd (beq_iff_eq.mp hyc).symm hc
  · exact hbefore

end

/-! ## What a die advertises (R55) -/

theorem exec_resourceAdvertise {s : State} {d : Nat} (hup : (s.die d).st = .up) (htick : s.tick % 256 = 0) :
    exec (.resourceAdvertise d) s = .next (s.modDie d fun x =>
      { x with adv := (List.range 20).map fun i => s.coreRes (d * 20 + i), sent := [] }) := by
  have hgo : ((s.die d).st == .up && decide (s.tick % (64 * Config.anvilTicks) = 0)) = true := by
    have hdue : s.tick % (64 * Config.anvilTicks) = 0 := htick
    simp [hup, hdue]
  change execResourceAdvertise d s = _
  rw [execResourceAdvertise, if_pos hgo, coresOf, List.map_map]
  rfl

/-! ## The placement of blocks (R57, R77) -/

/-- Without gangs each block stands alone. -/
theorem gangsOf_zero (bids : List Nat) : gangsOf 0 bids = bids.map ([·]) := by
  induction bids with
  | nil => rfl
  | cons b bs ih =>
    rw [gangsOf, ih]
    cases bs <;> rfl

theorem gangsOf_zero_flatten (bids : List Nat) : (gangsOf 0 bids).flatten = bids := by
  rw [gangsOf_zero, ← List.flatMap_def, List.flatMap_singleton']

theorem State.placeGang_singleton {s : State} {d core bid : Nat} {l : Launch} (h : s.bestCore d l = some core) :
    s.placeGang d l [bid] = some (s.placeBlock core l bid) := by
  simp [State.placeGang, h]

theorem exec_blockPlace {s : State} {d seq bid core : Nat} {bids : List Nat} {es : List (Nat × List Nat)} {l : Launch}
    (hup : (s.die d).st = .up) (hq : (s.die d).queue = (seq, bid :: bids) :: es) (hl : s.launch seq = some l)
    (hgang : l.lr.gang = 0) (hheat : s.heatHold l = false) (hsext : s.sextShut l = false)
    (hcore : s.bestCore d l = some core) :
    exec (.blockPlace d) s = .next ((s.placeBlock core l bid).modDie d fun x =>
      { x with queue := if bids = [] then es else (seq, bids) :: es }) := by
  have hgangs : gangsOf 0 (bid :: bids) = [bid] :: gangsOf 0 bids := by simp [gangsOf_zero]
  have hempty : (gangsOf 0 bids).isEmpty = decide (bids = []) := by cases bids <;> simp [gangsOf_zero]
  change execBlockPlace d s = _
  simp [execBlockPlace, hup, hq, State.placeNext, hl, hgang, hgangs, hheat, hsext, State.placeGang_singleton hcore, hempty,
    gangsOf_zero_flatten]

/-- What the start of a block's threads leaves of a block: its place, its launch, its flags, barrier objects and tiles. -/
structure SamePlace (b k : Block) : Prop where
  ctx   : k.ctx = b.ctx
  seq   : k.seq = b.seq
  bid   : k.bid = b.bid
  core  : k.core = b.core
  lr    : k.lr = b.lr
  flags : k.flags = b.flags
  bars  : k.bars = b.bars
  tiles : k.tiles = b.tiles

/-- Every block stays resident in its place. -/
def KeepsPlaces (s s' : State) : Prop := ∀ b ∈ s.blocks, ∃ k ∈ s'.blocks, SamePlace b k

theorem SamePlace.refl (b : Block) : SamePlace b b := ⟨rfl, rfl, rfl, rfl, rfl, rfl, rfl, rfl⟩

theorem SamePlace.trans {a b c : Block} (h : SamePlace a b) (k : SamePlace b c) : SamePlace a c :=
  ⟨k.ctx.trans h.ctx, k.seq.trans h.seq, k.bid.trans h.bid, k.core.trans h.core, k.lr.trans h.lr, k.flags.trans h.flags,
    k.bars.trans h.bars, k.tiles.trans h.tiles⟩

theorem SamePlace.modThread (b : Block) (w : Who) (f : Thread → Thread) : SamePlace b (b.modThread w f) := by
  constructor <;> simp

theorem SamePlace.withdraw (b : Block) (w : Who) : SamePlace b (b.withdraw w) := ⟨rfl, rfl, rfl, rfl, rfl, rfl, rfl, rfl⟩

theorem KeepsPlaces.of_blocks {s s' : State} (h : s'.blocks = s.blocks) : KeepsPlaces s s' :=
  fun b hb => ⟨b, h ▸ hb, .refl b⟩

theorem KeepsPlaces.refl (s : State) : KeepsPlaces s s := .of_blocks rfl

theorem KeepsPlaces.trans {a b c : State} (h : KeepsPlaces a b) (k : KeepsPlaces b c) : KeepsPlaces a c := by
  intro x hx
  obtain ⟨y, hy, hxy⟩ := h x hx
  obtain ⟨z, hz, hyz⟩ := k y hy
  exact ⟨z, hz, hxy.trans hyz⟩

theorem KeepsPlaces.foldl {α : Type} (f : State → α → State) (hf : ∀ s a, KeepsPlaces s (f s a)) (l : List α) (s : State) :
    KeepsPlaces s (l.foldl f s) := by
  induction l generalizing s with
  | nil => exact .refl s
  | cons a l ih => exact (hf s a).trans (ih _)

theorem modBlock_keeps (s : State) (id : Nat) {f : Block → Block} (hf : ∀ b, SamePlace b (f b)) :
    KeepsPlaces s (s.modBlock id f) := by
  intro b hb
  refine ⟨if b.id == id then f b else b, List.mem_map_of_mem hb, ?_⟩
  split
  · exact hf b
  · exact .refl b

theorem modThread_keeps (s : State) (blk : Nat) (w : Who) (f : Thread → Thread) : KeepsPlaces s (s.modThread blk w f) :=
  modBlock_keeps s blk fun b => .modThread b w f

/-! ### Parks -/

theorem parkWrite_blocks (s : State) (c : Nat) (a : DWord) (bs : List Byte) : (s.parkWrite c a bs).blocks = s.blocks := by
  unfold State.parkWrite
  split
  · rfl
  · split
    · next h => exact (vwrite_cores h).2
    · split <;> rfl

theorem recordEvent_blocks (s : State) (e : CtxEvent) : (s.recordEvent e).blocks = s.blocks := by
  unfold State.recordEvent
  split <;> rfl

theorem countPark_blocks (s : State) (blk : Nat) : (s.countPark blk).blocks = s.blocks := by
  unfold State.countPark
  split <;> rfl

theorem setTaken_keeps (s : State) (blk : Nat) (w : Who) : KeepsPlaces s (s.setTaken blk w) := by
  unfold State.setTaken
  split
  · exact .refl s
  · split
    · exact .refl s
    · exact (modThread_keeps s blk w _).trans (.of_blocks (parkWrite_blocks _ _ _ _))

theorem tellRuntime_keeps (s : State) (b : Block) (w : Who) (cause : Cause) (hrec : DWord) (more : Nat) :
    KeepsPlaces s (s.tellRuntime b w cause hrec more) :=
  (setTaken_keeps s b.id w).trans (.of_blocks (recordEvent_blocks _ _))

theorem parkOne_keeps (s : State) (blk : Nat) (m : Word) (taken : Bool) (x : Parked) :
    KeepsPlaces s (s.parkOne blk m taken x) := by
  unfold State.parkOne
  split
  · exact .refl s
  · split
    · exact .refl s
    · simp only
      refine .trans ?_ (.of_blocks (parkWrite_blocks _ _ _ _))
      exact modBlock_keeps s blk fun b => .trans (.withdraw b x.who) (.modThread _ _ _)

theorem parkAll_keeps (s : State) (blk : Nat) (l : List Parked) : KeepsPlaces s (s.parkAll blk l) :=
  (KeepsPlaces.of_blocks (countPark_blocks s blk)).trans (.foldl _ (fun s x => parkOne_keeps s blk _ _ x) l _)

theorem parkEvent_keeps (s : State) (blk : Nat) (x : Parked) : KeepsPlaces s (s.parkEvent blk x) := by
  unfold State.parkEvent
  split
  · exact .refl s
  · split
    · exact .refl s
    · simp only
      split
      · exact tellRuntime_keeps _ _ _ _ _ _
      · exact modBlock_keeps { s with nextId := s.nextId + 1 } blk fun b => ⟨rfl, rfl, rfl, rfl, rfl, rfl, rfl, rfl⟩

theorem parkGroup_keeps (s : State) (blk : Nat) (l : List Parked) : KeepsPlaces s (s.parkGroup blk l) := by
  unfold State.parkGroup
  split
  · exact .refl s
  · exact (parkAll_keeps s blk _).trans (parkEvent_keeps _ blk _)

theorem parkForRuntime_keeps (s : State) (blk : Nat) (l : List Parked) : KeepsPlaces s (s.parkForRuntime blk l) := by
  unfold State.parkForRuntime
  split
  · exact .refl s
  · simp only
    split
    · exact parkAll_keeps _ _ _
    · split
      · exact parkAll_keeps _ _ _
      · exact (parkAll_keeps _ _ _).trans (tellRuntime_keeps _ _ _ _ _ _)

/-! ### Starts -/

theorem enterEntry_keeps (s : State) (blk : Nat) (k : OvlCopy) (ovl : BitVec 8) (ent : Nat) (ws : List Who) :
    KeepsPlaces s (s.enterEntry blk k ovl ent ws) := by
  unfold State.enterEntry
  split
  · split
    · simp only
      generalize hz : List.foldl _ s ws = z
      have henter : KeepsPlaces s z := by
        rw [← hz]
        exact .foldl _ (fun s w => modThread_keeps s blk w _) ws s
      split
      · exact henter
      · exact henter.trans (parkForRuntime_keeps _ _ _)
    · exact parkGroup_keeps _ _ _
  · exact parkGroup_keeps _ _ _

theorem startLater_keeps (s : State) (blk : Nat) (ovl : BitVec 8) (ent : Nat) (ws : List Who) (due : BitVec 8) :
    KeepsPlaces s (s.startLater blk ovl ent ws due) :=
  .foldl _ (fun s w => modThread_keeps s blk w _) ws s

theorem startResident_keeps (s : State) (blk : Nat) (k : OvlCopy) (ovl : BitVec 8) (ent : Nat) (ws : List Who) :
    KeepsPlaces s (s.startResident blk k ovl ent ws) := by
  unfold State.startResident
  split
  · exact .refl s
  · split
    · exact startLater_keeps (s.reloadCopy _ _) _ _ _ _ _
    · split
      · split
        · exact startLater_keeps _ _ _ _ _ _
        · exact enterEntry_keeps _ _ _ _ _ _
      · exact enterEntry_keeps _ _ _ _ _ _

theorem evictFor_blocks (s : State) (core c seq isq need : Nat) (l : List OvlCopy) :
    (s.evictFor core c seq isq need l).blocks = s.blocks := by
  induction l generalizing s with
  | nil => rfl
  | cons k ks ih =>
    unfold State.evictFor
    split
    · rfl
    · split
      · exact ih _
      · exact ih _

theorem startLoad_blocks (s : State) (core c : Nat) (ovl : BitVec 8) (seq isq : Nat) (by_ : Option (Nat × Who)) :
    (s.startLoad core c ovl seq isq by_).2.blocks = s.blocks := by
  unfold State.startLoad
  split
  · rfl
  · split
    · split <;> rfl
    · simp only
      split
      · rfl
      · split
        · exact evictFor_blocks _ _ _ _ _ _ _
        · exact evictFor_blocks _ _ _ _ _ _ _

theorem startLoad_keeps {s z : State} {core c : Nat} {ovl : BitVec 8} {seq isq : Nat} {by_ : Option (Nat × Who)}
    {r : LoadStart} (h : s.startLoad core c ovl seq isq by_ = (r, z)) : KeepsPlaces s z := by
  have hz := startLoad_blocks s core c ovl seq isq by_
  rw [h] at hz
  exact .of_blocks hz

theorem startAt_keeps (s : State) (blk : Nat) (ovl : BitVec 8) (ent : Nat) (ws : List Who) :
    KeepsPlaces s (s.startAt blk ovl ent ws) := by
  unfold State.startAt
  split
  · exact .refl s
  · split
    · exact .refl s
    · simp only
      generalize hz : List.foldl _ s ws = z
      have hwait : KeepsPlaces s z := by
        rw [← hz]
        exact .foldl _ (fun s w => modThread_keeps s blk w _) ws s
      refine hwait.trans ?_
      split
      · exact startResident_keeps (z.cancelEvict _ _ _) _ _ _ _ _
      · split
        · next h => exact (startLoad_keeps h).trans (parkForRuntime_keeps _ _ _)
        · next h => exact startLoad_keeps h
        · next h =>
          refine (startLoad_keeps h).trans ?_
          split
          · exact startResident_keeps _ _ _ _ _ _
          · exact .refl _

theorem startBlock_keeps (s : State) (b : Block) (restored : Bool) : KeepsPlaces s (s.startBlock b restored) := by
  unfold State.startBlock
  simp only
  generalize hz : List.foldl _ _ _ = z
  have hz : KeepsPlaces s z := by
    rw [← hz]
    refine .trans ?_ (.foldl _ (fun s ws => startAt_keeps s b.id _ _ ws) _ _)
    exact .of_blocks ((startLoad_blocks _ _ _ _ _ _ _).trans (startLoad_blocks _ _ _ _ _ _ _))
  split
  · exact hz.trans (startAt_keeps _ _ _ _ _)
  · exact hz

/-- A block in its place, with what placement gives it (R57, R77). -/
structure Placed (core : Nat) (l : Launch) (bid : Nat) (b : Block) : Prop where
  ctx   : b.ctx = l.ctx
  seq   : b.seq = l.seq
  bid   : b.bid = bid
  core  : b.core = core
  lr    : b.lr = l.lr
  flags : b.flags = Vector.replicate 12 0
  bars  : b.bars = List.replicate l.lr.nbar (Bar.init l.lr.bdim)
  tiles : b.tiles = List.replicate l.lr.ntile Tile.unbound

/-- Placement makes a block resident, then starts its threads. -/
theorem placeBlock_eq_startBlock (s : State) (core : Nat) (l : Launch) (bid : Nat) :
    ∃ z b restored, s.placeBlock core l bid = State.startBlock z b restored ∧ b ∈ z.blocks ∧ Placed core l bid b :=
  ⟨_, _, _, rfl, List.mem_append_right _ (.head _), rfl, rfl, rfl, rfl, rfl, rfl, rfl, rfl⟩

theorem placeBlock_resident (s : State) (core : Nat) (l : Launch) (bid : Nat) :
    ∃ b ∈ (s.placeBlock core l bid).blocks, Placed core l bid b := by
  obtain ⟨z, b, restored, hplace, hmem, hb⟩ := placeBlock_eq_startBlock s core l bid
  obtain ⟨k, hk, hsame⟩ := startBlock_keeps z b restored b hmem
  exact ⟨k, hplace ▸ hk, hsame.ctx.trans hb.ctx, hsame.seq.trans hb.seq, hsame.bid.trans hb.bid, hsame.core.trans hb.core,
    hsame.lr.trans hb.lr, hsame.flags.trans hb.flags, hsame.bars.trans hb.bars, hsame.tiles.trans hb.tiles⟩

theorem batchesAndBlocks : BatchesAndBlocks := by
  refine ⟨?batch, fun s d => exec_resourceAdvertise, ?place, ?placed⟩
  case batch =>
    intro s b hb htick hmem hact hfirst
    have hctx := choosing_ctx hact b.l.ctx
    refine ⟨_, exec_batchForm hb htick (choosing_servedCtx hmem hact hfirst) (bestBatch_of_sooner hmem hfirst),
      choosing_tick s, ?_, ?_⟩
    · refine (State.sendBatch_die_queue (choosing s) (State.die_lt_of_mem_batches hmem)).trans ?_
      rw [State.die, choosing_dies]
      rfl
    · refine (State.sendBatch_vt (choosing s) (State.ctx_lt_of_inAct (hact b hmem))).trans ?_
      rw [hctx.1, hctx.2]
  case place =>
    intro s d seq bid bids es l core hup hq hl hgang hheat hsext hcore
    refine exec_blockPlace hup hq hl hgang ?_ ?_ hcore
    · cases h : l.lr.heatF <;> simp [State.heatHold, h, hheat]
    · by_cases h : l.lr.sext = 0
      · simp [State.sextShut, h]
      · simp [State.sextShut, hsext h]
  case placed =>
    intro s core l bid
    obtain ⟨b, hmem, hb⟩ := placeBlock_resident s core l bid
    exact ⟨b, hmem, hb.ctx, hb.seq, hb.bid, hb.core, hb.lr, hb.flags, hb.bars, hb.tiles⟩

/-! ## Completion (R59, R61) -/

/-- What leaves the launches alone in each step leaves them alone. -/
theorem foldl_launches {α : Type} (f : State → α → State) (hf : ∀ s a, (f s a).launches = s.launches) (l : List α)
    (s : State) : (l.foldl f s).launches = s.launches := by
  induction l generalizing s with
  | nil => rfl
  | cons a l ih => exact (ih _).trans (hf s a)

theorem pinNear_launches (s : State) (pte : DWord) (line : Nat) : (s.pinNear pte line).launches = s.launches := by
  unfold State.pinNear
  split
  · rfl
  · refine foldl_launches _ (fun s d => ?_) _ s
    split
    · rfl
    · split <;> rfl

theorem pinLines_launches (s : State) (pte : DWord) (pa n : Nat) : (s.pinLines pte pa n).launches = s.launches := by
  unfold State.pinLines
  split
  · rfl
  · exact foldl_launches _ (fun s _ => pinNear_launches s _ _) _ s

theorem landWrite_launches (s : State) (pa : Nat) (bs : List Byte) : (s.landWrite pa bs).launches = s.launches := by
  obtain ⟨x, e, m, p, h⟩ := ring_rung (s.physWrite pa bs) pa bs.length
  rw [State.landWrite, State.homeWrite, h]
  rfl

theorem postWrite_launches (s : State) (c pa : Nat) (bs : List Byte) : (s.postWrite c pa bs).launches = s.launches := by
  unfold State.postWrite
  split
  · rfl
  · exact landWrite_launches s pa bs

/-- A write of the hardware changes no launch, whether it is made or waits. -/
theorem vwrite_launches {s s' : State} {c : Nat} {va : DWord} {bs : List Byte} (h : s.vwrite c va bs = .ok s') :
    s'.launches = s.launches := by
  unfold State.vwrite at h
  split at h
  · cases h
  · split at h
    · cases h
    · split at h
      · cases h
      · cases h
        exact (postWrite_launches _ _ _ _).trans (pinLines_launches _ _ _ _)

theorem completionWord_toNat (status : Cause) (count : Nat) :
    (completionWord status count).toNat = status.toNat * 2 ^ 24 + count % 2 ^ 24 := by
  rw [completionWord, BitVec.toNat_append, BitVec.toNat_ofNat,
    ← Nat.shiftLeft_add_eq_or_of_lt (Nat.mod_lt _ (by decide)), Nat.shiftLeft_eq]

section
variable {s : State} {l : Launch}

theorem State.completes_iff : s.completes l = true ↔
    l.skip.isSome = true ∨ (l.ended = l.lr.gdim.toNat + 1 ∧ s.boot = .done) := by
  simp [State.completes, LaunchRec.blocks]

theorem State.decrementAll_none (s : State) (h : l.lr.nsucc = 0) : s.decrementAll l = s := by
  simp [State.decrementAll, h]

/-- A launch without successors completes, where no launch is bound to a heat: its word is stored, its vector is raised when it
asks, and it is gone. -/
theorem exec_launchComplete {z : State} (hl : s.launch l.seq = some l) (hdone : s.completes l = true)
    (hopen : s.doneShut l = false) (hsucc : l.lr.nsucc = 0) (hstored : s.storeDone l = z)
    (hheat : ∀ k ∈ z.launches, k.lr.heatF = false) :
    exec (.launchComplete l.seq) s = .next { (if l.lr.irq then z.raiseVector l.ctx l.q else z) with
      launches := z.launches.filter fun k => k.seq ≠ l.seq } := by
  have hirq : (if l.lr.irq then z.raiseVector l.ctx l.q else z).launches = z.launches := by split <;> rfl
  have hbne : (fun k : Launch => k.seq != l.seq) = fun k => decide (k.seq ≠ l.seq) := by
    funext k
    rw [bne_eq, decide_not, beq_eq_decide]
  change execLaunchComplete l.seq s = _
  simp only [execLaunchComplete, hl, hdone, hopen, Bool.not_true, Bool.or_false, Bool.false_eq_true, if_false,
    State.decrementAll_none _ hsucc, hstored, hirq, hbne]
  rw [State.noteReady_eq_self fun k hk => hheat k (List.mem_filter.mp hk).1]

end

/-- A changed launch reads as changed. -/
theorem State.launch_modLaunch (s : State) (seq : Nat) {f : Launch → Launch} (hf : ∀ l, (f l).seq = l.seq) :
    (s.modLaunch seq f).launch seq = (s.launch seq).map f := by
  have hseq : ((fun l : Launch => l.seq == seq) ∘ fun l => if l.seq == seq then f l else l) = fun l => l.seq == seq := by
    funext l
    by_cases h : l.seq = seq <;> simp [h, hf]
  simp only [State.launch, State.modLaunch, List.find?_map, hseq]
  cases hfind : s.launches.find? fun l => l.seq == seq with
  | none => rfl
  | some l =>
    have hl : (l.seq == seq) = true := List.find?_some (p := fun l : Launch => l.seq == seq) hfind
    simp only [Option.map_some, hl, if_true]

/-- The one member of a list that has a property is the one found by it. -/
theorem find_eq_some_of_unique {α : Type} {p : α → Bool} {l : List α} {x : α} (hmem : x ∈ l) (hp : p x = true)
    (hone : ∀ y ∈ l, p y = true → y = x) : l.find? p = some x := by
  obtain ⟨y, hy⟩ := Option.isSome_iff_exists.mp (List.find?_isSome.mpr ⟨x, hmem, hp⟩)
  rw [hy, hone y (List.mem_of_find?_eq_some hy) (List.find?_some hy)]

/-- The predecessor count of a record falls where its launch has more than one left. -/
theorem State.decrement_accepted {s : State} {a own c q slot idx : Nat} {k : Queue} {l : Launch}
    (hring : s.ringAt a = some (c, q, slot)) (hk : (s.ctx c).queue q = some k) (hidx : k.accepted slot = some idx)
    (hmem : l ∈ s.launches) (hc : l.ctx = c) (hq : l.q = q) (hi : l.idx = idx) (hn : 1 < l.npred)
    (hseq : ∀ x ∈ s.launches, x.seq = l.seq → x = l)
    (hrec : ∀ x ∈ s.launches, x.ctx = c → x.q = q → x.idx = idx → x = l) :
    s.decrement a own = s.modLaunch l.seq fun x => { x with npred := x.npred - 1 } := by
  have hfind : s.launches.find? (fun x => x.ctx == c && x.q == q && x.idx == idx && x.npred != 0) = some l := by
    refine find_eq_some_of_unique hmem ?_ fun x hx hp => ?_
    · simp [hc, hq, hi, Nat.ne_of_gt (Nat.zero_lt_of_lt hn)]
    · simp only [Bool.and_eq_true, beq_iff_eq] at hp
      obtain ⟨⟨⟨hxc, hxq⟩, hxi⟩, -⟩ := hp
      exact hrec x hx hxc hxq hxi
  have hlaunch : s.launch l.seq = some l :=
    find_eq_some_of_unique hmem (by simp) fun x hx hp => hseq x hx (beq_iff_eq.mp hp)
  simp only [State.decrement, hring, hk, hidx, hfind]
  refine State.judge_of_npred (l := { l with npred := l.npred - 1 }) ?_ (by change l.npred - 1 ≠ 0; omega)
  refine (State.launch_modLaunch s l.seq ?_).trans (by rw [hlaunch]; rfl)
  exact fun _ => rfl

theorem State.decrement_spent {s : State} {a own c q slot idx : Nat} {k : Queue}
    (hring : s.ringAt a = some (c, q, slot)) (hk : (s.ctx c).queue q = some k) (hidx : k.accepted slot = some idx)
    (hnone : ∀ x ∈ s.launches, x.ctx = c → x.q = q → x.idx = idx → x.npred = 0) :
    s.decrement a own = s.ctxEvent c 0x03 a 0 := by
  have hfind : s.launches.find? (fun x => x.ctx == c && x.q == q && x.idx == idx && x.npred != 0) = none := by
    simpa [and_imp] using hnone
  simp only [State.decrement, hring, hk, hidx, hfind]

theorem State.decrement_unaccepted {s : State} {a own c q slot : Nat} {k : Queue}
    (hring : s.ringAt a = some (c, q, slot)) (hk : (s.ctx c).queue q = some k) (hidx : k.accepted slot = none) :
    s.decrement a own = if field (k.recordAt slot) 0x24 2 = 0 then s.ctxEvent c 0x03 a 0
      else s.modQueue c q fun x =>
        x.putRecord slot (patchRecord (k.recordAt slot) 0x24 (leBytes 2 (field (k.recordAt slot) 0x24 2 - 1))) := by
  simp only [State.decrement, hring, hk, hidx, recField_eq_field]
  rfl

theorem launchesComplete : LaunchesComplete := by
  refine ⟨?reported, ?silent, ?accepted, ?spent, ?unaccepted, ?unnamed⟩
  case reported =>
    intro s l t hl hdone haddr hsucc hirq hopen hwrite hheat
    have hshut : s.doneShut l = false := by simp [State.doneShut, hopen, hsucc]
    have hstored : s.storeDone l = t := by
      rw [State.storeDone, if_neg haddr, Launch.word, completionWord_toNat, hwrite]
    have hexec := exec_launchComplete hl (State.completes_iff.mpr hdone) hshut hsucc hstored
      fun k hk => hheat k (vwrite_launches hwrite ▸ hk)
    rwa [hirq, if_pos rfl] at hexec
  case silent =>
    intro s l hl hdone haddr hsucc hirq hheat
    have hshut : s.doneShut l = false := by simp [State.doneShut, haddr, hsucc]
    have hstored : s.storeDone l = s := by rw [State.storeDone, if_pos haddr]
    have hexec := exec_launchComplete hl (State.completes_iff.mpr hdone) hshut hsucc hstored hheat
    rwa [hirq, if_neg Bool.false_ne_true] at hexec
  case accepted => exact fun s a own c q slot k idx l => State.decrement_accepted
  case spent => exact fun s a own c q slot k idx => State.decrement_spent
  case unaccepted =>
    intro s a own c q slot k hc hring hk hidx
    rw [State.decrement_unaccepted hring hk hidx]
    refine ⟨fun h => if_pos h, fun h => ?_⟩
    rw [if_neg h]
    refine ⟨rfl, _, State.queue_modQueue hc hk rfl, rfl, rfl, ?_⟩
    simp [patchRecord]
  case unnamed =>
    intro s a own hring
    simp only [State.decrement, hring]

/-- Settles O37: batches, advertised resources, the placement of blocks, and the completion of launches. -/
theorem launchesRunAndComplete : Obligations.LaunchesRunAndComplete := ⟨batchesAndBlocks, launchesComplete⟩

end Sys2Proof.Machine

/-! # Refused and waiting transfers; `exit`, `yield`, `nop` and `brk` (R89, R227 to R236) -/

namespace Sys2Proof.Machine

open Sys2Proof.Safety Sys2Proof.Claims

/-! ## Changes that change nothing -/

theorem State.modBlock_same (s : State) (blk : Nat) : (s.modBlock blk fun b => b) = s := by
  simp [State.modBlock]

theorem Block.modThread_same (b : Block) (w : Who) : (b.modThread w fun t => t) = b := by
  cases w with
  | vec n =>
    have hsame : (b.threads.modify n fun t => t) = b.threads := List.modify_id n b.threads
    simp [Block.modThread, lmod, hsame]
  | ctl => simp [Block.modThread]

theorem State.modThread_same (s : State) (blk : Nat) (w : Who) : (s.modThread blk w fun t => t) = s := by
  rw [State.modThread]
  simp only [Block.modThread_same, State.modBlock_same]

/-! ## Acts that park with a change of the state, or past the word -/

section
variable {s s' : State} {b : Block} {w : Who} {t : Thread} {i : Instr} {g : Guard} {f : State → Site → Act} {c : Cause}

/-- A thread that raises a cause after a change of the state parks at its word. -/
theorem issue_failed {a : Option DWord} {d : Nat} (h : Issues s b w t i g)
    (hf : f (issued s) (site s b w t) = .failed s' c a d) :
    s.issue i g f = .next (rests (parksWith s' b w t
      { who := w, cause := c, pc := t.pc, word := s.wordAt b.core b.ctx t.pc, addr := a, detail := d }) b t i) := by
  unfold State.issue
  rw [issueThen_one h.slot, issueFor_issues h f, runThread_issues h f, hf]
  simp only [IssueOut.park, List.nil_append, finish_rests]
  unfold issueOf
  rw [parkFaults_one]

/-- A thread that parks past its word stands where the word would have left it. -/
theorem issue_past {pc : Onward} (h : Issues s b w t i g) (hp : Inside s' b t i pc)
    (hf : f (issued s) (site s b w t) = .past s' c) :
    s.issue i g f = .next (rests (parksWith s' b w t
      { who := w, cause := c, pc := (place pc).1, enter := (place pc).2, word := s.wordAt b.core b.ctx t.pc }) b t i) := by
  obtain ⟨hon, hin⟩ := hp
  unfold State.issue
  rw [issueThen_one h.slot, issueFor_issues h f, runThread_issues h f, hf]
  simp only [hon]
  unfold issueOf
  cases pc with
  | within a => simp only [IssueOut.park, List.nil_append, finish_rests, parkFaults_one, place]
  | header a => simp only [IssueOut.park, List.nil_append, finish_rests, parkFaults_one, place]
  | astray a => exact absurd rfl (hin a)

end

/-! ## Targets (R228) -/

theorem targetOk_iff (s : State) (b : Block) (a : Word) : (s.ctx b.ctx).targetOk a = true ↔ InTable s b a := by
  unfold Context.targetOk InTable codeOff
  cases (s.ctx b.ctx).overlay (codeOvl a) <;> simp

theorem lost_one_iff (k : OvlCopy) (off : Nat) : k.lost off 1 = true ↔ off / 8 ∈ k.bad := by
  simp only [OvlCopy.lost, List.any_eq_true, Bool.and_eq_true, decide_eq_true_eq]
  refine ⟨fun ⟨i, hi, hle, hlt⟩ => ?_, fun h => ⟨_, h, le_rfl, Nat.lt_succ_self _⟩⟩
  obtain rfl : i = off / 8 := by omega
  exact hi

section
variable {s : State} {x : Site} {b : Block} {a : Word} {eff : State → Act}

theorem transfer_legal (h : LegalTarget s b a) : s.transfer x b a eff = eff s := by
  obtain ⟨hin, k, hres, hbad, hhdr⟩ := h
  have hlost : k.lost (codeOff a) 1 = false := by
    rw [← Bool.not_eq_true, lost_one_iff]
    exact hbad
  have hhead : isHeader (k.word (codeOff a)) = true := by simpa [isHeader, codeOff] using hhdr
  simp only [State.transfer, (targetOk_iff s b a).mpr hin, hres, hlost, hhead, if_true, Bool.false_eq_true, if_false]

theorem transfer_illegal (h : IllegalTarget s b a) : s.transfer x b a eff = badTarget a := by
  unfold State.transfer
  split
  · next hok =>
    obtain ⟨hhigh, e, hovl, hoff, hlt⟩ := (targetOk_iff s b a).mp hok
    rcases h with h | h | h | ⟨e', he, hle⟩ | ⟨k, hres, hbad, hhdr⟩
    · exact absurd hhigh h
    · simp [hovl] at h
    · omega
    · obtain rfl : e = e' := by simpa [hovl] using he
      omega
    · have hlost : k.lost (codeOff a) 1 = false := by
        rw [← Bool.not_eq_true, lost_one_iff]
        exact hbad
      have hhead : isHeader (k.word (codeOff a)) = false := by simpa [isHeader, codeOff] using hhdr
      simp only [hres, hlost, hhead, Bool.false_eq_true, if_false]
  · rfl

theorem transfer_missing (hin : InTable s b a) (hres : s.residentCopy b.core b.ctx (codeOvl a) = none) :
    s.transfer x b a eff = s.missing b x.who (codeOvl a) := by
  simp only [State.transfer, (targetOk_iff s b a).mpr hin, hres, if_true]

/-- A branch by an offset tests its target like any other transfer, once it stays in its overlay (R229). -/
theorem branchNear_inside {t : Thread} {off : Int} {eff : State → Word → Act}
    (h : codeOvl (branchTarget t off) = codeOvl t.hdr) :
    s.branchNear x b t off eff = s.transfer x b (branchTarget t off) fun s => eff s (branchTarget t off) := by
  have hovl : codeOvl (nearTarget t.hdr off) = codeOvl t.hdr := h
  simp only [State.branchNear, hovl, beq_self_eq_true, if_true]
  rfl

theorem branchNear_refused {t : Thread} {off : Int} {eff : State → Word → Act}
    (h : codeOvl (branchTarget t off) ≠ codeOvl t.hdr ∨ IllegalTarget s b (branchTarget t off)) :
    s.branchNear x b t off eff = badTarget (branchTarget t off) := by
  by_cases hovl : codeOvl (branchTarget t off) = codeOvl t.hdr
  · rw [branchNear_inside hovl]
    exact transfer_illegal (h.resolve_left (not_not_intro hovl))
  · have hne : (codeOvl (nearTarget t.hdr off) == codeOvl t.hdr) = false := beq_eq_false_iff_ne.mpr hovl
    simp only [State.branchNear, hne, Bool.false_eq_true, if_false]
    rfl

end

/-! ## Code addresses (R168) -/

theorem codeAddr_toNat (ovl : BitVec 8) (off : Nat) : (codeAddr ovl off).toNat = ovl.toNat * 2 ^ 24 + off % 65536 := by
  have hlow : ((0 : BitVec 8) ++ BitVec.ofNat 16 off).toNat = off % 65536 := by
    rw [BitVec.toNat_append]
    simp
  rw [codeAddr, BitVec.toNat_append, hlow, ← Nat.shiftLeft_add_eq_or_of_lt (by omega), Nat.shiftLeft_eq]

theorem codeAddr_eq_ofNat {ovl : BitVec 8} {off : Nat} (h : off < 65536) :
    codeAddr ovl off = BitVec.ofNat 32 (ovl.toNat * 2 ^ 24 + off) := by
  have hovl := ovl.isLt
  apply BitVec.eq_of_toNat_eq
  rw [codeAddr_toNat, BitVec.toNat_ofNat]
  omega

theorem codeOvl_codeAddr (ovl : BitVec 8) (off : Nat) : codeOvl (codeAddr ovl off) = ovl := by
  apply BitVec.eq_of_toNat_eq
  have hovl := ovl.isLt
  rw [codeOvl, BitVec.extractLsb'_toNat, codeAddr_toNat, Nat.shiftRight_eq_div_pow]
  omega

/-! ## Entries of an overlay (R169) -/

theorem entryOff_eq (k : OvlCopy) (n : Nat) : k.entryOff n = if entriesOf k ≤ n then none else some (entryOf k n) := by
  have hword : k.word (8 + 4 * n) = k.word (8 + 8 * (n / 2)) := by
    simp only [OvlCopy.word, show (8 + 4 * n) / 8 = (8 + 8 * (n / 2)) / 8 by omega]
  have hcount : ((k.word 0).extractLsb' 0 8).toNat = entriesOf k := by simp [entriesOf]
  have hentry : (if (8 + 4 * n) % 8 = 0 then (k.word (8 + 4 * n)).extractLsb' 0 32
      else (k.word (8 + 4 * n)).extractLsb' 32 32).toNat = entryOf k n := by
    rw [hword, entryOf]
    rcases Nat.mod_two_eq_zero_or_one n with hn | hn
    · rw [if_pos (by omega), hn]
      simp
    · rw [if_neg (by omega), hn]
      simp [Nat.shiftRight_eq_div_pow]
  simp only [OvlCopy.entryOff, hcount, hentry]

/-- The offset of an entry that the table has, else 0. -/
def offsetOf (k : OvlCopy) (n : Nat) : Nat := if n < entriesOf k then entryOf k n else 0

theorem entry_eq_some {k : OvlCopy} {n : Nat} (ovl : BitVec 8) (hn : n < entriesOf k) (halign : entryOf k n % 8 = 0)
    (hsize : entryOf k n < k.size) : k.entry ovl n = some (codeAddr ovl (entryOf k n)) := by
  simp [OvlCopy.entry, entryOff_eq, Nat.not_le.mpr hn, halign, hsize]

theorem entry_eq_none {k : OvlCopy} {n : Nat} (ovl : BitVec 8)
    (h : entriesOf k ≤ n ∨ offsetOf k n % 8 ≠ 0 ∨ k.size ≤ offsetOf k n) : k.entry ovl n = none := by
  rw [OvlCopy.entry, entryOff_eq]
  split
  · rfl
  · next hn =>
    have hoff : offsetOf k n = entryOf k n := if_pos (Nat.not_le.mp hn)
    rw [hoff] at h
    simp only [Option.bind_some, Bool.and_eq_true, decide_eq_true_eq, ite_eq_right_iff, reduceCtorEq, imp_false]
    omega

theorem entryTarget_eq_ofNat (k : OvlCopy) (ovl : BitVec 8) (n : Nat) :
    (k.entryTarget ovl n).setWidth 64 = BitVec.ofNat 64 ((ovl.toNat * 2 ^ 24 + offsetOf k n) % 2 ^ 32) := by
  have hoff : (k.entryOff n).getD 0 = offsetOf k n := by
    rw [entryOff_eq, offsetOf]
    by_cases hn : n < entriesOf k
    · rw [if_neg (Nat.not_le.mpr hn), if_pos hn, Option.getD_some]
    · rw [if_pos (Nat.not_lt.mp hn), if_neg hn, Option.getD_none]
  have hovl := ovl.isLt
  apply BitVec.eq_of_toNat_eq
  rw [BitVec.toNat_setWidth, BitVec.toNat_ofNat, OvlCopy.entryTarget, hoff, BitVec.toNat_add, codeAddr_toNat,
    BitVec.toNat_ofNat]
  omega

theorem entryLost_of_sound {k : OvlCopy} (h : k.bad = []) (n : Nat) : k.entryLost n = false := by
  simp [OvlCopy.entryLost, OvlCopy.lost, h]

/-! ## Transfers towards an overlay that is not resident (R232) -/

theorem missing_meets {s : State} {b : Block} {w : Who} {t : Thread} {i : Instr} {g : Guard} {f : State → Site → Act}
    {ovl : BitVec 8} (h : Issues s b w t i g) (hi : exec i s = s.issue i g f)
    (hf : ∀ e, (s.ctx b.ctx).overlay ovl = some e → s.residentCopy b.core b.ctx ovl = none →
      f (issued s) (site s b w t) = (issued s).missing b w ovl) :
    MeetsMissing i s b w t ovl := by
  intro e he hres
  have hact := hf e he hres
  have he' : ((issued s).ctx b.ctx).overlay ovl = some e := he
  simp only [State.missing, he'] at hact
  refine ⟨fun hauto => ?_, fun hauto r z hload => ⟨fun hr => ?_, fun c hc => ?_⟩⟩
  · rw [hauto] at hact
    exact hi.trans (issue_fault h hact)
  · rw [hauto, if_pos rfl, hload] at hact
    refine hi.trans (issue_stall h (hact.trans ?_))
    cases r with
    | failed c => exact absurd rfl (hr c)
    | now => rfl
    | joined _ => rfl
  · subst hc
    rw [hauto, if_pos rfl, hload] at hact
    exact hi.trans (issue_failed h hact)

/-! ## The acts of the transfers -/

/-- The first true selector of `mbr` names its offset (R229). -/
theorem mbrOffset_first {t : Thread} {o : MbrOps} {k : Nat} {x : Sel × BitVec 16} (hk : (choices o)[k]? = some x)
    (hx : selected t x.1 = true)
    (hfirst : ∀ (j : Nat) (y : Sel × BitVec 16), j < k → (choices o)[j]? = some y → selected t y.1 = false) :
    t.mbrOffset o = some x.2 := by
  have hfind : (choices o).find? (fun p => selected t p.1) = some x := by
    obtain ⟨hlt, hget⟩ := List.getElem?_eq_some_iff.mp hk
    refine List.find?_eq_some_iff_getElem.mpr ⟨hx, k, hlt, hget, fun j hj => ?_⟩
    simpa using hfirst j _ hj (List.getElem?_eq_getElem (hj.trans hlt))
  have hsel : (fun p : Sel × BitVec 16 => t.q p.1.p != p.1.neg) = fun p => selected t p.1 := by
    funext p
    rw [Bool.bne_eq_xor, selected]
  change ((choices o).find? fun p => t.q p.1.p != p.1.neg).map (·.2) = _
  rw [hsel, hfind]
  rfl

theorem setWidth_ofNat_mod (v : Nat) : (BitVec.ofNat 32 v).setWidth 64 = BitVec.ofNat 64 (v % 2 ^ 32) := by
  apply BitVec.eq_of_toNat_eq
  simp

section
variable {s : State} {b : Block} {w : Who} {t : Thread} {g : Guard}

/-- `ret` with a return record that can be read now, and no access of its thread in flight: what becomes of the record
(R230). -/
theorem exec_ret {pte : DWord} {pa : Nat} (h : Issues s b w t (.ret g) g) (hreqs : s.reqsOf b.id w = [])
    (hreach : s.stackReach b t (t.g 111) (t.stackAddr (t.g 111)).toNat 8 false = .ok pte pa)
    (hopen : s.stackShut b (t.stackAddr (t.g 111)) pa = false)
    (hgood : (s.stackRead b (t.stackAddr (t.g 111)) pa 8).2 = false) :
    ∃ f eff, exec (.ret g) s = s.issue (.ret g) g f ∧ f (issued s) (site s b w t) =
      let v := leNat (s.stackRead b (t.stackAddr (t.g 111)) pa 8).1
      if v / 2 ^ 32 ≠ 0 then badTarget (BitVec.ofNat 32 v)
      else (issued s).transfer (site s b w t) b (BitVec.ofNat 32 v) eff := by
  refine ⟨_, fun z => .jump ((z.stackUse b (t.stackAddr (t.g 111)) pte pa).setThread (site s b w t) fun k =>
    k.setG 111 (t.g 111 + 8)) (BitVec.ofNat 32 (leNat (s.stackRead b (t.stackAddr (t.g 111)) pa 8).1)), rfl, ?_⟩
  rw [withThread_issues h]
  dsimp only
  rw [stackReach_issued hreach, Reach.act]
  have hopen' : (issued s).stackShut b (t.stackAddr (t.g 111)) pa = false := hopen
  have hread : (issued s).stackRead b (t.stackAddr (t.g 111)) pa 8 = s.stackRead b (t.stackAddr (t.g 111)) pa 8 := rfl
  have hreqs' : (issued s).reqsOf (site s b w t).blk (site s b w t).who = [] := hreqs
  simp only [hopen', hread, hgood, hreqs', List.foldl_nil, Bool.false_eq_true, if_false]

end

/-- An aligned access of the stack that leaves the range of the stack (R89). -/
theorem stackReach_outside {s : State} {b : Block} {t : Thread} {x : Word} {al n : Nat} {wr : Bool} (halign : al % n = 0)
    (hout : b.lr.stk = 0 ∨ b.lr.stk * 256 < t.stackOff x + n) :
    s.stackReach b t x al n wr = .fault 0x06 (t.stackAddr x) := by
  have hrange : b.inStack t x n = false := by simpa [Block.inStack, ← or_iff_not_imp_left] using hout
  simp only [State.stackReach, halign, hrange, ne_eq, not_true_eq_false, if_false, Bool.not_false, if_true]

theorem callTo_overflows {s : State} {x : Site} {b : Block} {t : Thread} {a : Word} (h : Overflows b t) :
    s.callTo x b t a = .fault 0x06 (some (t.stackAddr (t.g 111 - 8))) 0 := by
  obtain ⟨halign, hout⟩ := h
  have hdown : (t.g 111 - 8).toNat % 8 = 0 := by bv_omega
  rw [State.callTo, State.pushRecord, stackReach_outside hdown hout]
  rfl

/-- A call whose target is legal still has to push (R230; log entry 129). -/
theorem transfer_overflows {s : State} {x : Site} {b : Block} {t : Thread} {a : Word} (h : Overflows b t)
    (hlegal : LegalTarget s b a) :
    (s.transfer x b a fun s => s.callTo x b t a) = .fault 0x06 (some (t.stackAddr (t.g 111 - 8))) 0 :=
  (transfer_legal hlegal).trans (callTo_overflows h)

theorem illegalTargetsPark : IllegalTargetsPark := by
  intro g s b w t
  refine ⟨?bra, ?call, ?mbr, ?bri, ?calli, ?noOverlay, ?noEntry, ?ret⟩
  case bra =>
    intro off h hbad
    exact issue_fault h ((withThread_issues h _).trans (branchNear_refused hbad))
  case call =>
    intro off h hbad
    exact issue_fault h ((withThread_issues h _).trans (branchNear_refused hbad))
  case mbr =>
    intro o k x h hk hx hfirst hbad
    refine issue_fault h ((withThread_issues h _).trans ?_)
    rw [mbrOffset_first hk hx hfirst]
    exact branchNear_refused hbad
  case bri =>
    intro r h hbad
    exact issue_fault h ((withThread_issues h _).trans (transfer_illegal hbad))
  case calli =>
    intro r h hbad
    exact issue_fault h ((withThread_issues h _).trans (transfer_illegal hbad))
  case noOverlay =>
    intro ovl ent h hnone
    have hnone' : ((issued s).ctx b.ctx).overlay ovl = none := hnone
    have haddr : (codeAddr ovl 0).setWidth 64 = BitVec.ofNat 64 (ovl.toNat * 2 ^ 24) := by
      have hovl := ovl.isLt
      apply BitVec.eq_of_toNat_eq
      rw [BitVec.toNat_setWidth, codeAddr_toNat, BitVec.toNat_ofNat]
      omega
    refine issue_fault h ((withThread_issues h _).trans ?_)
    simp only [hnone', Option.isSome_none, Bool.false_eq_true, if_false, badTarget, haddr]
  case noEntry =>
    intro ovl ent k h hsome hres hbad off hoff
    have hsome' : (((issued s).ctx b.ctx).overlay ovl).isSome := hsome
    have hres' : (issued s).residentCopy b.core b.ctx ovl = some k := hres
    refine issue_fault h ((withThread_issues h _).trans ?_)
    simp only [hsome', hres', entryLost_of_sound hbad, entry_eq_none ovl hoff, if_true, Bool.false_eq_true, if_false,
      badTarget, entryTarget_eq_ofNat]
    rfl
  case ret =>
    intro pte pa h hreqs hreach hopen r hgood hbad
    obtain ⟨f, eff, hexec, hact⟩ := exec_ret h hreqs hreach hopen hgood
    rw [← setWidth_ofNat_mod]
    refine hexec.trans (issue_fault h (hact.trans ?_))
    dsimp only
    split
    · rfl
    · next hlow =>
      exact transfer_illegal (hbad.resolve_left fun hhigh => hlow (Nat.div_pos hhigh (by decide)).ne')

theorem missesAndOverflows : MissesAndOverflows := by
  intro g s b w t
  refine ⟨?near, ?callo, ?ret, ?pushes, ?pops⟩
  case near =>
    exact fun r hin => ⟨
      fun h => missing_meets h rfl fun e he hres => (withThread_issues h _).trans (transfer_missing hin hres),
      fun h => missing_meets h rfl fun e he hres => (withThread_issues h _).trans (transfer_missing hin hres)⟩
  case callo =>
    refine fun ovl ent h => missing_meets h rfl fun e he hres => (withThread_issues h _).trans ?_
    have he' : ((issued s).ctx b.ctx).overlay ovl = some e := he
    have hres' : (issued s).residentCopy b.core b.ctx ovl = none := hres
    simp only [he', hres', Option.isSome_some, if_true]
    rfl
  case ret =>
    intro pte pa h hreqs hreach hopen r hgood hlt hin
    obtain ⟨f, eff, hexec, hact⟩ := exec_ret h hreqs hreach hopen hgood
    refine missing_meets h hexec fun e he hres => hact.trans ?_
    dsimp only
    rw [if_neg (not_not_intro (Nat.div_eq_of_lt hlt))]
    exact transfer_missing hin hres
  case pushes =>
    intro hover
    refine ⟨fun off h hovl hlegal => ?_, fun r h hlegal => ?_, fun ovl ent k h hres hbad hent hsize hfits hlegal => ?_⟩
    · refine issue_fault h ((withThread_issues h _).trans ?_)
      rw [branchNear_inside hovl]
      exact transfer_overflows (s := issued s) hover hlegal
    · refine issue_fault h ((withThread_issues h _).trans ?_)
      exact transfer_overflows (s := issued s) hover hlegal
    · have haddr := codeAddr_eq_ofNat (ovl := ovl) (hsize.trans_le hfits)
      rw [← haddr] at hlegal
      have ⟨⟨_, e, he, halign, _⟩, _⟩ := hlegal
      rw [codeOvl_codeAddr] at he
      have he' : ((issued s).ctx b.ctx).overlay ovl = some e := he
      have hres' : (issued s).residentCopy b.core b.ctx ovl = some k := hres
      have haligned : entryOf k ent.toNat % 8 = 0 := by
        rw [codeAddr_toNat] at halign
        omega
      refine issue_fault h ((withThread_issues h _).trans ?_)
      simp only [he', hres', Option.isSome_some, entryLost_of_sound hbad, entry_eq_some ovl hent haligned hsize, if_true,
        Bool.false_eq_true, if_false]
      exact transfer_overflows (s := issued s) hover hlegal
  case pops =>
    intro h halign hout
    refine issue_fault h ((withThread_issues h _).trans ?_)
    dsimp only
    rw [stackReach_outside halign hout]
    rfl

theorem exitYieldNopBrk : ExitYieldNopBrk := by
  intro g s b w t
  refine ⟨?exit, ?yield, ?nop, ?brkClear, ?brkSet⟩
  case exit =>
    intro h hfault
    refine issue_gone h ((withThread_issues h _).trans ?_)
    cases w with
    | vec n => rfl
    | ctl =>
      rw [hfault.resolve_left (not_not_intro rfl)]
      rfl
  case yield =>
    intro pc h hp
    refine issue_done h ((withThread_issues h _).trans (congrArg (Act.done · []) ?_)) ?_
    · cases w with
      | vec n => rfl
      | ctl => exact (State.modThread_same (issued s) b.id .ctl).symm
    · exact inside_of_cores hp rfl
  case nop => exact fun pc h hp => issue_done h rfl hp
  case brkClear =>
    intro n pc h hp hoff
    have hoff' : ((issued s).ctx b.ctx).brken = false := hoff
    refine issue_done h ((withThread_issues h _).trans ?_) hp
    simp only [hoff', Bool.false_eq_true, if_false]
  case brkSet =>
    intro n pc h hp hon
    have hon' : ((issued s).ctx b.ctx).brken = true := hon
    refine issue_past h hp ((withThread_issues h _).trans ?_)
    simp only [hon', if_true]

/-- Settles O12: refused and waiting transfers, `exit`, `yield`, `nop` and `brk`. -/
theorem endsAndRefusedTransfers : Obligations.EndsAndRefusedTransfers :=
  ⟨⟨illegalTargetsPark, missesAndOverflows⟩, exitYieldNopBrk⟩

end Sys2Proof.Machine

/-! # Faulting accesses (R76, R83, R89, R92, R93, R110, R154, R156, R157, R251, R258) -/

namespace Sys2Proof.Machine

open Sys2Proof.Safety Sys2Proof.Claims

/-! ## Loads, stores and atomics as issues -/

section
variable {s : State} {b : Block} {w : Who} {t : Thread} {i : Instr} {g : Guard} {o : Mem} {c : Cause} {a : Option DWord}
  {d : Nat}

/-- What is not a helper lane does what the instruction does (R28). -/
theorem exceptHelper_issues {f : State → Site → Act} (k : Thread → Thread) (h : Issues s b w t i g)
    (hlane : t.helper = false) : exceptHelper k f (issued s) (site s b w t) = f (issued s) (site s b w t) := by
  unfold exceptHelper
  rw [withThread_issues h, hlane]
  rfl

theorem exec_load {acq nc : Bool} (h : Loads i g o acq nc) (s : State) :
    exec i s = s.issue i g (loadMem o ⟨acq, nc⟩) := by
  rcases h with ⟨rfl, rfl, rfl⟩ | ⟨rfl, rfl, rfl⟩ | ⟨rfl, rfl, rfl⟩ <;> rfl

theorem exec_store {rel : Option Scope} (h : Stores i g o rel) (s : State) :
    exec i s = s.issue i g (exceptHelper id (storeMem o rel)) := by
  rcases h with ⟨rfl, rfl⟩ | ⟨rfl, rfl⟩ <;> rfl

theorem exec_atomic {op : Nat} (h : Atomics i g o op) (s : State) : exec i s = s.issue i g (atomRun o op) := by
  rcases h with ⟨rfl, rfl⟩ | ⟨rfl, rfl⟩ | ⟨rfl, rfl⟩ | ⟨rfl, rfl⟩ | ⟨rfl, rfl⟩ | ⟨rfl, rfl⟩ | ⟨rfl, rfl⟩ | ⟨rfl, rfl⟩ |
    ⟨rfl, rfl⟩ <;> rfl

theorem load_raises {acq nc : Bool} (hi : Loads i g o acq nc) (h : Issues s b w t i g)
    (hf : loadMem o ⟨acq, nc⟩ (issued s) (site s b w t) = .fault c a d) : Raises s b w t i c a d :=
  (exec_load hi s).trans (issue_fault h hf)

theorem store_raises {rel : Option Scope} (hi : Stores i g o rel) (h : Issues s b w t i g) (hlane : t.helper = false)
    (hf : storeMem o rel (issued s) (site s b w t) = .fault c a d) : Raises s b w t i c a d :=
  (exec_store hi s).trans (issue_fault h ((exceptHelper_issues id h hlane).trans hf))

theorem not_loads_of_stores {rel : Option Scope} (hi : Stores i g o rel) : ¬ ∃ acq nc, Loads i g o acq nc := by
  rintro ⟨acq, nc, hl⟩
  rcases hi with ⟨rfl, -⟩ | ⟨rfl, -⟩ <;> simp [Loads] at hl

/-- A load, or a store of a thread that is no helper lane. -/
def Accesses (t : Thread) (i : Instr) (g : Guard) (o : Mem) : Prop :=
  (∃ acq nc, Loads i g o acq nc) ∨ (t.helper = false ∧ ∃ rel, Stores i g o rel)

/-- What every load and every store of an access raises, it raises. -/
theorem access_raises (hi : Accesses t i g o) (h : Issues s b w t i g)
    (hload : ∀ q, loadMem o q (issued s) (site s b w t) = .fault c a d)
    (hstore : ∀ rel, storeMem o rel (issued s) (site s b w t) = .fault c a d) : Raises s b w t i c a d := by
  rcases hi with ⟨acq, nc, hi⟩ | ⟨hlane, rel, hi⟩
  · exact load_raises hi h (hload _)
  · exact store_raises hi h hlane (hstore _)

/-! ## Accesses by their space -/

theorem loadMem_glob (h : Issues s b w t i g) (hsp : o.space = .glob) (q : LoadKind) :
    loadMem o q (issued s) (site s b w t) = (issued s).loadGlobal (site s b w t) b t o q := by
  rw [loadMem, withThread_issues h, hsp]

theorem storeMem_glob (h : Issues s b w t i g) (hsp : o.space = .glob) (rel : Option Scope) :
    storeMem o rel (issued s) (site s b w t) = (issued s).storeGlobal (site s b w t) b t o rel := by
  rw [storeMem, withThread_issues h, hsp]

theorem loadMem_buf {k : Buf} (h : Issues s b w t i g) (hsp : isBuf o.space k) (q : LoadKind) :
    loadMem o q (issued s) (site s b w t) = (issued s).loadBuf (site s b w t) b t o k := by
  rw [loadMem, withThread_issues h]
  cases k <;> cases hs : o.space <;> simp_all [isBuf]

theorem storeMem_buf {k : Buf} (h : Issues s b w t i g) (hsp : isBuf o.space k) (rel : Option Scope) :
    storeMem o rel (issued s) (site s b w t) = (issued s).storeBuf (site s b w t) b t o k rel.isSome := by
  rw [storeMem, withThread_issues h]
  cases k <;> cases hs : o.space <;> simp_all [isBuf]

theorem loadMem_stack (h : Issues s b w t i g) (hsp : o.space = .stack) (q : LoadKind) :
    loadMem o q (issued s) (site s b w t) = (issued s).loadStack (site s b w t) b t o (t.stackPtr o)
      (t.stackAddr (t.stackPtr o)).toNat id id := by
  rw [loadMem, withThread_issues h, hsp]

theorem storeMem_stack (h : Issues s b w t i g) (hsp : o.space = .stack) (rel : Option Scope) :
    storeMem o rel (issued s) (site s b w t) = (issued s).storeStack (site s b w t) b t o (t.stackPtr o)
      (t.stackAddr (t.stackPtr o)).toNat id := by
  rw [storeMem, withThread_issues h, hsp]

theorem loadMem_win (h : Issues s b w t i g) (hsp : o.space = .win) (q : LoadKind) :
    loadMem o q (issued s) (site s b w t) = (issued s).loadWin (site s b w t) b t o q.acq := by
  rw [loadMem, withThread_issues h, hsp]

theorem storeMem_win (h : Issues s b w t i g) (hsp : o.space = .win) (rel : Option Scope) :
    storeMem o rel (issued s) (site s b w t) = (issued s).storeWin (site s b w t) b t o := by
  rw [storeMem, withThread_issues h, hsp]

end

/-! ## What the checks of an access refuse (R251) -/

theorem ruleShape_iff (rule : BitVec 4) (a n : Nat) : ruleShape rule.toNat a n = true ↔ Shaped rule a n := by
  simp only [ruleShape, Shaped, Bool.or_eq_true, Bool.not_eq_true', Bool.and_eq_true, decide_eq_true_eq,
    Bool.and_eq_false_iff, decide_eq_false_iff_not]
  tauto

section
variable {s : State} {x : Site} {b : Block} {t : Thread} {o : Mem}

theorem loadGlobal_misaligned (q : LoadKind) (h : (t.memAddr o).toNat % sizeBytes o.size ≠ 0) :
    s.loadGlobal x b t o q = .fault 0x07 (some (t.memAddr o)) 0 := if_pos h

theorem storeGlobal_misaligned (rel : Option Scope) (h : (t.memAddr o).toNat % sizeBytes o.size ≠ 0) :
    s.storeGlobal x b t o rel = .fault 0x07 (some (t.memAddr o)) 0 := if_pos h

theorem reach_beyond {va : DWord} {wr rd : Bool} (h : 2 ^ 48 ≤ va.toNat) : s.reach b va wr rd = .fault 0x08 va :=
  if_pos (Nat.div_pos h (by decide)).ne'

theorem loadGlobal_of_fault {c : Cause} (q : LoadKind) (h : (t.memAddr o).toNat % sizeBytes o.size = 0)
    (hmap : Unmapped s b t o) (hreach : s.reach b (t.memAddr o) false true = .fault c (t.memAddr o)) :
    s.loadGlobal x b t o q = .fault c (some (t.memAddr o)) 0 := by
  unfold Unmapped at hmap
  simp only [State.loadGlobal, h, hmap, hreach, ne_eq, not_true_eq_false, if_false, Reach.act]

theorem storeGlobal_of_fault {c : Cause} (rel : Option Scope) (h : (t.memAddr o).toNat % sizeBytes o.size = 0)
    (hmap : Unmapped s b t o) (hreach : s.reach b (t.memAddr o) true false = .fault c (t.memAddr o)) :
    s.storeGlobal x b t o rel = .fault c (some (t.memAddr o)) 0 := by
  unfold Unmapped at hmap
  simp only [State.storeGlobal, h, hmap, hreach, Option.isSome_none, ne_eq, not_true_eq_false, Bool.false_eq_true, if_false,
    Reach.act]

theorem storeGlobal_mapped (rel : Option Scope) (h : (t.memAddr o).toNat % sizeBytes o.size = 0)
    (hmap : ¬ Unmapped s b t o) : s.storeGlobal x b t o rel = .fault 0x09 (some (t.memAddr o)) 0 := by
  have hsome : ((s.ctx b.ctx).mapped (t.memAddr o).toNat (sizeBytes o.size)).isSome = true := Option.isSome_iff_ne_none.mpr hmap
  simp only [State.storeGlobal, h, hsome, ne_eq, not_true_eq_false, if_false, if_true]

theorem storeGlobal_misshapen {pte : DWord} {pa : Nat} (rel : Option Scope) (h : Translates s b t o true false pte pa)
    (hmap : Unmapped s b t o) (hheat : pteHeat pte = true)
    (hshape : ¬ Shaped (s.ctx b.ctx).hrule (t.memAddr o).toNat (sizeBytes o.size)) :
    s.storeGlobal x b t o rel = .fault 0x17 (some (t.memAddr o)) 0 := by
  obtain ⟨halign, hreach⟩ := h
  unfold Unmapped at hmap
  rw [← ruleShape_iff, Bool.not_eq_true] at hshape
  simp only [State.storeGlobal, halign, hmap, hreach, hheat, hshape, Option.isSome_none, ne_eq, not_true_eq_false,
    Bool.false_eq_true, if_false, Reach.act, Bool.not_false, Bool.and_self, if_true]

theorem storeGlobal_inRange {pte : DWord} {pa : Nat} (rel : Option Scope) (h : Translates s b t o true false pte pa)
    (hmap : Unmapped s b t o) (hheat : pteHeat pte = false) (hrange : s.inRange pa (sizeBytes o.size) = true) :
    s.storeGlobal x b t o rel = .fault 0x09 (some (t.memAddr o)) 0 := by
  obtain ⟨halign, hreach⟩ := h
  unfold Unmapped at hmap
  simp only [State.storeGlobal, halign, hmap, hreach, hheat, hrange, Option.isSome_none, ne_eq, not_true_eq_false,
    Bool.false_eq_true, if_false, Reach.act, Bool.false_and, if_true]

theorem atomicGlobal_heat {pte : DWord} {pa : Nat} (op : Nat) (h : Translates s b t o true true pte pa)
    (hheat : pteHeat pte = true) : s.atomicGlobal x b t o op true = .fault 0x17 (some (t.memAddr o)) 0 := by
  obtain ⟨halign, hreach⟩ := h
  simp only [State.atomicGlobal, halign, hreach, hheat, ne_eq, not_true_eq_false, if_false, Reach.act, Bool.and_self, if_true]

theorem bufReach_misaligned {k : Buf} {a : DWord} {n : Nat} (h : a.toNat % n ≠ 0) : b.bufReach k a n = .error 0x07 :=
  if_pos h

theorem bufReach_outside {k : Buf} {a : DWord} {n : Nat} (h : a.toNat % n = 0) (hout : b.bufPhys k a.toNat n = none) :
    b.bufReach k a n = .error 0x09 := by
  simp only [Block.bufReach, h, hout, ne_eq, not_true_eq_false, if_false]

theorem bufReach_held {k : Buf} {a : DWord} {n p : Nat} (h : a.toNat % n = 0) (hin : b.bufPhys k a.toNat n = some p)
    (hheld : b.tileHolds k a.toNat n = true) : b.bufReach k a n = .error 0x0D := by
  simp only [Block.bufReach, h, hin, hheld, ne_eq, not_true_eq_false, if_false, if_true]

theorem loadBuf_refused {k : Buf} {c : Cause} (h : b.bufReach k (t.memAddr o) (sizeBytes o.size) = .error c) :
    s.loadBuf x b t o k = .fault c (some (t.memAddr o)) 0 := by
  simp only [State.loadBuf, h]

theorem storeBuf_refused {k : Buf} {c : Cause} (rel : Bool)
    (h : b.bufReach k (t.memAddr o) (sizeBytes o.size) = .error c) :
    s.storeBuf x b t o k rel = .fault c (some (t.memAddr o)) 0 := by
  simp only [State.storeBuf, h]

theorem stackReach_misaligned {y : Word} {al n : Nat} {wr : Bool} (h : al % n ≠ 0) :
    s.stackReach b t y al n wr = .fault 0x07 (t.stackAddr y) := if_pos h

theorem loadStack_of_fault {y : Word} {al : Nat} {f : List Word → List Word} {k : Thread → Thread} {c : Cause} {a : DWord}
    (h : s.stackReach b t y al (sizeBytes o.size) false = .fault c a) :
    s.loadStack x b t o y al f k = .fault c (some a) 0 := by
  rw [State.loadStack]
  dsimp only
  rw [h, Reach.act]

theorem storeStack_of_fault {y : Word} {al : Nat} {k : Thread → Thread} {c : Cause} {a : DWord}
    (h : s.stackReach b t y al (sizeBytes o.size) true = .fault c a) : s.storeStack x b t o y al k = .fault c (some a) 0 := by
  rw [State.storeStack, h, Reach.act]

theorem loadWin_misaligned (acq : Bool) (h : (t.winAddr o).toNat % sizeBytes o.size ≠ 0) :
    s.loadWin x b t o acq = .fault 0x07 (some (t.winAddr o)) 0 := if_pos h

theorem winReach_invalid {k : Context} {n off m : Nat} {wr : Bool} (h : k.window n = none) :
    k.winReach n off m wr = .fault 0x0A := by
  simp only [Context.winReach, h]

/-- A window that is no alias window is refused or taken (R155). -/
theorem winReach_ne_alias {k : Context} {n off m : Nat} {wr : Bool} {v : Window}
    (h : ∀ v, k.window n = some v → v.kind.toNat < 4 ∨ v.kind.toNat = 7) : k.winReach n off m wr ≠ .alias_ v := by
  unfold Context.winReach
  split
  · simp
  · next u hu =>
    by_cases hseven : u.kind.toNat = 7
    · simp [hseven]
    · have hlow : ¬ 4 ≤ u.kind.toNat := by have := h u hu; omega
      simp only [hlow, if_false]
      repeat' split
      all_goals simp

theorem loadWin_invalid (acq : Bool) (h : (t.winAddr o).toNat % sizeBytes o.size = 0)
    (hwin : (s.ctx b.ctx).window (t.handleNo o) = none) :
    s.loadWin x b t o acq = .fault 0x0A (some (t.winAddr o)) (t.handleNo o) := by
  simp only [State.loadWin, h, winReach_invalid hwin, ne_eq, not_true_eq_false, if_false]

theorem storeWin_invalid (h : (t.winAddr o).toNat % sizeBytes o.size = 0)
    (hwin : (s.ctx b.ctx).window (t.handleNo o) = none) :
    s.storeWin x b t o = .fault 0x0A (some (t.winAddr o)) (t.handleNo o) := by
  simp only [State.storeWin, h, winReach_invalid hwin, bne_self_eq_false, Bool.false_eq_true, if_false]

theorem storeWin_misaligned (h : (t.winAddr o).toNat % sizeBytes o.size ≠ 0)
    (hkind : ∀ v, (s.ctx b.ctx).window (t.handleNo o) = some v → v.kind.toNat < 4 ∨ v.kind.toNat = 7) :
    s.storeWin x b t o = .fault 0x07 (some (t.winAddr o)) 0 := by
  have hodd : ((t.winAddr o).toNat % sizeBytes o.size != 0) = true := bne_iff_ne.mpr h
  have halias : (((s.ctx b.ctx).window (t.handleNo o)).any fun w => 4 ≤ w.kind.toNat && w.kind.toNat ≤ 6) = false := by
    cases hw : (s.ctx b.ctx).window (t.handleNo o) with
    | none => rfl
    | some v =>
      have := hkind v hw
      simp only [Option.any_some, Bool.and_eq_false_iff, decide_eq_false_iff_not]
      omega
  simp only [State.storeWin, hodd, halias, if_true, Bool.false_eq_true, if_false]
  split
  · rfl
  · next hreach => exact absurd hreach (winReach_ne_alias hkind)
  · rfl

end

/-- Settles O19: what each faulting access raises, in the order of its checks. -/
theorem accessFaults : Obligations.AccessFaults := by
  refine ⟨fun i g o s b w t hi h => ⟨?misaligned, ?beyond, ?buffer, ?stack, ?window⟩,
    fun i g o rel s b w t pte pa hi h hlane hsp => ⟨?mapped, ?misshapen, ?inRange⟩, ?atomic⟩
  case misaligned =>
    intro hsp halign
    refine access_raises hi h (fun q => ?_) fun rel => ?_
    · rw [loadMem_glob h hsp, loadGlobal_misaligned q halign]
    · rw [storeMem_glob h hsp, storeGlobal_misaligned rel halign]
  case beyond =>
    intro hsp halign hmap hfar
    refine access_raises hi h (fun q => ?_) fun rel => ?_
    · rw [loadMem_glob h hsp]
      exact loadGlobal_of_fault q halign hmap (reach_beyond hfar)
    · rw [storeMem_glob h hsp]
      exact storeGlobal_of_fault rel halign hmap (reach_beyond hfar)
  case buffer =>
    intro k hk
    have refused {c : Cause} (hreach : b.bufReach k (t.memAddr o) (sizeBytes o.size) = .error c) :
        Raises s b w t i c (some (t.memAddr o)) 0 := by
      refine access_raises hi h (fun q => ?_) fun rel => ?_
      · rw [loadMem_buf h hk, loadBuf_refused hreach]
      · rw [storeMem_buf h hk, storeBuf_refused _ hreach]
    exact ⟨fun halign => refused (bufReach_misaligned halign),
      fun halign hout => refused (bufReach_outside halign hout),
      fun p halign hin hheld => refused (bufReach_held halign hin hheld)⟩
  case stack =>
    intro hsp
    have refused {c : Cause} (hreach : ∀ wr, (issued s).stackReach b t (t.stackPtr o)
        (t.stackAddr (t.stackPtr o)).toNat (sizeBytes o.size) wr = .fault c (t.stackAddr (t.stackPtr o))) :
        Raises s b w t i c (some (t.stackAddr (t.stackPtr o))) 0 := by
      refine access_raises hi h (fun q => ?_) fun rel => ?_
      · rw [loadMem_stack h hsp, loadStack_of_fault (hreach false)]
      · rw [storeMem_stack h hsp, storeStack_of_fault (hreach true)]
    refine ⟨fun halign => refused fun wr => stackReach_misaligned halign,
      fun halign hout => refused fun wr => stackReach_outside halign ?_⟩
    simpa [Block.inStack, ← or_iff_not_imp_left] using hout
  case window =>
    refine fun hsp => ⟨fun halign hcase => ?_, fun halign hnone => ?_⟩
    · rcases hi with ⟨acq, nc, hi⟩ | ⟨hlane, rel, hi⟩
      · refine load_raises hi h ?_
        rw [loadMem_win h hsp, loadWin_misaligned _ halign]
      · refine store_raises hi h hlane ?_
        rw [storeMem_win h hsp]
        exact storeWin_misaligned halign (hcase.resolve_left (not_loads_of_stores hi))
    · refine access_raises hi h (fun q => ?_) fun rel => ?_
      · rw [loadMem_win h hsp]
        exact loadWin_invalid _ halign hnone
      · rw [storeMem_win h hsp]
        exact storeWin_invalid halign hnone
  case mapped =>
    intro halign hmap
    refine store_raises hi h hlane ?_
    rw [storeMem_glob h hsp]
    exact storeGlobal_mapped rel halign hmap
  case misshapen =>
    intro htr hmap hheat hshape
    refine store_raises hi h hlane ?_
    rw [storeMem_glob h hsp]
    exact storeGlobal_misshapen rel (htr.imp_right reach_issued) hmap hheat hshape
  case inRange =>
    intro htr hmap hheat hrange
    refine store_raises hi h hlane ?_
    rw [storeMem_glob h hsp]
    exact storeGlobal_inRange rel (htr.imp_right reach_issued) hmap hheat hrange
  case atomic =>
    intro i g o op s b w t pte pa hi h hlane htr hheat
    refine (exec_atomic hi s).trans (issue_fault h ((exceptHelper_issues _ h hlane).trans ?_))
    rw [withThread_issues h]
    exact atomicGlobal_heat op (htr.imp_right reach_issued) hheat

end Sys2Proof.Machine

/-! # Matrix operations at issue (R80, R85, R298, R300 to R303) -/

namespace Sys2Proof.Machine

open Sys2Proof.Safety Sys2Proof.Claims

/-! ## What keeps the overlay copies of every core -/

/-- The overlay copies of every core are the same in two states. -/
def KeepsCopies (s s' : State) : Prop := ∀ k, (s'.core k).copies = (s.core k).copies

theorem KeepsCopies.of_cores {s s' : State} (h : s'.cores = s.cores) : KeepsCopies s s' := fun k => by
  simp only [State.core, h]

theorem KeepsCopies.refl (s : State) : KeepsCopies s s := .of_cores rfl

theorem KeepsCopies.trans {a b c : State} (h : KeepsCopies a b) (k : KeepsCopies b c) : KeepsCopies a c :=
  fun i => (k i).trans (h i)

theorem KeepsCopies.foldl {α : Type} (f : State → α → State) (hf : ∀ s a, KeepsCopies s (f s a)) (l : List α) (s : State) :
    KeepsCopies s (l.foldl f s) := by
  induction l generalizing s with
  | nil => exact .refl s
  | cons a l ih => exact (hf s a).trans (ih _)

theorem KeepsCopies.modCore (s : State) (c : Nat) {f : Core → Core} (hf : ∀ k, (f k).copies = k.copies) :
    KeepsCopies s (s.modCore c f) := by
  intro k
  simp only [State.core, State.modCore]
  by_cases hk : c = k
  · subst hk
    by_cases hc : c < 160
    · rw [vget_vmod_same _ _ _ _ hc, hf]
    · rw [vget_vmod_out _ _ _ _ _ (by omega)]
  · rw [vget_vmod_other _ _ _ _ _ hk]

theorem KeepsCopies.modBlock (s : State) (id : Nat) (f : Block → Block) : KeepsCopies s (s.modBlock id f) := .of_cores rfl

/-- Where a thread passes on depends on the overlay copies alone. -/
theorem onward_copies {s s' : State} (h : KeepsCopies s s') (core c : Nat) (hdr pc : Word) (n : Nat) :
    s'.onward core c hdr pc n = s.onward core c hdr pc n := by
  have hr : s'.residentCopy = s.residentCopy := by
    funext a b c
    simp only [State.residentCopy, State.copyOf, h a]
  simp [State.onward, State.headerAt, State.headerWord, hr]

theorem inside_of_copies {s s' : State} {b : Block} {t : Thread} {i : Instr} {pc : Onward} (hp : Inside s b t i pc)
    (h : KeepsCopies s s') : Inside s' b t i pc := ⟨(onward_copies h _ _ _ _ _).trans hp.1, hp.2⟩

theorem writeBuf_copies (c : Core) (k : Buf) (p : Nat) (bs : List Byte) : (c.writeBuf k p bs).copies = c.copies := by
  cases k <;> rfl

theorem tileWrite_keepsCopies {s s' : State} {b : Block} {t : Tile} {off : Nat} {bs : List Byte}
    (h : s.tileWrite b t off bs = .ok s') : KeepsCopies s s' := by
  unfold State.tileWrite at h
  split at h
  · cases h
  · cases h
    exact .modCore _ _ fun k => writeBuf_copies k _ _ _

theorem clearTile_keepsCopies (s : State) (b : Block) (t : Tile) : KeepsCopies s (s.clearTile b t) := by
  unfold State.clearTile
  split
  · next h => exact tileWrite_keepsCopies h
  · exact .refl s

theorem enterTile_keepsCopies (s : State) (b : Block) (hdr : Word) (zero : Bool) (p : Nat × TileCond) :
    KeepsCopies s (s.enterTile b hdr zero p) := by
  unfold State.enterTile
  split
  · refine .trans ?_ (.modBlock _ _ _)
    split
    · exact .of_cores rfl
    · exact .refl s
  · refine (KeepsCopies.trans ?_ (.modBlock _ _ _)).trans (.modBlock _ _ _)
    split
    · exact clearTile_keepsCopies _ _ _
    · exact .refl s
  all_goals exact .refl s

theorem beginHead_keepsCopies (s : State) (core : Nat) : KeepsCopies s (s.beginHead core) := by
  unfold State.beginHead
  split
  · exact .refl s
  · split
    · exact .refl s
    · refine KeepsCopies.trans (KeepsCopies.modCore s core ?_) (.modBlock _ _ _)
      exact fun _ => rfl

/-- An operation that enters the queue changes no overlay copy. -/
theorem enqueue_keepsCopies (s : State) (b : Block) (hdr : Word) (fs : List Nat) (e : MatEntry) (group : Option Nat) :
    KeepsCopies s (s.enqueue b hdr fs e group) := by
  unfold State.enqueue
  refine .trans (.trans (.trans ?_ (.modBlock _ _ _)) (.modCore _ _ ?_)) (beginHead_keepsCopies _ _)
  rotate_left 1
  · exact fun _ => rfl
  · exact (KeepsCopies.of_cores rfl).trans (.foldl _ (fun s p => enterTile_keepsCopies s b hdr _ p) _ _)

/-! ## An operation at issue (R298) -/

section
variable {s : State} {b : Block} {w : Who} {t : Thread} {i : Instr} {g : Guard} {f : State → Site → Block → Thread → Act}

theorem matrixAct_issues (h : Issues s b w t i g) (hsound : b.mFault = none) (hstay : s.preempted b.ctx t = false) :
    matrixAct f (issued s) (site s b w t) = f (issued s) (site s b w t) b t := by
  have hstay' : (issued s).preempted b.ctx t = false := hstay
  unfold matrixAct
  rw [withThread_issues h]
  simp only [hsound, hstay', Bool.false_eq_true, if_false]

theorem matWait_none {e : MatEntry} {fs : List Nat} (hroom : s.opsOf b < 4) (htiles : b.tilesReady e.conds = true)
    (hflags : b.flagRoom fs = true) : s.matWait b e fs = none := by
  have hfew : ¬ Config.matrixOps ≤ s.opsOf b := Nat.not_le.mpr hroom
  simp only [State.matWait, hfew, htiles, hflags, Bool.not_true, Bool.false_eq_true, if_false]

theorem enterOp_enqueue {ok : Bool} {e : MatEntry} (hok : ok = true) (hroom : s.opsOf b < 4)
    (htiles : b.tilesReady e.conds = true) (hflags : b.flagRoom (s.countedFlags b t none) = true) :
    s.enterOp b t ok e = .done (s.enqueue b t.hdr (s.countedFlags b t none) e none) [] := by
  simp only [State.enterOp, hok, matWait_none hroom htiles hflags, Bool.not_true, Bool.false_eq_true, if_false]

/-- A matrix instruction enters its operation when its checks are those of the statement. -/
theorem enters_of_matrixAct {ok : Block → Thread → Bool} {e : Thread → MatEntry}
    (hi : ∀ s, exec i s = s.issue i g (matrixAct fun s _ b t => s.enterOp b t (ok b t) (e t))) : Enters i g ok e := by
  intro s b w t pc h hp hpre
  obtain ⟨hsound, hstay, hok, hroom, htiles, hflags⟩ := hpre
  rw [hi]
  refine issue_done h ?_ (inside_of_copies hp ((KeepsCopies.of_cores rfl).trans (enqueue_keepsCopies (issued s) _ _ _ _ _)))
  rw [matrixAct_issues h hsound hstay]
  exact enterOp_enqueue hok hroom htiles hflags

end

/-! ## Fields of the operands (R294) -/

theorem natBits_high_eq_zero {v : Word} {lo : Nat} (hlo : lo ≤ 31) : (natBits v.toNat 31 lo == 0) = decide (v.toNat < 2 ^ lo) := by
  have hv := v.isLt
  have hquot : v.toNat / 2 ^ lo < 2 ^ (31 + 1 - lo) := by
    rw [Nat.div_lt_iff_lt_mul (by positivity), ← pow_add]
    simpa [show 31 + 1 - lo + lo = 32 by omega] using hv
  rw [natBits, Nat.mod_eq_of_lt hquot, beq_eq_decide]
  simp [Nat.div_eq_zero_iff]

theorem tileC_eq_mod (ga : Word) : tileC ga = ga.toNat % 256 := by simp [tileC, natBits]

theorem matTile_mod (b : Block) (n : Nat) (k : Buf) :
    (decide (n < 256) && b.matTile (n % 256) k) = (decide (n < 256) && b.matTile n k) := by
  by_cases hn : n < 256
  · rw [Nat.mod_eq_of_lt hn]
  · simp only [hn, decide_false, Bool.false_and]

theorem exec_product {i : Instr} {g : Guard} {a b c : Reg} {k : MatKind} (h : Products i g a b c k) (s : State) :
    exec i s = s.issue i g (productAct k a b c) := by
  rcases h with ⟨rfl, rfl⟩ | ⟨rfl, rfl⟩ | ⟨scl, rfl, rfl⟩ <;> rfl

theorem matrixOperationsEnter : MatrixOperationsEnter := by
  refine ⟨?product, ?zero, ?drain, ?select, ?refused⟩
  case product => exact fun i g a b c k hi => enters_of_matrixAct (exec_product hi)
  case zero =>
    refine fun g a => enters_of_matrixAct fun s => ?_
    change execMzero g a s = _
    simp only [execMzero, natBits_high_eq_zero (lo := 8) (by decide), tileC_eq_mod, Nat.reducePow, matTile_mod]
  case drain =>
    refine fun g a b => enters_of_matrixAct fun s => ?_
    change execMdrain g a b s = _
    simp only [execMdrain, natBits_high_eq_zero (lo := 16) (by decide), natBits_high_eq_zero (lo := 17) (by decide)]
  case select =>
    refine fun g a b => enters_of_matrixAct fun s => ?_
    change execCsel g a b s = _
    simp only [execCsel, natBits_high_eq_zero (lo := 24) (by decide), natBits_high_eq_zero (lo := 30) (by decide)]
  case refused =>
    intro s b w t i g a x c k hi h hsound hstay hbad
    refine (exec_product hi s).trans (issue_fault h ?_)
    unfold productAct
    rw [matrixAct_issues h hsound hstay]
    simp only [State.enterOp, hbad, Bool.not_false, if_true]

/-! ## `mseq` (R303) -/

theorem mseqWord_eq (s : State) (b : Block) : s.mseqWord b = BitVec.ofNat 32 (b.mCause.toNat * 2 ^ 24 +
    (if s.opsOf b = 0 then 0 else 2 ^ 16) + (if b.mStop then 2 ^ 15 else 0) + b.mWd % 4 * 2 ^ 13 + b.mStep % 8192) := by
  simp only [State.mseqWord, Nat.pos_iff_ne_zero, ite_not]

theorem sequencerStatus : SequencerStatus := by
  refine fun g d wait => ⟨fun s b w t pc h hp hidle => ?_, fun s b w t h hwait hops => ?_⟩
  · refine issue_done h ?_ (inside_of_cores hp rfl)
    have hgo : (wait && decide (0 < (issued s).opsOf b)) = false := by
      have hidle' : wait = true → (issued s).opsOf b = 0 := hidle
      cases wait <;> simp_all
    rw [withThread_issues h, hgo, mseqWord_eq]
    rfl
  · have hbusy : (wait && decide (0 < (issued s).opsOf b)) = true := by
      have hops' : (issued s).opsOf b ≠ 0 := hops
      simp [hwait, Nat.pos_of_ne_zero hops']
    refine issue_stall h ?_
    rw [withThread_issues h, hbusy]
    rfl

/-- Settles O27: the matrix operations of one block at issue, and the status that `mseq` reads. -/
theorem matrixInstructions : Obligations.MatrixInstructions := ⟨matrixOperationsEnter, sequencerStatus⟩

end Sys2Proof.Machine

/-! # REPLICATE commits, frozen lines, page-table walks and the stack cache (R70, R90, R135, R136, R418, R426, R428) -/

namespace Sys2Proof.Machine

open Sys2Proof.Claims

/-! ## Writes at the home -/

theorem homeWrite_reqs (s : State) (pa : Nat) (bs : List Byte) : (s.homeWrite pa bs).reqs = s.reqs := by
  obtain ⟨x, e, m, p, h⟩ := ring_rung (s.physWrite pa bs) pa bs.length
  rw [State.homeWrite, h]
  rfl

theorem homeWrite_frozenLines (s : State) (pa : Nat) (bs : List Byte) :
    (s.homeWrite pa bs).frozenLines = s.frozenLines := by
  obtain ⟨x, e, m, p, h⟩ := ring_rung (s.physWrite pa bs) pa bs.length
  rw [State.homeWrite, h]
  rfl

theorem showWrite_reqs (s : State) (r : Req) : (s.showWrite r).reqs = s.reqs := by
  unfold State.showWrite
  split
  case h_2 => split <;> simp only [homeWrite_reqs]
  all_goals simp only [homeWrite_reqs]

theorem showWrite_frozenLines (s : State) (r : Req) : (s.showWrite r).frozenLines = s.frozenLines := by
  unfold State.showWrite
  split
  case h_2 => split <;> simp only [homeWrite_frozenLines]
  all_goals simp only [homeWrite_frozenLines]

/-- A write that is shown or not changes no request and no frozen line. -/
theorem ite_showWrite (c : Prop) [Decidable c] (s : State) (r : Req) :
    (if c then s.showWrite r else s).reqs = s.reqs ∧ (if c then s.showWrite r else s).frozenLines = s.frozenLines := by
  split
  · exact ⟨showWrite_reqs s r, showWrite_frozenLines s r⟩
  · exact ⟨rfl, rfl⟩

/-! ## Answers to invalidations (R125, R426) -/

/-- What an answer makes of the requests of its name: they no longer await the die; and it leaves the frozen lines. -/
theorem answer_of_awaits {s : State} {r : Req} {die : Nat} (h : r.awaits die = true) :
    ∃ st, (∀ x : Req, Req.awaits { x with st := st } die = false) ∧
      (s.answer r die).reqs = (s.reqs.map fun x => if x.id == r.id then { x with st := st } else x) ∧
      (s.answer r die).frozenLines = s.frozenLines := by
  unfold Req.awaits at h
  unfold State.answer
  split at h
  case h_1 dies since hst =>
    simp only
    split
    · exact ⟨_, fun x => by simp [Req.awaits], rfl, rfl⟩
    · refine ⟨.done, fun x => rfl, ?_⟩
      simp only [State.modReq, ite_showWrite, and_self]
  all_goals cases h

/-- A thaw answers for its die every request of the line that awaits it. -/
theorem answers_reqs {line die : Nat} (todo : List Req) (s : State) (htodo : ∀ q ∈ todo, q.awaits die = true)
    (hopen : ∀ r ∈ s.reqs, lineOf r.pa = line → r.awaits die = true → ∃ q ∈ todo, q.id = r.id) :
    (∀ r ∈ (todo.foldl (fun s r => s.answer r die) s).reqs, lineOf r.pa = line → r.awaits die = false) ∧
      (todo.foldl (fun s r => s.answer r die) s).frozenLines = s.frozenLines := by
  induction todo generalizing s with
  | nil => exact ⟨fun r hr hline => Bool.eq_false_iff.mpr fun hw => by simpa using hopen r hr hline hw, rfl⟩
  | cons q todo ih =>
    obtain ⟨st, hst, hreqs, hfrozen⟩ := answer_of_awaits (s := s) (htodo q (.head _))
    obtain ⟨hclear, hkept⟩ := ih (s.answer q die) (fun x hx => htodo x (.tail _ hx)) (by
      intro r hr hline hwait
      rw [hreqs] at hr
      obtain ⟨x, hx, rfl⟩ := List.mem_map.mp hr
      by_cases hid : (x.id == q.id) = true
      · simp [hid, hst] at hwait
      · simp only [hid, if_false, Bool.false_eq_true] at hline hwait ⊢
        obtain ⟨y, hy, hyx⟩ := hopen x hx hline hwait
        rcases List.mem_cons.mp hy with rfl | hy
        · simp [hyx] at hid
        · exact ⟨y, hy, hyx⟩)
    exact ⟨hclear, hkept.trans hfrozen⟩

/-! ## Requests at their home -/

theorem lineOpen_of_home {s : State} {r : Req} (h : AtHome s r) : s.lineOpen r = true := by
  have hthawed : s.frozenLines.all (fun f => f.line != lineOf r.pa) = true := by
    simpa [lineOf] using h.thawed
  simp [State.lineOpen, hthawed, h.home]

theorem pinNear_of_far {s : State} {pte : DWord} (h : pteNear pte = false) (line : Nat) : s.pinNear pte line = s := by
  simp [State.pinNear, h]

theorem not_frozen_any {s : State} {pa : Nat} (h : ∀ f ∈ s.frozenLines, f.line ≠ pa / 128) :
    (s.frozenLines.any fun f => f.line == lineOf pa) = false := by
  simpa [lineOf] using h

theorem replicasAndFrozenLines : ReplicasAndFrozenLines := by
  refine ⟨?commit, ?update, ?abort, ?lost, ?thaw⟩
  case commit =>
    intro s r h hsends hrepl hbusy
    obtain ⟨hst, hvalue, hbad⟩ := h.fresh
    change execReplicaCommit r.id s = _
    simp [execReplicaCommit, h.found, hst, hsends, hrepl, h.order, lineOpen_of_home h, hbusy, State.dropL1, lineOf]
  case update =>
    intro s r since bs ack rel hr hst hkind hfar
    change execReplicaUpdate r.id s = _
    simp [execReplicaUpdate, hr, hst, hkind, Req.reads, pinNear_of_far hfar, State.bindOld, State.showWrite]
  case abort =>
    intro s r since hr hst hlate
    have hpast : ¬ s.tick < since + lossTicks := Nat.not_lt.mpr hlate
    refine ⟨Config.pick s.fresh % 8, Nat.mod_lt _ (by decide), ?_⟩
    change execReplicaLockTimeout r.id s = _
    simp only [execReplicaLockTimeout, hr, hst, hpast, if_false]
    rfl
  case lost =>
    intro s r d dies since hr hst hlate hthawed
    have hpast : ¬ s.tick < since + lossTicks := Nat.not_lt.mpr hlate
    change execAckLostTimeout r.id s = _
    simp only [execAckLostTimeout, hr, hst, hpast, not_frozen_any hthawed, decide_false, Bool.or_self, Bool.false_eq_true,
      if_false]
    rfl
  case thaw =>
    intro s f line hf
    have hline : f.line = line := beq_iff_eq.mp (List.find?_some (p := fun x : Frozen => x.line == line) hf)
    have hexec : exec (.lineThaw line) s = .next (s.thaw f) := by
      change execLineThaw line s = _
      simp only [execLineThaw, hf]
    obtain ⟨hclear, hfrozen⟩ := answers_reqs (line := line) (die := f.die)
      (s.reqs.filter fun r => lineOf r.pa == f.line && r.awaits f.die)
      { s with frozenLines := s.frozenLines.filter fun (x : Frozen) => x != f }
      (fun q hq => by simp at hq; exact hq.2.2) fun r hr hl hw => ⟨r, by simp [hr, hl, hw, hline], rfl⟩
    refine ⟨s.thaw f, hexec, hfrozen.trans ?_, hclear⟩
    simp only [bne_eq, beq_eq_decide, decide_not]

end Sys2Proof.Machine

/-! # Threads that park at an access (R42, R399, R418) -/

namespace Sys2Proof.Machine

open Sys2Proof.Claims

/-! ## What a parked thread keeps -/

/-- What a parked thread keeps while others act: its mark, the cause and the PC of its record, and its registers. -/
structure SameParked (t u : Thread) : Prop where
  parked : u.parked = t.parked
  cause  : u.keptCause = t.keptCause
  pc     : u.keptPc = t.keptPc
  regs   : u.regs = t.regs

theorem SameParked.refl (t : Thread) : SameParked t t := ⟨rfl, rfl, rfl, rfl⟩

theorem SameParked.trans {t u v : Thread} (h : SameParked t u) (k : SameParked u v) : SameParked t v :=
  ⟨k.parked.trans h.parked, k.cause.trans h.cause, k.pc.trans h.pc, k.regs.trans h.regs⟩

/-- A thread stands in no rendezvous of its block. -/
def Block.NoArrival (b : Block) (w : Who) : Prop := ∀ r ∈ b.rdvs, ∀ a ∈ r.arrs, a.who ≠ w

/-- A change of a block that keeps what a parked thread keeps, and takes it into no rendezvous. -/
structure KeepsParkedIn (w : Who) (b c : Block) : Prop where
  id     : c.id = b.id
  thread : ∀ t, b.thread w = some t → ∃ u, c.thread w = some u ∧ SameParked t u
  away   : b.NoArrival w → c.NoArrival w

theorem KeepsParkedIn.refl (w : Who) (b : Block) : KeepsParkedIn w b b := ⟨rfl, fun t h => ⟨t, h, .refl t⟩, fun h => h⟩

theorem KeepsParkedIn.trans {w : Who} {a b c : Block} (h : KeepsParkedIn w a b) (k : KeepsParkedIn w b c) :
    KeepsParkedIn w a c := by
  refine ⟨k.id.trans h.id, fun t ht => ?_, fun hn => k.away (h.away hn)⟩
  obtain ⟨u, hu, htu⟩ := h.thread t ht
  obtain ⟨v, hv, huv⟩ := k.thread u hu
  exact ⟨v, hv, htu.trans huv⟩

/-- The thread of a name depends on the lists of threads alone. -/
theorem Block.thread_congr {b c : Block} (hvec : c.threads = b.threads) (hctl : c.ctl = b.ctl) (w : Who) :
    c.thread w = b.thread w := by
  cases w with
  | vec n => simp only [Block.thread, hvec]
  | ctl => exact hctl

/-- A change of a block that leaves its name, the thread and its rendezvous. -/
theorem KeepsParkedIn.of_thread {w : Who} {b c : Block} (hid : c.id = b.id) (hthread : c.thread w = b.thread w)
    (hrdvs : c.rdvs = b.rdvs) : KeepsParkedIn w b c :=
  ⟨hid, fun t h => ⟨t, hthread.trans h, .refl t⟩, fun h => by rw [Block.NoArrival, hrdvs]; exact h⟩

/-- A change of a block that leaves its name, its threads and its rendezvous. -/
theorem KeepsParkedIn.of_parts {w : Who} {b c : Block} (hid : c.id = b.id) (hvec : c.threads = b.threads)
    (hctl : c.ctl = b.ctl) (hrdvs : c.rdvs = b.rdvs) : KeepsParkedIn w b c :=
  .of_thread hid (Block.thread_congr hvec hctl w) hrdvs

theorem KeepsParkedIn.modThread_other {w v : Who} (h : v ≠ w) (b : Block) (f : Thread → Thread) :
    KeepsParkedIn w b (b.modThread v f) := .of_thread (by simp) (Block.thread_modThread_other b v w f h) (by simp)

theorem KeepsParkedIn.modThread {w : Who} (v : Who) {f : Thread → Thread} (hf : ∀ t, SameParked t (f t)) (b : Block) :
    KeepsParkedIn w b (b.modThread v f) := by
  by_cases h : v = w
  · subst h
    exact ⟨by simp, fun t ht => ⟨f t, by rw [Block.thread_modThread, ht, Option.map_some], hf t⟩,
      fun h => by simpa [Block.NoArrival] using h⟩
  · exact .modThread_other h b f

theorem KeepsParkedIn.withdraw (w v : Who) (b : Block) : KeepsParkedIn w b (b.withdraw v) := by
  refine ⟨rfl, fun t h => ⟨t, h ▸ Block.thread_congr rfl rfl w, .refl t⟩, fun h r hr a ha => ?_⟩
  obtain ⟨r', hr', rfl⟩ := List.mem_map.mp (List.mem_filter.mp hr).1
  exact h r' hr' a (List.mem_filter.mp ha).1

theorem KeepsParkedIn.sweep (w : Who) (b : Block) : KeepsParkedIn w b b.sweep := .of_parts rfl rfl rfl rfl

/-- A change of the state that keeps what a parked thread keeps. -/
def KeepsParked (blk : Nat) (w : Who) (s s' : State) : Prop :=
  ∀ b, s.block blk = some b → ∃ c, s'.block blk = some c ∧ KeepsParkedIn w b c

theorem KeepsParked.of_blocks {blk : Nat} {w : Who} {s s' : State} (h : s'.blocks = s.blocks) : KeepsParked blk w s s' :=
  fun b hb => ⟨b, by simpa only [State.block, h] using hb, .refl w b⟩

theorem KeepsParked.refl (blk : Nat) (w : Who) (s : State) : KeepsParked blk w s s := .of_blocks rfl

theorem KeepsParked.trans {blk : Nat} {w : Who} {s s' s'' : State} (h : KeepsParked blk w s s')
    (k : KeepsParked blk w s' s'') : KeepsParked blk w s s'' := by
  intro a ha
  obtain ⟨b, hb, hab⟩ := h a ha
  obtain ⟨c, hc, hbc⟩ := k b hb
  exact ⟨c, hc, hab.trans hbc⟩

theorem KeepsParked.foldl {α : Type} {blk : Nat} {w : Who} (f : State → α → State) (l : List α) (s : State)
    (hf : ∀ s, ∀ a ∈ l, KeepsParked blk w s (f s a)) : KeepsParked blk w s (l.foldl f s) := by
  induction l generalizing s with
  | nil => exact .refl blk w s
  | cons a l ih => exact (hf s a (.head _)).trans (ih _ fun s x hx => hf s x (.tail _ hx))

theorem KeepsParked.modBlock {w : Who} {f : Block → Block} (hf : ∀ b, KeepsParkedIn w b (f b)) (s : State) (blk id : Nat) :
    KeepsParked blk w s (s.modBlock id f) := by
  intro b hb
  by_cases h : id = blk
  · subst h
    exact ⟨f b, by rw [State.block_modBlock _ _ _ fun b => (hf b).id, hb, Option.map_some], hf b⟩
  · exact ⟨b, by rw [State.block_modBlock_other _ _ _ _ (fun b => (hf b).id) h, hb], .refl w b⟩

theorem KeepsParked.modThread_other {w v : Who} (h : v ≠ w) (s : State) (blk id : Nat) (f : Thread → Thread) :
    KeepsParked blk w s (s.modThread id v f) := .modBlock (fun b => .modThread_other h b f) s blk id

theorem KeepsParked.modThread {w : Who} (v : Who) {f : Thread → Thread} (hf : ∀ t, SameParked t (f t)) (s : State)
    (blk id : Nat) : KeepsParked blk w s (s.modThread id v f) := .modBlock (fun b => .modThread v hf b) s blk id

/-! ## Parks of other threads, and the event of a park -/

section
variable {blk : Nat} {w : Who}

theorem setTaken_keepsParked (s : State) (id : Nat) (v : Who) : KeepsParked blk w s (s.setTaken id v) := by
  unfold State.setTaken
  split
  · exact .refl blk w s
  · split
    · exact .refl blk w s
    · refine .trans ?_ (.of_blocks (parkWrite_blocks _ _ _ _))
      refine .modThread v ?_ s blk id
      exact fun t => ⟨rfl, rfl, rfl, rfl⟩

theorem parkEvent_keepsParked (s : State) (id : Nat) (x : Parked) : KeepsParked blk w s (s.parkEvent id x) := by
  unfold State.parkEvent
  split
  · exact .refl blk w s
  · split
    · exact .refl blk w s
    · simp only
      split
      · exact (setTaken_keepsParked s _ _).trans (.of_blocks (recordEvent_blocks _ _))
      · refine .trans (.of_blocks rfl) (.modBlock ?_ { s with nextId := s.nextId + 1 } blk id)
        exact fun b => .of_parts rfl rfl rfl rfl

theorem parkOne_keepsParked {x : Parked} (h : x.who ≠ w) (s : State) (id : Nat) (m : Word) (taken : Bool) :
    KeepsParked blk w s (s.parkOne id m taken x) := by
  unfold State.parkOne
  split
  · exact .refl blk w s
  · split
    · exact .refl blk w s
    · refine .trans ?_ (.of_blocks (parkWrite_blocks _ _ _ _))
      exact .modBlock (fun b => .trans (.withdraw w x.who b) (.modThread_other h _ _)) s blk id

theorem parkGroup_keepsParked {l : List Parked} (h : ∀ x ∈ l, x.who ≠ w) (s : State) (id : Nat) :
    KeepsParked blk w s (s.parkGroup id l) := by
  unfold State.parkGroup
  split
  · exact .refl blk w s
  · refine KeepsParked.trans (.trans (.of_blocks (countPark_blocks s id)) ?_) (parkEvent_keepsParked _ _ _)
    exact .foldl _ _ _ fun s x hx => parkOne_keepsParked (h x hx) s id _ _

/-! ## Rendezvous that others complete (R238) -/

theorem passAll_keepsParked {ws : List Who} (h : ∀ v ∈ ws, v ≠ w) (s : State) (id n : Nat) :
    KeepsParked blk w s (s.passAll id ws n) := by
  unfold State.passAll
  split
  · split
    · exact .refl blk w s
    · split
      · exact .foldl _ _ _ fun s v hv => .modThread_other (h v hv) s blk id _
      · refine .trans ?_ (.modBlock (fun b => .sweep w b) _ blk id)
        exact .foldl _ _ _ fun s v hv => .modThread_other (h v hv) s blk id _
      · refine parkGroup_keepsParked (fun x hx => ?_) s id
        obtain ⟨v, hv, rfl⟩ := List.mem_map.mp hx
        exact h v hv
  · exact .refl blk w s

theorem foldl_modThread_keepsParkedIn {α : Type} {l : List α} (who : α → Who) (f : α → Thread → Thread)
    (h : ∀ a ∈ l, who a ≠ w) (b : Block) : KeepsParkedIn w b (l.foldl (fun b a => b.modThread (who a) (f a)) b) := by
  induction l generalizing b with
  | nil => exact .refl w b
  | cons a l ih => exact (KeepsParkedIn.modThread_other (h a (.head _)) b (f a)).trans (ih (fun x hx => h x (.tail _ hx)) _)

theorem completeRdv_keepsParked {r : Rdv} (h : ∀ a ∈ r.arrs, a.who ≠ w) (s : State) (id : Nat) :
    KeepsParked blk w s (s.completeRdv id r) := by
  unfold State.completeRdv
  split
  · exact .refl blk w s
  · refine .trans ?_ (passAll_keepsParked (by simpa using h) _ id 1)
    refine .trans ?_ (.of_blocks (logIssue_cores _ _ _ _ _ _).2)
    refine KeepsParked.trans (.modBlock (fun b => ?_) s blk id) (.foldl _ _ _ fun s a _ => ?_)
    · have hout : ∀ p ∈ (r.arrs.filter (·.guard)).map fun a => (a, laneResult r.ins r.arrs a), p.1.who ≠ w := by
        intro p hp
        obtain ⟨a, ha, rfl⟩ := List.mem_map.mp hp
        exact h a (List.mem_filter.mp ha).1
      have hkept := foldl_modThread_keepsParkedIn (fun p : Arrival × LaneOut => p.1.who) (fun p t => t.putLane p.2) hout b
      refine ⟨hkept.id, fun t ht => ?_, fun hn x hx => hn x (List.mem_filter.mp hx).1⟩
      obtain ⟨u, hu, htu⟩ := hkept.thread t ht
      exact ⟨u, hu ▸ Block.thread_congr rfl rfl w, htu⟩
    · split
      · exact .of_blocks rfl
      · exact .refl blk w s

theorem completeRdvs_keepsParked {s : State} {b : Block} {id : Nat} (hb : s.block id = some b) (h : b.NoArrival w) :
    KeepsParked blk w s (s.completeRdvs id) := by
  unfold State.completeRdvs
  rw [hb]
  refine .foldl _ _ _ fun s r hr => ?_
  split
  · split
    · exact completeRdv_keepsParked (h r hr) s id
    · exact .refl blk w s
  · exact .refl blk w s

theorem settle_blocks (s : State) (core : Nat) : (s.settle core).blocks = s.blocks := by
  unfold State.settle
  generalize (s.core core).copies = l
  induction l generalizing s with
  | nil => rfl
  | cons k l ih =>
    rw [List.foldl_cons, ih]
    split <;> rfl

end

/-! ## One thread that faults at the end of its issue -/

section
variable {s : State} {b : Block} {t : Thread} {blk iss : Nat} {p : Parked}

/-- Nothing of an issue is still to be made: none of its threads but one waits in its midst, and no access is in flight. -/
structure IssueOver (s : State) (blk iss : Nat) (b : Block) (w : Who) : Prop where
  threads : ∀ x u, x ≠ w → b.thread x = some u → u.issue = iss → u.wait.inIssue = false
  reqs    : ∀ q ∈ s.reqs, q.blk = blk → q.issue ≠ iss

/-- A block as one of its threads waits for the rest of its fault group. -/
def Block.faults (b : Block) (iss : Nat) (p : Parked) : Block :=
  Block.modThread { b with faulted := b.faulted ++ [(iss, p)] } p.who fun t => { t with wait := .faulted }

theorem Block.thread_faults (b : Block) (iss : Nat) (p : Parked) :
    (b.faults iss p).thread p.who = (b.thread p.who).map fun t => { t with wait := .faulted } := by
  rw [Block.faults, Block.thread_modThread]
  exact congrArg _ (Block.thread_congr rfl rfl _)

theorem Block.thread_faults_other (b : Block) (iss : Nat) {p : Parked} {x : Who} (h : p.who ≠ x) :
    (b.faults iss p).thread x = b.thread x := by
  rw [Block.faults, Block.thread_modThread_other _ _ _ _ h]
  exact Block.thread_congr rfl rfl x

theorem State.block_faultThread (hb : s.block blk = some b) :
    (s.faultThread blk iss p).block blk = some (b.faults iss p) := by
  rw [State.faultThread, State.block_modBlock _ _ _ (by simp), hb]
  rfl

theorem issueOpen_faultThread (hb : s.block blk = some b) (hover : IssueOver s blk iss b p.who) :
    (s.faultThread blk iss p).issueOpen blk iss = false := by
  have hthreads : ∀ x u, (b.faults iss p).thread x = some u → u.issue = iss → u.wait.inIssue = false := by
    intro x u hu hiss
    by_cases hx : p.who = x
    · subst hx
      rw [Block.thread_faults] at hu
      obtain ⟨t, -, rfl⟩ := Option.map_eq_some_iff.mp hu
      rfl
    · exact hover.threads x u (Ne.symm hx) ((Block.thread_faults_other b iss hx).symm.trans hu) hiss
  have hreqs : (s.faultThread blk iss p).reqs = s.reqs := rfl
  simp only [State.issueOpen, State.block_faultThread hb, hreqs, Option.any_some, Bool.or_eq_false_iff]
  refine ⟨List.any_eq_false.mpr fun x _ => ?_, List.any_eq_false.mpr fun q hq => ?_⟩
  · cases hu : (b.faults iss p).thread x with
    | none => simp
    | some u => simpa using fun _ _ => hthreads x u hu
  · have := hover.reqs q hq
    simp only [Bool.and_eq_true, beq_iff_eq]
    exact fun ⟨⟨⟨⟨⟨hblk, hiss⟩, _⟩, _⟩, _⟩, _⟩ => this hblk hiss

/-- A thread of a block is parked as asked, with registers as before, and awaits no rendezvous. -/
def StandsParked (s : State) (blk : Nat) (p : Parked) (t : Thread) : Prop :=
  ∃ c u, s.block blk = some c ∧ c.thread p.who = some u ∧
    (u.parked = true ∧ u.keptCause = p.cause ∧ u.keptPc = p.pc ∧ u.regs = t.regs) ∧ c.NoArrival p.who

theorem StandsParked.keeps {s' : State} (h : StandsParked s blk p t) (k : KeepsParked blk p.who s s') :
    StandsParked s' blk p t := by
  obtain ⟨c, u, hc, hu, ⟨hparked, hcause, hpc, hregs⟩, haway⟩ := h
  obtain ⟨d, hd, hkept⟩ := k c hc
  obtain ⟨v, hv, huv⟩ := hkept.thread u hu
  exact ⟨d, v, hd, hv, ⟨huv.parked.trans hparked, huv.cause.trans hcause, huv.pc.trans hpc, huv.regs.trans hregs⟩,
    hkept.away haway⟩

theorem StandsParked.completeRdvs (h : StandsParked s blk p t) : StandsParked (s.completeRdvs blk) blk p t := by
  obtain ⟨c, u, hc, hu, hsame, haway⟩ := h
  exact StandsParked.keeps ⟨c, u, hc, hu, hsame, haway⟩ (completeRdvs_keepsParked hc haway)

theorem withdraw_noArrival (b : Block) (w : Who) : (b.withdraw w).NoArrival w := by
  intro r hr a ha
  obtain ⟨x, -, rfl⟩ := List.mem_map.mp (List.mem_filter.mp hr).1
  exact bne_iff_ne.mp (List.mem_filter.mp ha).2

theorem withdraw_stands (hb : s.block blk = some b) (ht : b.thread p.who = some t) {f : Block → Thread → Thread}
    (hf : (f b t).parked = true ∧ (f b t).keptCause = p.cause ∧ (f b t).keptPc = p.pc ∧ (f b t).regs = t.regs) :
    StandsParked (s.modBlock blk fun b => (b.withdraw p.who).modThread p.who (f b)) blk p t := by
  have ht' : (b.withdraw p.who).thread p.who = some t := (Block.thread_congr rfl rfl _).trans ht
  refine ⟨(b.withdraw p.who).modThread p.who (f b), f b t, ?_, ?_, hf, ?_⟩
  · rw [State.block_modBlock _ _ _ fun b => Block.modThread_id (b.withdraw p.who) p.who (f b), hb, Option.map_some]
  · rw [Block.thread_modThread, ht', Option.map_some]
  · simpa [Block.NoArrival] using withdraw_noArrival b p.who

theorem parkOne_stands (hb : s.block blk = some b) (ht : b.thread p.who = some t) (m : Word) (taken : Bool) :
    StandsParked (s.parkOne blk m taken p) blk p t := by
  simp only [State.parkOne, hb, ht]
  refine StandsParked.keeps ?_ (.of_blocks (parkWrite_blocks _ _ _ _))
  refine withdraw_stands hb ht ?_
  exact ⟨rfl, rfl, rfl, rfl⟩

theorem parkGroup_stands (hb : s.block blk = some b) (ht : b.thread p.who = some t) :
    StandsParked (s.parkGroup blk [p]) blk p t := by
  have hcount : (s.countPark blk).block blk = some b := by
    simpa only [State.block, countPark_blocks] using hb
  exact (parkOne_stands hcount ht _ _).keeps (parkEvent_keepsParked _ _ _)

/-- A fault group of one thread, whose issue is over, parks that thread. -/
theorem raise_stands (hb : s.block blk = some b) (hfresh : b.faulted = []) (ht : b.thread p.who = some t)
    (hover : IssueOver s blk iss b p.who) : StandsParked (s.raise blk [(iss, p)]) blk p t := by
  have hid : b.id = blk := beq_iff_eq.mp (List.find?_some (p := fun x : Block => x.id == blk) hb)
  have hb' := State.block_faultThread (iss := iss) (p := p) hb
  have hlate : (s.faultThread blk iss p).lateOf (b.faults iss p) iss = [] := by
    refine List.filter_eq_nil_iff.mpr fun q hq => ?_
    have := hover.reqs q hq
    simp only [Bool.and_eq_true, beq_iff_eq, Block.faults, Block.modThread_id, hid]
    exact fun ⟨⟨⟨⟨⟨hblk, hiss⟩, _⟩, _⟩, _⟩, _⟩ => this hblk hiss
  have hgroup : ((b.faults iss p).faulted.filter (·.1 == iss)).map (·.2) = [p] := by
    simp [Block.faults, hfresh]
  have hraise : s.raise blk [(iss, p)] =
      (((((s.faultThread blk iss p).parkGroup blk [p]).modBlock blk Block.sweep).completeRdvs blk).settle
        (b.faults iss p).core) := by
    have hclose : s.raise blk [(iss, p)] = (s.faultThread blk iss p).closeGroup blk iss := by
      have hone : [iss].eraseDups = [iss] := by simp [List.eraseDups_cons]
      simp only [State.raise, List.map_cons, List.map_nil, hone, List.foldl_cons, List.foldl_nil,
        issueOpen_faultThread hb hover, Bool.false_eq_true, if_false]
    rw [hclose, State.closeGroup]
    simp only [hb', hlate, hgroup, List.map_nil, List.append_nil, List.isEmpty_cons, Bool.false_eq_true, if_false,
      List.foldl_nil]
    rfl
  have hthread : (b.faults iss p).thread p.who = some { t with wait := .faulted } := by
    rw [Block.thread_faults, ht, Option.map_some]
  rw [hraise]
  have hstands := (parkGroup_stands hb' hthread).keeps (.modBlock (fun b => .sweep p.who b) _ blk blk)
  exact hstands.completeRdvs.keeps (.of_blocks (settle_blocks _ _))

end

end Sys2Proof.Machine

/-! # Page-table walks and the stack cache (R70, R90, R418, R430) -/

namespace Sys2Proof.Machine

open Sys2Proof.Claims

/-! ## Walks (R69, R70) -/

theorem leafAt_big {s : State} {e pte : DWord} {b big : Bool} (h : s.leafAt e b = .leaf pte big) : b = big := by
  unfold State.leafAt checkLeaf at h
  split at h
  · next hleaf =>
    split at hleaf
    · cases hleaf
    · split at hleaf
      · cases hleaf
      · cases hleaf
        split at h
        · cases h
        · cases h; rfl
  · cases h

/-- A walk that finds a leaf says at which level it lies. -/
theorem bigLeaf_of_walk {s : State} {c : Nat} {va pte : DWord} {big : Bool} (h : s.walk c va = .leaf pte big) :
    s.bigLeaf c va = big := by
  unfold State.walk at h
  unfold State.bigLeaf
  simp only at h ⊢
  split at h
  · cases h
  · split at h
    · cases h
    · split at h
      · cases h
      · next hv0 hn0 =>
        simp only [Bool.not_eq_true, Bool.not_eq_false'] at hv0 hn0
        split at h
        · cases h
        · next hv1 =>
          simp only [Bool.not_eq_true, Bool.not_eq_false'] at hv1
          split at h
          · next hl1 => simpa [hv0, hn0, hv1, hl1] using leafAt_big h
          · next hl1 =>
            split at h
            · cases h
            · split at h
              · cases h
              · simpa [hl1] using leafAt_big h

/-! ## The thread that waits for a walk -/

section
variable {s : State} {c page : Nat} {w : Walker} {b : Block}

theorem failWalks_nil (s : State) (e : Cause) : s.failWalks e [] = s := rfl

theorem failWalks_one {e : Cause} (hb : s.block w.blk = some b) : s.failWalks e [w] =
    s.raise w.blk [(w.iss, { who := w.who, cause := e, pc := w.pc, word := s.wordAt b.core b.ctx w.pc, addr := some w.va })] := by
  have hone : [w.blk].eraseDups = [w.blk] := by simp [List.eraseDups_cons]
  simp only [State.failWalks, List.map_cons, List.map_nil, hone, List.foldl_cons, List.foldl_nil, hb]
  simp

theorem exec_pageWalk_leaf {pte : DWord} {big : Bool} (hmine : s.walkers c = [w])
    (hwalk : s.walk c (BitVec.ofNat 64 (page * 65536)) = .leaf pte big)
    (hpage : w.va.toNat / 65536 = page ∨ big = true ∧ w.va.toNat / 65536 / 512 = page / 512)
    (hok : permits pte w.wr w.rd = true) : exec (.pageWalk c page) s = .next (s.answerWalk c pte big w) := by
  have hleaf : (if big = true then pageOf w.va / 512 == page / 512 else pageOf w.va == page) = true := by
    cases big <;> simp_all [pageOf]
    rcases hpage with h | h <;> simp [h]
  change execPageWalk c page s = _
  simp [execPageWalk, bigLeaf_of_walk hwalk, hmine, hwalk, hleaf, hok, failWalks_nil]

theorem exec_pageWalk_fail {e : Cause} (hmine : s.walkers c = [w])
    (hwalk : s.walk c (BitVec.ofNat 64 (page * 65536)) = .fail e) (hpage : w.va.toNat / 65536 = page) :
    exec (.pageWalk c page) s = .next (s.failWalks e [w]) := by
  change execPageWalk c page s = _
  simp only [execPageWalk, hmine, hwalk]
  have hleaf : (if s.bigLeaf c (BitVec.ofNat 64 (page * 65536)) = true then pageOf w.va / 512 == page / 512
      else pageOf w.va == page) = true := by
    split <;> simp [pageOf, hpage]
  simp [hleaf]

end

/-! ## The stack cache (R90) -/

theorem length_insertBy {α : Type} (le : α → α → Bool) (x : α) (l : List α) : (insertBy le x l).length = l.length + 1 := by
  induction l with
  | nil => rfl
  | cons y ys ih =>
    unfold insertBy
    split
    · simp [ih]
    · rfl

theorem length_sortBy {α : Type} (le : α → α → Bool) (l : List α) : (sortBy le l).length = l.length := by
  have hfold : ∀ acc, (l.foldl (fun acc x => insertBy le x acc) acc).length = acc.length + l.length := by
    induction l with
    | nil => exact fun _ => rfl
    | cons x l ih =>
      intro acc
      rw [List.foldl_cons, ih, length_insertBy, List.length_cons]
      omega
  exact (hfold []).trans (Nat.zero_add _)

/-- The lines that some blocks hold in the stack cache of a core. -/
def stackCount (core : Nat) (l : List Block) : Nat := ((l.filter (·.core == core)).map (·.stack.length)).sum

theorem length_stackLines (s : State) (core : Nat) : (s.stackLines core).length = stackCount core s.blocks := by
  rw [State.stackLines, length_sortBy, List.length_flatMap, stackCount]
  simp

theorem stackCount_cons (core : Nat) (b : Block) (l : List Block) :
    stackCount core (b :: l) = (if b.core == core then b.stack.length else 0) + stackCount core l := by
  unfold stackCount
  by_cases h : (b.core == core) = true <;> simp [h]

/-- One more line in each block of a name. -/
theorem stackCount_map_le (core id : Nat) {f : Block → Block} (hcore : ∀ b, (f b).core = b.core)
    (hstack : ∀ b, (f b).stack.length ≤ b.stack.length + 1) (l : List Block) :
    stackCount core (l.map fun b => if b.id == id then f b else b) ≤ stackCount core l + (l.filter (·.id == id)).length := by
  induction l with
  | nil => exact le_rfl
  | cons b l ih =>
    have hb := hstack b
    rw [List.map_cons, List.filter_cons, stackCount_cons, stackCount_cons]
    cases b.id == id
    · simp only [Bool.false_eq_true, if_false]
      omega
    · simp only [if_true, hcore, List.length_cons]
      split <;> omega

theorem length_stackLines_modBlock_le (s : State) (core id : Nat) {f : Block → Block} (hcore : ∀ b, (f b).core = b.core)
    (hstack : ∀ b, (f b).stack.length ≤ b.stack.length + 1) :
    ((s.modBlock id f).stackLines core).length ≤ (s.stackLines core).length + (s.blocks.filter (·.id == id)).length := by
  rw [length_stackLines, length_stackLines]
  exact stackCount_map_le core id hcore hstack s.blocks

theorem trimStack_of_room {s : State} {core : Nat} (h : (s.stackLines core).length ≤ 512) : s.trimStack core = s := by
  have hnone : (s.stackLines core).length - Config.stackLines = 0 := Nat.sub_eq_zero_of_le h
  simp only [State.trimStack, hnone, List.range_zero, List.foldl_nil]

theorem pinLines_of_far {s : State} {pte : DWord} (h : pteNear pte = false) (pa n : Nat) : s.pinLines pte pa n = s := by
  simp [State.pinLines, h]

theorem tlbDrop_blocks (s : State) (core c page : Nat) : (s.tlbDrop core c page).blocks = s.blocks := rfl

theorem tlbInstall_blocks (s : State) (core : Nat) (e : TlbEnt) : (s.tlbInstall core e).blocks = s.blocks := rfl

theorem tlbKeep_blocks (s : State) (core c : Nat) (va : DWord) (wr rd : Bool) :
    (s.tlbKeep core c va wr rd).blocks = s.blocks := by
  unfold State.tlbKeep
  split
  · rfl
  · simp only
    cases (s.tlbDrop core c (pageOf va)).walk c va with
    | leaf pte big =>
      simp only
      split
      · rw [tlbInstall_blocks, tlbDrop_blocks]
      · rw [tlbDrop_blocks]
    | fail e => exact tlbDrop_blocks _ _ _ _

theorem tlbKeep_stackLines (s : State) (core k c : Nat) (va : DWord) (wr rd : Bool) :
    (s.tlbKeep core c va wr rd).stackLines k = s.stackLines k := by
  simp only [State.stackLines, tlbKeep_blocks]

/-- A block with a line of its stack in the stack cache. -/
def Block.withLine (b : Block) (l : StkLine) : Block := { b with stack := l :: b.stack.filter fun x => x.line != l.line }

/-- A line that a block's stack does not hold is put into a stack cache with room. -/
theorem putLine_of_room {s : State} {b : Block} {pte : DWord} {pa used : Nat} {l : StkLine}
    (hnew : b.stack.any (fun x => x.line == l.line) = false) (hfar : pteNear pte = false)
    (hone : s.blocks.filter (fun k => k.id == b.id) = [b]) (hroom : (s.stackLines b.core).length < 512) :
    s.putLine b pte pa used l = s.modBlock b.id fun b => b.withLine { l with used := used } := by
  have hput : s.putLine b pte pa used l =
      (s.modBlock b.id fun b => b.withLine { l with used := used }).trimStack b.core := by
    simp only [State.putLine, hnew, Bool.false_eq_true, if_false, pinLines_of_far hfar]
    rfl
  have hroom' : (s.stackLines b.core).length + (s.blocks.filter (·.id == b.id)).length ≤ 512 := by
    rw [hone, List.length_singleton]
    exact hroom
  rw [hput]
  refine trimStack_of_room ((length_stackLines_modBlock_le s b.core b.id ?_ ?_).trans hroom')
  · exact fun _ => rfl
  · exact fun x => Nat.succ_le_succ (List.length_filter_le _ _)

section
variable {s : State} {b : Block} {line : Nat} {l : StkLine}

theorem spillLine_clean (h : l.dirty = false) : s.spillLine b l = some s := by
  simp only [State.spillLine, h, Bool.not_false, if_true]

/-- A line without bad sectors is written back whole, where its place can be reached. -/
theorem spillLine_dirty {pte : DWord} {pa : Nat} (hdirty : l.dirty = true) (hbad : l.bad = [])
    (hx : s.coreXlat b.core b.ctx (BitVec.ofNat 64 (l.line * 128)) true = .ok pte pa)
    (hok : s.writeRefused pte pa 128 = none) (hopen : s.shut pa 128 = false) (hup : s.dead pa 128 = false)
    (hfar : pteNear pte = false) : s.spillLine b l =
      some ((s.tlbKeep b.core b.ctx (BitVec.ofNat 64 (l.line * 128)) true false).landWrite pa l.bytes) := by
  have hwait : s.spillWaits b l = false := by simp only [State.spillWaits, hx, hopen, Bool.and_false]
  simp only [State.spillLine, hdirty, hx, hok, hwait, hup, hbad, pinLines_of_far hfar, Option.isSome_none, Bool.or_self,
    Bool.not_true, Bool.false_eq_true, if_false, List.isEmpty_nil, if_true]

theorem exec_spill_fill (hb : s.block b.id = some b) (hnew : b.stackLine (line * 128) = none) :
    exec (.stackCacheSpill b.id line .fill) s = .next (s.backFill b line) := by
  change execStackCacheSpill b.id line .fill s = _
  simp only [execStackCacheSpill, hb, hnew]

theorem exec_spill_keep {z : State} (hb : s.block b.id = some b) (hl : b.stackLine (line * 128) = some l)
    (hz : s.spillLine b l = some z) : exec (.stackCacheSpill b.id line .spillKeep) s = .next (z.modBlock b.id fun b =>
      { b with stack := b.stack.map fun x => if x.line = line then { x with dirty := false } else x }) := by
  change execStackCacheSpill b.id line .spillKeep s = _
  simp only [execStackCacheSpill, hb, hl, hz, beq_iff_eq]

theorem exec_spill_drop (hb : s.block b.id = some b) (hl : b.stackLine (line * 128) = some l) (hclean : l.dirty = false) :
    exec (.stackCacheSpill b.id line .spillDrop) s = .next (if s.mayLeave b line then
      s.modBlock b.id fun b => { b with stack := b.stack.filter fun x => x.line ≠ line } else s) := by
  change execStackCacheSpill b.id line .spillDrop s = _
  simp only [execStackCacheSpill, hb, hl, spillLine_clean hclean, bne_eq, beq_eq_decide, decide_not, ne_eq]

end

theorem stackLine_none_any {b : Block} {line : Nat} (h : b.stackLine (line * 128) = none) :
    b.stack.any (fun x => x.line == line) = false := by
  simpa [Block.stackLine] using h

theorem walksAndStackLines : WalksAndStackLines := by
  refine ⟨?answered, ?failed, ?fill, ?writeBack, ?drop, ?kept⟩
  case answered => exact fun s c page w b pte big hmine hb hwalk hpage hok => exec_pageWalk_leaf hmine hwalk hpage hok
  case failed =>
    intro s c page w b t e hmine hpage hb hfresh ht hiss hlive hparked hothers hreqs hwalk
    have ht' : b.thread w.who = some t := by simpa [State.thread, hb] using ht
    obtain ⟨k, u, hk, hu, ⟨hpark, hcause, hpc, hregs⟩, -⟩ := raise_stands (iss := w.iss)
      (p := { who := w.who, cause := e, pc := w.pc, word := s.wordAt b.core b.ctx w.pc, addr := some w.va })
      hb hfresh ht' ⟨hothers, hreqs⟩
    refine ⟨_, u, exec_pageWalk_fail hmine hwalk hpage, ?_, hpark, hcause, hpc, hregs⟩
    rw [failWalks_one hb, State.thread, hk]
    exact hu
  case fill =>
    intro s b line pte pa va hb hone hnew hx hok hopen hfar hva hpa hroom
    rw [exec_spill_fill hb hnew]
    have hline : va.toNat = line * 128 := by
      rw [BitVec.toNat_ofNat]
      exact Nat.mod_eq_of_lt hva
    have hfull : ¬ Config.stackLines ≤ (s.stackLines b.core).length := Nat.not_le.mpr hroom
    have hfill : s.stackFill b va pa =
        { line := line, bytes := s.physRead pa 128, dirty := false, used := 0,
          bad := (List.range 8).filter fun i => s.dead pa 1 || s.physBad (pa + 16 * i) 16 } := by
      simp only [State.stackFill, hline, hnew, hpa, Nat.sub_zero, Nat.mul_div_cancel _ (show 0 < 128 by decide)]
    have hback : s.backFill b line = (s.tlbKeep b.core b.ctx va false true).putLine b pte pa 0 (s.stackFill b va pa) := by
      simp only [State.backFill, va, hx, hok, hopen, hfull, Option.isSome_none, decide_false, Bool.or_self,
        Bool.false_eq_true, if_false]
    have hput := putLine_of_room (s := s.tlbKeep b.core b.ctx va false true) (pa := pa) (used := 0)
      (l := s.stackFill b va pa) (by rw [hfill]; exact stackLine_none_any hnew) hfar (by rw [tlbKeep_blocks]; exact hone)
      (by rw [tlbKeep_stackLines]; exact hroom)
    rw [hback, hput, hfill]
    rfl
  case writeBack =>
    intro s b line l pte pa va hb hl hline hdirty hbad hx hok hopen hup hfar hlen
    subst hline
    rw [exec_spill_keep hb hl (spillLine_dirty hdirty hbad hx hok hopen hup hfar), State.landWrite, hlen]
  case drop =>
    intro s b line l hb hl hclean hline hfull hold
    have hleave : s.mayLeave b line = true := by
      have hcap : Config.stackLines ≤ (s.stackLines b.core).length := hfull
      simp [State.mayLeave, hcap, hold, hline]
    rw [exec_spill_drop hb hl hclean, if_pos hleave]
  case kept =>
    intro s b line l hb hl hclean hroom
    have hstay : s.mayLeave b line = false := by
      have hcap : ¬ Config.stackLines ≤ (s.stackLines b.core).length := Nat.not_le.mpr hroom
      simp [State.mayLeave, hcap]
    rw [exec_spill_drop hb hl hclean, hstay, if_neg Bool.false_ne_true]

/-- Settles O40: commits of replicated lines, frozen lines, page-table walks and the lines of the stack cache. -/
theorem commitsWalksStackLines : Obligations.CommitsWalksStackLines := ⟨replicasAndFrozenLines, walksAndStackLines⟩

end Sys2Proof.Machine

/-! # What engines do without looking at the commands (R126, R134, R280, R285) -/

namespace Sys2Proof.Machine

open Sys2Proof.Claims

/-! ## A state with other commands -/

/-- A state with other commands. -/
def State.withCmds (s : State) (l : List Cmd) : State := { s with cmds := l }

@[simp] theorem State.withCmds_cmds (s : State) (l : List Cmd) : (s.withCmds l).cmds = l := rfl

@[simp] theorem State.withCmds_withCmds (s : State) (l k : List Cmd) : (s.withCmds l).withCmds k = s.withCmds k := rfl

@[simp] theorem State.withCmds_self (s : State) : s.withCmds s.cmds = s := rfl

/-- A change of the state that neither reads nor changes the commands. -/
def Ignores (f : State → State) : Prop := ∀ s l, f (s.withCmds l) = (f s).withCmds l

theorem Ignores.cmds {f : State → State} (h : Ignores f) (s : State) : (f s).cmds = s.cmds :=
  (congrArg State.cmds (h s s.cmds) :)

theorem Ignores.comp {f g : State → State} (hg : Ignores g) (hf : Ignores f) : Ignores fun s => g (f s) :=
  fun s l => (congrArg g (hf s l)).trans (hg _ l)

theorem Ignores.ite {p : State → Bool} {f g : State → State} (hp : ∀ s l, p (s.withCmds l) = p s) (hf : Ignores f)
    (hg : Ignores g) : Ignores fun s => if p s then f s else g s := by
  intro s l
  simp only [hp s l]
  split
  · exact hf s l
  · exact hg s l

theorem Ignores.foldl {α : Type} {f : State → α → State} (hf : ∀ a, Ignores fun s => f s a) (xs : List α) :
    Ignores fun s => xs.foldl f s := by
  intro s l
  induction xs generalizing s with
  | nil => rfl
  | cons a xs ih => exact (congrArg (xs.foldl f) (hf a s l)).trans (ih _)

/-! ## Writes at the home -/

theorem ringTail_ignores (c q : Nat) (tail : Word) : Ignores fun s => s.ringTail c q tail := by
  intro s l
  have hctx : (s.withCmds l).ctx = s.ctx := rfl
  have hhead : (s.withCmds l).headOf = s.headOf := rfl
  simp only [State.ringTail, hctx, hhead]
  cases (s.ctx c).queue q with
  | none => rfl
  | some k =>
    simp only
    split <;> rfl

theorem ring_ignores (pa n : Nat) : Ignores fun s => s.ring pa n := by
  unfold State.ring
  refine .foldl (fun c => ?_) _
  intro s l
  have hdoor : (s.withCmds l).doorbellAt c = s.doorbellAt c := rfl
  simp only [hdoor]
  cases s.doorbellAt c with
  | none => rfl
  | some d =>
    simp only
    split
    · refine Ignores.foldl (f := fun s q => if pa < d + 4 * q + 4 && d + 4 * q < pa + n then
        s.ringTail c q (BitVec.ofNat 32 (leNat (memRead s.mem (d + 4 * q) 4))) else s) (fun q s l => ?_) _ s l
      simp only
      split
      · exact ringTail_ignores c q _ s l
      · rfl
    · rfl

theorem homeWrite_ignores (pa : Nat) (bs : List Byte) : Ignores fun s => s.homeWrite pa bs := by
  intro s l
  have hwrite : (s.withCmds l).physWrite pa bs = (s.physWrite pa bs).withCmds l := rfl
  simp only [State.homeWrite, hwrite]
  exact ring_ignores pa bs.length _ l

theorem dropCopies_ignores (pa n : Nat) : Ignores fun s => s.dropCopies pa n := fun _ _ => rfl

theorem landWrite_ignores (pa : Nat) (bs : List Byte) : Ignores fun s => s.landWrite pa bs := by
  intro s l
  have hwrite : (s.withCmds l).homeWrite pa bs = (s.homeWrite pa bs).withCmds l := homeWrite_ignores pa bs s l
  simp only [State.landWrite, hwrite]
  exact dropCopies_ignores pa bs.length _ l

theorem pinNear_ignores (pte : DWord) (line : Nat) : Ignores fun s => s.pinNear pte line := by
  unfold State.pinNear
  refine .ite (fun _ _ => rfl) (fun _ _ => rfl) (.foldl (fun d => ?_) _)
  refine .ite (fun _ _ => rfl) (fun _ _ => rfl) (fun s l => ?_)
  have hroom : (s.withCmds l).nearHome = s.nearHome ∧ (s.withCmds l).nearMax = s.nearMax := ⟨rfl, rfl⟩
  simp only [hroom]
  split <;> rfl

theorem pinLines_ignores (pte : DWord) (pa n : Nat) : Ignores fun s => s.pinLines pte pa n := by
  unfold State.pinLines
  exact .ite (fun _ _ => rfl) (fun _ _ => rfl) (.foldl (fun a => pinNear_ignores pte _) _)

theorem postWrite_ignores (c pa : Nat) (bs : List Byte) : Ignores fun s => s.postWrite c pa bs := by
  unfold State.postWrite
  exact .ite (fun _ _ => rfl) (fun _ _ => rfl) (landWrite_ignores pa bs)

/-! ## Log records (R116) -/

theorem vwrite_withCmds (s : State) (l : List Cmd) (c : Nat) (va : DWord) (bs : List Byte) :
    (s.withCmds l).vwrite c va bs = (s.vwrite c va bs).map (State.withCmds · l) := by
  have hxlat : (s.withCmds l).xlat c va true = s.xlat c va true := rfl
  have hcheck : (s.withCmds l).writeRefused = s.writeRefused ∧ (s.withCmds l).dead = s.dead := ⟨rfl, rfl⟩
  unfold State.vwrite
  rw [hxlat]
  cases s.xlat c va true with
  | fail e => rfl
  | ok pte pa =>
    simp only [hcheck]
    cases s.writeRefused pte pa bs.length with
    | some e => rfl
    | none =>
      simp only
      split
      · rfl
      · exact congrArg Except.ok (Ignores.comp (postWrite_ignores c pa bs) (pinLines_ignores pte pa bs.length) s l)

theorem logRecord_ignores (c : Nat) (cause core : Byte) (count : Nat) (blk : Word) (hdr : DWord) (thr : Nat)
    (heat : Option (BitVec 48)) : Ignores fun s => s.logRecord c cause core count blk hdr thr heat := by
  intro s l
  have hctx : (s.withCmds l).ctx = s.ctx := rfl
  have hmod (f : Context → Context) : (s.withCmds l).modCtx c f = (s.modCtx c f).withCmds l := rfl
  simp only [State.logRecord, hctx, hmod, vwrite_withCmds]
  split
  · rfl
  · cases State.vwrite _ _ _ _ with
    | ok z => rfl
    | error e =>
      simp only [Except.map]
      split <;> rfl

theorem logCmd_ignores (c : Cmd) (cause : Cause) (count thr : Nat) : Ignores fun s => s.logCmd c cause count thr :=
  fun s l => logRecord_ignores _ _ _ _ _ _ _ _ s l

theorem logEnd_ignores (c : Cmd) (thr : Nat) (d : Done) : Ignores fun s => s.logEnd c thr d := by
  unfold State.logEnd
  have hlogs : Ignores fun s => d.logs.foldl (fun s p => if p.2 = 0 then s else s.logCmd c p.1 p.2 thr) s := by
    refine .foldl (fun p s l => ?_) _
    simp only
    split
    · rfl
    · exact logCmd_ignores c _ _ _ s l
  intro s l
  simp only [hlogs s l]
  split
  · exact logCmd_ignores c _ _ _ _ l
  · rfl

end Sys2Proof.Machine

/-! # Elements that engines read and write (R126, R128, R280, R285) -/

namespace Sys2Proof.Machine

open Sys2Proof.Claims

/-! ## Reads and writes of engines leave the commands alone -/

/-- A step that may halt and neither reads nor changes the commands. -/
def IgnoresStep {α : Type} (f : State → Except Halt (State × α)) : Prop :=
  ∀ s l, f (s.withCmds l) = (f s).map fun p => (p.1.withCmds l, p.2)

theorem IgnoresStep.cmds {α : Type} {f : State → Except Halt (State × α)} (h : IgnoresStep f) {s t : State} {a : α}
    (hf : f s = .ok (t, a)) : t.cmds = s.cmds := by
  have hself := h s s.cmds
  simp only [State.withCmds_self, hf, Except.map, Except.ok.injEq, Prod.mk.injEq, and_true] at hself
  exact (congrArg State.cmds hself :)

theorem unlock_ignores (id pa : Nat) : Ignores fun s => s.unlock id pa := fun _ _ => rfl

theorem addReq_ignores (r : State → Req) (hr : ∀ s l, r (s.withCmds l) = r s) : Ignores fun s => s.addReq (r s) :=
  fun s l => congrArg (State.addReq (s.withCmds l)) (hr s l)

theorem engineClean_ignores (m : Cmd) (pte va : DWord) (pa n : Nat) : Ignores fun s => s.engineClean m pte va pa n := by
  unfold State.engineClean
  refine .ite (fun _ _ => rfl) (dropCopies_ignores pa n) ?_
  dsimp only
  exact .ite (fun _ _ => rfl) (fun _ _ => rfl) (.ite (fun _ _ => rfl) (fun _ _ => rfl) fun _ _ => rfl)

theorem showPart_ignores (m : Cmd) (p : EngPart) : Ignores fun s => s.showPart m p := by
  intro s l
  have hmem : (s.withCmds l).mem = s.mem := rfl
  have hwrite (bs : List Byte) : (s.withCmds l).homeWrite p.pa bs = (s.homeWrite p.pa bs).withCmds l :=
    homeWrite_ignores p.pa bs s l
  simp only [State.showPart, hmem, hwrite]
  generalize s.homeWrite p.pa _ = z
  have hclean : (z.withCmds l).engineClean m p.pte p.va p.pa p.size = (z.engineClean m p.pte p.va p.pa p.size).withCmds l :=
    engineClean_ignores m p.pte p.va p.pa p.size z l
  rw [hclean]
  exact pinNear_ignores p.pte (lineOf p.pa) _ l

theorem showParts_ignores (m : Cmd) (ps : List EngPart) : Ignores fun s => s.showParts m ps := by
  unfold State.showParts
  exact .foldl (fun p => .comp (g := fun s => s.unlock m.id p.pa) (unlock_ignores m.id p.pa) (showPart_ignores m p)) ps

theorem askLock_ignores (m : Cmd) (va pte : DWord) (pa : Nat) : Ignores fun s => s.askLock m va pte pa := by
  unfold State.askLock
  exact .ite (fun _ _ => rfl) (fun _ _ => rfl) fun _ _ => rfl

theorem tlbKeep_ignores (core c : Nat) (va : DWord) (wr rd : Bool) : Ignores fun s => s.tlbKeep core c va wr rd := by
  unfold State.tlbKeep
  refine .ite (fun _ _ => rfl) (fun _ _ => rfl) fun s l => ?_
  have hdrop : (s.withCmds l).tlbDrop core c (pageOf va) = (s.tlbDrop core c (pageOf va)).withCmds l := rfl
  simp only [hdrop]
  generalize s.tlbDrop core c (pageOf va) = z
  have hwalk : (z.withCmds l).walk c va = z.walk c va := rfl
  rw [hwalk]
  cases z.walk c va with
  | fail e => rfl
  | leaf pte big =>
    simp only
    split <;> rfl

theorem physRead_withCmds (s : State) (l : List Cmd) (pa n : Nat) : (s.withCmds l).physRead pa n = s.physRead pa n := by
  induction n generalizing pa with
  | zero => rfl
  | succ n ih => exact congrArg₂ List.cons rfl (ih _)

theorem homeRead_withCmds (s : State) (l : List Cmd) (pa n : Nat) : (s.withCmds l).homeRead pa n = s.homeRead pa n := by
  have hnear : (s.withCmds l).nearCopy = s.nearCopy := rfl
  have hbad : (s.withCmds l).physBad = s.physBad := rfl
  simp only [State.homeRead, hnear, hbad, physRead_withCmds]

theorem dieRead_withCmds (s : State) (l : List Cmd) (die pa n : Nat) :
    (s.withCmds l).dieRead die pa n = s.dieRead die pa n := by
  have hnear : (s.withCmds l).nearCopy = s.nearCopy := rfl
  simp only [State.dieRead, hnear, homeRead_withCmds]

theorem engineAt_withCmds (s : State) (l : List Cmd) (m : Cmd) (va : DWord) (wr rd : Bool) :
    (s.withCmds l).engineAt m va wr rd = s.engineAt m va wr rd := rfl

theorem engineRead_ignores (m : Cmd) (va : DWord) (n : Nat) (wr : Bool) :
    IgnoresStep fun s => s.engineRead m va n wr := by
  intro s l
  have hchecks : (s.withCmds l).readRefused = s.readRefused ∧ (s.withCmds l).die = s.die ∧
      ((s.withCmds l).besides m.id).lineShut = (s.besides m.id).lineShut := ⟨rfl, rfl, rfl⟩
  simp only [State.engineRead, engineAt_withCmds, hchecks, homeRead_withCmds, dieRead_withCmds]
  cases s.engineAt m va wr true with
  | error e => rfl
  | ok x =>
    simp only
    cases s.readRefused x.1 x.2 n with
    | some e => rfl
    | none =>
      simp only
      split
      · rfl
      · split
        · rfl
        · generalize (if wr = true then s.homeRead x.2 n else s.dieRead (dieOf m.core) x.2 n) = v
          split
          · rfl
          · exact congrArg (fun z => Except.ok (z, v.1))
              (Ignores.comp (pinNear_ignores x.1 (lineOf x.2)) (tlbKeep_ignores m.core m.ctx va wr true) s l)

theorem enginePart_ignores (m : Cmd) (va : DWord) (n keep val : Nat) (rd : Bool) :
    IgnoresStep fun s => s.enginePart m va n keep val rd := by
  intro s l
  have hchecks : (s.withCmds l).writeRefused = s.writeRefused ∧ (s.withCmds l).die = s.die ∧
      (s.withCmds l).lineFrozen = s.lineFrozen ∧ ((s.withCmds l).besides m.id).lineHeld = (s.besides m.id).lineHeld ∧
      ((s.withCmds l).besides m.id).lineShut = (s.besides m.id).lineShut ∧
      (s.withCmds l).entriesUsed = s.entriesUsed ∧ (s.withCmds l).lockAt = s.lockAt :=
    ⟨rfl, rfl, rfl, rfl, rfl, rfl, rfl⟩
  simp only [State.enginePart, engineAt_withCmds, hchecks]
  cases s.engineAt m va true rd with
  | error e => rfl
  | ok x =>
    simp only
    cases s.writeRefused x.1 x.2 n with
    | some e => rfl
    | none =>
      simp only
      split
      · rfl
      · split
        · rfl
        · split
          · rfl
          · split
            · rfl
            · have hkeep : (s.withCmds l).tlbKeep m.core m.ctx va true rd = (s.tlbKeep m.core m.ctx va true rd).withCmds l :=
                tlbKeep_ignores m.core m.ctx va true rd s l
              rw [hkeep]
              rfl

end Sys2Proof.Machine

/-! # Operations of memory-side agents (R140, R259, R260, R429) -/

namespace Sys2Proof.Machine

open Sys2Proof.Claims

section
variable {s : State} {c : Cmd} {b : Block}

theorem cmdLost_none (h : ∀ r ∈ s.before c, r.performed .pkg = true ∧ s.lostAt .pkg r = false) : s.cmdLost c = none := by
  have hfind : (s.before c).find? (s.lostAt .pkg) = none :=
    List.find?_eq_none.mpr fun r hr => by simp [(h r hr).2]
  simp only [State.cmdLost, hfind, Option.map_none]

theorem cmdReady_of_after (h : ∀ r ∈ s.before c, r.performed .pkg = true ∧ s.lostAt .pkg r = false) :
    s.cmdReady c = true :=
  List.all_eq_true.mpr fun r hr => by simp [(h r hr).1]

theorem exec_nmcas {m : Word} {cmp new : List Word} {e : AgentEnd} (h : Runs s c b) (hk : c.kind = .nmcas m cmp new)
    (he : s.runNmcas c m cmp new = .over e) : exec (.nmAgentExecute c.id) s = .next (e.finish c) := by
  change execNmAgentExecute c.id s = _
  simp only [execNmAgentExecute, h.found, hk, cmdLost_none h.after, cmdReady_of_after h.after, he, if_true]

theorem exec_nmenq {node : DWord} {e : AgentEnd} (h : Runs s c b) (hk : c.kind = .nmenq node)
    (he : s.runNmenq c node = .over e) : exec (.nmAgentExecute c.id) s = .next (e.finish c) := by
  change execNmAgentExecute c.id s = _
  simp only [execNmAgentExecute, h.found, hk, cmdLost_none h.after, cmdReady_of_after h.after, he, if_true]

theorem exec_nmchase {key ctl : Word} (h : Runs s c b) (hk : c.kind = .nmchase key ctl) :
    exec (.nmAgentExecute c.id) s = .next ((s.runNmchase c key ctl 16).finish c) := by
  change execNmAgentExecute c.id s = _
  simp only [execNmAgentExecute, h.found, hk, cmdLost_none h.after, cmdReady_of_after h.after, if_true]

/-- A chase whose first hop matches ends there. -/
theorem chase_first {key koff hops fuel p : Nat} {k : AgentWord} (hhops : hops ≠ 0) (hp : p ≠ 0) (halign : p % 8 = 0)
    (hk : s.agentAt c (p + koff) 4 false true = .ok k) (hkey : k.val = key) :
    s.chase c key koff hops (fuel + 1) 0 p = .over ⟨s.agentKeep c (p + koff) false true, 0, 1, p⟩ := by
  have hhop : s.hop c key koff 1 p = .over ⟨s.agentKeep c (p + koff) false true, 0, 1, p⟩ := by
    simp only [State.hop, hp, halign, hk, hkey, ne_eq, not_true_eq_false, if_false, if_true]
  simp only [State.chase, hhops.symm, hhop, if_false, Nat.zero_add]

end

theorem agentsExecute : AgentsExecute := by
  refine ⟨?compare, ?badMask, ?enqueue, ?chase⟩
  case compare =>
    intro s c b m cmp new w h hk hm hlt hw
    have hmask : (m = 0 || decide (16 ≤ m.toNat)) = false := by
      simp only [hm, decide_false, Nat.not_le.mpr hlt, Bool.or_self]
    refine exec_nmcas h hk (e := ⟨_, 0, _, 0⟩) ?_
    simp only [State.runNmcas, hmask, hw, Bool.false_eq_true, if_false]
    rfl
  case badMask =>
    intro s c b m cmp new h hk hm
    refine exec_nmcas h hk (e := s.agentStop 0x16) ?_
    have hmask : (m = 0 || decide (16 ≤ m.toNat)) = true := by simpa using hm
    simp only [State.runNmcas, hmask, if_true]
  case enqueue =>
    intro s c b node head tail nd h hk hnode halign hhead htail hnd hhome hempty s'
    have hrun : s.runNmenq c node = .over ⟨((s'.agentWrite nd.pa (leBytes 8 0)).agentWrite head.pa
        (leBytes 8 node.toNat)).agentWrite tail.pa (leBytes 8 node.toNat), 0, 1, 0⟩ := by
      simp only [State.runNmenq, hnode, halign, hhead, htail, hnd, hhome, hempty, ne_eq, not_true_eq_false, decide_false,
        Bool.or_self, Bool.false_eq_true, if_false, if_true, s']
    rw [exec_nmenq h hk hrun]
    rfl
  case chase =>
    intro s c b key ctl w k h hk hhigh hmid hoff hoff4 hw hw0 hw8 s' at_ hkey heq
    have hfields : (decide ((ctl.extractLsb' 8 8).toNat < 8) || decide ((ctl.extractLsb' 8 8).toNat % 4 ≠ 0) ||
        ctl.extractLsb' 4 4 != 0 || ctl.extractLsb' 16 16 != 0) = false := by
      simp only [hhigh, hmid, hoff4, Nat.not_lt.mpr hoff, decide_false, ne_eq, not_true_eq_false, bne_self_eq_false,
        Bool.or_self]
    have hrun : s.runNmchase c key ctl 16 = .over ⟨s'.agentKeep c at_ false true, 0, 1, w.val⟩ := by
      simp only [State.runNmchase, hfields, h.start, hw, Bool.false_eq_true, if_false]
      exact chase_first (Nat.succ_ne_zero _) hw0 hw8 hkey heq
    rw [exec_nmchase h hk, hrun]
    rfl

end Sys2Proof.Machine

/-! # Commands that end (R134, R138, R264, R276, R285, R290, R396) -/

namespace Sys2Proof.Machine

open Sys2Proof.Claims

/-! ## Commands by name -/

theorem State.cmd_modCmd (s : State) (id : Nat) {f : Cmd → Cmd} (hf : ∀ c, (f c).id = c.id) :
    (s.modCmd id f).cmd id = (s.cmd id).map f := by
  have hid : ((fun c : Cmd => c.id == id) ∘ fun c => if c.id == id then f c else c) = fun c => c.id == id := by
    funext c
    by_cases h : c.id = id <;> simp [h, hf]
  simp only [State.cmd, State.modCmd, List.find?_map, hid]
  cases hfind : s.cmds.find? fun c => c.id == id with
  | none => rfl
  | some c =>
    have hc : (c.id == id) = true := List.find?_some (p := fun c : Cmd => c.id == id) hfind
    simp only [Option.map_some, hc, if_true]

theorem State.modCmd_modCmd (s : State) (id : Nat) {f : Cmd → Cmd} (g : Cmd → Cmd) (hf : ∀ c, (f c).id = c.id) :
    (s.modCmd id f).modCmd id g = s.modCmd id fun c => g (f c) := by
  simp only [State.modCmd, List.map_map]
  congr 1
  apply List.map_congr_left
  intro c _
  by_cases h : c.id = id <;> simp [h, hf]

theorem State.modCmd_eq_withCmds (s : State) (id : Nat) (f : Cmd → Cmd) :
    s.modCmd id f = s.withCmds (s.cmds.map fun c => if c.id == id then f c else c) := rfl

theorem Ignores.modCmd {F : State → State} (h : Ignores F) (s : State) (id : Nat) (f : Cmd → Cmd) :
    F (s.modCmd id f) = (F s).modCmd id f := by
  rw [State.modCmd_eq_withCmds, h, State.modCmd_eq_withCmds, h.cmds]

theorem Ignores.cmd {F : State → State} (h : Ignores F) (s : State) (id : Nat) : (F s).cmd id = s.cmd id := by
  simp only [State.cmd, h.cmds]

/-- A command with another progress. -/
def Cmd.withRun (c : Cmd) (r : Progress) : Cmd := { c with run := r }

@[simp] theorem Cmd.withRun_run (c : Cmd) (r : Progress) : (c.withRun r).run = r := rfl

@[simp] theorem Cmd.withRun_kind (c : Cmd) (r : Progress) : (c.withRun r).kind = c.kind := rfl

@[simp] theorem Cmd.withRun_id (c : Cmd) (r : Progress) : (c.withRun r).id = c.id := rfl

theorem State.cmd_modRun (s : State) (id : Nat) (f : Progress → Progress) :
    (s.modRun id f).cmd id = (s.cmd id).map fun c => c.withRun (f c.run) := s.cmd_modCmd id fun _ => rfl

theorem State.modRun_modRun (s : State) (id : Nat) (f g : Progress → Progress) :
    (s.modRun id f).modRun id g = s.modRun id fun r => g (f r) := s.modCmd_modCmd id _ fun _ => rfl

/-! ## The signals of a command (R138, R264) -/

theorem closeCmd_withCmds {s : State} {l : List Cmd} {c : Cmd} (d : Done)
    (h : l.filter (·.id != c.id) = s.cmds.filter (·.id != c.id)) : (s.withCmds l).closeCmd c d = s.closeCmd c d := by
  simp only [State.closeCmd, State.withCmds_cmds, h]
  rfl

theorem filter_map_cmd (l : List Cmd) (id : Nat) {f : Cmd → Cmd} (hf : ∀ c, (f c).id = c.id) :
    (l.map fun c => if c.id == id then f c else c).filter (·.id != id) = l.filter (·.id != id) := by
  induction l with
  | nil => rfl
  | cons c l ih =>
    by_cases h : c.id = id
    · simp only [List.map_cons, h, beq_self_eq_true, if_true, List.filter_cons, hf, bne_self_eq_false, Bool.false_eq_true,
        if_false, ih]
    · have hne : (c.id == id) = false := beq_eq_false_iff_ne.mpr h
      simp only [List.map_cons, hne, Bool.false_eq_true, if_false, List.filter_cons, ih]

/-- What a command's progress was does not matter to the state after its end. -/
theorem ends_modRun (s : State) (c : Cmd) (thr : Nat) (d : Done) (f : Progress → Progress) :
    ends (s.modRun c.id f) c thr d = ends s c thr d := by
  have hwait : (s.modRun c.id f).sampleWait c.core 0x002 c.since = (s.sampleWait c.core 0x002 c.since).modRun c.id f := rfl
  have hlog : ((s.sampleWait c.core 0x002 c.since).modRun c.id f).logEnd c thr d =
      ((s.sampleWait c.core 0x002 c.since).logEnd c thr d).modRun c.id f := (logEnd_ignores c thr d).modCmd _ _ _
  rw [ends, hwait, State.endCmd, hlog, State.modRun, State.modCmd_eq_withCmds]
  refine closeCmd_withCmds d (filter_map_cmd _ c.id ?_)
  exact fun _ => rfl

theorem ends_withRun (s : State) (c : Cmd) (r : Progress) (thr : Nat) (d : Done) :
    ends s (c.withRun r) thr d = ends s c thr d := rfl

theorem ends_modRun_modBlock (s : State) (c : Cmd) (r : Progress) (blk thr : Nat) (d : Done) (f : Progress → Progress)
    (g : Block → Block) :
    ends ((s.modRun c.id f).modBlock blk g) (c.withRun r) thr d = ends (s.modBlock blk g) c thr d := by
  have hswap : (s.modRun c.id f).modBlock blk g = (s.modBlock blk g).modRun c.id f := rfl
  rw [ends_withRun, hswap, ends_modRun]

/-! ## The end of a command whose writes are visible -/

section
variable {s z : State} {c : Cmd} {b : Block} {id : Nat}

theorem freezeCmd_of_nothing (h : c.run.pend = []) : s.freezeCmd c = s := by
  simp only [State.freezeCmd, h, List.find?_nil]

theorem flushCmd_of_nothing (hc : s.cmd id = some c) (h : c.run.pend = []) : s.flushCmd id = s := by
  simp only [State.flushCmd, hc, freezeCmd_of_nothing h, h, List.foldl_nil]

/-- A command whose elements are over and whose writes are visible closes. -/
theorem endWork_of_flushed {close : State → Cmd → State} (hflush : s.flushCmd id = z) (hc : z.cmd id = some c)
    (hpend : c.run.pend = []) (hgate : c.run.gate = none) (hfollow : Follows z c) :
    s.endWork id close = close (z.modRun id fun r => { r with gate := some z.nextId }) c := by
  obtain ⟨hsource, hlost⟩ := hfollow
  have hsource' : (z.modRun id fun r => { r with gate := some z.nextId }).sourceDone c.core z.nextId c.scope = true := hsource
  have hlost' : (z.modRun id fun r => { r with gate := some z.nextId }).cleanLost c = false := hlost
  simp only [State.endWork, hflush, hc, hpend, hgate, Option.getD_none, List.isEmpty_nil, Bool.not_true, Bool.false_eq_true,
    if_false, hsource', hlost']
  rw [← hgate, ← hpend]

/-- A command that fails before its first element closes. -/
theorem endWork_failCmd {close : State → Cmd → State} {e : Cause} (hc : s.cmd c.id = some c) (hpend : c.run.pend = [])
    (hgate : c.run.gate = none) (hfollow : Follows s c) :
    (s.failCmd c e).endWork c.id close = close (s.modRun c.id fun r => { r with fail := some e, gate := some s.nextId })
      (c.withRun { c.run with fail := some e }) := by
  have hcmd : (s.failCmd c e).cmd c.id = some (c.withRun { c.run with fail := some e }) := by
    rw [State.failCmd, State.cmd_modRun, hc, Option.map_some]
  rw [endWork_of_flushed (flushCmd_of_nothing hcmd hpend) hcmd hpend hgate hfollow]
  rw [State.failCmd, State.modRun_modRun]
  rfl

/-! ## Completion of a command -/

/-- A command with one set of targets whose elements are over ends. -/
theorem completeCmd_of_over {stop : Nat} (hover : s.finishWork c b stop = (z, true))
    (hone : ∀ src dst ext sf df rop sat l, c.kind ≠ .copy src dst ext sf df rop sat (some l)) :
    s.completeCmd c b stop = z.endWork c.id fun s c => s.closeWork b c := by
  simp only [State.completeCmd, hover, Bool.not_true, Bool.false_eq_true, if_false]

theorem exec_copyComplete {src dst : Side} {ext : List Nat} {sf df rop : Nat} {sat : Bool} {bc : Option (List (Nat × Nat))}
    (hc : s.cmd c.id = some c) (hb : s.block c.blk = some b) (hk : c.kind = .copy src dst ext sf df rop sat bc) (stop : Nat) :
    exec (.copyComplete c.id stop) s = .next (s.completeCmd c b stop) := by
  change execCopyComplete c.id stop s = _
  simp only [execCopyComplete, hc, hb, hk]

theorem exec_badCopyComplete {e : Cause} {bytes : Nat} {src dst : Side} (hc : s.cmd c.id = some c)
    (hb : s.block c.blk = some b) (hk : c.kind = .badCopy e bytes src dst) (stop : Nat) :
    exec (.copyComplete c.id stop) s = .next (s.completeCmd c b stop) := by
  change execCopyComplete c.id stop s = _
  simp only [execCopyComplete, hc, hb, hk]

theorem exec_chainComplete {o : ChainOps} {a d : DWord} {sa da n : Nat} {ys : List Word} (hc : s.cmd c.id = some c)
    (hb : s.block c.blk = some b) (hk : c.kind = .chain o a d sa da n ys) (stop : Nat) :
    exec (.chainComplete c.id stop) s = .next (s.completeCmd c b stop) := by
  change execChainComplete c.id stop s = _
  simp only [execChainComplete, hc, hb, hk]

theorem closeWork_badCopy {e : Cause} {bytes : Nat} {src dst : Side} (hk : c.kind = .badCopy e bytes src dst) :
    z.closeWork b c = ends (z.modBlock b.id fun k => k.endCopy src dst) c 0xFFFF { status := e, count := 0, bytes := bytes } := by
  simp only [State.closeWork, hk]
  rfl

/-- How the elements of a command have ended: its status, and its counts. -/
def doneRun (c : Cmd) (df total : Nat) (chain : Bool) : Done :=
  { status := c.run.fail.getD 0
    count  := c.run.n
    result := BitVec.ofNat 64 (if chain then c.run.n else fmtBytes df c.run.n)
    bytes  := if c.run.fail.getD 0 = 0 then fmtBytes df c.run.n else fmtBytes df total
    logs   := c.run.logs }

theorem endRun_eq_ends (thr df total : Nat) (chain : Bool) :
    z.endRun c thr df total 1 chain = ends z c thr (doneRun c df total chain) := by
  simp only [State.endRun, doneRun, Nat.mul_one]
  rfl

theorem closeWork_copy {src dst : Side} {ext : List Nat} {sf df rop : Nat} {sat : Bool} {bc : Option (List (Nat × Nat))}
    (hk : c.kind = .copy src dst ext sf df rop sat bc) : z.closeWork b c =
      ends (z.modBlock b.id fun k => k.endCopy src dst) c 0xFFFF (doneRun c df (ext.foldl (· * ·) 1) false) := by
  simp only [State.closeWork, hk]
  exact endRun_eq_ends _ _ _ _

theorem closeWork_chain {o : ChainOps} {a d : DWord} {sa da n : Nat} {ys : List Word} (hk : c.kind = .chain o a d sa da n ys) :
    z.closeWork b c = ends (z.modBlock b.id fun k => k.endCopy (chainSide o.srcTile a sa) (chainSide o.dstTile d da)) c c.tid
      (doneRun c (chainCode o.df) n true) := by
  simp only [State.closeWork, hk]
  exact endRun_eq_ends _ _ _ _

/-- R285, R396: a refused copy ends with its status. -/
theorem badCopy_ends {e : Cause} {bytes : Nat} {src dst : Side} (h : Runs s c b) (hf : Follows s c)
    (hk : c.kind = .badCopy e bytes src dst) (stop : Nat) :
    exec (.copyComplete c.id stop) s =
      .next (ends (s.modBlock b.id fun k => k.endCopy src dst) c 0xFFFF { status := e, count := 0, bytes := bytes }) := by
  have hover : s.finishWork c b stop = (s.failCmd c e, true) := by
    simp [State.finishWork, hk, Block.cancels, h.start, Progress.start, cmdLost_none h.after, cmdReady_of_after h.after,
      State.workOf]
  have hstart : c.run.pend = [] ∧ c.run.gate = none := by
    rw [h.start]
    exact ⟨rfl, rfl⟩
  rw [exec_badCopyComplete h.found h.block hk, completeCmd_of_over hover (by simp [hk]),
    endWork_failCmd h.found hstart.1 hstart.2 hf]
  rw [closeWork_badCopy (c := c.withRun { c.run with fail := some e }) hk, ends_modRun_modBlock]

theorem fmtBytes_zero (code : Nat) : fmtBytes code 0 = 0 := by
  unfold fmtBytes
  split <;> simp

/-- R426: a copy whose thread has lost an access ends with that status, having moved nothing. -/
theorem lostCopy_ends {e : Cause} {src dst : Side} {ext : List Nat} {sf df rop : Nat} {sat : Bool}
    (hc : s.cmd c.id = some c) (hb : s.block c.blk = some b) (hrun : c.run = .start)
    (hk : c.kind = .copy src dst ext sf df rop sat none) (hsrc : b.freed src = false) (hdst : b.freed dst = false)
    (hlost : s.cmdLost c = some e) (he : e ≠ 0) (hf : Follows s c) (stop : Nat) :
    exec (.copyComplete c.id stop) s = .next (ends (s.modBlock b.id fun k => k.endCopy src dst) c 0xFFFF
      { status := e, count := 0, bytes := fmtBytes df (ext.foldl (· * ·) 1) }) := by
  have hover : s.finishWork c b stop = (s.failCmd c e, true) := by
    simp [State.finishWork, hk, Block.cancels, hsrc, hdst, hrun, Progress.start, hlost]
  have hstart : c.run.pend = [] ∧ c.run.gate = none := by
    rw [hrun]
    exact ⟨rfl, rfl⟩
  rw [exec_copyComplete hc hb hk, completeCmd_of_over hover (by simp [hk]), endWork_failCmd hc hstart.1 hstart.2 hf]
  have hdone : doneRun (c.withRun { c.run with fail := some e }) df (ext.foldl (· * ·) 1) false =
      { status := e, count := 0, bytes := fmtBytes df (ext.foldl (· * ·) 1) } := by
    simp only [doneRun, Cmd.withRun_run, hrun, Progress.start, fmtBytes_zero, Option.getD_some, he, if_false, Bool.false_eq_true]
    rfl
  rw [closeWork_copy (c := c.withRun { c.run with fail := some e }) hk, hdone, ends_modRun_modBlock]

end

end Sys2Proof.Machine

/-! # The elements of copies (R115, R280 to R282, R285) -/

namespace Sys2Proof.Machine

open Sys2Proof.Claims

/-! ## Indices and addresses (R280) -/

theorem foldl_mul_eq (l : List Nat) (k : Nat) : l.foldl (· * ·) k = k * l.foldl (· * ·) 1 := by
  induction l generalizing k with
  | nil => simp
  | cons e l ih =>
    rw [List.foldl_cons, ih, List.foldl_cons, ih (1 * e), Nat.one_mul, Nat.mul_assoc]

theorem indicesOf_eq_boxIndex (ext : List Nat) (n : Nat) : indicesOf ext n = boxIndex ext n := by
  induction ext generalizing n with
  | nil => rfl
  | cons e es ih =>
    have htail (d : Nat) : n / ((e :: es).take (d + 1)).foldl (· * ·) 1 % (e :: es).getD (d + 1) 1 =
        n / e / (es.take d).foldl (· * ·) 1 % es.getD d 1 := by
      rw [List.take_succ_cons, List.foldl_cons, Nat.one_mul, foldl_mul_eq, ← Nat.div_div_eq_div_mul]
      rfl
    rw [indicesOf, ih, boxIndex, boxIndex, List.length_cons, List.range_succ_eq_map, List.map_cons, List.map_map]
    congr 1
    · simp
    · exact List.map_congr_left fun d _ => (htail d).symm

theorem strideSum_eq (js : List Nat) (st : List Int) :
    strideSum js st = ((js.zip st).map fun p => (p.1 : Int) * p.2).sum := by
  rw [strideSum, ← List.sum_eq_foldl, List.zip, List.map_zipWith]

theorem moveBy_strides (a : DWord) (js : List Nat) (st : List Int) (n : Nat) :
    moveBy a (strideSum js st * n) = strided a js st n := by
  rw [moveBy, strided, strideSum_eq, Int.mul_comm]

/-! ## Elements in global memory -/

section
variable {s t : State} {c : Cmd} {b : Block} {f g : EFmt} {a : DWord} {st : List Int} {js : List Nat} {v : Nat}

theorem sideRead_addr {wr : Bool} {bs : List Byte} (hf : f.isNpi = false)
    (halign : (strided a js st (f.width / 8)).toNat % (f.width / 8) = 0)
    (hread : s.engineRead c (strided a js st (f.width / 8)) (f.width / 8) wr = .ok (t, bs)) :
    s.sideRead c b (.addr a st 0) f js wr = .ok (t, leNat bs) := by
  cases f with
  | npi k => cases hf
  | flt x => simp only [State.sideRead, moveBy_strides, halign, ne_eq, not_true_eq_false, if_false, hread]
  | int g n => simp only [State.sideRead, moveBy_strides, halign, ne_eq, not_true_eq_false, if_false, hread]

theorem sideRead_takes (hf : f.isNpi = false) (h : Takes s c (f.width / 8) (strided a js st (f.width / 8)) v t) :
    s.sideRead c b (.addr a st 0) f js false = .ok (t, v) := by
  obtain ⟨halign, bs, hread, rfl⟩ := h
  exact sideRead_addr hf halign hread

theorem sideWrite_addr {later : Option Nat} {q : EngPart} (hg : g.isNpi = false)
    (halign : (strided a js st (g.width / 8)).toNat % (g.width / 8) = 0)
    (hpart : s.enginePart c (strided a js st (g.width / 8)) (g.width / 8) 0 v later.isNone = .ok (t, q)) :
    s.sideWrite c b (.addr a st 0) g js v later = .ok (t.putParts c [q] later) := by
  cases g with
  | npi k => cases hg
  | flt x => simp only [State.sideWrite, moveBy_strides, halign, ne_eq, not_true_eq_false, if_false, hpart]
  | int g n => simp only [State.sideWrite, moveBy_strides, halign, ne_eq, not_true_eq_false, if_false, hpart]

theorem sideWrite_puts {q : EngPart} {n : Nat} (hg : g.isNpi = false)
    (h : Puts s c (g.width / 8) (strided a js st (g.width / 8)) v q t) :
    s.sideWrite c b (.addr a st 0) g js v (some n) = .ok (t.pendParts c n [q]) :=
  sideWrite_addr hg h.1 h.2.1

/-! ## Elements in a tile -/

theorem sideRead_tile {i e p : Nat} (hf : f.isNpi = false)
    (hp : b.bufPhys (b.tile i).lay.buf ((b.tile i).lay.place f (js.getD 0 0) (js.getD 1 0) (js.getD 2 0)).1
      ((b.tile i).lay.place f (js.getD 0 0) (js.getD 1 0) (js.getD 2 0)).2 = some p)
    (hgood : (s.core b.core).bufBad (b.tile i).lay.buf p
      ((b.tile i).lay.place f (js.getD 0 0) (js.getD 1 0) (js.getD 2 0)).2 = false) :
    s.sideRead c b (.tile i e) f js false = .ok (s, leNat (memRead ((s.core b.core).buf (b.tile i).lay.buf) p
      ((b.tile i).lay.place f (js.getD 0 0) (js.getD 1 0) (js.getD 2 0)).2)) := by
  simp only [State.sideRead, State.tileElem, State.tileRead, hp, hgood, Bool.false_eq_true, if_false]
  cases f with
  | npi k => cases hf
  | flt x => rfl
  | int g n => rfl

theorem sideWrite_tile {i e p : Nat} {later : Option Nat} (hg : g.isNpi = false)
    (hp : b.bufPhys (b.tile i).lay.buf ((b.tile i).lay.place g (js.getD 0 0) (js.getD 1 0) (js.getD 2 0)).1
      ((b.tile i).lay.place g (js.getD 0 0) (js.getD 1 0) (js.getD 2 0)).2 = some p) :
    s.sideWrite c b (.tile i e) g js v later = .ok (s.modCore b.core fun k => k.writeBuf (b.tile i).lay.buf p
      (leBytes ((b.tile i).lay.place g (js.getD 0 0) (js.getD 1 0) (js.getD 2 0)).2 v)) := by
  cases g with
  | npi k => cases hg
  | flt x => simp only [State.sideWrite, State.putTileElem, State.tileWrite, leBytes_length, hp]
  | int g n => simp only [State.sideWrite, State.putTileElem, State.tileWrite, leBytes_length, hp]

end

/-! ## One element of a copy -/

section
variable {s s₁ t : State} {c : Cmd} {b : Block} {src dst : Side} {ext : List Nat} {sf df : Nat} {f g : EFmt} {sat : Bool}
  {n v : Nat}

/-- An element of a copy is read, converted and written. -/
theorem copyElem_plain (hread : s.sideRead c b src f (boxIndex ext n) false = .ok (s₁, v))
    (hwrite : s₁.sideWrite c b dst g (boxIndex ext n) (convElem f g sat v).1 (some n) = .ok t) :
    s.copyElem c b { src := src, dst := dst, ext := ext, sf := sf, df := df, rop := 0, sat := sat } f g false n =
      .ok (t, (convElem f g sat v).2.toList) := by
  simp only [State.copyElem, indicesOf_eq_boxIndex, hread, hwrite, if_true, Bool.false_eq_true, if_false]

/-- An element of a reduction is read, combined with the one at its destination, and written there. -/
theorem copyElem_reduce {s₂ : State} {rop u : Nat} (hrop : rop ≠ 0)
    (hread : s.sideRead c b src f (boxIndex ext n) false = .ok (s₁, v))
    (hold : s₁.sideRead c b dst g (boxIndex ext n) true = .ok (s₂, u))
    (hwrite : s₂.sideWrite c b dst g (boxIndex ext n) (ropComb rop u v).1 none = .ok t) :
    s.copyElem c b { src := src, dst := dst, ext := ext, sf := sf, df := df, rop := rop, sat := sat } f g false n =
      .ok (t, (ropComb rop u v).2.toList) := by
  simp only [State.copyElem, indicesOf_eq_boxIndex, hread, hold, hwrite, hrop, Bool.false_eq_true, if_false]

theorem copyWork_plain (p : CopySpec) (hf : efmt p.sf = some f) (hg : efmt p.df = some g) :
    copyWork c b p false = .ok { total := p.total, step := fun s n => s.copyElem c b p f g false n } := by
  simp only [copyWork, hf, hg]

end

/-! ## A command does its next element -/

section
variable {s t : State} {c : Cmd} {b : Block} {w : Work} {n : Nat} {cs : List Cause}

theorem mayRun_of_moving (h : Moving s c b n) : s.mayRun c = true := by
  obtain ⟨-, hfail, hgate, -⟩ := h.going
  simp [State.mayRun, cmdReady_of_after h.after, cmdLost_none h.after, hfail, hgate]

theorem engineAdvance_step (h : Moving s c b n) (hw : s.workOf c b = .ok w) (hn : n < w.total)
    (hstep : w.step s n = .ok (t, cs)) : s.engineAdvance c.id =
      t.modRun c.id fun r => { r with n := n + 1, fail := none, logs := addCauses c.run.logs cs } := by
  obtain ⟨hgo, -, -, rfl⟩ := h.going
  have hone : Nat.min w.total (c.run.n + 1) - c.run.n = 1 := by
    have hmin : Nat.min w.total (c.run.n + 1) = c.run.n + 1 := Nat.min_eq_right hn
    rw [hmin, Nat.add_sub_cancel_left]
  simp only [State.engineAdvance, h.found, h.block, h.free, mayRun_of_moving h, hgo, hw, Bool.not_true, Bool.or_self,
    Bool.false_eq_true, if_false, State.runWork, hone, runElems, hstep]

theorem steps_eq (h : Moving s c b n) (t : State) (cs : List Cause) (ps : List (Nat × List EngPart)) :
    steps t c cs ps = t.modRun c.id fun r =>
      { r with n := n + 1, fail := none, logs := addCauses c.run.logs cs, pend := r.pend ++ ps } := by
  obtain ⟨-, -, -, rfl⟩ := h.going
  rfl

theorem steps_pendParts (h : Moving s c b n) (t : State) (cs : List Cause) (ps : List EngPart) :
    (t.pendParts c n ps).modRun c.id (fun r => { r with n := n + 1, fail := none, logs := addCauses c.run.logs cs }) =
      steps t c cs [(n, ps)] := by
  have hpend : t.pendParts c n ps = t.modRun c.id fun r => { r with pend := r.pend ++ [(n, ps)] } := rfl
  rw [steps_eq h, hpend, State.modRun_modRun]

theorem steps_nil (h : Moving s c b n) (t : State) (cs : List Cause) :
    t.modRun c.id (fun r => { r with n := n + 1, fail := none, logs := addCauses c.run.logs cs }) = steps t c cs [] := by
  simp only [steps_eq h, List.append_nil]

theorem workOf_copy {src dst : Side} {ext : List Nat} {sf df rop : Nat} {sat : Bool} {f g : EFmt}
    (hk : c.kind = .copy src dst ext sf df rop sat none) (hf : efmt sf = some f) (hg : efmt df = some g) :
    s.workOf c b = .ok
      { total := ext.foldl (· * ·) 1
        step := fun s n => s.copyElem c b
          { src := src, dst := dst, ext := ext, sf := sf, df := df, rop := rop, sat := sat } f g false n } := by
  simp only [State.workOf, hk]
  exact copyWork_plain _ hf hg

end

end Sys2Proof.Machine

/-! # What elements become, and the copies that move them (R281, R282, R285) -/

namespace Sys2Proof.Machine

open Sys2Proof.Claims

/-! ## Values (R281, R282) -/

theorem clampTy_i32 (v : Int) : clampTy .i32 v = (inI32 v, decide (inI32 v ≠ v)) := by
  have hlo : tyMin .i32 = -2 ^ 31 := rfl
  have hhi : tyMax .i32 = 2 ^ 31 - 1 := rfl
  rw [clampTy, hlo, hhi]
  by_cases hmin : v < -2 ^ 31
  · have hin : inI32 v = -2 ^ 31 := by unfold inI32; omega
    rw [if_pos hmin, hin, decide_eq_true hmin.ne']
  · by_cases hmax : 2 ^ 31 - 1 < v
    · have hin : inI32 v = 2 ^ 31 - 1 := by unfold inI32; omega
      rw [if_neg hmin, if_pos hmax, hin, decide_eq_true hmax.ne]
    · have hin : inI32 v = v := by unfold inI32; omega
      rw [if_neg hmin, if_neg hmax, hin, decide_eq_false (not_not_intro rfl)]

theorem addS_eq (d v : Nat) : addS d v = ((inI32 (natSigned 32 d + natSigned 32 v) % 2 ^ 32).toNat,
    if inI32 (natSigned 32 d + natSigned 32 v) = natSigned 32 d + natSigned 32 v then none else some 0x43) := by
  simp only [addS, clampTy_i32, intLow, decide_eq_true_eq, ne_eq, ite_not]

theorem natSigned_selI32_max (d v : Nat) : natSigned 32 (selI32 true d v).1 = max (natSigned 32 d) (natSigned 32 v) := by
  by_cases h : natSigned 32 v < natSigned 32 d
  · simp [selI32, h, h.le]
  · simp [selI32, h, not_lt.mp h]

theorem natSigned_selI32_min (d v : Nat) : natSigned 32 (selI32 false d v).1 = min (natSigned 32 d) (natSigned 32 v) := by
  by_cases h : natSigned 32 v < natSigned 32 d
  · simp [selI32, h, h.le]
  · simp [selI32, h, not_lt.mp h]

theorem convElem_same (f : EFmt) (sat : Bool) (code : Nat) : convElem f f sat code = (code, none) := by
  simp only [convElem, beq_self_eq_true, if_true]

theorem convElem_flt {x g : FFmt} (h : x ≠ g) (sat : Bool) (code : Nat) :
    convElem (.flt x) (.flt g) sat code =
      (let r := convert g .rne (sat && x == .f32) (fval x code); (r.bits, r.cause)) := by
  have hne : (EFmt.flt x == .flt g) = false := by simpa using h
  simp only [convElem, hne, Bool.false_eq_true, if_false, FRes.pair]

theorem convElem_int (i : Bool) (k : Nat) (g : FFmt) (sat : Bool) (code : Nat) :
    convElem (.int i k) (.flt g) sat code = (let r := fromInteger g .rne false (intElem i k code); (r.bits, r.cause)) := rfl

/-! ## One element of a copy (R280, R281, R282) -/

section
variable {s : State} {c : Cmd} {b : Block} {n : Nat} {ext : List Nat} {sf df : Nat} {f g : EFmt} {sat : Bool} {v : Nat}

/-- R280, R281: one element of a copy within global memory. -/
theorem advance_addr_addr {a d : DWord} {sa sd : List Int} {s₁ s₂ : State} {q : EngPart} (h : Moving s c b n)
    (hk : c.kind = .copy (.addr a sa 0) (.addr d sd 0) ext sf df 0 sat none) (hn : n < ext.foldl (· * ·) 1)
    (hf : efmt sf = some f) (hg : efmt df = some g) (hfn : f.isNpi = false) (hgn : g.isNpi = false)
    (htake : Takes s c (f.width / 8) (strided a (boxIndex ext n) sa (f.width / 8)) v s₁)
    (hput : Puts s₁ c (g.width / 8) (strided d (boxIndex ext n) sd (g.width / 8)) (convElem f g sat v).1 q s₂) :
    s.engineAdvance c.id = steps s₂ c (convElem f g sat v).2.toList [(n, [q])] := by
  have hstep := copyElem_plain (ext := ext) (sf := sf) (df := df) (sideRead_takes (b := b) hfn htake)
    (sideWrite_puts (b := b) hgn hput)
  rw [engineAdvance_step h (workOf_copy hk hf hg) hn hstep, steps_pendParts h]

/-- R87, R280: one element of a copy into a tile. -/
theorem advance_addr_tile {a : DWord} {sa : List Int} {i e p : Nat} {s₁ : State} (h : Moving s c b n)
    (hk : c.kind = .copy (.addr a sa 0) (.tile i e) ext sf df 0 sat none) (hn : n < ext.foldl (· * ·) 1)
    (hf : efmt sf = some f) (hg : efmt df = some g) (hfn : f.isNpi = false) (hgn : g.isNpi = false)
    (htake : Takes s c (f.width / 8) (strided a (boxIndex ext n) sa (f.width / 8)) v s₁)
    (hp : b.bufPhys (b.tile i).lay.buf
      ((b.tile i).lay.place g ((boxIndex ext n).getD 0 0) ((boxIndex ext n).getD 1 0) ((boxIndex ext n).getD 2 0)).1
      ((b.tile i).lay.place g ((boxIndex ext n).getD 0 0) ((boxIndex ext n).getD 1 0) ((boxIndex ext n).getD 2 0)).2 =
        some p) :
    s.engineAdvance c.id = steps (s₁.modCore b.core fun k => k.writeBuf (b.tile i).lay.buf p
      (leBytes ((b.tile i).lay.place g ((boxIndex ext n).getD 0 0) ((boxIndex ext n).getD 1 0)
        ((boxIndex ext n).getD 2 0)).2 (convElem f g sat v).1)) c (convElem f g sat v).2.toList [] := by
  have hstep := copyElem_plain (dst := .tile i e) (ext := ext) (sf := sf) (df := df) (sat := sat)
    (sideRead_takes (b := b) hfn htake) (sideWrite_tile hgn hp)
  rw [engineAdvance_step h (workOf_copy hk hf hg) hn hstep, steps_nil h]

/-- R87, R280: one element of a copy out of a tile. -/
theorem advance_tile_addr {d : DWord} {sd : List Int} {i e : Nat} {s₁ : State} {q : EngPart} (h : Moving s c b n)
    (hk : c.kind = .copy (.tile i e) (.addr d sd 0) ext sf df 0 sat none) (hn : n < ext.foldl (· * ·) 1)
    (hf : efmt sf = some f) (hg : efmt df = some g) (hgn : g.isNpi = false)
    (hread : s.sideRead c b (.tile i e) f (boxIndex ext n) false = .ok (s, v))
    (hput : Puts s c (g.width / 8) (strided d (boxIndex ext n) sd (g.width / 8)) (convElem f g sat v).1 q s₁) :
    s.engineAdvance c.id = steps s₁ c (convElem f g sat v).2.toList [(n, [q])] := by
  have hstep := copyElem_plain (ext := ext) (sf := sf) (df := df) hread (sideWrite_puts (b := b) hgn hput)
  rw [engineAdvance_step h (workOf_copy hk hf hg) hn hstep, steps_pendParts h]

/-- R282: one element of a reduction within global memory. -/
theorem advance_reduce {a d : DWord} {sa sd : List Int} {rop u : Nat} {s₁ s₂ s₃ : State} {bs : List Byte} {q : EngPart}
    (h : Moving s c b n) (hrop : rop ≠ 0) (hk : c.kind = .copy (.addr a sa 0) (.addr d sd 0) ext sf sf rop sat none)
    (hn : n < ext.foldl (· * ·) 1) (hf : efmt sf = some f) (hfn : f.isNpi = false)
    (htake : Takes s c (f.width / 8) (strided a (boxIndex ext n) sa (f.width / 8)) v s₁)
    (halign : (strided d (boxIndex ext n) sd (f.width / 8)).toNat % (f.width / 8) = 0)
    (hold : s₁.engineRead c (strided d (boxIndex ext n) sd (f.width / 8)) (f.width / 8) true = .ok (s₂, bs))
    (hu : leNat bs = u)
    (hpart : s₂.enginePart c (strided d (boxIndex ext n) sd (f.width / 8)) (f.width / 8) 0 (ropComb rop u v).1 true =
      .ok (s₃, q)) :
    s.engineAdvance c.id = steps ((s₃.showPart c q).unlock c.id q.pa) c (ropComb rop u v).2.toList [] := by
  subst hu
  have hstep := copyElem_reduce (ext := ext) (sf := sf) (df := sf) (sat := sat) hrop (sideRead_takes (b := b) hfn htake)
    (sideRead_addr (b := b) hfn halign hold) (sideWrite_addr (b := b) (later := none) hfn halign hpart)
  rw [engineAdvance_step h (workOf_copy hk hf hf) hn hstep, steps_nil h]
  rfl

end

end Sys2Proof.Machine

/-! # A copy that completes does the elements that are left (R285) -/

namespace Sys2Proof.Machine

open Sys2Proof.Claims

/-! ## The reads of a side leave the commands alone -/

theorem planarElem_ignores (m : Cmd) (a : DWord) (pstr : Nat) (i : Int) (ps : List Nat) (v : Nat) :
    IgnoresStep fun s => s.planarElem m a pstr i ps v := by
  induction ps generalizing v with
  | nil => exact fun _ _ => rfl
  | cons p ps ih =>
    intro s l
    have hread : (s.withCmds l).engineRead m (planeAddr a pstr p i) 4 false = _ := engineRead_ignores m _ 4 false s l
    simp only [State.planarElem, hread]
    split
    · rfl
    · cases s.engineRead m (planeAddr a pstr p i) 4 false with
      | error e => rfl
      | ok x => exact ih _ x.1 l

theorem planarParts_ignores (m : Cmd) (a : DWord) (pstr : Nat) (i : Int) (v : Nat) (ps : List Nat) :
    IgnoresStep fun s => s.planarParts m a pstr i v ps := by
  induction ps with
  | nil => exact fun _ _ => rfl
  | cons p ps ih =>
    intro s l
    have hpart (keep val : Nat) : (s.withCmds l).enginePart m (planeAddr a pstr p i) 4 keep val false = _ :=
      enginePart_ignores m _ 4 keep val false s l
    simp only [State.planarParts, hpart]
    split
    · rfl
    · cases s.enginePart m (planeAddr a pstr p i) 4 _ _ false with
      | error e => rfl
      | ok x =>
        have hrest : (x.1.withCmds l).planarParts m a pstr i v ps = _ := ih x.1 l
        simp only [Except.map, hrest]
        cases x.1.planarParts m a pstr i v ps <;> rfl

theorem sideRead_ignores (m : Cmd) (b : Block) (x : Side) (f : EFmt) (js : List Nat) (wr : Bool) :
    IgnoresStep fun s => s.sideRead m b x f js wr := by
  intro s l
  cases x with
  | addr a st pstr =>
    have hread (n : Nat) : (s.withCmds l).engineRead m (moveBy a (strideSum js st * n)) n wr = _ :=
      engineRead_ignores m _ n wr s l
    cases f with
    | npi k => exact planarElem_ignores m a pstr _ _ 0 s l
    | flt _ | int _ _ =>
      simp only [State.sideRead, hread]
      split
      · rfl
      · cases s.engineRead m _ _ wr <;> rfl
  | phys a st =>
    have hdie : (s.withCmds l).die = s.die := rfl
    have hshut : ((s.withCmds l).besides m.id).lineShut = (s.besides m.id).lineShut := rfl
    simp only [State.sideRead, hdie, hshut, homeRead_withCmds]
    split
    · rfl
    · split
      · rfl
      · split <;> rfl
  | tile i e =>
    have helem : (s.withCmds l).tileElem b (b.tile i) f (js.getD 0 0) (js.getD 1 0) (js.getD 2 0) =
        s.tileElem b (b.tile i) f (js.getD 0 0) (js.getD 1 0) (js.getD 2 0) := rfl
    simp only [State.sideRead, helem]
    cases s.tileElem b (b.tile i) f (js.getD 0 0) (js.getD 1 0) (js.getD 2 0) <;> rfl

theorem putTileElem_withCmds (s : State) (l : List Cmd) (b : Block) (t : Tile) (f : EFmt) (i0 i1 i2 v : Nat) :
    (s.withCmds l).putTileElem b t f i0 i1 i2 v = (s.putTileElem b t f i0 i1 i2 v).map (State.withCmds · l) := by
  have hwrite (off : Nat) (bs : List Byte) :
      (s.withCmds l).tileWrite b t off bs = (s.tileWrite b t off bs).map (State.withCmds · l) := by
    unfold State.tileWrite
    cases b.bufPhys t.lay.buf off bs.length <;> rfl
  have hread : (s.withCmds l).tileRead = s.tileRead := rfl
  simp only [State.putTileElem, hwrite, hread]
  cases f with
  | npi k =>
    simp only
    cases s.tileRead b t _ _ <;> rfl
  | flt y => rfl
  | int g n => rfl

theorem putTileElem_cmds {s t : State} {b : Block} {k : Tile} {f : EFmt} {i0 i1 i2 v : Nat}
    (h : s.putTileElem b k f i0 i1 i2 v = .ok t) : t.cmds = s.cmds := by
  have hself := putTileElem_withCmds s s.cmds b k f i0 i1 i2 v
  simp only [State.withCmds_self, h, Except.map, Except.ok.injEq] at hself
  exact (congrArg State.cmds hself :)

theorem IgnoresStep.modRun {α : Type} {F : State → Except Halt (State × α)} (h : IgnoresStep F) (s : State) (id : Nat)
    (f : Progress → Progress) : F (s.modRun id f) = (F s).map fun p => (p.1.modRun id f, p.2) := by
  rw [State.modRun, State.modCmd_eq_withCmds, h]
  cases hF : F s with
  | error e => rfl
  | ok p => simp only [Except.map, State.modRun, State.modCmd_eq_withCmds, h.cmds (t := p.1) (a := p.2) hF]

theorem IgnoresStep.cmd {α : Type} {F : State → Except Halt (State × α)} (h : IgnoresStep F) {s t : State} {a : α}
    (hF : F s = .ok (t, a)) (id : Nat) : t.cmd id = s.cmd id := by
  simp only [State.cmd, h.cmds hF]

/-! ## An element is done alike wherever its command stands -/

/-- The progress of a command that stands at element `n`, having met no failure. -/
def Progress.settle (n : Nat) (logs : List (Cause × Nat)) (r : Progress) : Progress :=
  { r with n := n, fail := none, logs := logs }

section
variable {s t : State} {c : Cmd} {b : Block} {x : Side} {f g : EFmt} {js : List Nat} {v n i : Nat}
  {logs : List (Cause × Nat)} {p : CopySpec}

theorem putParts_settle (ps : List EngPart) (later : Option Nat) :
    (s.modRun c.id (.settle n logs)).putParts c ps later = (s.putParts c ps later).modRun c.id (.settle n logs) := by
  cases later with
  | none => exact (showParts_ignores c ps).modCmd s c.id _
  | some k =>
    change (s.modRun c.id (.settle n logs)).modRun c.id (fun r => { r with pend := r.pend ++ [(k, ps)] }) =
      (s.modRun c.id fun r => { r with pend := r.pend ++ [(k, ps)] }).modRun c.id (.settle n logs)
    rw [State.modRun_modRun, State.modRun_modRun]
    rfl

theorem sideWrite_settle (later : Option Nat) : (s.modRun c.id (.settle n logs)).sideWrite c b x f js v later =
    (s.sideWrite c b x f js v later).map (State.modRun · c.id (.settle n logs)) := by
  cases x with
  | addr a st pstr =>
    have hpart (k : Nat) := (enginePart_ignores c (moveBy a (strideSum js st * k)) k 0 v later.isNone).modRun s c.id
      (.settle n logs)
    have hparts (k : Nat) := (planarParts_ignores c a pstr (strideSum js st) v (planesOf k)).modRun s c.id (.settle n logs)
    cases f with
    | npi k =>
      simp only [State.sideWrite, hparts]
      cases s.planarParts c a pstr (strideSum js st) v (planesOf k) with
      | error e => rfl
      | ok q => exact congrArg Except.ok (putParts_settle _ _)
    | flt _ | int _ _ =>
      simp only [State.sideWrite, hpart]
      split
      · rfl
      · cases s.enginePart c _ _ 0 v later.isNone with
        | error e => rfl
        | ok q => exact congrArg Except.ok (putParts_settle _ _)
  | phys a st => rfl
  | tile k e =>
    simp only [State.sideWrite, State.modRun, State.modCmd_eq_withCmds, putTileElem_withCmds]
    cases hput : s.putTileElem b (b.tile k) f (js.getD 0 0) (js.getD 1 0) (js.getD 2 0) v with
    | error e => rfl
    | ok z => simp only [Except.map, putTileElem_cmds hput]

theorem copyElem_settle : (s.modRun c.id (.settle n logs)).copyElem c b p f g false i =
    (s.copyElem c b p f g false i).map fun q => (q.1.modRun c.id (.settle n logs), q.2) := by
  have hread := (sideRead_ignores c b p.src f (indicesOf p.ext i) false).modRun s c.id (.settle n logs)
  simp only [State.copyElem, hread, Bool.false_eq_true, if_false]
  cases s.sideRead c b p.src f (indicesOf p.ext i) false with
  | error e => rfl
  | ok q =>
    have hold := (sideRead_ignores c b p.dst g (indicesOf p.ext i) true).modRun q.1 c.id (.settle n logs)
    simp only [Except.map, sideWrite_settle, hold]
    split
    · cases q.1.sideWrite c b p.dst g (indicesOf p.ext i) _ (some i) <;> rfl
    · cases q.1.sideRead c b p.dst g (indicesOf p.ext i) true with
      | error e => rfl
      | ok d =>
        simp only [Except.map, sideWrite_settle]
        cases d.1.sideWrite c b p.dst g (indicesOf p.ext i) _ none <;> rfl

end

end Sys2Proof.Machine

/-! # A copy completes alike after its next element (R285) -/

namespace Sys2Proof.Machine

open Sys2Proof.Claims

/-! ## What an element does to its command -/

section
variable {s t z : State} {c : Cmd} {b : Block} {x : Side} {f g : EFmt} {js : List Nat} {v n i : Nat}
  {logs : List (Cause × Nat)} {p : CopySpec} {cs : List Cause}

theorem putParts_cmd (hc : s.cmd c.id = some c) (ps : List EngPart) (later : Option Nat) :
    ∃ r, (s.putParts c ps later).cmd c.id = some (c.withRun r) ∧ r.gate = c.run.gate := by
  cases later with
  | none => exact ⟨c.run, ((showParts_ignores c ps).cmd s c.id).trans hc, rfl⟩
  | some k =>
    refine ⟨{ c.run with pend := c.run.pend ++ [(k, ps)] }, ?_, rfl⟩
    exact (s.cmd_modRun c.id fun r => { r with pend := r.pend ++ [(k, ps)] }).trans (by rw [hc]; rfl)

theorem putTileElem_cmd {k : Tile} {i0 i1 i2 : Nat} (h : s.putTileElem b k f i0 i1 i2 v = .ok t) (id : Nat) :
    t.cmd id = s.cmd id := by
  simp only [State.cmd, putTileElem_cmds h]

theorem sideWrite_cmd {later : Option Nat} (hc : s.cmd c.id = some c)
    (h : s.sideWrite c b x f js v later = .ok t) :
    ∃ r, t.cmd c.id = some (c.withRun r) ∧ r.gate = c.run.gate := by
  cases x with
  | addr a st pstr =>
    have hpart {va : DWord} {k : Nat} {y : State} {q : EngPart}
        (hq : s.enginePart c va k 0 v later.isNone = .ok (y, q)) : y.cmd c.id = some c :=
      ((enginePart_ignores c va k 0 v later.isNone).cmd hq c.id).trans hc
    cases f with
    | npi k =>
      simp only [State.sideWrite] at h
      split at h
      · cases h
      · next y ps hq =>
        cases h
        exact putParts_cmd (((planarParts_ignores c a pstr (strideSum js st) v (planesOf k)).cmd hq c.id).trans hc) _ _
    | flt _ | int _ _ =>
      simp only [State.sideWrite] at h
      split at h
      · cases h
      · split at h
        · cases h
        · next y q hq =>
          cases h
          exact putParts_cmd (hpart hq) _ _
  | phys a st => cases h
  | tile k e => exact ⟨c.run, (putTileElem_cmd h c.id).trans hc, rfl⟩

theorem copyElem_cmd (hc : s.cmd c.id = some c) (h : s.copyElem c b p f g false i = .ok (t, cs)) :
    ∃ r, t.cmd c.id = some (c.withRun r) ∧ r.gate = c.run.gate := by
  simp only [State.copyElem, Bool.false_eq_true, if_false] at h
  split at h
  · cases h
  · next y u hq =>
    have hyc := ((sideRead_ignores c b p.src f (indicesOf p.ext i) false).cmd hq c.id).trans hc
    split at h
    · split at h
      · cases h
      · next hw =>
        cases h
        exact sideWrite_cmd hyc hw
    · split at h
      · cases h
      · next d e hd =>
        have hdc := ((sideRead_ignores c b p.dst g (indicesOf p.ext i) true).cmd hd c.id).trans hyc
        split at h
        · cases h
        · next hw =>
          cases h
          exact sideWrite_cmd hdc hw

/-! ## What a command does does not depend on where it stands -/

theorem planarElem_withRun (r : Progress) (a : DWord) (pstr : Nat) (l : Int) (ps : List Nat) :
    s.planarElem (c.withRun r) a pstr l ps v = s.planarElem c a pstr l ps v := by
  induction ps generalizing s v with
  | nil => rfl
  | cons q ps ih =>
    have hread : s.engineRead (c.withRun r) = s.engineRead c := rfl
    simp only [State.planarElem, hread]
    split
    · rfl
    · cases s.engineRead c (planeAddr a pstr q l) 4 false with
      | error e => rfl
      | ok y => exact ih

theorem planarParts_withRun (r : Progress) (a : DWord) (pstr : Nat) (l : Int) (ps : List Nat) :
    s.planarParts (c.withRun r) a pstr l v ps = s.planarParts c a pstr l v ps := by
  induction ps generalizing s with
  | nil => rfl
  | cons q ps ih =>
    have hpart : s.enginePart (c.withRun r) = s.enginePart c := rfl
    simp only [State.planarParts, hpart, ih]

theorem sideRead_withRun (r : Progress) (wr : Bool) :
    s.sideRead (c.withRun r) b x f js wr = s.sideRead c b x f js wr := by
  cases x with
  | addr a st pstr =>
    cases f with
    | npi k => exact planarElem_withRun r a pstr _ _
    | flt y => rfl
    | int y k => rfl
  | phys a st => rfl
  | tile k e => rfl

theorem sideWrite_withRun (r : Progress) (later : Option Nat) :
    s.sideWrite (c.withRun r) b x f js v later = s.sideWrite c b x f js v later := by
  cases x with
  | addr a st pstr =>
    cases f with
    | npi k =>
      simp only [State.sideWrite, planarParts_withRun]
      rfl
    | flt y => rfl
    | int y k => rfl
  | phys a st => rfl
  | tile k e => rfl

theorem copyElem_withRun (r : Progress) : s.copyElem (c.withRun r) b p f g false i = s.copyElem c b p f g false i := by
  simp only [State.copyElem, sideRead_withRun, sideWrite_withRun, Bool.false_eq_true, if_false]

end

/-! ## The elements that are left -/

section
variable {s t z : State} {c : Cmd} {b : Block} {n : Nat} {logs : List (Cause × Nat)} {w : Work} {r : Progress}

/-- A step of a command that does the same wherever the command stands. -/
def StepSettles (id : Nat) (step : State → Nat → Except Halt (State × List Cause)) : Prop :=
  ∀ s n logs i, step (s.modRun id (.settle n logs)) i = (step s i).map fun q => (q.1.modRun id (.settle n logs), q.2)

theorem runElems_settle {id : Nat} {step : State → Nat → Except Halt (State × List Cause)} (hstep : StepSettles id step)
    (k : Nat) (r : Run) (raised : List (Cause × Nat)) :
    ∃ raised', runElems step k { r with st := r.st.modRun id (.settle n logs), raised := raised } =
      { runElems step k r with st := (runElems step k r).st.modRun id (.settle n logs), raised := raised' } := by
  induction k generalizing r raised with
  | zero => exact ⟨raised, rfl⟩
  | succ k ih =>
    cases hhalt : r.halt with
    | some e => exact ⟨raised, by simp only [runElems, hhalt]⟩
    | none =>
      cases hr : step r.st r.n with
      | error e => exact ⟨raised, by simp only [runElems, hhalt, hstep r.st n logs r.n, hr, Except.map]⟩
      | ok q =>
        simp only [runElems, hhalt, hstep r.st n logs r.n, hr, Except.map]
        rw [← hhalt]
        exact ih { r with
          st := q.1, n := r.n + 1, logs := addCauses r.logs q.2
          raised := r.raised ++ q.2.eraseDups.map fun c => (c, r.n) } _

/-- A command that stands at element `n` after doing it runs on as it would have run from the element before. -/
theorem runWork_step {total : Nat} {cs : List Cause} (hstep : StepSettles c.id w.step) (hn : c.run.n < total)
    (helem : w.step s c.run.n = .ok (t, cs)) (hrn : r.n = c.run.n + 1) (hlogs : r.logs = addCauses c.run.logs cs) :
    s.runWork c w total =
      (t.modRun c.id (.settle (c.run.n + 1) (addCauses c.run.logs cs))).runWork (c.withRun r) w total := by
  obtain ⟨k, hk⟩ : ∃ k, total - c.run.n = k + 1 := ⟨total - c.run.n - 1, by omega⟩
  have hk' : total - (c.run.n + 1) = k := by omega
  have hsettle := runElems_settle (n := c.run.n + 1) (logs := addCauses c.run.logs cs) hstep k
    { st := t, n := c.run.n + 1, halt := none, logs := addCauses c.run.logs cs, raised := cs.eraseDups.map fun e => (e, c.run.n) }
    []
  obtain ⟨raised', hsettle⟩ := hsettle
  simp only [State.runWork, Cmd.withRun_run, Cmd.withRun_id, hrn, hlogs, hk, hk', runElems, helem, List.nil_append, hsettle]
  generalize runElems w.step k _ = e
  have hdone (fail : Option Cause) (x : State) :
      (x.modRun c.id (.settle (c.run.n + 1) (addCauses c.run.logs cs))).modRun c.id
        (fun p => { p with n := e.n, fail := fail, logs := e.logs }) =
      x.modRun c.id fun p => { p with n := e.n, fail := fail, logs := e.logs } := State.modRun_modRun _ _ _ _
  cases e.halt with
  | none => simp only [hdone]
  | some a =>
    cases a with
    | wait => simp only [hdone]
    | status a => simp only [hdone]
    | lock va pte pa =>
      have hlock : (e.st.modRun c.id (.settle (c.run.n + 1) (addCauses c.run.logs cs))).askLock (c.withRun r) va pte pa =
          (e.st.askLock c va pte pa).modRun c.id (.settle (c.run.n + 1) (addCauses c.run.logs cs)) :=
        (askLock_ignores c va pte pa).modCmd e.st c.id _
      simp only [hlock, hdone]

end

/-! ## The completion of a copy after its next element -/

section
variable {s : State} {c : Cmd} {b : Block} {n : Nat} {src dst : Side} {ext : List Nat} {sf df rop : Nat} {sat : Bool}
  {f g : EFmt} {t : State × List Cause}

/-- The work of a command whose elements may be moved. -/
theorem finishWork_of_ready {w : Work} (hfree : b.cancels c.kind = false) (hfail : c.run.fail = none)
    (hgate : c.run.gate = none) (hgo : c.stop = false) (hlost : s.cmdLost c = none) (hready : s.cmdReady c = true)
    (hw : s.workOf c b = .ok w) (stop : Nat) : s.finishWork c b stop = s.runWork c w w.total := by
  simp only [State.finishWork, hfree, hfail, hgate, hlost, hready, hw, Cmd.limit, hgo, Option.isSome_none, Bool.or_self,
    Bool.not_true, Bool.false_eq_true, if_false]

theorem completeCmd_copy (hk : c.kind = .copy src dst ext sf df rop sat none) (stop : Nat) :
    s.completeCmd c b stop = if !(s.finishWork c b stop).2 then (s.finishWork c b stop).1
      else (s.finishWork c b stop).1.endWork c.id fun s c => s.closeWork b c := by
  simp only [State.completeCmd, hk]

/-- The work of a copy does not depend on where its command stands. -/
theorem workOf_copy_withRun (hk : c.kind = .copy src dst ext sf df rop sat none) (hf : efmt sf = some f)
    (hg : efmt df = some g) (r : Progress) : s.workOf (c.withRun r) b = .ok
      { total := ext.foldl (· * ·) 1
        step := fun s n => s.copyElem c b
          { src := src, dst := dst, ext := ext, sf := sf, df := df, rop := rop, sat := sat } f g false n } := by
  rw [workOf_copy (c := c.withRun r) hk hf hg]
  simp only [copyElem_withRun]

/-- R285: a copy that completes does its next element and completes from there. -/
theorem copyComplete_after_advance (h : Moving s c b n) (hk : c.kind = .copy src dst ext sf df rop sat none)
    (hn : n < ext.foldl (· * ·) 1) (hf : efmt sf = some f) (hg : efmt df = some g)
    (helem : s.copyElem c b { src := src, dst := dst, ext := ext, sf := sf, df := df, rop := rop, sat := sat } f g false n =
      .ok t)
    (hblock : (s.engineAdvance c.id).block c.blk = some b) (hready : (s.engineAdvance c.id).cmdReady c = true)
    (hlost : (s.engineAdvance c.id).cmdLost c = none) (stop : Nat) :
    exec (.copyComplete c.id stop) s = exec (.copyComplete c.id stop) (s.engineAdvance c.id) := by
  obtain ⟨t, cs⟩ := t
  obtain ⟨hgo, hfail, hgate, rfl⟩ := h.going
  obtain ⟨r, hcmd, hrgate⟩ := copyElem_cmd h.found helem
  have hadv : s.engineAdvance c.id = t.modRun c.id (.settle (c.run.n + 1) (addCauses c.run.logs cs)) :=
    engineAdvance_step h (workOf_copy hk hf hg) hn helem
  let r' := r.settle (c.run.n + 1) (addCauses c.run.logs cs)
  have hfound : (s.engineAdvance c.id).cmd c.id = some (c.withRun r') := by
    rw [hadv, State.cmd_modRun, hcmd]
    rfl
  have hwork : s.finishWork c b stop = (s.engineAdvance c.id).finishWork (c.withRun r') b stop := by
    rw [finishWork_of_ready h.free hfail hgate hgo (cmdLost_none h.after) (cmdReady_of_after h.after) (workOf_copy hk hf hg),
      finishWork_of_ready (c := c.withRun r') h.free rfl (hrgate.trans hgate) hgo hlost hready
        (workOf_copy_withRun hk hf hg r'), hadv]
    exact runWork_step (fun _ _ _ _ => copyElem_settle) hn helem rfl rfl
  have hnext := exec_copyComplete (c := c.withRun r') hfound hblock hk stop
  rw [completeCmd_copy (c := c.withRun r') hk, ← hwork] at hnext
  rw [exec_copyComplete h.found h.block hk, completeCmd_copy hk]
  exact hnext.symm

end

end Sys2Proof.Machine

/-! # What the elements of copies do (R82, R115, R280 to R282, R285) -/

namespace Sys2Proof.Machine

open Sys2Proof.Claims

/-! ## Conversions between formats (R281) -/

/-- R281: FP32 saturates where the copy asks for it. -/
theorem convElem_of_f32 {x : FFmt} (h : x ≠ .f32) (sat : Bool) (code : Nat) :
    convElem (.flt .f32) (.flt x) sat code = (let r := convert x .rne sat (fval .f32 code); (r.bits, r.cause)) := by
  rw [convElem_flt h.symm, beq_self_eq_true, Bool.and_true]

/-- R281: FP8 widens exactly. -/
theorem convElem_of_fp8 {x g : FFmt} (hx : x = .e4m3 ∨ x = .e5m2) (hg : g = .f32 ∨ g = .bf16) (sat : Bool) (code : Nat) :
    convElem (.flt x) (.flt g) sat code = (let r := convert g .rne false (fval x code); (r.bits, r.cause)) := by
  have hne : x ≠ g ∧ (x == .f32) = false := by
    obtain rfl | rfl := hx <;> obtain rfl | rfl := hg <;> exact ⟨by decide, rfl⟩
  rw [convElem_flt hne.1, hne.2, Bool.and_false]

/-- R82, R115, R280 to R282, R285: the elements of copies. -/
theorem copiesMoveElements : CopiesMoveElements := by
  refine ⟨?addrToAddr, ?addrToTile, ?tileToAddr, ?reduction, ?operations, ?conversions, ?rest⟩
  case addrToAddr =>
    intro s c b n a d sa sd ext sf df f g sat v s₁ s₂ q h hk hn hf hg hfn hgn js w htake hput
    exact advance_addr_addr h hk hn hf hg hfn hgn htake hput
  case addrToTile =>
    intro s c b n a i e sa ext sf df f g sat v s₁ p h hk hn hf hg hfn hgn js w lay z htake hp
    exact advance_addr_tile h hk hn hf hg hfn hgn htake hp
  case tileToAddr =>
    intro s c b n i e d sd ext sf df f g sat p s₁ q h hk hn hf hg hfn hgn js lay z w hp hgood hput
    exact advance_tile_addr h hk hn hf hg hgn (sideRead_tile hfn hp hgood) hput
  case reduction =>
    intro s c b n a d sa sd ext sf f rop sat u v s₁ s₂ s₃ bs q h hrop hk hn hf hfn js to_ w htake halign hold hu hpart
    exact advance_reduce h hrop hk hn hf hfn htake halign hold hu hpart
  case operations =>
    intro d v _ _ sum
    exact ⟨rfl, rfl, rfl, addS_eq d v, rfl, rfl, natSigned_selI32_max d v, natSigned_selI32_min d v⟩
  case conversions =>
    intro f g x sat code
    exact ⟨convElem_same f sat code, fun hx => convElem_of_f32 hx sat code,
      fun hx hg => convElem_of_fp8 hx hg sat code, fun i k _ => convElem_int i k g sat code⟩
  case rest =>
    intro s c b n src dst ext sf df f g rop sat t stop h hk hn hf hg _ helem hblock hready hlost
    exact copyComplete_after_advance h hk hn hf hg helem hblock hready hlost stop

end Sys2Proof.Machine

/-! # A command of one element (R126, R134, R138, R280, R285) -/

namespace Sys2Proof.Machine

open Sys2Proof.Claims

/-! ## The lines that a command may write -/

/-- A command may write the line of `pa`: its home answers, no access holds it or waits for its acknowledgements, and the core
has a request entry (R71, R126, R134). -/
structure Writable (s : State) (c : Cmd) (pa : Nat) : Prop where
  alive  : (s.die (homeDie pa)).st ≠ .failed
  thawed : s.lineFrozen pa = false
  unheld : (s.besides c.id).lineHeld pa = false
  unshut : (s.besides c.id).lineShut pa = false
  room   : s.entriesUsed c.core < Config.requests

/-- A part of the elements that a change keeps is the same in every element afterwards. -/
theorem vget_vmod_keep {α β : Type} {m : Nat} (v : Vector α m) (i j : Nat) {f : α → α} (d : α) (g : α → β)
    (hf : ∀ x, g (f x) = g x) : g (vget (vmod v i f) j d) = g (vget v j d) := by
  by_cases hj : i = j
  · subst hj
    by_cases hi : i < m
    · rw [vget_vmod_same v i f d hi, hf]
    · rw [vget_vmod_out v i i f d (Nat.not_lt.mp hi)]
  · rw [vget_vmod_other v i j f d hj]

theorem State.die_modDie_st (s : State) (d x : Nat) {f : Die → Die} (hf : ∀ k, (f k).st = k.st) :
    ((s.modDie d f).die x).st = (s.die x).st := vget_vmod_keep s.dies d x Die.reset Die.st hf

section
variable {s t : State} {c : Cmd} {pa : Nat}

/-- What the lines are is not the translation buffers' to say. -/
theorem Writable.of_tlb {core d : Nat} {f : Core → Core} {g : Die → Die} (hg : ∀ k, (g k).st = k.st)
    (h : Writable s c pa) : Writable ((s.modCore core f).modDie d g) c pa := by
  have hst (x : Nat) : (((s.modCore core f).modDie d g).die x).st = (s.die x).st := State.die_modDie_st _ d x hg
  have hst' (x : Nat) : (((((s.modCore core f).modDie d g).besides c.id).die x)).st = (s.die x).st := hst x
  obtain ⟨halive, hthawed, hunheld, hunshut, hroom⟩ := h
  refine ⟨(hst _).symm ▸ halive, hthawed, hunheld, ?_, hroom⟩
  simp only [State.lineShut, hst'] at hunshut ⊢
  exact hunshut

theorem Writable.tlbKeep (h : Writable s c pa) (core k : Nat) (va : DWord) (wr rd : Bool) :
    Writable (s.tlbKeep core k va wr rd) c pa := by
  have hdrop : Writable (s.tlbDrop core k (pageOf va)) c pa := h.of_tlb fun _ => rfl
  unfold State.tlbKeep
  split
  · exact h
  · simp only
    cases (s.tlbDrop core k (pageOf va)).walk k va with
    | fail e => exact hdrop
    | leaf pte big =>
      simp only
      split
      · exact hdrop.of_tlb fun _ => rfl
      · exact hdrop

/-- A write that passes its checks goes to a line that may be written, and stays possible. -/
theorem writable_of_enginePart {va : DWord} {n keep v : Nat} {rd : Bool} {q : EngPart}
    (h : s.enginePart c va n keep v rd = .ok (t, q)) : Writable t c q.pa := by
  simp only [State.enginePart] at h
  split at h
  · cases h
  · next pte pa _ =>
    split at h
    · cases h
    · split at h
      · cases h
      · next halive =>
        split at h
        · cases h
        · next hthawed =>
          split at h
          · cases h
          · next hopen =>
            split at h
            · cases h
            · cases h
              simp only [Bool.or_eq_true, not_or, Bool.not_eq_true, decide_eq_true_eq, not_le] at hopen
              obtain ⟨⟨hunheld, hunshut⟩, hroom⟩ := hopen
              have hwrite : Writable s c pa :=
                ⟨by simpa using halive, by simpa using hthawed, hunheld, hunshut, hroom⟩
              exact hwrite.tlbKeep _ _ _ _ _

end

/-! ## The write of one element becomes visible -/

/-- A command's progress after one element whose write is still to become visible. -/
def Progress.oneWaits (q : EngPart) (cs : List Cause) (r : Progress) : Progress :=
  { r with n := 1, fail := none, logs := addCauses [] cs, pend := r.pend ++ [(0, [q])] }

/-- A command's progress after its element 0 has become visible. -/
def Progress.oneShown (r : Progress) : Progress :=
  { r with pend := r.pend.filter (·.1 != 0), top := Nat.max r.top 1 }

section
variable {s t : State} {c : Cmd} {b : Block} {q : EngPart} {cs : List Cause}

theorem dead_of_alive {pa : Nat} (h : (s.die (homeDie pa)).st ≠ .failed) : s.dead pa 1 = false := by
  simpa [State.dead, linesIn] using h

theorem freezeCmd_of_one {n : Nat} (hpend : c.run.pend = [(n, [q])]) (hw : Writable s c q.pa) : s.freezeCmd c = s := by
  simp only [State.freezeCmd, hpend, List.find?_cons, List.find?_nil, List.any_cons, List.any_nil, dead_of_alive hw.alive,
    hw.thawed, Bool.or_self, Bool.and_false]

theorem engineFlush_of_one (hc : s.cmd c.id = some c) (hfree : ∀ b, Block.cancels b c.kind = false)
    (hpend : c.run.pend = [(0, [q])]) (hw : Writable s c q.pa) (hq : pteRepl q.pte = false) :
    s.engineFlush c.id 0 = ((s.showPart c q).unlock c.id q.pa).modRun c.id .oneShown := by
  have hturn : c.flushTurn 0 [q] = true := by simp [Cmd.flushTurn, hpend]
  have hopen : s.partsOpen c [q] = true := by
    have hroom := hw.room
    simp only [State.partsOpen, hw.unheld, hw.unshut, List.length_singleton, List.all_cons, List.all_nil, Bool.not_false,
      Bool.and_self, Bool.and_true, decide_eq_true_eq]
    omega
  have hfree' : ((s.block c.blk).any fun b => b.cancels c.kind) = false := by simp [hfree]
  simp only [State.engineFlush, hc, hpend, List.find?_cons, beq_self_eq_true, hfree', hturn, hopen, List.find?_nil, hq,
    Bool.not_true, Bool.or_self, Bool.false_eq_true, if_false]
  rfl

theorem flushCmd_of_one (hc : s.cmd c.id = some c) (hfree : ∀ b, Block.cancels b c.kind = false)
    (hpend : c.run.pend = [(0, [q])]) (hw : Writable s c q.pa) (hq : pteRepl q.pte = false) :
    s.flushCmd c.id = ((s.showPart c q).unlock c.id q.pa).modRun c.id .oneShown := by
  simp only [State.flushCmd, hc, freezeCmd_of_one hpend hw, hpend, List.foldl_cons, List.foldl_nil,
    engineFlush_of_one hc hfree hpend hw hq]

end

end Sys2Proof.Machine

/-! # The ends of commands (R138, R264, R276, R280, R285, R290, R396) -/

namespace Sys2Proof.Machine

open Sys2Proof.Claims

/-! ## Commands of one element -/

/-- A command's progress after its only element, which has become visible. -/
def Progress.oneDone (cs : List Cause) : Progress :=
  { Progress.start with n := 1, logs := addCauses [] cs, top := 1 }

section
variable {s s₂ t : State} {c : Cmd} {b : Block} {q : EngPart} {cs : List Cause} {w : Work}

/-- A command of one element, which has put its write aside, has done its elements. -/
theorem finishWork_of_one (h : Runs s c b) (hfree : b.cancels c.kind = false) (hw : s.workOf c b = .ok w)
    (htotal : w.total = 1) (hstep : w.step s 0 = .ok (s₂.pendParts c 0 [q], cs)) (stop : Nat) :
    s.finishWork c b stop = (s₂.modRun c.id (.oneWaits q cs), true) := by
  have hpend : s₂.pendParts c 0 [q] = s₂.modRun c.id fun r => { r with pend := r.pend ++ [(0, [q])] } := rfl
  have hstart : c.run.n = 0 ∧ c.run.logs = [] := by
    rw [h.start]
    exact ⟨rfl, rfl⟩
  rw [finishWork_of_ready hfree (by rw [h.start]; rfl) (by rw [h.start]; rfl) h.whole (cmdLost_none h.after)
    (cmdReady_of_after h.after) hw]
  simp only [State.runWork, htotal, hstart, Nat.sub_zero, runElems, hstep, hpend, State.modRun_modRun]
  rfl

theorem showUnlock_ignores (c : Cmd) (q : EngPart) : Ignores fun s => (s.showPart c q).unlock c.id q.pa :=
  .comp (g := fun s => s.unlock c.id q.pa) (unlock_ignores c.id q.pa) (showPart_ignores c q)

/-- The write that a command of one element has put aside becomes visible. -/
theorem flushCmd_oneWaits (hrun : c.run = .start) (hfree : ∀ b, Block.cancels b c.kind = false) (hfound : s.cmd c.id = some c)
    (hwrite : Writable s c q.pa) (hq : pteRepl q.pte = false) : (s.modRun c.id (.oneWaits q cs)).flushCmd c.id =
      ((s.showPart c q).unlock c.id q.pa).modRun c.id fun r => (r.oneWaits q cs).oneShown := by
  have hcmd : (s.modRun c.id (.oneWaits q cs)).cmd c.id = some (c.withRun (c.run.oneWaits q cs)) := by
    rw [State.cmd_modRun, hfound]
    rfl
  have hpend : (c.withRun (c.run.oneWaits q cs)).run.pend = [(0, [q])] := by
    rw [hrun]
    rfl
  have hwrite' : Writable (s.modRun c.id (.oneWaits q cs)) (c.withRun (c.run.oneWaits q cs)) q.pa :=
    ⟨hwrite.alive, hwrite.thawed, hwrite.unheld, hwrite.unshut, hwrite.room⟩
  have hflush := flushCmd_of_one (c := c.withRun (c.run.oneWaits q cs)) hcmd hfree hpend hwrite' hq
  have hshow : ((s.modRun c.id (.oneWaits q cs)).showPart c q).unlock c.id q.pa =
      ((s.showPart c q).unlock c.id q.pa).modRun c.id (.oneWaits q cs) := (showUnlock_ignores c q).modCmd s c.id _
  exact hflush.trans ((congrArg (State.modRun · c.id .oneShown) hshow).trans (State.modRun_modRun _ _ _ _))

/-- A command of one element closes in the state in which the element is visible. -/
theorem completeCmd_of_one (h : Runs s c b) (hfree : ∀ b, Block.cancels b c.kind = false)
    (hone : ∀ src dst ext sf df rop sat l, c.kind ≠ .copy src dst ext sf df rop sat (some l)) (hw : s.workOf c b = .ok w)
    (htotal : w.total = 1) (hstep : w.step s 0 = .ok (s₂.pendParts c 0 [q], cs)) (hfound : s₂.cmd c.id = some c)
    (hwrite : Writable s₂ c q.pa) (hq : pteRepl q.pte = false)
    (hfollow : Follows ((s₂.showPart c q).unlock c.id q.pa) c) (stop : Nat) : ∃ f, s.completeCmd c b stop =
      (((s₂.showPart c q).unlock c.id q.pa).modRun c.id f).closeWork b (c.withRun (.oneDone cs)) := by
  have hflush := flushCmd_oneWaits (cs := cs) h.start hfree hfound hwrite hq
  have hcmd : (((s₂.showPart c q).unlock c.id q.pa).modRun c.id fun r => (r.oneWaits q cs).oneShown).cmd c.id =
      some (c.withRun (.oneDone cs)) := by
    rw [State.cmd_modRun, (showUnlock_ignores c q).cmd, hfound, Option.map_some, h.start]
    rfl
  have hend := endWork_of_flushed (close := fun s c => s.closeWork b c) hflush hcmd rfl rfl hfollow
  rw [State.modRun_modRun] at hend
  exact ⟨_, (completeCmd_of_over (finishWork_of_one h (hfree b) hw htotal hstep stop) hone).trans hend⟩

end

/-! ## Copies and chains of one element -/

section
variable {s t : State} {c : Cmd} {b : Block} {a d : DWord} {m n v w : Nat}

theorem cmd_of_takes (h : Takes s c n a v t) (id : Nat) : t.cmd id = s.cmd id := by
  obtain ⟨-, bs, hread, -⟩ := h
  exact (engineRead_ignores c a n false).cmd hread id

theorem cmd_of_puts {q : EngPart} (h : Puts s c m d w q t) (id : Nat) : t.cmd id = s.cmd id :=
  (enginePart_ignores c d m 0 w false).cmd h.2.1 id

theorem strided_zero (st : List Int) (k size : Nat) : strided a (List.replicate k 0) st size = a := by
  have hsum : (((List.replicate k 0).zip st).map fun p : Nat × Int => (p.1 : Int) * p.2).sum = 0 := by
    refine List.sum_eq_zero fun x hx => ?_
    obtain ⟨p, hp, rfl⟩ := List.mem_map.mp hx
    have hzero : p.1 = 0 := List.eq_of_mem_replicate (List.of_mem_zip hp).1
    simp [hzero]
  rw [strided, hsum, mul_zero]
  simp

/-- The end of a command of one element that has raised the causes `cs`. -/
def oneDone (bytes result : Nat) (cs : List Cause) : Done :=
  { status := 0, count := 1, result := BitVec.ofNat 64 result, bytes := bytes, logs := addCauses [] cs }

theorem fmtBytes_one {df : Nat} {g : EFmt} (hg : efmt df = some g) : fmtBytes df 1 = g.width / 8 := by
  simp only [fmtBytes, hg, Nat.one_mul]

theorem closeWork_oneCopy {sa sd : List Int} {sf df : Nat} {sat : Bool} {g : EFmt} {cs : List Cause}
    (hk : c.kind = .copy (.addr a sa 0) (.addr d sd 0) [1, 1, 1, 1, 1, 1] sf df 0 sat none) (hg : efmt df = some g)
    (f : Progress → Progress) : (t.modRun c.id f).closeWork b (c.withRun (.oneDone cs)) =
      ends t c 0xFFFF (oneDone (g.width / 8) (g.width / 8) cs) := by
  have hdone : doneRun (c.withRun (.oneDone cs)) df 1 false = oneDone (fmtBytes df 1) (fmtBytes df 1) cs := rfl
  have hbox : [1, 1, 1, 1, 1, 1].foldl (· * ·) 1 = 1 := rfl
  rw [closeWork_copy (c := c.withRun (.oneDone cs)) hk, hbox, hdone, fmtBytes_one hg, ends_modRun_modBlock]
  exact congrArg (ends · c 0xFFFF _) (t.modBlock_same b.id)

/-- R138, R280, R285: a copy of one element within global memory. -/
theorem oneCopy_ends {sa sd : List Int} {sf df : Nat} {f g : EFmt} {sat : Bool} (h : Runs s c b)
    (hk : c.kind = .copy (.addr a sa 0) (.addr d sd 0) [1, 1, 1, 1, 1, 1] sf df 0 sat none) (hf : efmt sf = some f)
    (hg : efmt df = some g) (hfn : f.isNpi = false) (hgn : g.isNpi = false)
    (hmove : Moves s c (f.width / 8) (g.width / 8) a d v (convElem f g sat v).1 t) (hfollow : Follows t c) (stop : Nat) :
    exec (.copyComplete c.id stop) s =
      .next (ends t c 0xFFFF (oneDone (g.width / 8) (g.width / 8) (convElem f g sat v).2.toList)) := by
  obtain ⟨s₁, s₂, q, htake, hput, rfl⟩ := hmove
  have hfound : s₂.cmd c.id = some c := (cmd_of_puts hput c.id).trans ((cmd_of_takes htake c.id).trans h.found)
  have hjs : boxIndex [1, 1, 1, 1, 1, 1] 0 = List.replicate 6 0 := by decide
  have hread : s.sideRead c b (.addr a sa 0) f (boxIndex [1, 1, 1, 1, 1, 1] 0) false = .ok (s₁, v) := by
    refine sideRead_takes hfn ?_
    rwa [hjs, strided_zero]
  have hwrite : s₁.sideWrite c b (.addr d sd 0) g (boxIndex [1, 1, 1, 1, 1, 1] 0) (convElem f g sat v).1 (some 0) =
      .ok (s₂.pendParts c 0 [q]) := by
    refine sideWrite_puts hgn ?_
    rwa [hjs, strided_zero]
  obtain ⟨p, hend⟩ := completeCmd_of_one h (fun _ => by rw [hk]; rfl) (by simp [hk]) (workOf_copy hk hf hg) rfl
    (copyElem_plain hread hwrite) hfound (writable_of_enginePart hput.2.1) hput.2.2 hfollow stop
  rw [exec_copyComplete h.found h.block hk, hend, closeWork_oneCopy hk hg]

theorem closeWork_oneChain {o : ChainOps} {cs : List Cause} (hk : c.kind = .chain o a d 0 0 1 []) (hsrc : o.srcTile = false)
    (hdst : o.dstTile = false) (hdf : o.df = .f32) (f : Progress → Progress) :
    (t.modRun c.id f).closeWork b (c.withRun (.oneDone cs)) = ends t c c.tid (oneDone 4 1 cs) := by
  have hdone : doneRun (c.withRun (.oneDone cs)) (chainCode .f32) 1 true = oneDone (fmtBytes (chainCode .f32) 1) 1 cs := rfl
  have hbytes : fmtBytes (chainCode .f32) 1 = 4 := fmtBytes_one (g := .flt .f32) rfl
  rw [hbytes] at hdone
  rw [closeWork_chain (c := c.withRun (.oneDone cs)) hk, hdf, hdone, hsrc, hdst, ends_modRun_modBlock]
  exact congrArg (ends · c c.tid _) (t.modBlock_same b.id)

/-- One FP32 element of a chain without links. -/
theorem chainStep_of_moves {o : ChainOps} {s₁ s₂ : State} {q : EngPart} (hsf : o.sf = .f32) (hdf : o.df = .f32)
    (htake : Takes s c 4 a v s₁) (hput : Puts s₁ c 4 d (chainElem .f32 .f32 [] v).1 q s₂) :
    s.chainStep c b o (.addr a [1] 0) (.addr d [1] 0) [] 0 =
      .ok (s₂.pendParts c 0 [q], (chainElem .f32 .f32 [] v).2) := by
  have hjs : ([0, 0, 0] : List Nat) = List.replicate 3 0 := rfl
  have hread (k : Block) : s.sideRead c k (.addr a [1] 0) (.flt .f32) [0, 0, 0] false = .ok (s₁, v) := by
    refine sideRead_takes rfl ?_
    rwa [hjs, strided_zero]
  have hwrite (k : Block) : s₁.sideWrite c k (.addr d [1] 0) (.flt .f32) [0, 0, 0] (chainElem .f32 .f32 [] v).1 (some 0) =
      .ok (s₂.pendParts c 0 [q]) := by
    refine sideWrite_puts rfl ?_
    rwa [hjs, strided_zero]
  simp only [State.chainStep, hsf, hdf, chainFlt, hread, hwrite]

/-- R138, R288, R290: a chain of one FP32 element without links. -/
theorem oneChain_ends {o : ChainOps} (h : Runs s c b) (hk : c.kind = .chain o a d 0 0 1 []) (hsrc : o.srcTile = false)
    (hdst : o.dstTile = false) (hsf : o.sf = .f32) (hdf : o.df = .f32)
    (hmove : Moves s c 4 4 a d v (chainElem .f32 .f32 [] v).1 t) (hfollow : Follows t c) (stop : Nat) :
    exec (.chainComplete c.id stop) s = .next (ends t c c.tid (oneDone 4 1 (chainElem .f32 .f32 [] v).2)) := by
  obtain ⟨s₁, s₂, q, htake, hput, rfl⟩ := hmove
  have hfound : s₂.cmd c.id = some c := (cmd_of_puts hput c.id).trans ((cmd_of_takes htake c.id).trans h.found)
  have hwork : s.workOf c b = .ok
      { total := 1, step := fun s k => s.chainStep c b o (.addr a [1] 0) (.addr d [1] 0) [] k } := by
    simp only [State.workOf, hk, chainSide, hsrc, hdst, Bool.false_eq_true, if_false, List.zip_nil_right]
  have hfree (k : Block) : k.cancels c.kind = false := by
    simp only [Block.cancels, hk, chainSide, hsrc, hdst, Bool.false_eq_true, if_false, Block.freed, Bool.or_self]
  obtain ⟨p, hend⟩ := completeCmd_of_one h hfree (by simp [hk]) hwork rfl (chainStep_of_moves hsf hdf htake hput) hfound
    (writable_of_enginePart hput.2.1) hput.2.2 hfollow stop
  rw [exec_chainComplete h.found h.block hk, hend, closeWork_oneChain hk hsrc hdst hdf]

end

/-! ## The signals of a command (R138, R264, R276) -/

section
variable {s : State} {c : Cmd} {d : Done}

theorem logEnd_of_clean {thr : Nat} (hlogs : d.logs = []) (hstatus : d.status = 0) : s.logEnd c thr d = s := by
  simp [State.logEnd, hlogs, hstatus]

theorem completionWord_zero (n : Nat) : completionWord 0 n = BitVec.ofNat 32 (n % 2 ^ 24) := by
  apply BitVec.eq_of_toNat_eq
  have hzero : (0 : Cause).toNat = 0 := rfl
  rw [completionWord_toNat, BitVec.toNat_ofNat, hzero]
  omega

/-- R138, R264, R276: the signals of a command that ends without a failure. -/
theorem endCmd_of_clean {thr : Nat} (hlogs : d.logs = []) (hstatus : d.status = 0) :
    State.endCmd s c thr d = (State.modThread (State.dropLocks { s with cmds := s.cmds.filter fun x => x.id != c.id })
      c.blk c.who fun t =>
      { t with handles := t.handles.map fun h =>
          if h.pending && h.op == c.id then
            { pending := false, op := 0, word := BitVec.ofNat 32 (d.count % 2 ^ 24), result := d.result }
          else h }).modBlock c.blk fun b =>
      let b := b.lower c.flags
      match c.bar with
      | some n => b.modBar n fun k => k.engine d.bytes false
      | none => b := by
  rw [State.endCmd, logEnd_of_clean hlogs hstatus, State.closeCmd, hstatus, completionWord_zero]
  rfl

end

/-- R138, R264, R276, R285, R290, R396: the ends of copies and chains, and their signals. -/
theorem commandsEnd : CommandsEnd := by
  refine ⟨?refused, ?oneCopy, ?oneChain, ?lost, ?signals⟩
  case refused =>
    intro s c b e bytes src dst stop h _ hfollow hk
    exact badCopy_ends h hfollow hk stop
  case oneCopy =>
    intro s c b a d sa sd sf df f g sat v t stop h _ hk hf hg hfn hgn w hmove hfollow
    exact oneCopy_ends h hk hf hg hfn hgn hmove hfollow stop
  case oneChain =>
    intro s c b o a d v t stop h _ hk hsrc hdst hsf hdf r hmove hfollow
    exact oneChain_ends h hk hsrc hdst hsf hdf hmove hfollow stop
  case lost =>
    intro s c b e sa sd ext rop sat src dst stop hc hb hrun hk hsrc hdst hlost he hfollow
    exact lostCopy_ends hc hb hrun hk hsrc hdst hlost he hfollow stop
  case signals =>
    intro s c thr d hlogs hstatus
    exact endCmd_of_clean hlogs hstatus

/-- Settles O41: each clause about the end of a command, about the elements of copies, and about agents, from its own
lemma. -/
theorem commandsAndAgents : Obligations.CommandsAndAgents := ⟨commandsEnd, copiesMoveElements, agentsExecute⟩

end Sys2Proof.Machine

/-! # The reset values (R107, R151, R350, R357, R360, R361, R365) -/

namespace Sys2Proof.Machine

open Sys2Proof.Claims

theorem vget_replicate {α : Type} {n i : Nat} (x d : α) (h : i < n) : vget (Vector.replicate n x) i d = x := by
  simp [vget, h]

theorem State.reset_ctx {c : Nat} (h : c < 64) : State.reset.ctx c = Context.reset 0 := vget_replicate _ _ h

theorem State.reset_die {d : Nat} (h : d < 8) : State.reset.die d = Die.reset := vget_replicate _ _ h

theorem Mon.reset_clear : Mon.reset.cfg = 0 ∧ Mon.reset.min = 0xFFFFFFFF ∧ Mon.reset.max = 0 ∧ ∀ h ∈ Mon.reset.h, h = 0 :=
  ⟨rfl, rfl, rfl, fun _ h => (Vector.mem_replicate.mp h).2⟩

/-- Settles O57, from what the reset state holds at each number. -/
theorem resetValues : Obligations.ResetValues := by
  have hshape : ∀ l < 16, (vget shapeReset l 0).toNat = 16 - l := by decide
  refine ⟨rfl, rfl, rfl, rfl, ?ctxs, ⟨rfl, rfl, rfl, rfl⟩, ?shapes, ?dieMons, ?anvilMons, ?ranges⟩
  case ctxs =>
    intro c hc
    rw [State.reset_ctx hc]
    exact ⟨rfl, rfl⟩
  case shapes =>
    intro d hd l hl
    rw [State.reset_die hd]
    exact hshape l hl
  case dieMons =>
    intro d hd m hm
    rw [State.reset_die hd] at hm
    rw [(Vector.mem_replicate.mp hm).2]
    exact Mon.reset_clear
  case anvilMons =>
    intro m hm
    rw [(Vector.mem_replicate.mp hm).2]
    exact Mon.reset_clear
  case ranges =>
    intro f hf
    rw [(Vector.mem_replicate.mp hf).2]
    exact ⟨rfl, rfl⟩

end Sys2Proof.Machine

/-! # The numbers that codes stand for (R96) -/

namespace Sys2Proof.Machine

open Sys2Proof.Claims

/-! ## Magnitudes of codes -/

/-- The exponent of the spacing of a format's subnormal numbers. -/
def FFmt.qmin (f : FFmt) : Int := f.emin - f.frac

/-- The code of the significand N at the exponent j above the least: also of N = 2 ^ (frac + 1), which starts the next binade. -/
theorem magnitude_code (f : FFmt) {j N : Nat} (hj : j = 0 ∨ 2 ^ f.frac ≤ N) (hN : N ≤ 2 ^ (f.frac + 1)) :
    magnitude f (j * 2 ^ f.frac + N) = N * (2 : ℚ) ^ (f.qmin + j) := by
  have hpos : 0 < 2 ^ f.frac := Nat.two_pow_pos _
  have hdiv (i t : Nat) (ht : t < 2 ^ f.frac) :
      (i * 2 ^ f.frac + t) / 2 ^ f.frac = i ∧ (i * 2 ^ f.frac + t) % 2 ^ f.frac = t := by
    rw [Nat.add_comm, Nat.add_mul_div_right _ _ hpos, Nat.add_mul_mod_self_right, Nat.div_eq_of_lt ht, Nat.mod_eq_of_lt ht]
    exact ⟨Nat.zero_add i, rfl⟩
  rw [pow_succ] at hN
  unfold magnitude
  rcases lt_or_ge N (2 ^ f.frac) with hlow | hhigh
  · obtain rfl : j = 0 := hj.resolve_right (not_le.mpr hlow)
    simp only [Nat.zero_mul, Nat.zero_add, Nat.div_eq_of_lt hlow, if_true, FFmt.qmin, Nat.cast_zero, add_zero]
  rcases hN.lt_or_eq with hlt | heq
  · obtain ⟨t, rfl⟩ := Nat.exists_eq_add_of_le hhigh
    have ht : t < 2 ^ f.frac := by omega
    have hcode : j * 2 ^ f.frac + (2 ^ f.frac + t) = (j + 1) * 2 ^ f.frac + t := by ring
    rw [hcode, (hdiv (j + 1) t ht).1, (hdiv (j + 1) t ht).2, if_neg (Nat.succ_ne_zero j)]
    congr 2
    simp only [FFmt.qmin]
    push_cast
    ring
  · have hcode : j * 2 ^ f.frac + N = (j + 2) * 2 ^ f.frac + 0 := by rw [heq]; ring
    rw [hcode, (hdiv (j + 2) 0 hpos).1, (hdiv (j + 2) 0 hpos).2, if_neg (Nat.succ_ne_zero (j + 1)), heq]
    have hexp : f.emin - f.frac + ((j + 2 : Nat) : Int) - 1 = f.qmin + j + 1 := by
      simp only [FFmt.qmin]
      push_cast
      ring
    rw [hexp, zpow_add_one₀ two_ne_zero]
    push_cast
    ring

/-- A code as its significand at its exponent above the least. -/
theorem exists_code (f : FFmt) (c : Nat) : ∃ j N, c = j * 2 ^ f.frac + N ∧ (j = 0 ∨ 2 ^ f.frac ≤ N) ∧ N < 2 ^ (f.frac + 1) := by
  have hmod := Nat.mod_lt c (Nat.two_pow_pos f.frac)
  have hc := Nat.div_add_mod' c (2 ^ f.frac)
  rw [pow_succ]
  rcases hq : c / 2 ^ f.frac with _ | q
  · rw [hq] at hc
    exact ⟨0, c % 2 ^ f.frac, hc.symm, .inl rfl, by omega⟩
  · rw [hq, Nat.succ_mul] at hc
    exact ⟨q, 2 ^ f.frac + c % 2 ^ f.frac, by omega, .inr (Nat.le_add_right _ _), by omega⟩

theorem magnitude_strictMono (f : FFmt) : StrictMono (magnitude f) := by
  refine strictMono_nat_of_lt_succ fun c => ?_
  obtain ⟨j, N, rfl, hj, hN⟩ := exists_code f c
  have hj' : j = 0 ∨ 2 ^ f.frac ≤ N + 1 := hj.imp_right (Nat.le_succ_of_le ·)
  rw [magnitude_code f hj hN.le, Nat.add_assoc, magnitude_code f hj' hN]
  have hpos : (0 : ℚ) < 2 ^ (f.qmin + (j : Int)) := by positivity
  push_cast
  nlinarith

@[simp] theorem magnitude_zero (f : FFmt) : magnitude f 0 = 0 := by simp [magnitude]

/-! # Rounding an exact magnitude (R98, R99) -/

/-- An exact number of units rounded to a whole one under a mode. -/
def roundNat (r : Rnd) (neg : Bool) (y : ℚ) : Nat :=
  if roundsUp r neg (⌊y⌋₊ % 2 == 1) (decide ((⌊y⌋₊ : ℚ) ≠ y)) (compare (2 * (y - ⌊y⌋₊)) 1) then ⌊y⌋₊ + 1 else ⌊y⌋₊

theorem compare_mul_right {a b c : ℚ} (hc : 0 < c) : compare (a * c) (b * c) = compare a b := by
  rw [← cmp_eq_compare, ← cmp_eq_compare]
  exact StrictMono.cmp_map_eq (f := fun x => x * c) (fun _ _ h => mul_lt_mul_of_pos_right h hc) a b

theorem compare_natCast (a b : Nat) : compare (a : ℚ) (b : ℚ) = compare a b := by
  rw [← cmp_eq_compare, ← cmp_eq_compare]
  exact StrictMono.cmp_map_eq Nat.strictMono_cast a b

theorem roundInt_eq_roundNat (r : Rnd) (neg : Bool) (num : Nat) {den : Nat} (hden : 0 < den) :
    roundInt r neg num den = roundNat r neg ((num : ℚ) / den) := by
  have hd : (0 : ℚ) < den := by exact_mod_cast hden
  have hfloor : ⌊(num : ℚ) / den⌋₊ = num / den := Nat.floor_div_eq_div num den
  have hrem : (num : ℚ) / den - (num / den : Nat) = (num % den : Nat) / den := by
    have h : (num : ℚ) = den * (num / den : Nat) + (num % den : Nat) := by exact_mod_cast (Nat.div_add_mod num den).symm
    field_simp
    linarith
  have hexact : decide (((num / den : Nat) : ℚ) ≠ num / den) = (num % den != 0) := by
    have : ((num / den : Nat) : ℚ) = num / den ↔ num % den = 0 := by
      rw [eq_comm, ← sub_eq_zero, hrem, div_eq_zero_iff, or_iff_left hd.ne', Nat.cast_eq_zero]
    rw [Bool.eq_iff_iff]
    simp [this]
  have hcmp : compare (2 * ((num % den : Nat) / (den : ℚ))) 1 = compare (2 * (num % den)) den := by
    rw [← compare_natCast, ← compare_mul_right hd (a := 2 * _)]
    congr 1
    · push_cast
      field_simp
    · ring
  simp only [roundInt, roundNat, hfloor, hrem, hexact, hcmp]


theorem intLog_eq {v : ℚ} {k : Int} (hlo : (2 : ℚ) ^ k ≤ v) (hhi : v < 2 ^ (k + 1)) : Int.log 2 v = k := by
  have hpos : 0 < v := lt_of_lt_of_le (by positivity) hlo
  have h1 : k ≤ Int.log 2 v := (Int.zpow_le_iff_le_log one_lt_two hpos).mp (by exact_mod_cast hlo)
  have h2 : Int.log 2 v < k + 1 := (Int.lt_zpow_iff_log_lt one_lt_two hpos).mp (by exact_mod_cast hhi)
  omega

theorem zpow_of_nonneg {k : Int} (h : 0 ≤ k) : (2 : ℚ) ^ k = (2 ^ k.toNat : Nat) := by
  obtain ⟨n, rfl⟩ := Int.eq_ofNat_of_zero_le h
  simp

theorem zpow_of_neg {k : Int} (h : k < 0) : (2 : ℚ) ^ k = ((2 ^ (-k).toNat : Nat) : ℚ)⁻¹ := by
  rw [← zpow_of_nonneg (by omega), zpow_neg, inv_inv]

theorem log2_bounds {n : Nat} (h : 0 < n) : (2 : ℚ) ^ (Nat.log2 n : Int) ≤ n ∧ (n : ℚ) < 2 ^ ((Nat.log2 n : Int) + 1) := by
  constructor
  · exact_mod_cast Nat.log2_self_le h.ne'
  · exact_mod_cast Nat.lt_log2_self (n := n)

theorem log2Rat_eq_log {num den : Nat} (hn : 0 < num) (hd : 0 < den) : log2Rat num den = Int.log 2 ((num : ℚ) / den) := by
  obtain ⟨hnlo, hnhi⟩ := log2_bounds hn
  obtain ⟨hdlo, hdhi⟩ := log2_bounds hd
  have hd' : (0 : ℚ) < den := by exact_mod_cast hd
  set k : Int := (Nat.log2 num : Int) - Nat.log2 den with hk
  have hup : (if 0 ≤ k then den * 2 ^ k.toNat ≤ num else den ≤ num * 2 ^ (-k).toNat) ↔ (2 : ℚ) ^ k ≤ num / den := by
    rw [le_div_iff₀ hd']
    split
    case isTrue h => rw [zpow_of_nonneg h, mul_comm]; exact_mod_cast Iff.rfl
    case isFalse h =>
      have hp : (0 : ℚ) < (2 ^ (-k).toNat : Nat) := by positivity
      rw [zpow_of_neg (not_le.mp h), inv_mul_le_iff₀ hp, mul_comm _ (num : ℚ)]
      exact_mod_cast Iff.rfl
  have hlow : (2 : ℚ) ^ (k - 1) ≤ num / den := by
    rw [le_div_iff₀ hd']
    calc (2 : ℚ) ^ (k - 1) * den ≤ 2 ^ (k - 1) * 2 ^ ((Nat.log2 den : Int) + 1) := by gcongr
      _ = 2 ^ (Nat.log2 num : Int) := by rw [← zpow_add₀ two_ne_zero]; congr 1; omega
      _ ≤ num := hnlo
  have hhigh : (num : ℚ) / den < 2 ^ (k + 1) := by
    rw [div_lt_iff₀ hd']
    calc (num : ℚ) < 2 ^ ((Nat.log2 num : Int) + 1) := hnhi
      _ = 2 ^ (k + 1) * 2 ^ (Nat.log2 den : Int) := by rw [← zpow_add₀ two_ne_zero]; congr 1; omega
      _ ≤ 2 ^ (k + 1) * den := by gcongr
  unfold log2Rat
  simp only [← hk]
  by_cases h : (2 : ℚ) ^ k ≤ num / den
  · rw [if_pos (hup.mpr h), intLog_eq h hhigh]
  · rw [if_neg (mt hup.mp h), intLog_eq hlow (by rw [sub_add_cancel]; exact not_le.mp h)]

/-! ## The code that a magnitude rounds to -/

/-- The exponent of the unit in the last place of a magnitude. -/
def ulpExp (f : FFmt) (v : ℚ) : Int := max f.emin (Int.log 2 v) - f.frac

/-- The code of a positive magnitude, rounded with the exponent range unbounded above. -/
def roundCode (f : FFmt) (r : Rnd) (neg : Bool) (v : ℚ) : Nat :=
  (ulpExp f v - f.qmin).toNat * 2 ^ f.frac + roundNat r neg (v / 2 ^ ulpExp f v)

theorem roundMag_eq_roundCode (f : FFmt) (r : Rnd) (neg : Bool) {num den : Nat} (hn : 0 < num) (hd : 0 < den) :
    roundMag f r neg num den = roundCode f r neg ((num : ℚ) / den) := by
  have hexp : (if log2Rat num den < f.emin then f.emin else log2Rat num den) - (f.frac : Int) = ulpExp f ((num : ℚ) / den) := by
    rw [log2Rat_eq_log hn hd, ulpExp, max_def_lt]
    split <;> split <;> omega
  unfold roundMag roundCode
  simp only [hexp, FFmt.qmin]
  congr 1
  split
  case isTrue h =>
    rw [roundInt_eq_roundNat _ _ _ (by positivity), zpow_of_nonneg h, div_div]
    push_cast
    rfl
  case isFalse h =>
    rw [roundInt_eq_roundNat _ _ _ hd, zpow_of_neg (not_le.mp h), div_inv_eq_mul]
    push_cast
    rw [div_mul_eq_mul_div]

/-- The unit's exponent is not below the format's least one. -/
theorem qmin_add_ulpExp (f : FFmt) (v : ℚ) : f.qmin + ((ulpExp f v - f.qmin).toNat : Int) = ulpExp f v := by
  simp only [ulpExp, FFmt.qmin]
  omega

/-- A magnitude above the least binade has a full significand. -/
theorem floor_units_ge (f : FFmt) {v : ℚ} (hv : 0 < v) :
    (ulpExp f v - f.qmin).toNat = 0 ∨ 2 ^ f.frac ≤ ⌊v / 2 ^ ulpExp f v⌋₊ := by
  rcases Nat.eq_zero_or_pos (ulpExp f v - f.qmin).toNat with h | h
  · exact .inl h
  · have hlog : Int.log 2 v = ulpExp f v + f.frac := by
      simp only [ulpExp, FFmt.qmin] at h ⊢
      omega
    have hle := Int.zpow_log_le_self one_lt_two hv
    rw [hlog] at hle
    refine .inr (Nat.le_floor ?_)
    rw [le_div_iff₀ (by positivity)]
    push_cast at hle ⊢
    rwa [zpow_add₀ two_ne_zero, mul_comm, zpow_natCast] at hle

/-- The significand of a magnitude fits its format. -/
theorem floor_units_lt (f : FFmt) {v : ℚ} (hv : 0 < v) : ⌊v / 2 ^ ulpExp f v⌋₊ < 2 ^ (f.frac + 1) := by
  have hlt : v < 2 ^ (ulpExp f v + f.frac + 1) := by
    refine (Int.lt_zpow_succ_log_self one_lt_two v).trans_le ?_
    push_cast
    refine zpow_le_zpow_right₀ one_le_two ?_
    simp only [ulpExp]
    omega
  refine (Nat.floor_lt (by positivity)).mpr ?_
  rw [div_lt_iff₀ (by positivity)]
  push_cast
  rwa [add_assoc, zpow_add₀ two_ne_zero, mul_comm, ← Nat.cast_succ, zpow_natCast] at hlt

/-- A magnitude lies between two neighbouring codes, and the mode chooses one of them. -/
theorem roundCode_spec (f : FFmt) (r : Rnd) (neg : Bool) {v : ℚ} (hv : 0 < v) : ∃ d,
    magnitude f d ≤ v ∧ v < magnitude f (d + 1) ∧
    roundCode f r neg v = if roundsUp r neg (d % 2 == 1) (decide (magnitude f d ≠ v))
      (compare (2 * (v - magnitude f d)) (magnitude f (d + 1) - magnitude f d)) then d + 1 else d := by
  set q := ulpExp f v with hq
  set y := v / 2 ^ q with hy
  set j := (q - f.qmin).toNat with hj
  have hunit : (0 : ℚ) < 2 ^ q := by positivity
  have hvy : v = y * 2 ^ q := by rw [hy]; field_simp
  have hy0 : 0 ≤ y := by positivity
  have hqmin : f.qmin + j = q := qmin_add_ulpExp f v
  have hfloor : j = 0 ∨ 2 ^ f.frac ≤ ⌊y⌋₊ := floor_units_ge f hv
  have hbelow : ⌊y⌋₊ + 1 ≤ 2 ^ (f.frac + 1) := floor_units_lt f hv
  have hd : magnitude f (j * 2 ^ f.frac + ⌊y⌋₊) = ⌊y⌋₊ * 2 ^ q := by
    rw [magnitude_code f hfloor (by omega), hqmin]
  have hd1 : magnitude f (j * 2 ^ f.frac + ⌊y⌋₊ + 1) = (⌊y⌋₊ + 1) * 2 ^ q := by
    rw [Nat.add_assoc, magnitude_code f (hfloor.imp_right (Nat.le_succ_of_le ·)) hbelow, hqmin]
    push_cast
    rfl
  have hodd : (j * 2 ^ f.frac + ⌊y⌋₊) % 2 = ⌊y⌋₊ % 2 := by
    cases f <;> simp only [FFmt.frac] <;> omega
  have hexact : decide (magnitude f (j * 2 ^ f.frac + ⌊y⌋₊) ≠ v) = decide ((⌊y⌋₊ : ℚ) ≠ y) := by
    rw [hd, hvy]
    simp [hunit.ne']
  have hcmp : compare (2 * (v - ⌊y⌋₊ * 2 ^ q)) ((⌊y⌋₊ + 1) * 2 ^ q - ⌊y⌋₊ * 2 ^ q) = compare (2 * (y - ⌊y⌋₊)) 1 := by
    rw [← compare_mul_right hunit (a := 2 * (y - _)), hvy]
    congr 1 <;> ring
  refine ⟨j * 2 ^ f.frac + ⌊y⌋₊, ?_, ?_, ?_⟩
  · rw [hd, hvy]
    exact mul_le_mul_of_nonneg_right (Nat.floor_le hy0) hunit.le
  · rw [hd1, hvy]
    exact mul_lt_mul_of_pos_right (Nat.lt_floor_add_one y) hunit
  · rw [hodd, hexact, hd, hd1, hcmp]
    simp only [roundCode, ← hq, ← hj, ← hy, roundNat]
    split <;> rfl

end Sys2Proof.Machine

/-! # What each mode asks of a rounded code (R98, R99) -/

namespace Sys2Proof.Machine

open Sys2Proof.Claims

section
variable {f : FFmt} {r : Rnd} {neg : Bool} {v : ℚ}

theorem roundsUp_exact (r : Rnd) (neg odd : Bool) : roundsUp r neg odd false .lt = false := by
  cases r <;> cases neg <;> rfl

/-- The codes beside a magnitude: the rounded code is the lower one, or, when the magnitude is not exact, the upper one. -/
theorem roundCode_cases (r : Rnd) (neg : Bool) (hv : 0 < v) : ∃ d, magnitude f d ≤ v ∧ v < magnitude f (d + 1) ∧
    (roundCode f r neg v = d ∨ (roundCode f r neg v = d + 1 ∧ magnitude f d < v)) := by
  obtain ⟨d, hlo, hhi, hc⟩ := roundCode_spec f r neg hv
  refine ⟨d, hlo, hhi, ?_⟩
  rcases hlo.lt_or_eq with hlt | heq
  · rw [hc]
    split
    · exact .inr ⟨rfl, hlt⟩
    · exact .inl rfl
  · have hcmp : compare (2 * (v - magnitude f d)) (magnitude f (d + 1) - magnitude f d) = .lt := by
      rw [compare_lt_iff_lt]
      linarith
    refine .inl ?_
    rw [hc, hcmp, decide_eq_false (not_not.mpr heq), roundsUp_exact]
    rfl

theorem roundCode_le {k : Nat} (hv : 0 < v) (h : v ≤ magnitude f k) : roundCode f r neg v ≤ k := by
  obtain ⟨d, hlo, -, hc | ⟨hc, hlt⟩⟩ := roundCode_cases (f := f) r neg hv
  · exact hc.trans_le ((magnitude_strictMono f).le_iff_le.mp (hlo.trans h))
  · exact hc.trans_le ((magnitude_strictMono f).lt_iff_lt.mp (hlt.trans_le h))

theorem le_roundCode {k : Nat} (hv : 0 < v) (h : magnitude f k ≤ v) : k ≤ roundCode f r neg v := by
  obtain ⟨d, -, hhi, hc⟩ := roundCode_cases (f := f) r neg hv
  have hk := (magnitude_strictMono f).lt_iff_lt.mp (h.trans_lt hhi)
  omega

/-- A magnitude that has a code rounds to it. -/
theorem roundCode_magnitude {k : Nat} (hk : 0 < magnitude f k) : roundCode f r neg (magnitude f k) = k :=
  (roundCode_le hk le_rfl).antisymm (le_roundCode hk le_rfl)

/-- Whether a mode rounds a magnitude of a sign towards zero. -/
def roundsDown : Rnd → Bool → Prop
  | .rne, _ => False
  | .rtz, _ => True
  | .rdn, neg => neg = false
  | .rup, neg => neg = true

/-- Whether a mode rounds a magnitude of a sign away from zero. -/
def roundsAway : Rnd → Bool → Prop
  | .rne, _ => False
  | .rtz, _ => False
  | .rdn, neg => neg = true
  | .rup, neg => neg = false

theorem roundsUp_of_down (h : roundsDown r neg) (odd inexact : Bool) (c : Ordering) : roundsUp r neg odd inexact c = false := by
  cases r <;> cases neg <;> simp_all [roundsDown, roundsUp]

theorem roundsUp_of_away (h : roundsAway r neg) (odd inexact : Bool) (c : Ordering) :
    roundsUp r neg odd inexact c = inexact := by
  cases r <;> cases neg <;> simp_all [roundsAway, roundsUp]

theorem roundCode_down (h : roundsDown r neg) (hv : 0 < v) :
    magnitude f (roundCode f r neg v) ≤ v ∧ v < magnitude f (roundCode f r neg v + 1) := by
  obtain ⟨d, hlo, hhi, hc⟩ := roundCode_spec f r neg hv
  rw [hc, roundsUp_of_down h]
  exact ⟨hlo, hhi⟩

theorem roundCode_up (h : roundsAway r neg) (hv : 0 < v) :
    v ≤ magnitude f (roundCode f r neg v) ∧ (0 < roundCode f r neg v → magnitude f (roundCode f r neg v - 1) < v) := by
  obtain ⟨d, hlo, hhi, hc⟩ := roundCode_spec f r neg hv
  rw [hc, roundsUp_of_away h]
  by_cases hex : magnitude f d = v
  · simp only [hex, ne_eq, not_true_eq_false, decide_false, Bool.false_eq_true, if_false, le_refl, true_and]
    intro hd
    rw [← hex]
    exact magnitude_strictMono f (Nat.sub_lt hd one_pos)
  · simp only [ne_eq, hex, not_false_eq_true, decide_true, if_true, Nat.add_sub_cancel]
    exact ⟨hhi.le, fun _ => lt_of_le_of_ne hlo hex⟩

/-- The nearer of the two codes beside a magnitude is the nearest of all; a second one as near is the other of the two. -/
theorem nearest_of_neighbour {c d : Nat} {x y : ℚ} (hlo : magnitude f d ≤ v) (hhi : v < magnitude f (d + 1))
    (hc : c = d ∧ x = v - magnitude f d ∧ y = magnitude f (d + 1) - v ∨
      c = d + 1 ∧ x = magnitude f (d + 1) - v ∧ y = v - magnitude f d) (hxy : x ≤ y) (hpar : x = y → c % 2 = 0) (k : Nat) :
    |v - magnitude f c| ≤ |v - magnitude f k| ∧ (|v - magnitude f c| = |v - magnitude f k| → k ≠ c → c % 2 = 0) := by
  have hmono := magnitude_strictMono f
  have hk : |v - magnitude f k| = (if k ≤ d then v - magnitude f k else magnitude f k - v) ∧
      (k ≤ d → magnitude f k ≤ magnitude f d ∧ (magnitude f k = magnitude f d → k = d)) ∧
      (d < k → magnitude f (d + 1) ≤ magnitude f k ∧ (magnitude f k = magnitude f (d + 1) → k = d + 1)) := by
    refine ⟨?_, fun h => ⟨hmono.monotone h, fun e => hmono.injective e⟩,
      fun h => ⟨hmono.monotone h, fun e => hmono.injective e⟩⟩
    split
    case isTrue h => exact abs_of_nonneg (sub_nonneg.mpr ((hmono.monotone h).trans hlo))
    case isFalse h =>
      rw [abs_sub_comm]
      exact abs_of_nonneg (sub_nonneg.mpr (hhi.le.trans (hmono.monotone (not_le.mp h))))
  have hx : |v - magnitude f c| = x := by
    rcases hc with ⟨rfl, rfl, -⟩ | ⟨rfl, rfl, -⟩
    · exact abs_of_nonneg (sub_nonneg.mpr hlo)
    · rw [abs_sub_comm]
      exact abs_of_nonneg (sub_nonneg.mpr hhi.le)
  obtain ⟨habs, hbelow, habove⟩ := hk
  rw [hx, habs]
  rcases le_or_gt k d with h | h
  · obtain ⟨hle, hinj⟩ := hbelow h
    rw [if_pos h]
    rcases hc with ⟨rfl, rfl, rfl⟩ | ⟨rfl, rfl, rfl⟩
    · exact ⟨by linarith, fun e hne => absurd (hinj (by linarith)) hne⟩
    · exact ⟨by linarith, fun e _ => hpar (by linarith)⟩
  · obtain ⟨hle, hinj⟩ := habove h
    rw [if_neg (not_le.mpr h)]
    rcases hc with ⟨rfl, rfl, rfl⟩ | ⟨rfl, rfl, rfl⟩
    · exact ⟨by linarith, fun e _ => hpar (by linarith)⟩
    · exact ⟨by linarith, fun e hne => absurd (hinj (by linarith)) hne⟩

theorem roundCode_nearest (neg : Bool) (hv : 0 < v) (k : Nat) :
    |v - magnitude f (roundCode f .rne neg v)| ≤ |v - magnitude f k| ∧
      (|v - magnitude f (roundCode f .rne neg v)| = |v - magnitude f k| → k ≠ roundCode f .rne neg v →
        roundCode f .rne neg v % 2 = 0) := by
  obtain ⟨d, hlo, hhi, hc⟩ := roundCode_spec f .rne neg hv
  rcases hcmp : compare (2 * (v - magnitude f d)) (magnitude f (d + 1) - magnitude f d) with _ | _ | _ <;>
    rw [hcmp] at hc
  case lt =>
    have hlt := compare_lt_iff_lt.mp hcmp
    refine nearest_of_neighbour hlo hhi (.inl ⟨hc, rfl, rfl⟩) (by linarith) (fun e => by linarith) k
  case eq =>
    have heq := compare_eq_iff_eq.mp hcmp
    rcases Nat.mod_two_eq_zero_or_one d with hd | hd
    · have hc' : roundCode f .rne neg v = d := by simpa [roundsUp, hd] using hc
      exact nearest_of_neighbour hlo hhi (.inl ⟨hc', rfl, rfl⟩) (by linarith) (fun _ => by omega) k
    · have hc' : roundCode f .rne neg v = d + 1 := by simpa [roundsUp, hd] using hc
      exact nearest_of_neighbour hlo hhi (.inr ⟨hc', rfl, rfl⟩) (by linarith) (fun _ => by omega) k
  case gt =>
    have hgt := compare_gt_iff_gt.mp hcmp
    refine nearest_of_neighbour hlo hhi (.inr ⟨hc, rfl, rfl⟩) (by linarith) (fun e => by linarith) k

end

/-- The result of a magnitude beyond the largest finite one. -/
theorem overflow_eq (f : FFmt) (r : Rnd) (sat neg : Bool) : overflow f r sat neg =
    if sat then ⟨f.sign neg + f.maxCode, some 0x44⟩
    else if f = .e4m3 then ⟨0x7F, some 0x42⟩
    else if r = .rtz ∨ (r = .rdn ∧ !neg) ∨ (r = .rup ∧ neg) then ⟨f.sign neg + f.maxCode, some 0x42⟩
    else ⟨f.sign neg + f.maxCode + 1, some 0x42⟩ := by
  cases f <;> cases r <;> cases sat <;> cases neg <;> rfl

/-- R98, R99: the code of a rounded magnitude, and the results beyond the largest finite one. -/
theorem roundingIsCorrect : RoundingIsCorrect := by
  intro f r sat neg num den hn hd x c down up
  have hx : 0 < x := by positivity
  have hc : c = roundCode f r neg x := roundMag_eq_roundCode f r neg hn hd
  have hdown (h : roundsDown r neg) : down := by
    simp only [down, hc]
    exact roundCode_down h hx
  have hup (h : roundsAway r neg) : up := by
    simp only [up, hc]
    exact roundCode_up h hx
  refine ⟨?rtz, ?rdn, ?rup, ?rne, ?result⟩
  case rtz =>
    rintro rfl
    exact hdown trivial
  case rdn =>
    rintro rfl
    split
    case isTrue h => exact hup h
    case isFalse h => exact hdown (eq_false_of_ne_true h)
  case rup =>
    rintro rfl
    split
    case isTrue h => exact hdown h
    case isFalse h => exact hup (eq_false_of_ne_true h)
  case rne =>
    rintro rfl k
    rw [hc]
    exact roundCode_nearest neg hx k
  case result =>
    rw [← overflow_eq]
    simp only [roundRat, hn.ne', if_false]
    rfl

end Sys2Proof.Machine

/-! # The values of codes, and exact results rounded (R96, R97, R213, R214) -/

namespace Sys2Proof.Machine

open Sys2Proof.Claims

/-! ## What a code stands for (R96) -/

theorem infinite_iff (f : FFmt) (a : Nat) : infinite f a = true ↔ f.infCode = some (a % 2 ^ (f.width - 1)) := by
  cases f <;> simp [infinite, topExp, expField, fracField, FFmt.width, FFmt.frac, FFmt.infCode] <;> omega

theorem nanCode_iff (f : FFmt) (a : Nat) : nanCode f a = true ↔
    f.maxCode < a % 2 ^ (f.width - 1) ∧ f.infCode ≠ some (a % 2 ^ (f.width - 1)) := by
  cases f <;> simp [nanCode, topExp, expField, fracField, FFmt.width, FFmt.frac, FFmt.infCode, FFmt.maxCode] <;> omega

theorem maxCode_lt_of_infCode {f : FFmt} {i : Nat} (h : f.infCode = some i) : i = f.maxCode + 1 := by
  cases f <;> cases h <;> rfl

/-- A code is NaN, an infinity, or at most the largest finite one. -/
theorem finite_iff (f : FFmt) (a : Nat) :
    (nanCode f a || infinite f a) = false ↔ a % 2 ^ (f.width - 1) ≤ f.maxCode := by
  rw [Bool.or_eq_false_iff, ← Bool.not_eq_true, ← Bool.not_eq_true, nanCode_iff, infinite_iff]
  refine ⟨fun ⟨hn, hi⟩ => not_lt.mp fun h => hn ⟨h, hi⟩, fun h => ⟨fun hn => absurd hn.1 (not_lt.mpr h), fun hi => ?_⟩⟩
  have := maxCode_lt_of_infCode hi
  omega

theorem number_eq_some_iff (f : FFmt) (a : Nat) (x : ℚ) : number f a = some x ↔ a % 2 ^ (f.width - 1) ≤ f.maxCode ∧
    x = (if signBit f a then -1 else 1) * magnitude f (a % 2 ^ (f.width - 1)) := by
  rw [← finite_iff, number, signBit]
  cases nanCode f a || infinite f a <;> simp [@eq_comm ℚ x]

theorem fval_of_nanCode {f : FFmt} {a : Nat} (h : nanCode f a = true) : fval f a = .nan := by
  obtain ⟨hmax, hinf⟩ := (nanCode_iff f a).mp h
  simp only [fval, hmax, if_true, hinf, if_false]

theorem fval_of_infinite {f : FFmt} {a : Nat} (h : infinite f a = true) : fval f a = .inf (signBit f a) := by
  have hinf := (infinite_iff f a).mp h
  have hmax : f.maxCode < a % 2 ^ (f.width - 1) := by
    have := maxCode_lt_of_infCode hinf
    omega
  simp only [fval, hmax, if_true, hinf, natBit_eq_testBit, signBit]

/-- The number that a value stands for; 0 for NaN and for the infinities. -/
def FVal.rat : FVal → ℚ
  | .num neg m e => (signed neg m : ℚ) * 2 ^ e
  | _ => 0

theorem signed_cast (neg : Bool) (m : Nat) : ((signed neg m : Int) : ℚ) = (if neg then -1 else 1) * m := by
  cases neg <;> simp [signed]

/-- The value of a number's code: its sign, a significand and an exponent within the format. -/
theorem fval_of_number {f : FFmt} {a : Nat} {x : ℚ} (h : number f a = some x) :
    ∃ m e, fval f a = .num (signBit f a) m e ∧ x = (FVal.num (signBit f a) m e).rat ∧ m < 2 ^ (f.frac + 1) ∧
      f.qmin ≤ e ∧ e ≤ 120 := by
  obtain ⟨hmax, rfl⟩ := (number_eq_some_iff f a x).mp h
  have hmod := Nat.mod_lt (a % 2 ^ (f.width - 1)) (Nat.two_pow_pos f.frac)
  simp only [fval, not_lt.mpr hmax, if_false, natBit_eq_testBit, FVal.rat, signed_cast, mul_assoc, magnitude]
  rw [signBit, pow_succ]
  split
  case isTrue hz =>
    refine ⟨_, _, rfl, ?_, by omega, le_rfl, ?_⟩
    · congr 3
      have := Nat.div_add_mod' (a % 2 ^ (f.width - 1)) (2 ^ f.frac)
      rw [hz] at this
      omega
    · cases f <;> decide
  case isFalse hz =>
    refine ⟨_, _, rfl, ?_, by omega, ?_, ?_⟩
    · congr 3
      ring
    · have hex : (0 : Int) < (a % 2 ^ (f.width - 1) / 2 ^ f.frac : Nat) := by exact_mod_cast Nat.pos_of_ne_zero hz
      simp only [FFmt.qmin]
      omega
    · clear hmod
      revert hmax hz
      cases f <;> simp only [FFmt.width, FFmt.frac, FFmt.emin, FFmt.maxCode] <;> omega

end Sys2Proof.Machine

/-! # Exact results, rounded once (R97 to R99, R213, R214) -/

namespace Sys2Proof.Machine

open Sys2Proof.Claims

/-! ## Rounding depends on the exact value alone -/

/-- The result of a positive magnitude of a sign. -/
def roundedMag (f : FFmt) (r : Rnd) (sat neg : Bool) (v : ℚ) : FRes :=
  if roundCode f r neg v ≤ f.maxCode then .plain (f.sign neg + roundCode f r neg v) else overflow f r sat neg

section
variable {f : FFmt} {r : Rnd} {sat neg z : Bool} {x : ℚ}

theorem roundRat_of_pos {num den : Nat} (hn : 0 < num) (hd : 0 < den) :
    roundRat f r sat neg num den = roundedMag f r sat neg ((num : ℚ) / den) := by
  simp only [roundRat, hn.ne', if_false, roundMag_eq_roundCode f r neg hn hd]
  rfl

theorem convertExact_of_ne (hx : x ≠ 0) : convertExact f r sat z x = roundedMag f r sat (x < 0) |x| := by
  have habs : ((x.num.natAbs : Nat) : ℚ) / x.den = |x| := by
    conv_rhs => rw [← Rat.num_div_den x, abs_div, Nat.abs_cast, ← Int.cast_abs, Int.abs_eq_natAbs, Int.cast_natCast]
  rw [convertExact, if_neg hx, roundRat_of_pos (Int.natAbs_pos.mpr (Rat.num_ne_zero.mpr hx)) x.den_pos, habs]

/-- Only an exact 0 takes the sign given for it. -/
theorem convertExact_zero_irrelevant (hx : x ≠ 0) (z z' : Bool) : convertExact f r sat z x = convertExact f r sat z' x := by
  rw [convertExact_of_ne hx, convertExact_of_ne hx]

theorem convertExact_zero : convertExact f r sat z 0 = .plain (f.sign z) := rfl

theorem roundRat_eq_convertExact {num den : Nat} (hd : 0 < den) (hx : x = (if neg then -1 else 1) * ((num : ℚ) / den)) :
    roundRat f r sat neg num den = convertExact f r sat neg x := by
  rcases Nat.eq_zero_or_pos num with rfl | hn
  · rw [hx, Nat.cast_zero, zero_div, mul_zero, convertExact_zero, roundRat, if_pos rfl]
  · have hv : (0 : ℚ) < num / den := by positivity
    have hx0 : x ≠ 0 := by
      rw [hx]
      exact mul_ne_zero (by cases neg <;> simp) hv.ne'
    have hneg : decide (x < 0) = neg := by
      cases neg <;> simp [hx, hv, hv.le]
    have habs : |x| = num / den := by
      rw [hx, abs_mul, abs_of_pos hv]
      cases neg <;> simp
    rw [roundRat_of_pos hn hd, convertExact_of_ne hx0, hneg, habs]

theorem clampExp_eq {e : Int} (hlo : -4000 ≤ e) (hhi : e ≤ 4000) : clampExp e = e := by
  rw [clampExp, if_neg (by omega), if_neg (by omega)]

theorem roundQuot_eq (neg : Bool) (m : Nat) {n : Nat} {e : Int} (hn : 0 < n) (hlo : -4000 ≤ e) (hhi : e ≤ 4000) :
    roundQuot f r sat neg m n e = convertExact f r sat neg ((FVal.num neg m e).rat / n) := by
  have hn' : (n : ℚ) ≠ 0 := by exact_mod_cast hn.ne'
  simp only [roundQuot, clampExp_eq hlo hhi, FVal.rat, signed_cast]
  split
  case isTrue h =>
    refine roundRat_eq_convertExact hn ?_
    rw [zpow_of_nonneg h]
    push_cast
    ring
  case isFalse h =>
    refine roundRat_eq_convertExact (by positivity) ?_
    rw [zpow_of_neg (not_le.mp h)]
    push_cast
    field_simp

theorem roundDy_eq (neg : Bool) (m : Nat) {e : Int} (hlo : -4000 ≤ e) (hhi : e ≤ 4000) :
    roundDy f r sat neg m e = convertExact f r sat neg (FVal.num neg m e).rat := by
  rw [← div_one (FVal.rat _), ← Nat.cast_one (R := ℚ), ← roundQuot_eq neg m one_pos hlo hhi]
  simp only [roundDy, roundQuot, Nat.one_mul]

theorem convert_num {m : Nat} {e : Int} (hlo : -4000 ≤ e) (hhi : e ≤ 4000) :
    convert f r sat (.num neg m e) = convertExact f r sat neg (FVal.num neg m e).rat := roundDy_eq neg m hlo hhi

theorem finish_num {m : Nat} {e : Int} (hlo : -4000 ≤ e) (hhi : e ≤ 4000) (n : Bool) :
    finish f r n (.num neg m e) = convertExact f r false neg (FVal.num neg m e).rat := convert_num hlo hhi

end

/-! ## Exact sums, products and quotients -/

theorem rat_false (m : Nat) (e : Int) : (FVal.num false m e).rat = m * 2 ^ e := by
  rw [FVal.rat, signed_cast, if_neg Bool.false_ne_true, one_mul]

theorem rat_natAbs (v : Int) (e : Int) : (FVal.num (v < 0) v.natAbs e).rat = v * 2 ^ e := by
  have hsign : signed (v < 0) v.natAbs = v := by
    rw [signed]
    split
    case isTrue h => have := of_decide_eq_true h; omega
    case isFalse h => have := of_decide_eq_false (eq_false_of_ne_true h); omega
  rw [FVal.rat, hsign]

theorem signed_shift (neg : Bool) (m : Nat) {e lo : Int} (h : lo ≤ e) :
    ((signed neg (m * 2 ^ (e - lo).toNat) : Int) : ℚ) * 2 ^ lo = (FVal.num neg m e).rat := by
  have hpow : (2 : ℚ) ^ e = 2 ^ (e - lo).toNat * 2 ^ lo := by
    rw [← zpow_natCast, ← zpow_add₀ two_ne_zero]
    congr 1
    omega
  rw [FVal.rat, signed_cast, signed_cast, hpow]
  push_cast
  ring

/-- The exact sum of two numbers; a sum that is 0 has the sign of R214. -/
theorem faddExact_num (r : Rnd) (a b : Bool) (m n : Nat) (e k : Int) : ∃ s p, faddExact r (.num a m e) (.num b n k) =
      .num s p (min e k) ∧ (FVal.num s p (min e k)).rat = (FVal.num a m e).rat + (FVal.num b n k).rat ∧
    ((FVal.num a m e).rat + (FVal.num b n k).rat = 0 → s = if a = b then a else r == .rdn) := by
  have hlo : (if e ≤ k then e else k) = min e k := (min_def e k).symm
  have hsum := congrArg₂ (· + ·) (signed_shift a m (min_le_left e k)) (signed_shift b n (min_le_right e k))
  simp only [← add_mul, ← Int.cast_add] at hsum
  simp only [faddExact, hlo]
  split
  case isTrue hz =>
    refine ⟨_, _, rfl, ?_, fun _ => rfl⟩
    rw [← hsum, hz, FVal.rat, signed_cast, Nat.cast_zero, Int.cast_zero, mul_zero]
  case isFalse hz =>
    refine ⟨_, _, rfl, (rat_natAbs _ _).trans hsum, fun h => ?_⟩
    rw [← hsum] at h
    exact absurd h (mul_ne_zero (Int.cast_ne_zero.mpr hz) (by positivity))

theorem rat_mul (a b : Bool) (m n : Nat) (e k : Int) :
    (FVal.num (a != b) (m * n) (e + k)).rat = (FVal.num a m e).rat * (FVal.num b n k).rat := by
  simp only [FVal.rat, signed_cast, zpow_add₀ (two_ne_zero (α := ℚ))]
  push_cast
  cases a <;> cases b <;> simp <;> ring

theorem rat_div (a b : Bool) (m n : Nat) (e k : Int) :
    (FVal.num (a != b) m (e - k)).rat / n = (FVal.num a m e).rat / (FVal.num b n k).rat := by
  simp only [FVal.rat, signed_cast, zpow_sub₀ (two_ne_zero (α := ℚ))]
  cases a <;> cases b <;> simp [div_eq_mul_inv] <;> ring

theorem rat_neg (b : Bool) (n : Nat) (k : Int) : (FVal.num (!b) n k).rat = -(FVal.num b n k).rat := by
  simp only [FVal.rat, signed_cast]
  cases b <;> simp

section
variable {f : FFmt} {r : Rnd} {a b : Bool} {m n : Nat} {e k : Int}

theorem finish_faddExact (hlo : -4000 ≤ min e k) (hhi : min e k ≤ 4000) (anyNan : Bool) :
    finish f r anyNan (faddExact r (.num a m e) (.num b n k)) =
      convertExact f r false (if a = b then a else r == .rdn) ((FVal.num a m e).rat + (FVal.num b n k).rat) := by
  obtain ⟨s, p, heq, hrat, hzero⟩ := faddExact_num r a b m n e k
  rw [heq, finish_num hlo hhi, hrat]
  by_cases hx : (FVal.num a m e).rat + (FVal.num b n k).rat = 0
  · rw [hzero hx]
  · exact convertExact_zero_irrelevant hx _ _

theorem fdivSat_num {sat : Bool} (hn : n ≠ 0) (hlo : -4000 ≤ e - k) (hhi : e - k ≤ 4000) :
    fdivSat f r sat (.num a m e) (.num b n k) =
      convertExact f r sat (a != b) ((FVal.num a m e).rat / (FVal.num b n k).rat) := by
  rw [← rat_div, ← roundQuot_eq (a != b) m (Nat.pos_of_ne_zero hn) hlo hhi]
  simp only [fdivSat, hn, if_false]

end

theorem FFmt.qmin_ge (f : FFmt) : -149 ≤ f.qmin := by cases f <;> decide

/-- R213, R214: sums, differences, products, quotients and fused products of numbers. -/
theorem floatExactThenRounded : FloatExactThenRounded := by
  intro f r a b c x y z _ _ _ hx hy hz zero
  obtain ⟨m, e, ha, rfl, -, hel, heh⟩ := fval_of_number hx
  obtain ⟨n, k, hb, rfl, -, hkl, hkh⟩ := fval_of_number hy
  obtain ⟨p, l, hc, rfl, -, hll, hlh⟩ := fval_of_number hz
  have hq := f.qmin_ge
  rw [ha, hb, hc]
  refine ⟨?add, ?sub, ?mul, ?fma, ?div⟩
  case add => exact finish_faddExact (by omega) (by omega) _
  case sub =>
    rw [sub_eq_add_neg, ← rat_neg]
    exact finish_faddExact (by omega) (by omega) _
  case mul =>
    rw [← rat_mul]
    exact finish_num (by omega) (by omega) _
  case fma =>
    rw [← rat_mul]
    exact finish_faddExact (by omega) (by omega) _
  case div =>
    intro hne
    refine fdivSat_num ?_ (by omega) (by omega)
    rintro rfl
    exact hne (by simp [FVal.rat, signed_cast])

end Sys2Proof.Machine

/-! # Products by powers of two, reciprocals and integral values (R213, R218) -/

namespace Sys2Proof.Machine

open Sys2Proof.Claims

/-! ## Magnitudes far beyond a format's range -/

section
variable {f : FFmt} {r : Rnd} {sat neg : Bool} {v w : ℚ}

theorem magnitude_one (f : FFmt) : magnitude f 1 = 2 ^ f.qmin := by
  have h := magnitude_code f (j := 0) (N := 1) (.inl rfl) Nat.one_le_two_pow
  simpa using h

/-- A magnitude below half of the least code rounds to 0 or to the least code by its sign alone. -/
theorem roundCode_tiny (hv : 0 < v) (h : 2 * v < 2 ^ f.qmin) :
    roundCode f r neg v = if roundsUp r neg false true .lt then 1 else 0 := by
  obtain ⟨d, hlo, -, hc⟩ := roundCode_spec f r neg hv
  rw [← magnitude_one] at h
  have hd : d = 0 := Nat.lt_one_iff.mp ((magnitude_strictMono f).lt_iff_lt.mp (by linarith))
  have hcmp : compare (2 * v) (magnitude f 1) = .lt := compare_lt_iff_lt.mpr h
  simpa [hd, hcmp, hv.ne, hv.ne'] using hc

theorem roundedMag_of_huge (hv : 0 < v) (h : magnitude f (f.maxCode + 1) ≤ v) :
    roundedMag f r sat neg v = overflow f r sat neg :=
  if_neg (not_le.mpr (le_roundCode hv h))

theorem maxMagnitude_lt (f : FFmt) : magnitude f (f.maxCode + 1) ≤ 2 ^ (128 : Int) := by
  cases f <;> norm_num [magnitude, FFmt.maxCode, FFmt.frac, FFmt.emin]

theorem roundedMag_congr (hv : 0 < v) (hw : 0 < w)
    (h : (2 * v < 2 ^ f.qmin ∧ 2 * w < 2 ^ f.qmin) ∨ (2 ^ (128 : Int) ≤ v ∧ 2 ^ (128 : Int) ≤ w)) :
    roundedMag f r sat neg v = roundedMag f r sat neg w := by
  rcases h with ⟨h1, h2⟩ | ⟨h1, h2⟩
  · simp only [roundedMag, roundCode_tiny hv h1, roundCode_tiny hw h2]
  · rw [roundedMag_of_huge hv ((maxMagnitude_lt f).trans h1), roundedMag_of_huge hw ((maxMagnitude_lt f).trans h2)]

theorem convertExact_rat {m : Nat} (hm : m ≠ 0) (e : Int) :
    convertExact f r sat neg (FVal.num neg m e).rat = roundedMag f r sat neg (m * 2 ^ e) := by
  have hpos : (0 : ℚ) < m * 2 ^ e := mul_pos (by exact_mod_cast Nat.pos_of_ne_zero hm) (by positivity)
  have hrat : (FVal.num neg m e).rat = (if neg then -1 else 1) * (m * 2 ^ e) := by rw [FVal.rat, signed_cast, mul_assoc]
  have hsign : decide ((FVal.num neg m e).rat < 0) = neg ∧ |(FVal.num neg m e).rat| = m * 2 ^ e := by
    rw [hrat]
    cases neg
    · rw [if_neg Bool.false_ne_true, one_mul]
      exact ⟨decide_eq_false (not_lt.mpr hpos.le), abs_of_pos hpos⟩
    · rw [if_pos rfl, neg_one_mul, abs_neg]
      exact ⟨decide_eq_true (neg_neg_of_pos hpos), abs_of_pos hpos⟩
  have hne : (FVal.num neg m e).rat ≠ 0 := by
    rw [← abs_pos, hsign.2]
    exact hpos
  rw [convertExact_of_ne hne, hsign.1, hsign.2]

/-- R98, R99: a product by a power of two rounds alike wherever its exponent is clamped. -/
theorem roundDy_eq_all {m : Nat} (hm : m < 2 ^ 24) (e : Int) :
    roundDy f r sat neg m e = convertExact f r sat neg (FVal.num neg m e).rat := by
  have hclamp : clampExp (clampExp e) = clampExp e := by simp only [clampExp]; split_ifs <;> omega
  have hdy : roundDy f r sat neg m e = convertExact f r sat neg (FVal.num neg m (clampExp e)).rat := by
    rw [← roundDy_eq neg m (by simp only [clampExp]; split_ifs <;> omega) (by simp only [clampExp]; split_ifs <;> omega)]
    simp only [roundDy, hclamp]
  rw [hdy]
  rcases eq_or_ne m 0 with rfl | hm0
  · simp [FVal.rat, signed_cast]
  have hm1 : (1 : ℚ) ≤ m := by exact_mod_cast Nat.one_le_iff_ne_zero.mpr hm0
  have htiny (e : Int) (h : e ≤ -4000) : 2 * ((m : ℚ) * 2 ^ e) < 2 ^ f.qmin := by
    have hm' : (m : ℚ) < 2 ^ (24 : Int) := by exact_mod_cast hm
    have hq := f.qmin_ge
    calc 2 * ((m : ℚ) * 2 ^ e) < 2 * (2 ^ (24 : Int) * 2 ^ e) := by gcongr
      _ = 2 ^ (25 + e) := by rw [zpow_add₀ two_ne_zero, ← mul_assoc]; norm_num
      _ ≤ 2 ^ f.qmin := zpow_le_zpow_right₀ one_le_two (by omega)
  have hhuge (e : Int) (h : 128 ≤ e) : (2 : ℚ) ^ (128 : Int) ≤ m * 2 ^ e :=
    (zpow_le_zpow_right₀ one_le_two h).trans (le_mul_of_one_le_left (by positivity) hm1)
  rw [convertExact_rat hm0, convertExact_rat hm0]
  rcases lt_or_ge e (-4000) with hlo | hlo
  · have he : clampExp e = -4000 := if_pos hlo
    rw [he]
    exact roundedMag_congr (by positivity) (by positivity) (.inl ⟨htiny _ le_rfl, htiny e hlo.le⟩)
  rcases lt_or_ge 4000 e with hhi | hhi
  · have he : clampExp e = 4000 := by rw [clampExp, if_neg (by omega), if_pos hhi]
    rw [he]
    exact roundedMag_congr (by positivity) (by positivity) (.inr ⟨hhuge _ (by omega), hhuge e (by omega)⟩)
  · rw [clampExp_eq hlo hhi]

end

/-! ## Integers under a mode -/

section
variable {n : Nat} {t : ℚ}

theorem roundNat_add (r : Rnd) (neg : Bool) (h0 : 0 ≤ t) (h1 : t < 1) : roundNat r neg (n + t) =
    if roundsUp r neg (n % 2 == 1) (decide (t ≠ 0)) (compare (2 * t) 1) then n + 1 else n := by
  have hfloor : ⌊(n : ℚ) + t⌋₊ = n := (Nat.floor_eq_iff (by positivity)).mpr ⟨by linarith, by linarith⟩
  simp only [roundNat, hfloor, add_sub_cancel_left, ne_eq, left_eq_add]

theorem floor_add (h0 : 0 ≤ t) (h1 : t < 1) : ⌊(n : ℚ) + t⌋ = n :=
  Int.floor_eq_iff.mpr ⟨by push_cast; linarith, by push_cast; linarith⟩

theorem ceil_add (h0 : 0 ≤ t) (h1 : t < 1) : ⌈(n : ℚ) + t⌉ = if t = 0 then (n : Int) else n + 1 := by
  split
  case isTrue h => rw [h, add_zero, Int.ceil_natCast]
  case isFalse h =>
    have hpos := lt_of_le_of_ne h0 (Ne.symm h)
    exact Int.ceil_eq_iff.mpr ⟨by push_cast; linarith, by push_cast; linarith⟩

/-- Rounding to nearest even is the same below 0 as above. -/
theorem roundInteger_rne (neg : Bool) (h0 : 0 ≤ t) (h1 : t < 1) :
    roundInteger .rne ((if neg then -1 else 1) * (n + t)) = signed neg (roundNat .rne neg (n + t)) := by
  rw [roundNat_add _ _ h0 h1]
  have hnear (z : Int) (x : ℚ) (hlo : z - 1 / 2 < x) (hhi : x < z + 1 / 2) : roundInteger .rne x = z := by
    have hne : x - ⌊x⌋ ≠ 1 / 2 := by
      intro h
      have h2 : z - 1 < ⌊x⌋ := by
        have : ((z - 1 : Int) : ℚ) < (⌊x⌋ : Int) := by push_cast; linarith
        exact_mod_cast this
      have h3 : ⌊x⌋ < z := by
        have : ((⌊x⌋ : Int) : ℚ) < z := by linarith
        exact_mod_cast this
      omega
    simp only [roundInteger, hne, if_false]
    exact Int.floor_eq_iff.mpr ⟨by linarith, by linarith⟩
  have htie (z : Int) (x : ℚ) (h : x = z + 1 / 2) : roundInteger .rne x = if z % 2 = 0 then z else z + 1 := by
    have hfloor : ⌊x⌋ = z := Int.floor_eq_iff.mpr ⟨by linarith, by linarith⟩
    have hhalf : x - z = 1 / 2 := by linarith
    simp only [roundInteger, hfloor, hhalf, if_true]
  rcases hcmp : compare (2 * t) 1 with _ | _ | _
  case lt =>
    have ht := compare_lt_iff_lt.mp hcmp
    cases neg
    · exact hnear n _ (by push_cast; simp; linarith) (by push_cast; simp; linarith)
    · exact hnear (-n) _ (by push_cast; simp; linarith) (by push_cast; simp; linarith)
  case eq =>
    have ht := compare_eq_iff_eq.mp hcmp
    cases neg
    · rw [htie n _ (by push_cast; simp; linarith)]
      rcases Nat.mod_two_eq_zero_or_one n with h | h <;> simp [roundsUp, signed, h] <;> omega
    · rw [htie (-n - 1) _ (by push_cast; simp; linarith)]
      rcases Nat.mod_two_eq_zero_or_one n with h | h <;> simp [roundsUp, signed, h] <;> omega
  case gt =>
    have ht := compare_gt_iff_gt.mp hcmp
    cases neg
    · exact hnear ((n + 1 : Nat) : Int) _ (by push_cast; simp; linarith) (by push_cast; simp; linarith)
    · exact hnear (-((n + 1 : Nat) : Int)) _ (by push_cast; simp; linarith) (by push_cast; simp; linarith)

end

/-- A magnitude rounded to a whole number, as a signed one. -/
theorem roundInteger_signed (r : Rnd) (neg : Bool) {y : ℚ} (hy : 0 ≤ y) :
    roundInteger r ((if neg then -1 else 1) * y) = signed neg (roundNat r neg y) := by
  obtain ⟨n, t, h0, h1, rfl⟩ : ∃ (n : Nat) (t : ℚ), 0 ≤ t ∧ t < 1 ∧ y = n + t :=
    ⟨⌊y⌋₊, y - ⌊y⌋₊, sub_nonneg.mpr (Nat.floor_le hy), by linarith [Nat.lt_floor_add_one y], by ring⟩
  have hneg : (if true = true then -1 else 1) * ((n : ℚ) + t) = -(n + t) := by rw [if_pos rfl, neg_one_mul]
  have hpos : (if false = true then -1 else 1) * ((n : ℚ) + t) = n + t := by rw [if_neg Bool.false_ne_true, one_mul]
  cases r
  case rne => exact roundInteger_rne neg h0 h1
  case rtz =>
    rw [roundNat_add _ _ h0 h1]
    cases neg
    · rw [hpos, roundInteger, if_pos hy, floor_add h0 h1]
      rfl
    · rw [hneg, roundInteger]
      split
      case isTrue h =>
        have hzero : (n : ℚ) + t = 0 := by linarith
        have hn : n = 0 := by exact_mod_cast (show (n : ℚ) = 0 by linarith [Nat.cast_nonneg (α := ℚ) n])
        rw [hzero, hn, neg_zero, Int.floor_zero]
        rfl
      case isFalse => rw [Int.ceil_neg, floor_add h0 h1]; rfl
  case rdn =>
    rw [roundNat_add _ _ h0 h1]
    cases neg
    · rw [hpos, roundInteger, floor_add h0 h1]
      rfl
    · rw [hneg, roundInteger, Int.floor_neg, ceil_add h0 h1]
      by_cases h : t = 0 <;> simp [roundsUp, signed, h]
  case rup =>
    rw [roundNat_add _ _ h0 h1]
    cases neg
    · rw [hpos, roundInteger, ceil_add h0 h1]
      by_cases h : t = 0 <;> simp [roundsUp, signed, h]
    · rw [hneg, roundInteger, Int.ceil_neg, floor_add h0 h1]
      rfl

/-- The whole number that a value rounds to, as the model forms it. -/
theorem wholePart_eq (r : Rnd) (neg : Bool) (m : Nat) (e : Int) :
    (if 0 ≤ e then m * 2 ^ e.toNat else roundInt r neg m (2 ^ (-e).toNat)) = roundNat r neg (m * 2 ^ e) := by
  split
  case isTrue h =>
    have hexact := roundNat_add (n := m * 2 ^ e.toNat) r neg le_rfl one_pos
    have hcmp : compare (2 * (0 : ℚ)) 1 = .lt := compare_lt_iff_lt.mpr (by norm_num)
    rw [hcmp, decide_eq_false (not_not.mpr rfl), roundsUp_exact, add_zero] at hexact
    rw [zpow_of_nonneg h, ← Nat.cast_mul, hexact]
    rfl
  case isFalse h =>
    rw [roundInt_eq_roundNat _ _ _ (by positivity), zpow_of_neg (not_le.mp h), div_eq_mul_inv]

/-! ## Integral values (R218) -/

section
variable {f : FFmt} {r : Rnd} {neg : Bool}

theorem maxCode_lt (f : FFmt) : f.maxCode < 2 ^ (f.width - 1) := by cases f <;> decide

/-- A sign and a code of a finite magnitude, as one code. -/
theorem number_sign_add {k : Nat} (hk : k ≤ f.maxCode) (neg : Bool) : f.sign neg + k < 2 ^ f.width ∧
    signBit f (f.sign neg + k) = neg ∧ number f (f.sign neg + k) = some ((if neg then -1 else 1) * magnitude f k) := by
  have hlt : k < 2 ^ (f.width - 1) := hk.trans_lt (maxCode_lt f)
  have hwidth : 2 ^ f.width = 2 * 2 ^ (f.width - 1) := by cases f <;> rfl
  have hsign : signBit f (f.sign neg + k) = neg := by
    rw [signBit, FFmt.sign]
    cases neg
    · rw [if_neg Bool.false_ne_true, Nat.zero_add]
      exact Nat.testBit_lt_two_pow hlt
    · rw [if_pos rfl, Nat.testBit_two_pow_add_eq, Nat.testBit_lt_two_pow hlt]
      rfl
  have hmod : (f.sign neg + k) % 2 ^ (f.width - 1) = k := by
    rw [FFmt.sign]
    cases neg <;> simp [Nat.mod_eq_of_lt hlt]
  refine ⟨?_, hsign, ?_⟩
  · rw [FFmt.sign]
    split <;> omega
  · rw [number_eq_some_iff, hmod, hsign]
    exact ⟨hk, rfl⟩

/-- A small whole number has a code. -/
theorem exists_magnitude_eq (f : FFmt) {n : Nat} (h0 : 0 < n) (hn : n ≤ 2 ^ f.frac) : ∃ k, magnitude f k = n := by
  have hlo := Nat.log2_self_le h0.ne'
  have hhi := Nat.lt_log2_self (n := n)
  have hlog : Nat.log2 n ≤ f.frac := (Nat.pow_le_pow_iff_right one_lt_two).mp (hlo.trans hn)
  have hemin : f.emin ≤ 0 := by cases f <;> decide
  have hshift : 2 ^ Nat.log2 n * 2 ^ (f.frac - Nat.log2 n) = 2 ^ f.frac := by rw [← pow_add, Nat.add_sub_cancel' hlog]
  refine ⟨((Nat.log2 n : Int) - f.emin).toNat * 2 ^ f.frac + n * 2 ^ (f.frac - Nat.log2 n), ?_⟩
  rw [magnitude_code f (.inr (hshift ▸ Nat.mul_le_mul_right _ hlo)) ?_]
  · have hexp : f.qmin + (((Nat.log2 n : Int) - f.emin).toNat : Int) = -((f.frac - Nat.log2 n : Nat) : Int) := by
      rw [FFmt.qmin]
      omega
    rw [hexp, zpow_neg, zpow_natCast]
    push_cast
    field_simp
  · rw [pow_succ', ← hshift, ← mul_assoc, ← pow_succ']
    exact Nat.mul_le_mul_right _ hhi.le

/-- A finite magnitude that has a code is its own rounding. -/
theorem convertExact_magnitude {sat : Bool} {k m : Nat} {e : Int} (hk : k ≤ f.maxCode) (h : (m : ℚ) * 2 ^ e = magnitude f k) :
    convertExact f r sat neg (FVal.num neg m e).rat = .plain (f.sign neg + k) := by
  rcases Nat.eq_zero_or_pos k with rfl | hpos
  · have hm : (m : ℚ) = 0 := by
      rw [magnitude_zero] at h
      exact (mul_eq_zero.mp h).resolve_right (by positivity)
    rw [FVal.rat, signed_cast, hm, mul_zero, zero_mul, convertExact_zero]
    rfl
  · have hmag : 0 < magnitude f k := (magnitude_zero f).symm.trans_lt (magnitude_strictMono f hpos)
    have hm : m ≠ 0 := by
      rintro rfl
      rw [Nat.cast_zero, zero_mul] at h
      exact hmag.ne h
    rw [convertExact_rat hm, h, roundedMag, roundCode_magnitude hmag, if_pos hk]

/-- The whole number that a number of the format rounds to has a code of the format. -/
theorem exists_whole_code {a m : Nat} {e : Int} {x : ℚ} (h : number f a = some x)
    (hval : x = (FVal.num (signBit f a) m e).rat) (hm : m < 2 ^ (f.frac + 1)) :
    ∃ k, k ≤ f.maxCode ∧ (roundNat r neg (m * 2 ^ e) : ℚ) = magnitude f k := by
  obtain ⟨hmax, hx⟩ := (number_eq_some_iff f a x).mp h
  rcases le_or_gt 0 e with he | he
  · refine ⟨a % 2 ^ (f.width - 1), hmax, ?_⟩
    have hmag : (m : ℚ) * 2 ^ e = magnitude f (a % 2 ^ (f.width - 1)) := by
      rw [hval, FVal.rat, signed_cast, mul_assoc] at hx
      exact mul_left_cancel₀ (by split <;> norm_num) hx
    rw [← hmag, ← wholePart_eq, if_pos he, zpow_of_nonneg he]
    push_cast
    rfl
  · set n := roundNat r neg (m * 2 ^ e) with hn
    have hsmall : n ≤ 2 ^ f.frac := by
      have hhalf : (m : ℚ) * 2 ^ e < 2 ^ f.frac := by
        have hm' : (m : ℚ) < 2 ^ (f.frac + 1) := by exact_mod_cast hm
        calc (m : ℚ) * 2 ^ e ≤ m * 2 ^ (-1 : Int) := by
              gcongr
              · exact one_le_two
              · omega
          _ < 2 ^ (f.frac + 1) * 2 ^ (-1 : Int) := by gcongr
          _ = 2 ^ f.frac := by rw [pow_succ, zpow_neg_one, mul_assoc, mul_inv_cancel₀ two_ne_zero, mul_one]
      have hfloor : ⌊(m : ℚ) * 2 ^ e⌋₊ < 2 ^ f.frac := (Nat.floor_lt (by positivity)).mpr (by exact_mod_cast hhalf)
      rw [hn, roundNat]
      split <;> omega
    rcases Nat.eq_zero_or_pos n with h0 | h0
    · exact ⟨0, Nat.zero_le _, by rw [h0, Nat.cast_zero, magnitude_zero]⟩
    · obtain ⟨k, hk⟩ := exists_magnitude_eq f h0 hsmall
      refine ⟨k, (magnitude_strictMono f).le_iff_le.mp ?_, hk.symm⟩
      have hbig : (2 : ℚ) ^ f.frac ≤ magnitude f f.maxCode := by
        cases f <;> norm_num [magnitude, FFmt.maxCode, FFmt.frac, FFmt.emin]
      rw [hk]
      exact (by exact_mod_cast hsmall : (n : ℚ) ≤ 2 ^ f.frac).trans hbig

end

theorem FFmt.frac_le (f : FFmt) : f.frac ≤ 23 := by cases f <;> decide

/-- R213, R218: reciprocals, products by powers of two, and integral values. -/
theorem scalesAndIntegers : ScalesAndIntegers := by
  intro f r a x _ _ hx
  obtain ⟨m, e, ha, hval, hm, hlo, hhi⟩ := fval_of_number hx
  have hq := f.qmin_ge
  have hm24 : m < 2 ^ 24 := hm.trans_le (Nat.pow_le_pow_right two_pos (by have := f.frac_le; omega))
  rw [ha]
  refine ⟨?rcp, ?scale, ?round⟩
  case rcp =>
    intro hne
    have hm0 : m ≠ 0 := by
      rintro rfl
      exact hne (by simp [hval, FVal.rat, signed_cast])
    have hone : (FVal.num false 1 0).rat = 1 := by simp [FVal.rat, signed]
    have hdiv := fdivSat_num (f := f) (r := r) (sat := false) (a := false) (b := signBit f a) (m := 1) (e := 0) (k := e) hm0
      (by omega) (by omega)
    rw [hone, ← hval, Bool.false_bne] at hdiv
    exact hdiv
  case scale =>
    intro k
    have hscaled : (FVal.num (signBit f a) m (e + k)).rat = x * 2 ^ k := by
      rw [hval, FVal.rat, FVal.rat, zpow_add₀ two_ne_zero, mul_assoc]
    have hdy := roundDy_eq_all (f := f) (r := r) (sat := false) (neg := signBit f a) hm24 (e + k)
    rw [hscaled] at hdy
    exact hdy
  case round =>
    obtain ⟨k, hk, hmag⟩ := exists_whole_code (r := r) (neg := signBit f a) hx hval hm
    obtain ⟨hwidth, hsign, hnum⟩ := number_sign_add hk (signBit f a)
    have hres : fround f r (.num (signBit f a) m e) = .plain (f.sign (signBit f a) + k) := by
      simp only [fround, clampExp_eq (e := e) (by omega) (by omega), wholePart_eq]
      rw [roundDy_eq _ _ (by omega) (by omega), convertExact_magnitude hk (by rw [← hmag, zpow_zero, mul_one])]
      rfl
    have hint := roundInteger_signed r (signBit f a) (y := m * 2 ^ e) (by positivity)
    refine ⟨f.sign (signBit f a) + k, hres, hwidth, ?_, hsign⟩
    rw [hnum, hval, FVal.rat, signed_cast, mul_assoc, hint, signed_cast, hmag]

end Sys2Proof.Machine

/-! # Square roots and their reciprocals (R213) -/

namespace Sys2Proof.Machine

open Sys2Proof.Claims

/-! ## The integer square root -/

theorem isqrt_bounds (n : Nat) : isqrt n * isqrt n ≤ n ∧ n < (isqrt n + 1) * (isqrt n + 1) := by
  set k := Nat.log2 n / 2 + 1 with hk
  have hstep (i : Nat) (hi : i ≤ k) :
      let s := (List.range i).foldl (fun r i =>
        let c := r + 2 ^ (k - 1 - i)
        if c * c ≤ n then c else r) 0
      s * s ≤ n ∧ n < (s + 2 ^ (k - i)) * (s + 2 ^ (k - i)) := by
    induction i with
    | zero =>
      have hlog : n < 2 ^ (Nat.log2 n + 1) := Nat.lt_log2_self
      have hpow : 2 ^ (Nat.log2 n + 1) ≤ 2 ^ (k + k) := Nat.pow_le_pow_right two_pos (by omega)
      simp only [List.range_zero, List.foldl_nil, Nat.zero_mul, Nat.zero_le, true_and, Nat.zero_add, Nat.sub_zero]
      rw [← pow_add]
      exact hlog.trans_le hpow
    | succ i ih =>
      obtain ⟨hlo, hhi⟩ := ih (by omega)
      have hdouble : 2 ^ (k - i) = 2 ^ (k - 1 - i) + 2 ^ (k - 1 - i) := by
        rw [← two_mul, ← pow_succ']
        congr 1
        omega
      have hexp : k - (i + 1) = k - 1 - i := by omega
      rw [hdouble, ← add_assoc] at hhi
      simp only [List.range_succ, List.foldl_append, List.foldl_cons, List.foldl_nil, hexp]
      split
      case isTrue h => exact ⟨h, hhi⟩
      case isFalse h => exact ⟨hlo, not_le.mp h⟩
  have hend := hstep k le_rfl
  simp only [Nat.sub_self, pow_zero] at hend
  exact hend

/-! ## A number that rounds as a root does -/

/-- Bits below 1 to which the model takes a root. -/
def rootBits : Nat := 400

theorem rootBits_eq : rootBits = 400 := rfl

/-- `v` lies among the multiples of 2 ^ -rootBits as the root of `x` does. -/
def RootLike (v x : ℚ) : Prop :=
  0 < v ∧ ∀ (t : ℚ) (i : Nat), t * 2 ^ rootBits = i → (t ≤ v ↔ t ^ 2 ≤ x) ∧ (v ≤ t ↔ x ≤ t ^ 2)

theorem sq_scaled {t x : ℚ} {i : Nat} (h : t * 2 ^ rootBits = i) :
    (t ^ 2 ≤ x ↔ (i : ℚ) ^ 2 ≤ x * 2 ^ (2 * rootBits)) ∧ (x ≤ t ^ 2 ↔ x * 2 ^ (2 * rootBits) ≤ (i : ℚ) ^ 2) := by
  have hsq : (i : ℚ) ^ 2 = t ^ 2 * 2 ^ (2 * rootBits) := by rw [← h, mul_pow, ← pow_mul, mul_comm rootBits]
  have hpos : (0 : ℚ) < 2 ^ (2 * rootBits) := by positivity
  rw [hsq]
  exact ⟨(mul_le_mul_iff_left₀ hpos).symm, (mul_le_mul_iff_left₀ hpos).symm⟩

/-- An exact root. -/
theorem rootLike_exact {s : Nat} {x : ℚ} (hs : 0 < s) (h : (s : ℚ) ^ 2 = x * 2 ^ (2 * rootBits)) : RootLike (s / 2 ^ rootBits) x := by
  have hpos : (0 : ℚ) < 2 ^ rootBits := by positivity
  refine ⟨by positivity, fun t i hi => ?_⟩
  obtain ⟨hle, hge⟩ := sq_scaled (x := x) hi
  rw [hle, hge, ← h, le_div_iff₀ hpos, div_le_iff₀ hpos, hi]
  constructor
  · exact_mod_cast (Nat.pow_le_pow_iff_left two_ne_zero).symm
  · exact_mod_cast (Nat.pow_le_pow_iff_left two_ne_zero).symm

/-- A root strictly between two multiples, marked as inexact by half of one more bit. -/
theorem rootLike_inexact {s : Nat} {x : ℚ} (hlo : (s : ℚ) ^ 2 < x * 2 ^ (2 * rootBits)) (hhi : x * 2 ^ (2 * rootBits) < ((s + 1 : Nat) : ℚ) ^ 2) :
    RootLike ((s + 1 / 2) / 2 ^ rootBits) x := by
  have hpos : (0 : ℚ) < 2 ^ rootBits := by positivity
  refine ⟨by positivity, fun t i hi => ?_⟩
  obtain ⟨hle, hge⟩ := sq_scaled (x := x) hi
  rw [hle, hge, le_div_iff₀ hpos, div_le_iff₀ hpos, hi]
  rcases le_or_gt i s with h | h
  · have hi1 : (i : ℚ) ≤ s := by exact_mod_cast h
    have hi2 : (i : ℚ) ^ 2 ≤ (s : ℚ) ^ 2 := by exact_mod_cast Nat.pow_le_pow_left h 2
    exact ⟨iff_of_true (by linarith) (hi2.trans hlo.le), iff_of_false (by linarith) (by linarith)⟩
  · have hi1 : ((s + 1 : Nat) : ℚ) ≤ i := by exact_mod_cast h
    have hi2 : ((s + 1 : Nat) : ℚ) ^ 2 ≤ (i : ℚ) ^ 2 := by exact_mod_cast Nat.pow_le_pow_left h 2
    push_cast at hi1
    exact ⟨iff_of_false (by linarith) (by linarith), iff_of_true (by linarith) (hhi.le.trans hi2)⟩

theorem convertExact_of_pos {f : FFmt} {r : Rnd} {sat z : Bool} {v : ℚ} (hv : 0 < v) :
    convertExact f r sat z v = roundedMag f r sat false v := by
  rw [convertExact_of_ne hv.ne', decide_eq_false (not_lt.mpr hv.le), abs_of_pos hv]

theorem roundSqrt_unfold {g : Nat} (hg : g = 400) (f : FFmt) (r : Rnd) (num den : Nat) : roundSqrt f r num den =
    let s := isqrt (num * 2 ^ (2 * g) / den)
    if s * s * den == num * 2 ^ (2 * g) then roundDy f r false false s (-(g : Int))
    else roundDy f r false false (2 * s + 1) (-(g : Int) - 1) := by
  subst hg
  rfl

/-- The root of a positive number is rounded as a number that lies where the root does. -/
theorem roundSqrt_eq {num den : Nat} (hn : 0 < num) (hd : 0 < den) : ∃ v, RootLike v ((num : ℚ) / den) ∧
    ∀ f r, roundSqrt f r num den = roundedMag f r false false v := by
  have hd' : (0 : ℚ) < den := by exact_mod_cast hd
  obtain ⟨hlo, hhi⟩ := isqrt_bounds (num * 2 ^ (2 * rootBits) / den)
  set s := isqrt (num * 2 ^ (2 * rootBits) / den) with hs
  have hlo' : s * s * den ≤ num * 2 ^ (2 * rootBits) := (Nat.le_div_iff_mul_le hd).mp hlo
  have hhi' : num * 2 ^ (2 * rootBits) < (s + 1) * (s + 1) * den := (Nat.div_lt_iff_lt_mul hd).mp hhi
  have hround (f : FFmt) (r : Rnd) : roundSqrt f r num den =
      if s * s * den = num * 2 ^ (2 * rootBits) then roundDy f r false false s (-rootBits)
      else roundDy f r false false (2 * s + 1) (-rootBits - 1) := by
    simpa only [beq_iff_eq] using roundSqrt_unfold rootBits_eq f r num den
  have hscale : (num : ℚ) / den * 2 ^ (2 * rootBits) = ((num * 2 ^ (2 * rootBits) : Nat) : ℚ) / den := by push_cast; ring
  by_cases hex : s * s * den = num * 2 ^ (2 * rootBits)
  · have hs0 : 0 < s := by
      rcases Nat.eq_zero_or_pos s with h | h
      · simp [h, hn.ne'] at hex
      · exact h
    have hroot : (s : ℚ) ^ 2 = (num : ℚ) / den * 2 ^ (2 * rootBits) := by
      rw [hscale, ← hex]
      push_cast
      field_simp
    have hv := rootLike_exact hs0 hroot
    have hval : (FVal.num false s (-rootBits)).rat = s / 2 ^ rootBits := by
      rw [rat_false, zpow_neg, zpow_natCast, div_eq_mul_inv]
    refine ⟨_, hv, fun f r => ?_⟩
    rw [hround, if_pos hex, roundDy_eq _ _ (by rw [rootBits_eq]; norm_num) (by rw [rootBits_eq]; norm_num), hval,
      convertExact_of_pos hv.1]
  · have hroot : RootLike ((s + 1 / 2) / 2 ^ rootBits) ((num : ℚ) / den) := by
      refine rootLike_inexact ?_ ?_
      · rw [hscale, lt_div_iff₀ hd', pow_two]
        exact_mod_cast lt_of_le_of_ne hlo' hex
      · rw [hscale, div_lt_iff₀ hd', pow_two]
        exact_mod_cast hhi'
    have hval : (FVal.num false (2 * s + 1) (-rootBits - 1)).rat = (s + 1 / 2) / 2 ^ rootBits := by
      rw [rat_false, zpow_sub₀ two_ne_zero, zpow_neg, zpow_natCast, zpow_one]
      push_cast
      field_simp
    refine ⟨_, hroot, fun f r => ?_⟩
    rw [hround, if_neg hex, roundDy_eq _ _ (by rw [rootBits_eq]; norm_num) (by rw [rootBits_eq]; norm_num), hval,
      convertExact_of_pos hroot.1]

/-! ## Rounded roots -/

/-- The places of a rounded root under the modes: below, above and nearest. -/
structure RootCodes (f : FFmt) (g : Rnd → FRes) (x : ℚ) : Prop where
  below : ∃ c, g .rtz = ⟨c, none⟩ ∧ magnitude f c ^ 2 ≤ x ∧ x < magnitude f (c + 1) ^ 2
  above : ∃ c, g .rup = ⟨c, none⟩ ∧ x ≤ magnitude f c ^ 2 ∧ (0 < c → magnitude f (c - 1) ^ 2 < x)
  near  : ∃ c, g .rne = ⟨c, none⟩ ∧
    (magnitude f (c - 1) + magnitude f c) ^ 2 ≤ 4 * x ∧ 4 * x ≤ (magnitude f c + magnitude f (c + 1)) ^ 2
  down  : g .rdn = g .rtz

section
variable {f : FFmt} {v x : ℚ}

/-- Every magnitude is a multiple of 2^-149, of twice the spacing that roots are taken to. -/
theorem exists_magnitude_multiple (f : FFmt) (c : Nat) : ∃ i : Nat, magnitude f c * 2 ^ (rootBits - 1) = i := by
  obtain ⟨j, N, rfl, hj, hN⟩ := exists_code f c
  have hq := f.qmin_ge
  have hexp : 0 ≤ f.qmin + j + (rootBits - 1 : Nat) := by
    rw [rootBits_eq]
    omega
  refine ⟨N * 2 ^ (f.qmin + j + (rootBits - 1 : Nat)).toNat, ?_⟩
  rw [magnitude_code f hj hN.le, mul_assoc, ← zpow_natCast, ← zpow_add₀ two_ne_zero, Nat.cast_mul, zpow_of_nonneg hexp]

theorem RootLike.magnitude (h : RootLike v x) (c : Nat) :
    (magnitude f c ≤ v ↔ magnitude f c ^ 2 ≤ x) ∧ (v ≤ Claims.magnitude f c ↔ x ≤ Claims.magnitude f c ^ 2) := by
  obtain ⟨i, hi⟩ := exists_magnitude_multiple f c
  refine h.2 _ (2 * i) ?_
  rw [← pow_sub_one_mul (by decide : rootBits ≠ 0), ← mul_assoc, hi]
  push_cast
  ring

/-- The same of the point halfway between two codes. -/
theorem RootLike.midpoint (h : RootLike v x) (c d : Nat) :
    (Claims.magnitude f c + Claims.magnitude f d ≤ 2 * v ↔ (Claims.magnitude f c + Claims.magnitude f d) ^ 2 ≤ 4 * x) ∧
    (2 * v ≤ Claims.magnitude f c + Claims.magnitude f d ↔ 4 * x ≤ (Claims.magnitude f c + Claims.magnitude f d) ^ 2) := by
  obtain ⟨i, hi⟩ := exists_magnitude_multiple f c
  obtain ⟨j, hj⟩ := exists_magnitude_multiple f d
  obtain ⟨hle, hge⟩ := h.2 ((Claims.magnitude f c + Claims.magnitude f d) / 2) (i + j) (by
    rw [← pow_sub_one_mul (by decide : rootBits ≠ 0), Nat.cast_add, ← hi, ← hj]
    ring)
  constructor
  · rw [← div_le_iff₀' two_pos, hle, div_pow, div_le_iff₀ (by norm_num), mul_comm x]
    norm_num
  · rw [← le_div_iff₀' two_pos, hge, div_pow, le_div_iff₀ (by norm_num), mul_comm x]
    norm_num

theorem nearest_midpoints (hv : 0 < v) (neg : Bool) : let c := roundCode f .rne neg v
    magnitude f (c - 1) + magnitude f c ≤ 2 * v ∧ 2 * v ≤ magnitude f c + magnitude f (c + 1) := by
  intro c
  have hmono := magnitude_strictMono f
  constructor
  · rcases Nat.eq_zero_or_pos c with h | h
    · rw [h, magnitude_zero]
      linarith
    · have hlt := hmono (Nat.sub_lt h one_pos)
      have hnear := (roundCode_nearest (f := f) neg hv (c - 1)).1
      by_contra hmid
      have hc : |v - magnitude f c| = magnitude f c - v := by
        rw [abs_sub_comm, abs_of_pos (by linarith)]
      rw [show roundCode f .rne neg v = c from rfl, hc] at hnear
      rcases le_abs'.mp hnear with h' | h' <;> linarith
  · have hlt := hmono (Nat.lt_succ_self c)
    have hnear := (roundCode_nearest (f := f) neg hv (c + 1)).1
    by_contra hmid
    have hc : |v - magnitude f c| = v - magnitude f c := abs_of_pos (by linarith)
    rw [show roundCode f .rne neg v = c from rfl, hc] at hnear
    rcases le_abs'.mp hnear with h' | h' <;> linarith

/-- What lies as a root does rounds as the modes ask of the root. -/
theorem RootLike.codes (h : RootLike v x) (hmax : x ≤ Claims.magnitude f f.maxCode ^ 2) :
    RootCodes f (fun r => roundedMag f r false false v) x := by
  have hres (r : Rnd) : roundedMag f r false false v = ⟨roundCode f r false v, none⟩ := by
    rw [roundedMag, if_pos (roundCode_le h.1 ((h.magnitude _).2.mpr hmax)), FFmt.sign, if_neg Bool.false_ne_true, Nat.zero_add]
    rfl
  refine ⟨⟨_, hres _, ?_⟩, ⟨_, hres _, ?_⟩, ⟨_, hres _, ?_⟩, ?_⟩
  · obtain ⟨hlo, hhi⟩ := roundCode_down (f := f) (r := .rtz) (neg := false) trivial h.1
    exact ⟨(h.magnitude _).1.mp hlo, not_le.mp fun hle => not_le.mpr hhi ((h.magnitude _).1.mpr hle)⟩
  · obtain ⟨hlo, hhi⟩ := roundCode_up (f := f) (r := .rup) (neg := false) rfl h.1
    exact ⟨(h.magnitude _).2.mp hlo, fun hc => not_le.mp fun hle => not_le.mpr (hhi hc) ((h.magnitude _).2.mpr hle)⟩
  · obtain ⟨hlo, hhi⟩ := nearest_midpoints (f := f) h.1 false
    exact ⟨(h.midpoint _ _).1.mp hlo, (h.midpoint _ _).2.mp hhi⟩
  · simp only [hres, roundCode, roundNat, roundsUp, Bool.false_and]
    rfl

end

theorem one_le_maxMagnitude (f : FFmt) : 1 ≤ magnitude f f.maxCode := by
  cases f <;> norm_num [magnitude, FFmt.maxCode, FFmt.frac, FFmt.emin]

/-- The value of a positive number as a fraction. -/
theorem ratOf_eq {m : Nat} {e : Int} (hm : m ≠ 0) (hlo : -4000 ≤ e) (hhi : e ≤ 4000) :
    0 < (ratOf m e).1 ∧ 0 < (ratOf m e).2 ∧ ((ratOf m e).1 : ℚ) / (ratOf m e).2 = m * 2 ^ e := by
  have hm' := Nat.pos_of_ne_zero hm
  simp only [ratOf, clampExp_eq hlo hhi]
  split
  case isTrue h =>
    refine ⟨by positivity, one_pos, ?_⟩
    rw [zpow_of_nonneg h]
    push_cast
    ring
  case isFalse h =>
    refine ⟨hm', by positivity, ?_⟩
    rw [zpow_of_neg (not_le.mp h), div_eq_mul_inv]

/-- A code of a positive number has a positive significand and no sign. -/
theorem signBit_of_pos {f : FFmt} {a m : Nat} {e : Int} (hpos : 0 < (FVal.num (signBit f a) m e).rat) :
    m ≠ 0 ∧ signBit f a = false := by
  constructor
  · rintro rfl
    simp [FVal.rat, signed_cast] at hpos
  · by_contra hneg
    rw [Bool.not_eq_false] at hneg
    rw [hneg, FVal.rat, signed_cast, if_pos rfl] at hpos
    have : (0 : ℚ) ≤ m * 2 ^ e := by positivity
    linarith

/-- The root of a number is not beyond the largest finite magnitude. -/
theorem magnitude_le_sq_max {f : FFmt} {c : Nat} (h : c ≤ f.maxCode) : magnitude f c ≤ magnitude f f.maxCode ^ 2 := by
  have hle := (magnitude_strictMono f).monotone h
  nlinarith [one_le_maxMagnitude f]

/-- Nor is, in f32 and bf16, the reciprocal of the root of a number. -/
theorem inv_magnitude_le_sq_max {f : FFmt} {c : Nat} (hf : f = .f32 ∨ f = .bf16) (hc : 0 < magnitude f c) :
    1 / magnitude f c ≤ magnitude f f.maxCode ^ 2 := by
  have hleast : (2 : ℚ) ^ (-149 : Int) ≤ magnitude f c := by
    have hcode : 1 ≤ c := Nat.pos_of_ne_zero fun h => by rw [h, magnitude_zero] at hc; exact lt_irrefl _ hc
    refine le_trans ?_ ((magnitude_strictMono f).monotone hcode)
    rw [magnitude_one]
    exact zpow_le_zpow_right₀ one_le_two f.qmin_ge
  have hbig : (2 : ℚ) ^ (149 : Int) ≤ magnitude f f.maxCode ^ 2 := by
    rcases hf with rfl | rfl <;> norm_num [magnitude, FFmt.maxCode, FFmt.frac, FFmt.emin]
  refine le_trans ?_ hbig
  rw [one_div, inv_le_comm₀ hc (by positivity), ← zpow_neg]
  exact hleast

/-- R213: the square root and its reciprocal. -/
theorem rootsRoundOnce : RootsRoundOnce := by
  intro f a x _ hx hpos
  obtain ⟨m, e, ha, hval, hm, hlo, hhi⟩ := fval_of_number hx
  have hq := f.qmin_ge
  obtain ⟨hm0, hsign⟩ := signBit_of_pos (hval ▸ hpos)
  obtain ⟨hn, hd, hrat⟩ := ratOf_eq hm0 (e := e) (by omega) (by omega)
  have hxr : ((ratOf m e).1 : ℚ) / (ratOf m e).2 = x := by
    rw [hrat, hval, hsign, rat_false]
  obtain ⟨hmax, hmag⟩ := (number_eq_some_iff f a x).mp hx
  rw [hsign, if_neg Bool.false_ne_true, one_mul] at hmag
  rw [ha, hsign]
  have hsqrt (r : Rnd) : fsqrt f r (.num false m e) = roundSqrt f r (ratOf m e).1 (ratOf m e).2 := by
    simp only [fsqrt, hm0, if_false, Bool.false_eq_true]
  have hrsqrt (r : Rnd) : frsq f r (.num false m e) = roundSqrt f r (ratOf m e).2 (ratOf m e).1 := by
    simp only [frsq, hm0, if_false, Bool.false_eq_true]
  obtain ⟨v, hv, hround⟩ := roundSqrt_eq hn hd
  rw [hxr] at hv
  have hmaxRoot : x ≤ magnitude f f.maxCode ^ 2 := hmag ▸ magnitude_le_sq_max hmax
  obtain ⟨below, above, near, down⟩ := hv.codes hmaxRoot
  simp only [← hround, ← hsqrt] at below above near down
  refine ⟨below, above, near, down, fun hf => ?_⟩
  obtain ⟨w, hw, hround'⟩ := roundSqrt_eq hd hn
  have hxinv : ((ratOf m e).2 : ℚ) / (ratOf m e).1 = 1 / x := by rw [← hxr, one_div_div]
  rw [hxinv] at hw
  have hmaxInv : 1 / x ≤ magnitude f f.maxCode ^ 2 := by
    rw [hmag] at hpos ⊢
    exact inv_magnitude_le_sq_max hf hpos
  obtain ⟨⟨c, hc, hc1, hc2⟩, ⟨c', hc', hc1', hc2'⟩, ⟨k, hk, hk1, hk2⟩, down'⟩ := hw.codes hmaxInv
  simp only [← hround', ← hrsqrt] at hc hc' hk down'
  refine ⟨⟨c, hc, (le_div_iff₀ hpos).mp hc1, (div_lt_iff₀ hpos).mp hc2⟩,
    ⟨c', hc', (div_le_iff₀ hpos).mp hc1', fun h => (lt_div_iff₀ hpos).mp (hc2' h)⟩, ⟨k, hk, ?_, ?_⟩, down'⟩
  · rwa [mul_one_div, le_div_iff₀ hpos] at hk1
  · rwa [mul_one_div, div_le_iff₀ hpos] at hk2

/-- Settles O7: exact arithmetic rounded once, the correctness of the rounding, the roots, and the integral values. -/
theorem roundingIsExact : Obligations.RoundingIsExact :=
  ⟨floatExactThenRounded, roundingIsCorrect, rootsRoundOnce, scalesAndIntegers⟩

end Sys2Proof.Machine

/-! # Special values, order, sign and class (R97, R113, R214 to R217) -/

namespace Sys2Proof.Machine

open Sys2Proof.Claims

/-! ## NaN, infinities and zeros (R97, R214) -/

@[simp] theorem faddExact_nan_left (r : Rnd) (v : FVal) : faddExact r .nan v = .nan := rfl

@[simp] theorem fmulExact_nan_left (v : FVal) : fmulExact .nan v = .nan := rfl

@[simp] theorem fdivSat_nan_left (f : FFmt) (r : Rnd) (sat : Bool) (v : FVal) : fdivSat f r sat .nan v = .plain f.nan := rfl

@[simp] theorem faddExact_nan_right (r : Rnd) (v : FVal) : faddExact r v .nan = .nan := by cases v <;> rfl

@[simp] theorem fmulExact_nan_right (v : FVal) : fmulExact v .nan = .nan := by cases v <;> rfl

@[simp] theorem fdivSat_nan_right (f : FFmt) (r : Rnd) (sat : Bool) (v : FVal) : fdivSat f r sat v .nan = .plain f.nan := by
  cases v <;> rfl

section
variable {f : FFmt} {r : Rnd}

/-- A NaN operand gives the canonical NaN with no record. -/
theorem finish_nan_of_nan : finish f r true .nan = ⟨f.nan, none⟩ := rfl

theorem convert_inf_of_wide (hf : f = .f32 ∨ f = .bf16) (p : Bool) :
    convert f r false (.inf p) = ⟨f.sign p + f.maxCode + 1, none⟩ := by
  rcases hf with rfl | rfl <;> cases p <;> rfl

/-- The code of 1 in f32 and in bf16. -/
theorem roundDy_one (hf : f = .f32 ∨ f = .bf16) (p : Bool) :
    roundDy f r false p 1 0 = ⟨f.sign p + if f = .f32 then 0x3F800000 else 0x3F80, none⟩ := by
  rcases hf with rfl | rfl <;> cases r <;> cases p <;> decide

/-- log2 of 1 is an exact 0. -/
theorem flg2_one (hf : f = .f32 ∨ f = .bf16) : flg2 f r (fval f (if f = .f32 then 0x3F800000 else 0x3F80)) = ⟨0, none⟩ := by
  have hval : fval f (if f = .f32 then 0x3F800000 else 0x3F80) = .num false (2 ^ f.frac) (-f.frac) := by
    rcases hf with rfl | rfl <;> decide
  have hpow : 2 ^ f.frac ≠ 0 := (Nat.two_pow_pos _).ne'
  simp only [hval, flg2, hpow, if_false, Bool.false_eq_true, Nat.log2_two_pow, neg_add_cancel, if_true, lt_irrefl,
    decide_false, Int.natAbs_zero]
  rfl

theorem nanOperands (x y z : FVal) :
    fadd f r .nan y = ⟨f.nan, none⟩ ∧ fadd f r x .nan = ⟨f.nan, none⟩ ∧ fsub f r .nan y = ⟨f.nan, none⟩ ∧
      fsub f r x .nan = ⟨f.nan, none⟩ ∧ fmul f r .nan y = ⟨f.nan, none⟩ ∧ fmul f r x .nan = ⟨f.nan, none⟩ ∧
      fdiv f r .nan y = ⟨f.nan, none⟩ ∧ fdiv f r x .nan = ⟨f.nan, none⟩ ∧ ffma f r .nan y z = ⟨f.nan, none⟩ ∧
      ffma f r x .nan z = ⟨f.nan, none⟩ ∧ ffma f r x y .nan = ⟨f.nan, none⟩ := by
  simp only [fadd, fsub, fmul, fdiv, ffma, fnegVal, faddExact_nan_left, faddExact_nan_right, fmulExact_nan_left,
    fmulExact_nan_right, fdivSat_nan_left, fdivSat_nan_right, FVal.isNan, Bool.true_or, Bool.or_true, finish_nan_of_nan,
    FRes.plain, and_self]

theorem invalidOperations (z : FVal) (p q : Bool) (e k : Int) :
    fadd f r (.inf p) (.inf !p) = ⟨f.nan, some 0x40⟩ ∧ fsub f r (.inf p) (.inf p) = ⟨f.nan, some 0x40⟩ ∧
      fmul f r (.num p 0 e) (.inf q) = ⟨f.nan, some 0x40⟩ ∧ fmul f r (.inf p) (.num q 0 e) = ⟨f.nan, some 0x40⟩ ∧
      fdiv f r (.num p 0 e) (.num q 0 k) = ⟨f.nan, some 0x40⟩ ∧ fdiv f r (.inf p) (.inf q) = ⟨f.nan, some 0x40⟩ ∧
      (z ≠ .nan → ffma f r (.num p 0 e) (.inf q) z = ⟨f.nan, some 0x40⟩ ∧
        ffma f r (.inf p) (.num q 0 e) z = ⟨f.nan, some 0x40⟩) := by
  refine ⟨by cases p <;> rfl, by cases p <;> rfl, rfl, rfl, rfl, rfl, fun hz => ?_⟩
  simp only [ffma, fmulExact, if_true, faddExact_nan_left, FVal.isNan, Bool.or_self, finish, Bool.false_eq_true,
    if_false, and_self]

end

/-- R97, R214, R218: NaN operands, invalid operations, division by zero, and special results. -/
theorem floatSpecialValues : FloatSpecialValues := by
  intro f r x y z p q e k hf nan invalid inf v one
  have hinf (b : Bool) : convert f r false (.inf b) = ⟨inf b, none⟩ := convert_inf_of_wide hf b
  have hone : roundDy f r false false 1 0 = ⟨one, none⟩ := by
    rw [roundDy_one hf, FFmt.sign, if_neg Bool.false_ne_true, Nat.zero_add]
  refine ⟨fun a => fval_of_nanCode, nanOperands x y z, invalidOperations z p q e k, ?divZero, ?nans, ?zeros, ?negatives,
    ?infinities, ?signedInfinities, ?integral⟩
  case divZero =>
    intro m hm
    simp only [fdiv, fdivSat, hm, if_true, if_false, hinf]
  case nans =>
    intro h hh
    simp only [List.mem_cons, List.not_mem_nil, or_false] at hh
    rcases hh with rfl | rfl | rfl | rfl | rfl | rfl | rfl | rfl <;> rfl
  case zeros =>
    simp only [v, frcp, fdiv, fdivSat, frsq, fsqrt, flg2, fex2, fsin, ftanh, fcos, if_true, one_ne_zero, if_false, hinf,
      Bool.false_bne, hone, FRes.plain, and_self]
  case negatives =>
    intro m hm
    simp only [frsq, fsqrt, flg2, hm, if_false, if_true, invalid, and_self]
  case infinities =>
    simp only [frcp, fdiv, fdivSat, Bool.false_bne, fsin, fcos, ftanh, roundDy_one hf, FRes.plain, invalid, one, and_self]
  case signedInfinities =>
    have hlog : flg2 f r (fval f one) = ⟨0, none⟩ := flg2_one hf
    rw [hlog]
    simp only [frsq, fsqrt, flg2, fex2, if_true, if_false, Bool.false_eq_true, hinf, FRes.plain, invalid, and_self]
  case integral =>
    simp only [fround, fscale, finish, FVal.isNan, if_true, Bool.false_eq_true, if_false, hinf, FRes.plain, nan, implies_true,
      and_self]

end Sys2Proof.Machine

/-! # Order, sign and class of codes (R113, R215 to R217) -/

namespace Sys2Proof.Machine

open Sys2Proof.Safety Sys2Proof.Claims

/-! ## Rows that compute on the issuing thread -/

theorem completes_of_plainly {i : Instr} {g : Guard} {f : Thread → Thread} (h : ∀ s, exec i s = s.issue i g (plainly f)) :
    Completes i g f := fun s _ _ _ _ hi hp => (h s).trans (issue_plainly hi hp)

theorem completes_of_compute {i : Instr} {g : Guard} {F : Thread → Thread × List (Cause × Nat)} {f : Thread → Thread}
    (h : ∀ s, exec i s = s.issue i g (compute F)) (hF : ∀ t, F t = (f t, [])) : Completes i g f :=
  fun s _ _ t _ hi hp => (h s).trans (issue_compute hi hp (hF t))

theorem completesLogging_of_compute {i : Instr} {g : Guard} {F : Thread → Thread × List (Cause × Nat)} {f : Thread → Thread}
    {logs : Thread → List (Cause × Nat)} (h : ∀ s, exec i s = s.issue i g (compute F)) (hF : ∀ t, F t = (f t, logs t)) :
    CompletesLogging i g f logs := fun s _ _ t _ hi hp => (h s).trans (issue_compute_logs hi hp (hF t))

/-! ## Elements (R95, R201) -/

theorem causesOf_none {α : Type} (l : List α) : causesOf (l.map fun _ => none) = [] := by
  simp [causesOf]

theorem map1_plain (t : Thread) (o : Alu) (h : Nat → Nat) :
    t.map1 o (fun a => (h a, none)) = (t.setElems o.ty o.d ((t.elems o.ty o.a).map h), []) := by
  simp only [Thread.map1, List.map_map, Function.comp_def, causesOf_none]

theorem map2_plain (t : Thread) (o : Alu) (h : Nat → Nat → Nat) : t.map2 o (fun a b => (h a b, none)) =
    (t.setElems o.ty o.d (((t.elems o.ty o.a).zip (t.elems o.ty o.b)).map fun p => h p.1 p.2), []) := by
  simp only [Thread.map2, ← List.map_uncurry_zip_eq_zipWith, List.map_map, Function.comp_def, Function.uncurry, causesOf_none]

theorem mem_splitElems_lt {n k v x : Nat} (h : x ∈ splitElems n k v) : x < 2 ^ n := by
  induction k generalizing v with
  | zero => cases h
  | succ k ih =>
    rcases List.mem_cons.mp h with rfl | h
    · exact Nat.mod_lt _ (Nat.two_pow_pos n)
    · exact ih h

theorem mem_elems_lt {t : Thread} {ty : ElemTy} {r : Reg} {x : Nat} (h : x ∈ t.elems ty r) : x < 2 ^ tyBits ty :=
  mem_splitElems_lt h

theorem tyBits_of_float {ty : ElemTy} (h : tyFloat ty = true) : tyBits ty = (tyFmt ty).width := by
  revert h
  cases ty <;> decide

/-! ## Fields of a code (R96) -/

theorem expField_eq (f : FFmt) (a : Nat) : expField f a = a % 2 ^ (f.width - 1) / 2 ^ f.frac := by
  cases f <;> simp only [expField, FFmt.width, FFmt.frac] <;> omega

theorem fracField_eq (f : FFmt) (a : Nat) : fracField f a = a % 2 ^ (f.width - 1) % 2 ^ f.frac := by
  cases f <;> simp only [fracField, FFmt.width, FFmt.frac] <;> omega

/-- A code is its sign and its magnitude. -/
theorem code_eq_sign_add {f : FFmt} {a : Nat} (h : a < 2 ^ f.width) :
    a = f.sign (signBit f a) + a % 2 ^ (f.width - 1) := by
  have hwidth : 2 ^ f.width = 2 ^ (f.width - 1) * 2 := by cases f <;> rfl
  have hdiv := Nat.div_add_mod a (2 ^ (f.width - 1))
  have htop : a / 2 ^ (f.width - 1) < 2 := Nat.div_lt_of_lt_mul (hwidth ▸ h)
  rw [signBit, ← natBit_eq_testBit, natBit, FFmt.sign]
  rcases Nat.le_one_iff_eq_zero_or_eq_one.mp (Nat.le_of_lt_succ htop) with h0 | h1
  · rw [h0, Nat.mul_zero] at hdiv
    rw [h0]
    exact hdiv.symm
  · rw [h1, Nat.mul_one] at hdiv
    rw [h1]
    exact hdiv.symm

theorem number_of_finite {f : FFmt} {a : Nat} (hn : nanCode f a = false) (hi : infinite f a = false) :
    number f a = some ((if signBit f a then -1 else 1) * magnitude f (a % 2 ^ (f.width - 1))) :=
  (number_eq_some_iff f a _).mpr ⟨(finite_iff f a).mp (by rw [hn, hi]; rfl), rfl⟩

theorem isNan_fval (f : FFmt) (a : Nat) : (fval f a).isNan = nanCode f a := by
  cases hn : nanCode f a
  case true => rw [fval_of_nanCode hn]; rfl
  case false =>
    cases hi : infinite f a
    case true => rw [fval_of_infinite hi]; rfl
    case false =>
      obtain ⟨m, e, h, -⟩ := fval_of_number (f := f) (a := a) (number_of_finite hn hi)
      rw [h]
      rfl

/-! ## Order (R113, R216) -/

theorem compare_eq_ite {x y : ℚ} : compare x y = if x < y then .lt else if y < x then .gt else .eq := by
  rcases lt_trichotomy x y with h | h | h
  · rw [if_pos h, compare_lt_iff_lt.mpr h]
  · rw [if_neg h.not_lt, if_neg h.not_gt, compare_eq_iff_eq.mpr h]
  · rw [if_neg h.not_gt, if_pos h, compare_gt_iff_gt.mpr h]

theorem fcompare_num (a b : Bool) (m n : Nat) (e k : Int) :
    fcompare (.num a m e) (.num b n k) = compare (FVal.num a m e).rat (FVal.num b n k).rat := by
  have hlo : (if e ≤ k then e else k) = min e k := (min_def e k).symm
  have hint (u v : Int) : compare (u : ℚ) (v : ℚ) = compare u v := by
    rw [← cmp_eq_compare, ← cmp_eq_compare]
    exact StrictMono.cmp_map_eq Int.cast_strictMono u v
  rw [← signed_shift a m (min_le_left e k), ← signed_shift b n (min_le_right e k), compare_mul_right (by positivity), hint]
  simp only [fcompare, hlo]

theorem infinite_of_number_none {f : FFmt} {a : Nat} (h : number f a = none) (hn : nanCode f a = false) :
    infinite f a = true := by
  rw [number, hn, Bool.false_or] at h
  by_contra hi
  rw [if_neg hi] at h
  cases h

theorem fcompare_fval {f : FFmt} {a b : Nat} (ha : nanCode f a = false) (hb : nanCode f b = false) :
    fcompare (fval f a) (fval f b) = codeOrder f a b := by
  rw [codeOrder]
  rcases hx : number f a with _ | x <;> rcases hy : number f b with _ | y
  · rw [fval_of_infinite (infinite_of_number_none hx ha), fval_of_infinite (infinite_of_number_none hy hb)]
    rfl
  · obtain ⟨n, k, hv, -⟩ := fval_of_number hy
    rw [fval_of_infinite (infinite_of_number_none hx ha), hv]
    rfl
  · obtain ⟨m, e, hv, -⟩ := fval_of_number hx
    rw [fval_of_infinite (infinite_of_number_none hy hb), hv]
    rfl
  · obtain ⟨m, e, hv, rfl, -⟩ := fval_of_number hx
    obtain ⟨n, k, hw, rfl, -⟩ := fval_of_number hy
    rw [hv, hw, fcompare_num, compare_eq_ite]

/-- Codes of one sign that are equal in the order are the same code. -/
theorem code_unique {f : FFmt} {a b : Nat} (ha : a < 2 ^ f.width) (hb : b < 2 ^ f.width) (hna : nanCode f a = false)
    (hnb : nanCode f b = false) (hord : codeOrder f a b = .eq) (hsign : signBit f a = signBit f b) : a = b := by
  have hmag : a % 2 ^ (f.width - 1) = b % 2 ^ (f.width - 1) := by
    rw [codeOrder] at hord
    rcases hx : number f a with _ | x <;> rcases hy : number f b with _ | y <;> rw [hx, hy] at hord
    · have hi := (infinite_iff f a).mp (infinite_of_number_none hx hna)
      rw [(infinite_iff f b).mp (infinite_of_number_none hy hnb)] at hi
      exact (Option.some.inj hi).symm
    · cases h : signBit f a <;> simp [h] at hord
    · cases h : signBit f b <;> simp [h] at hord
    · obtain ⟨-, rfl⟩ := (number_eq_some_iff f a x).mp hx
      obtain ⟨-, rfl⟩ := (number_eq_some_iff f b y).mp hy
      have heq := compare_eq_iff_eq.mp (compare_eq_ite.trans hord)
      rw [hsign] at heq
      exact (magnitude_strictMono f).injective (mul_left_cancel₀ (by split <;> norm_num) heq)
  rw [code_eq_sign_add ha, code_eq_sign_add hb, hsign, hmag]

theorem neg_fval {f : FFmt} {a : Nat} (h : nanCode f a = false) : (fval f a).neg = signBit f a := by
  rcases hx : number f a with _ | x
  · rw [fval_of_infinite (infinite_of_number_none hx h)]
    rfl
  · obtain ⟨m, e, hv, -⟩ := fval_of_number hx
    rw [hv]
    rfl

/-- R113, R215: the maximum and the minimum of two codes. -/
theorem fmaxmin_eq_extreme {f : FFmt} (larger : Bool) {a b : Nat} (ha : a < 2 ^ f.width) (hb : b < 2 ^ f.width) :
    fmaxmin f larger a b = extreme f larger a b := by
  simp only [fmaxmin, extreme, isNan_fval, Nat.mod_eq_of_lt ha, Nat.mod_eq_of_lt hb]
  split
  case isTrue => rfl
  case isFalse h =>
    obtain ⟨hna, hnb⟩ := Bool.or_eq_false_iff.mp (eq_false_of_ne_true h)
    rw [fabove, fcompare_fval hna hnb, neg_fval hna, neg_fval hnb]
    cases hord : codeOrder f a b
    case lt => cases larger <;> rfl
    case gt => cases larger <;> rfl
    case eq =>
      by_cases hsign : signBit f a = signBit f b
      · have := code_unique ha hb hna hnb hord hsign
        subst this
        simp
      · cases larger <;> cases h1 : signBit f a <;> cases h2 : signBit f b <;> simp_all

/-- R216: the conditions of `fsetp`. -/
theorem fcond_eq_floatHolds (f : FFmt) {cc : Nat} (hcc : cc < 8) (a b : Nat) :
    fcond (cc % 8) (fval f a) (fval f b) = floatHolds f cc a b := by
  rw [Nat.mod_eq_of_lt hcc]
  simp only [fcond, floatHolds, isNan_fval]
  cases hn : nanCode f a || nanCode f b
  case true => interval_cases cc <;> simp
  case false =>
    obtain ⟨hna, hnb⟩ := Bool.or_eq_false_iff.mp hn
    rw [fcompare_fval hna hnb]
    interval_cases cc <;> rfl

/-- R217: the class mask. -/
theorem fclassMask_eq (f : FFmt) (a : Nat) : fclassMask f a = 2 ^ classBit f a := by
  simp only [fclassMask, classBit, expField_eq, fracField_eq]
  cases hn : nanCode f a
  case true =>
    rw [fval_of_nanCode hn, natBit_eq_testBit]
    cases a.testBit (f.frac - 1) <;> rfl
  case false =>
    cases hi : infinite f a
    case true =>
      rw [fval_of_infinite hi]
      cases signBit f a <;> rfl
    case false =>
      have hmax := (finite_iff f a).mp (by rw [hn, hi]; rfl)
      have hpos := Nat.two_pow_pos f.frac
      have hfrac := Nat.mod_lt (a % 2 ^ (f.width - 1)) hpos
      by_cases he : a % 2 ^ (f.width - 1) / 2 ^ f.frac = 0
      · have hval : fval f a = .num (signBit f a) (a % 2 ^ (f.width - 1) % 2 ^ f.frac) (f.emin - f.frac) := by
          simp only [fval, not_lt.mpr hmax, if_false, he, if_true, natBit_eq_testBit, signBit]
        rw [hval]
        by_cases hz : a % 2 ^ (f.width - 1) % 2 ^ f.frac = 0
        · cases signBit f a <;> simp [he, hz]
        · cases signBit f a <;> simp [he, hz, hfrac]
      · have hval : fval f a = .num (signBit f a) (2 ^ f.frac + a % 2 ^ (f.width - 1) % 2 ^ f.frac)
            (f.emin - f.frac + ((a % 2 ^ (f.width - 1) / 2 ^ f.frac : Nat) - 1)) := by
          simp only [fval, not_lt.mpr hmax, if_false, he, natBit_eq_testBit, signBit]
        rw [hval]
        cases signBit f a <;> simp [he]

theorem xor_two_pow_of_lt {n low : Nat} (h : low < 2 ^ n) : low ^^^ 2 ^ n = 2 ^ n + low := by
  have hor := Nat.two_pow_add_eq_or_of_lt h 1
  rw [Nat.mul_one] at hor
  rw [hor]
  refine Nat.eq_of_testBit_eq fun i => ?_
  rw [Nat.testBit_xor, Nat.testBit_or, Nat.testBit_two_pow]
  by_cases hi : n = i
  · subst hi
    simp [Nat.testBit_lt_two_pow h]
  · simp [hi]

/-- R215: `fneg` flips the sign bit. -/
theorem fnegCode_eq {f : FFmt} {a : Nat} (h : a < 2 ^ f.width) :
    fnegCode f a = if nanCode f a then f.nan else Nat.xor a (2 ^ (f.width - 1)) := by
  have hlow := Nat.mod_lt a (Nat.two_pow_pos (f.width - 1))
  have hcode := code_eq_sign_add h
  have hflip : Nat.xor a (2 ^ (f.width - 1)) =
      if signBit f a then a % 2 ^ (f.width - 1) else a % 2 ^ (f.width - 1) + 2 ^ (f.width - 1) := by
    change a ^^^ 2 ^ (f.width - 1) = _
    cases hs : signBit f a
    case false =>
      rw [hs, FFmt.sign, if_neg Bool.false_ne_true, Nat.zero_add] at hcode
      rw [← hcode, xor_two_pow_of_lt (hcode ▸ hlow), Nat.add_comm]
      rfl
    case true =>
      rw [hs, FFmt.sign, if_pos rfl] at hcode
      conv_lhs => rw [hcode, ← xor_two_pow_of_lt hlow, Nat.xor_assoc, Nat.xor_self, Nat.xor_zero]
      rfl
  rw [fnegCode, isNan_fval, natBit_eq_testBit, hflip]
  rfl

/-- R113, R215 to R217: order, sign and class complete with no record. -/
theorem floatOrderSignClass : FloatOrderSignClass := by
  intro g o
  have hwidth {rounds : Bool} {n : Nat} (h : legalFloat n rounds o = true) : tyBits o.ty = (tyFmt o.ty).width := by
    simp only [legalFloat, Bool.and_eq_true] at h
    obtain ⟨⟨⟨⟨⟨⟨hty, -⟩, -⟩, -⟩, -⟩, -⟩, -⟩ := h
    exact tyBits_of_float hty
  have hmaxmin {rounds : Bool} {n : Nat} (h : legalFloat n rounds o = true) (larger : Bool) (t : Thread) :
      t.map2 o (fun a b => (fmaxmin (tyFmt o.ty) larger a b, none)) =
        (t.setElems o.ty o.d (((t.elems o.ty o.a).zip (t.elems o.ty o.b)).map fun p =>
          extreme (tyFmt o.ty) larger p.1 p.2), []) := by
    rw [map2_plain]
    congr 2
    refine List.map_congr_left fun p hp => ?_
    obtain ⟨ha, hb⟩ := List.of_mem_zip hp
    exact fmaxmin_eq_extreme larger (hwidth h ▸ mem_elems_lt ha) (hwidth h ▸ mem_elems_lt hb)
  refine ⟨?min, ?max, ?abs, ?neg, ?setp, ?classes⟩
  case min => exact fun h => completes_of_compute (fun _ => rfl) (hmaxmin h false)
  case max => exact fun h => completes_of_compute (fun _ => rfl) (hmaxmin h true)
  case abs =>
    intro _
    refine completes_of_compute (fun _ => rfl) fun t => ?_
    rw [map1_plain, eachCode1]
    congr 2
    exact List.map_congr_left fun a _ => by rw [fabsCode, isNan_fval]
  case neg =>
    intro h
    refine completes_of_compute (fun _ => rfl) fun t => ?_
    rw [map1_plain, eachCode1]
    congr 2
    exact List.map_congr_left fun a ha => fnegCode_eq (hwidth h ▸ mem_elems_lt ha)
  case setp =>
    intro h
    have hcc : o.imm.toNat < 8 := of_decide_eq_true (Bool.and_eq_true_iff.mp h).2
    refine completes_of_plainly fun s => ?_
    simp only [← fcond_eq_floatHolds (tyFmt o.ty) hcc]
    rfl
  case classes =>
    intro _
    refine completes_of_plainly fun s => ?_
    simp only [← fclassMask_eq]
    rfl

/-- Settles O8: the special values of the functions, and the order, sign and class rows. -/
theorem floatSpecialCases : Obligations.FloatSpecialCases := ⟨floatSpecialValues, floatOrderSignClass⟩

end Sys2Proof.Machine

/-! # Conversions and packing (R99, R100, R220, R221) -/

namespace Sys2Proof.Machine

open Sys2Proof.Safety Sys2Proof.Claims

/-! ## Conversions of codes and integers (R99, R100) -/

/-- A code that is neither NaN nor a number is an infinity. -/
theorem fval_cases (f : FFmt) (a : Nat) : (nanCode f a = true ∧ number f a = none ∧ fval f a = .nan) ∨
    (nanCode f a = false ∧ number f a = none ∧ fval f a = .inf (signBit f a)) ∨
    ∃ x m e, nanCode f a = false ∧ number f a = some x ∧ fval f a = .num (signBit f a) m e ∧
      x = (FVal.num (signBit f a) m e).rat ∧ f.qmin ≤ e ∧ e ≤ 120 := by
  cases hn : nanCode f a
  case true => exact .inl ⟨rfl, by rw [number, hn]; rfl, fval_of_nanCode hn⟩
  case false =>
    rcases hx : number f a with _ | x
    · exact .inr (.inl ⟨rfl, rfl, fval_of_infinite (infinite_of_number_none hx hn)⟩)
    · obtain ⟨m, e, hv, hval, -, hlo, hhi⟩ := fval_of_number hx
      exact .inr (.inr ⟨x, m, e, rfl, rfl, hv, hval, hlo, hhi⟩)

/-- R99: the conversion of a code. -/
theorem convert_fval (dst src : FFmt) (r : Rnd) (sat : Bool) (a : Nat) :
    convert dst r sat (fval src a) = convertCode dst src r sat a := by
  have hq := src.qmin_ge
  rcases fval_cases src a with ⟨hn, hx, hv⟩ | ⟨hn, hx, hv⟩ | ⟨x, m, e, hn, hx, hv, rfl, hlo, hhi⟩ <;>
    rw [convertCode, hx, hv]
  · simp only [hn, if_true]
    rfl
  · simp only [hn, Bool.false_eq_true, if_false]
    cases dst <;> cases sat <;> cases signBit src a <;> rfl
  · exact convert_num (by omega) (by omega)

/-- R100: the conversion of a code to an integer. -/
theorem toInteger_fval (src : FFmt) (r : Rnd) (lo hi : Int) (a : Nat) :
    toInteger r lo hi (fval src a) = codeInteger src r lo hi a := by
  have hq := src.qmin_ge
  rcases fval_cases src a with ⟨hn, hx, hv⟩ | ⟨hn, hx, hv⟩ | ⟨x, m, e, hn, hx, hv, rfl, hlo, hhi⟩ <;>
    rw [codeInteger, hx, hv]
  · simp only [hn, if_true]
    rfl
  · simp only [hn, Bool.false_eq_true, if_false]
    rfl
  · have hint := roundInteger_signed r (signBit src a) (y := m * 2 ^ e) (by positivity)
    rw [← mul_assoc, ← signed_cast] at hint
    simp only [toInteger, clampExp_eq (e := e) (by omega) (by omega), wholePart_eq, FVal.rat, hint]
    rfl

/-- R100: the conversion of an integer, with one rounding. -/
theorem fromInteger_eq (f : FFmt) (r : Rnd) (sat : Bool) (v : Int) :
    fromInteger f r sat v = convertExact f r sat false v := by
  rw [fromInteger, roundDy_eq _ _ (by norm_num) (by norm_num), rat_natAbs, zpow_zero, mul_one]
  by_cases hv : v = 0
  · rw [hv]
    rfl
  · exact convertExact_zero_irrelevant (by exact_mod_cast hv) _ _

theorem clampTy_log (ty : ElemTy) (v : Int) :
    ((clampTy ty v).1, if (clampTy ty v).2 then some (0x44 : Cause) else none) = clampLog (tyMin ty) (tyMax ty) v := by
  rw [clampTy, clampLog]
  split
  · rfl
  split <;> rfl

/-- R220: the conversion of a scalar. -/
theorem cvtOf_eq (dst src : ElemTy) (r : Rnd) (sat : Bool) (a : Nat) :
    cvtOf dst src r sat a = convertScalar dst src r sat a := by
  simp only [cvtOf, convertScalar, convert_fval, toInteger_fval, fromInteger_eq, FRes.pair, intLow, ← clampTy_log]
  split
  · split <;> rfl
  split
  · rfl
  split <;> rfl

/-! ## Results fit their format -/

theorem sign_add_lt {f : FFmt} (z : Bool) {k : Nat} (hk : k < 2 ^ (f.width - 1)) : f.sign z + k < 2 ^ f.width := by
  have hwidth : 2 ^ f.width = 2 * 2 ^ (f.width - 1) := by cases f <;> rfl
  rw [FFmt.sign]
  split <;> omega

theorem overflow_bits_lt (f : FFmt) (r : Rnd) (sat z : Bool) : (overflow f r sat z).bits < 2 ^ f.width := by
  have hinf : f.maxCode + 1 < 2 ^ (f.width - 1) := by cases f <;> decide
  rw [overflow_eq]
  split
  · exact sign_add_lt z (maxCode_lt f)
  split
  case isTrue h =>
    rw [h]
    decide
  split
  · exact sign_add_lt z (maxCode_lt f)
  · exact sign_add_lt z hinf

theorem convertExact_bits_lt (f : FFmt) (r : Rnd) (sat z : Bool) (x : ℚ) : (convertExact f r sat z x).bits < 2 ^ f.width := by
  by_cases hx : x = 0
  · rw [hx, convertExact_zero]
    exact (number_sign_add (Nat.zero_le _) z).1
  · rw [convertExact_of_ne hx, roundedMag]
    split
    case isTrue h => exact (number_sign_add h _).1
    case isFalse => exact overflow_bits_lt f r sat _

theorem convertCode_bits_lt (dst src : FFmt) (r : Rnd) (sat : Bool) (a : Nat) :
    (convertCode dst src r sat a).bits < 2 ^ dst.width := by
  have hinf : dst.maxCode + 1 < 2 ^ (dst.width - 1) := by cases dst <;> decide
  rw [convertCode]
  split
  · exact convertExact_bits_lt dst r sat _ _
  split
  · cases dst <;> decide
  split
  · exact sign_add_lt _ (maxCode_lt dst)
  split
  case isTrue h =>
    rw [h]
    decide
  · exact sign_add_lt _ hinf

/-! ## Halves and bytes widened (R221) -/

theorem magnitude_f32_of_bf16 (k : Nat) : magnitude .f32 (k * 65536) = magnitude .bf16 k := by
  have hdiv : k * 65536 / 2 ^ FFmt.f32.frac = k / 2 ^ FFmt.bf16.frac := by
    simp only [FFmt.frac]
    omega
  have hmod : k * 65536 % 2 ^ FFmt.f32.frac = k % 2 ^ FFmt.bf16.frac * 65536 := by
    simp only [FFmt.frac]
    omega
  have hshift (e : Int) : (65536 : ℚ) * 2 ^ (e - 16) = 2 ^ e := by
    rw [zpow_sub₀ two_ne_zero, show (2 : ℚ) ^ (16 : Int) = 65536 by norm_num]
    field_simp
  simp only [magnitude, hdiv, hmod]
  split
  · rw [← hshift (FFmt.bf16.emin - FFmt.bf16.frac)]
    push_cast
    simp only [FFmt.emin, FFmt.frac]
    norm_num
    ring
  · rw [← hshift (FFmt.bf16.emin - FFmt.bf16.frac + _ - 1)]
    simp only [FFmt.emin, FFmt.frac]
    push_cast
    ring_nf

/-- A half widened to f32 is exact, and a NaN is canonical. -/
theorem convertCode_widen {c : Nat} (hc : c < 65536) : (convertCode .f32 .bf16 .rne false c).bits =
    if nanCode .bf16 c then 0x7FC00000 else c * 65536 := by
  have hcode := code_eq_sign_add (f := .bf16) hc
  have hsign : FFmt.f32.sign (signBit .bf16 c) = FFmt.bf16.sign (signBit .bf16 c) * 65536 := by
    cases signBit .bf16 c <;> rfl
  rcases hx : number .bf16 c with _ | x
  · simp only [convertCode, hx, Bool.false_eq_true, if_false]
    cases hn : nanCode .bf16 c
    case true => rfl
    case false =>
      have hinf : FFmt.bf16.infCode = some (c % 2 ^ (FFmt.bf16.width - 1)) :=
        (infinite_iff _ _).mp (infinite_of_number_none hx hn)
      have hmag : c % 2 ^ (FFmt.bf16.width - 1) = 0x7F80 := (Option.some.inj hinf).symm
      rw [hmag] at hcode
      conv_rhs => rw [hcode]
      cases signBit .bf16 c <;> rfl
  · obtain ⟨m, e, -, hval, -⟩ := fval_of_number hx
    obtain ⟨hmax, hmag⟩ := (number_eq_some_iff _ _ _).mp hx
    have hn : nanCode .bf16 c = false := (Bool.or_eq_false_iff.mp ((finite_iff _ _).mpr hmax)).1
    have hme : (m : ℚ) * 2 ^ e = magnitude .f32 (c % 2 ^ (FFmt.bf16.width - 1) * 65536) := by
      rw [hval, FVal.rat, signed_cast, mul_assoc] at hmag
      rw [magnitude_f32_of_bf16]
      exact mul_left_cancel₀ (by split <;> norm_num) hmag
    have hfit : c % 2 ^ (FFmt.bf16.width - 1) * 65536 ≤ FFmt.f32.maxCode := by
      simp only [FFmt.maxCode] at hmax ⊢
      omega
    simp only [convertCode, hx, hval]
    rw [convertExact_magnitude hfit hme, hn, if_neg Bool.false_ne_true]
    conv_rhs => rw [hcode]
    rw [hsign, Nat.add_mul]
    rfl

/-! ## The rows -/

theorem width_of_tyF8 {ty : ElemTy} (h : tyF8 ty = true) : (tyFmt ty).width = 8 := by
  revert h
  cases ty <;> decide

theorem causesOf_eq_oneEach (l : List (Option Cause)) : causesOf l = oneEach l := by
  induction l with
  | nil => rfl
  | cons c l ih => cases c <;> simp_all [causesOf, oneEach]

/-- Settles O9: each conversion is that of R99 or R100, and each packed element is converted so. -/
theorem conversionRows : Obligations.ConversionRows := by
  intro g o
  refine ⟨?cvt, ?pkBf16, ?upkBf16, ?pkF8, ?upkF8⟩
  case cvt =>
    intro _ src hsrc
    refine completesLogging_of_compute (fun _ => rfl) fun t => ?_
    simp only [hsrc, Option.getD_some, cvtOf_eq, causesOf_eq_oneEach]
  case pkBf16 =>
    refine completesLogging_of_compute (fun _ => rfl) fun t => ?_
    have hlt (a : Nat) := convertCode_bits_lt .bf16 .f32 o.rnd o.sat a
    simp only [FFmt.width] at hlt
    simp only [packRes, convert_fval, List.map_cons, List.map_nil, joinElems, Nat.mod_eq_of_lt (hlt _), causesOf_eq_oneEach,
      Nat.mul_zero, Nat.add_zero]
    rfl
  case upkBf16 =>
    refine completes_of_plainly fun s => ?_
    have hhalf (w : Word) : widenAll .bf16 16 2 w =
        [w.toNat % 65536, w.toNat / 65536].map fun c => BitVec.ofNat 32 (if nanCode .bf16 c then 0x7FC00000 else c * 65536) := by
      have hw := w.isLt
      have hhigh : w.toNat / 65536 < 65536 := by omega
      simp only [widenAll, splitElems, List.map_cons, List.map_nil, convert_fval]
      rw [show 2 ^ 16 = 65536 from rfl, Nat.mod_eq_of_lt hhigh, convertCode_widen (Nat.mod_lt _ (by norm_num)),
        convertCode_widen hhigh]
    simp only [exec, execUpkBf16, hhalf]
    rfl
  case pkF8 =>
    intro h
    have hwidth : (tyFmt o.ty).width = 8 := by
      simp only [WellFormed, legal, Bool.and_eq_true] at h
      obtain ⟨⟨⟨⟨⟨hty, -⟩, -⟩, -⟩, -⟩, -⟩ := h
      exact width_of_tyF8 hty
    refine completesLogging_of_compute (fun _ => rfl) fun t => ?_
    have hlt (a : Nat) := convertCode_bits_lt (tyFmt o.ty) .f32 o.rnd o.sat a
    rw [hwidth] at hlt
    simp only [packRes, Thread.f32, convert_fval, List.range, List.range.loop, List.map_cons, List.map_nil, joinElems,
      Nat.mod_eq_of_lt (hlt _), causesOf_eq_oneEach, Nat.mul_zero, Nat.add_zero]
    rfl
  case upkF8 =>
    intro wide _
    refine completes_of_plainly fun s => ?_
    have hbytes (w : Word) : widenAll (tyFmt o.ty) 8 4 w = (List.range 4).map fun i =>
        BitVec.ofNat 32 (convertCode .f32 (tyFmt o.ty) .rne false (w.toNat / 256 ^ i % 256)).bits := by
      simp only [widenAll, splitElems, List.range, List.range.loop, List.map_cons, List.map_nil, convert_fval,
        Nat.div_div_eq_div_mul, Nat.reducePow, Nat.reduceMul, Nat.div_one]
    simp only [exec, execUpkF8, hbytes]
    rfl

end Sys2Proof.Machine

/-! # The matrix steps, the cooperative wait and the end of an overlay's load (O42)

## A step of the operation at the head of a queue (R297, R298, R304, R425) -/

namespace Sys2Proof.Machine

open Sys2Proof.Claims

/-- An operation at the head of its queue has its turn. -/
theorem hasTurn_of_head {k : Core} {m : MatOp} (h : k.seq.head? = some m) : k.hasTurn m = true := by
  obtain ⟨l, hl⟩ := List.head?_eq_some_iff.1 h
  simp [Core.hasTurn, hl]

/-- What MATRIX_STEP_COMPLETE does for an operation alone in its group: it stops with its fault. -/
theorem execMatrixStepComplete_of_fault {s : State} {core : Nat} {m : MatOp} {b : Block} {f : Cause × Nat}
    (hhead : (s.core core).seq.head? = some m) (halone : s.groupOps m = [(core, m)]) (hblk : s.block m.blk = some b)
    (hf : b.opFault m = some f) :
    execMatrixStepComplete core s = .next ((s.logBad (core, m) f.1).stopOp core m f.1 f.2) := by
  obtain ⟨l, hl⟩ := List.head?_eq_some_iff.1 hhead
  have hturn := hasTurn_of_head hhead
  have hfault : s.groupFault [(core, m)] = some f := by simp [State.groupFault, hblk, hf]
  simp [execMatrixStepComplete, hl, halone, hturn, hfault]

/-- A step that halts nothing passes on the operation, with its causes counted. -/
theorem execMatrixStepComplete_of_heads {s : State} {core : Nat} {m : MatOp} {b : Block} (h : Heads s core m b)
    (hstep : (s.runStep m b).halt = none) :
    execMatrixStepComplete core s =
      .next ((s.runStep m b).st.passStep core (m.count (s.runStep m b).raised)) := by
  obtain ⟨hhead, halone, hblk, hsound, hready, hslot⟩ := h
  obtain ⟨l, hl⟩ := List.head?_eq_some_iff.1 hhead
  have hturn := hasTurn_of_head hhead
  have hfault : s.groupFault [(core, m)] = none := by simp [State.groupFault, hblk, hsound]
  have hfrom : startFrom [(core, m)] = m.since := by simp [startFrom]
  simp [execMatrixStepComplete, hl, halone, hturn, hfault, hfrom, hblk, hready, hslot, stepOne, hstep]

/-- An operation that has done its last step ends. -/
theorem passStep_of_last {s : State} {core : Nat} {m : MatOp} (h : m.steps ≤ m.step + 1) :
    s.passStep core m = (s.modBlock m.blk fun k => { k with mStep := (m.step + 1) % 8192, mStop := false }).endOp core
      { m with step := m.step + 1 } := by
  simp only [State.passStep, if_neg (Nat.not_lt.2 h)]
  rw [State.modBlock_modBlock]
  exact fun _ => rfl

/-- An operation with more steps to do goes on with the next one. -/
theorem passStep_of_next {s : State} {core : Nat} {m : MatOp} (h : m.step + 1 < m.steps) (hh : m.halts = false) :
    s.passStep core m = (s.modBlock m.blk fun k => { k with mStep := (m.step + 1) % 8192 }).modOp core m.id fun k =>
      { k with step := m.step + 1, logs := m.logs, seen := m.seen, since := s.tick } := by
  simp only [State.passStep, if_pos h, hh, Bool.false_eq_true, if_false]
  rfl

/-- An operation that a pre-emption stops ends at the boundary. -/
theorem passStep_of_halts {s : State} {core : Nat} {m : MatOp} (h : m.step + 1 < m.steps) (hh : m.halts = true) :
    s.passStep core m = (s.modBlock m.blk fun k => { k with mStep := (m.step + 1) % 8192, mStop := true }).endOp core
      { m with step := m.step + 1 } := by
  simp only [State.passStep, if_pos h, hh, if_true]
  rw [State.modBlock_modBlock]
  exact fun _ => rfl

/-- The step of an `mzero` whose tile lies in its buffer writes zeros and meets no cause. -/
theorem runStep_zero {s : State} {m : MatOp} {b : Block} {p : Nat} (hk : m.kind = .zero)
    (hp : b.bufPhys (b.tile (tileC m.ga)).lay.buf (b.tile (tileC m.ga)).lay.base (b.tile (tileC m.ga)).size = some p) :
    s.runStep m b = (s.modCore b.core fun k => k.writeBuf (b.tile (tileC m.ga)).lay.buf p
      (List.replicate (b.tile (tileC m.ga)).size 0)).run0 := by
  simp [State.runStep, hk, State.zeroStep, State.zeroTile, State.tileWrite, hp]

/-- The step of an `mzero` clears its tile and ends the operation. -/
theorem step_of_zero {s : State} {core : Nat} {m : MatOp} {b : Block} {p : Nat} (h : Heads s core m b)
    (hk : m.kind = .zero) (hlast : m.steps ≤ m.step + 1)
    (hp : b.bufPhys (b.tile (tileC m.ga)).lay.buf (b.tile (tileC m.ga)).lay.base (b.tile (tileC m.ga)).size = some p) :
    exec (.matrixStepComplete core) s = .next (((s.modCore b.core fun k => k.writeBuf (b.tile (tileC m.ga)).lay.buf p
      (List.replicate (b.tile (tileC m.ga)).size 0)).modBlock m.blk fun k =>
        { k with mStep := (m.step + 1) % 8192, mStop := false }).endOp core { m with step := m.step + 1 }) := by
  have hrun := runStep_zero (s := s) hk hp
  calc exec (.matrixStepComplete core) s
      = .next ((s.runStep m b).st.passStep core (m.count (s.runStep m b).raised)) :=
        execMatrixStepComplete_of_heads h (by rw [hrun]; rfl)
    _ = _ := by
        rw [hrun, passStep_of_last (m := m.count _) hlast]
        rfl

/-- A cause counts once for each element of an output tile that met it (R115). -/
theorem count_logs_single (m : MatOp) (c : Cause) (n : Nat) :
    (m.count [(c, n)]).logs =
      if m.step % kSteps m.gb = 0 ∨ (c, n) ∉ m.seen then addCause m.logs c else m.logs := by
  by_cases hfirst : m.step % kSteps m.gb = 0
  · simp [MatOp.count, hfirst]
  · by_cases hseen : (c, n) ∈ m.seen <;> simp [MatOp.count, hfirst, hseen]

/-- An error of another kind than a memory fault forms no record of its own as it stops an operation. -/
theorem logBad_of_ne {s : State} {x : Nat × MatOp} {c : Cause} (hc : c ≠ 0x13) : s.logBad x c = s := by
  unfold State.logBad
  cases s.block x.2.blk with
  | none => rfl
  | some b => exact if_neg hc

/-- COOP_TIMEOUT of a participant that has waited alone for its bound parks it (R299). -/
theorem coopTimeout_of_over {s : State} {b : Block} {w : CoopWait} (hb : s.block b.id = some b) (hw : b.coop = some w)
    (hfull : s.coopFull b = false) (halone : s.coopOthers b w.p w.l = []) (hover : Over s w.since 65536) :
    exec (.coopTimeout b.id) s = .next (s.parkParts [b.id] 0x10) := by
  have hlate : ¬ s.tick < w.since + Config.rendezvousCycles * Config.coreTicks := Nat.not_lt.2 hover
  show execCoopTimeout b.id s = _
  simp [execCoopTimeout, hb, hw, halone, hfull, hlate]

end Sys2Proof.Machine

/-! ## What a K-block adds to an element of C (R106, R297) -/

namespace Sys2Proof.Machine

open Sys2Proof.Claims

/-- A NaN stays in a sum. -/
theorem foldl_faddExact_nan (r : Rnd) (l : List FVal) : l.foldl (faddExact r) .nan = .nan := by
  induction l with
  | nil => rfl
  | cons v l ih => simpa using ih

theorem eq_nan_of_isNan {v : FVal} (h : v.isNan = true) : v = .nan := by
  cases v with
  | nan => rfl
  | inf n => cases h
  | num n m e => cases h

/-- A NaN among the elements of a block makes its sum of products NaN. -/
theorem foldl_products_nan {a b : List FVal} (hlen : a.length = b.length) (h : (anyNan a || anyNan b) = true) (v : FVal) :
    (a.zipWith fmulExact b).foldl (faddExact .rne) v = .nan := by
  induction a generalizing b v with
  | nil =>
    rw [List.length_nil] at hlen
    rw [List.length_eq_zero_iff.1 hlen.symm] at h
    cases h
  | cons x a ih =>
    cases b with
    | nil => cases hlen
    | cons y b =>
      simp only [List.zipWith_cons_cons, List.foldl_cons]
      rcases Bool.eq_false_or_eq_true x.isNan with hx | hx
      · simp [eq_nan_of_isNan hx, foldl_faddExact_nan]
      · rcases Bool.eq_false_or_eq_true y.isNan with hy | hy
        · simp [eq_nan_of_isNan hy, foldl_faddExact_nan]
        · refine ih (Nat.succ.inj hlen) ?_ _
          simpa [anyNan, hx, hy] using h

theorem blockDot_nan {a b : List FVal} (hlen : a.length = b.length) (h : (anyNan a || anyNan b) = true) :
    blockDot a b = .nan := by
  rw [blockDot, foldl_products_nan hlen h]

/-- One more product of a sum of products of numbers. -/
def dotTerm (acc : Option ℚ) (p : Option ℚ × Option ℚ) : Option ℚ := do some ((← acc) + (← p.1) * (← p.2))

theorem dotSum_eq (a b : List (Option ℚ)) : dotSum a b = (a.zip b).foldl dotTerm (some 0) := rfl

theorem foldl_dotTerm_none (l : List (Option ℚ × Option ℚ)) : l.foldl dotTerm none = none := by
  induction l with
  | nil => rfl
  | cons p l ih => exact ih

/-- The sum of a block's products of numbers is their exact sum, with an exponent of the formats' range. -/
theorem foldl_products_num {f h : FFmt} {a y : List Nat} {s : Bool} {m : Nat} {e : Int} {w : ℚ} (hlo : -298 ≤ e)
    (hhi : e ≤ 0)
    (hw : ((a.map (number f)).zip (y.map (number h))).foldl dotTerm (some (FVal.num s m e).rat) = some w) :
    ∃ t p k, ((a.map (fval f)).zipWith fmulExact (y.map (fval h))).foldl (faddExact .rne) (.num s m e) = .num t p k ∧
      (FVal.num t p k).rat = w ∧ -298 ≤ k ∧ k ≤ 0 := by
  induction a generalizing y s m e with
  | nil => exact ⟨s, m, e, rfl, Option.some.inj hw, hlo, hhi⟩
  | cons x a ih =>
    cases y with
    | nil => exact ⟨s, m, e, rfl, Option.some.inj hw, hlo, hhi⟩
    | cons z y =>
      simp only [List.map_cons, List.zip_cons_cons, List.zipWith_cons_cons, List.foldl_cons] at hw ⊢
      cases hx : number f x with
      | none =>
        rw [hx, show dotTerm _ (none, number h z) = none from rfl, foldl_dotTerm_none] at hw
        cases hw
      | some u =>
        cases hz : number h z with
        | none =>
          rw [hx, hz, show dotTerm _ (some u, none) = none from rfl, foldl_dotTerm_none] at hw
          cases hw
        | some v =>
          obtain ⟨mx, ex, hfx, hux, -, hxl, hxh⟩ := fval_of_number hx
          obtain ⟨mz, ez, hfz, hvz, -, hzl, hzh⟩ := fval_of_number hz
          have hqf := f.qmin_ge
          have hqh := h.qmin_ge
          obtain ⟨t, p, hadd, hrat, -⟩ := faddExact_num .rne s (signBit f x != signBit h z) m (mx * mz) e (ex + ez)
          rw [hx, hz, show dotTerm (some _) (some u, some v) = some ((FVal.num s m e).rat + u * v) from rfl, hux, hvz,
            ← rat_mul, ← hrat] at hw
          rw [hfx, hfz, fmulExact, hadd]
          exact ih (by omega) (by omega) hw

/-- The dot of a block of numbers is its exact sum. -/
theorem blockDot_num {f h : FFmt} {a y : List Nat} {w : ℚ} (hw : dotSum (a.map (number f)) (y.map (number h)) = some w) :
    ∃ t p k, blockDot (a.map (fval f)) (y.map (fval h)) = .num t p k ∧ (FVal.num t p k).rat = w ∧ -298 ≤ k ∧ k ≤ 0 := by
  have hzero : (FVal.num false 0 0).rat = 0 := by simp [rat_false]
  rw [dotSum_eq, ← hzero] at hw
  obtain ⟨t, p, k, hsum, hrat, hlo, hhi⟩ := foldl_products_num (by norm_num) le_rfl hw
  by_cases hp : p = 0
  · refine ⟨false, 0, 0, by rw [blockDot, hsum, hp]; rfl, ?_, by norm_num, le_rfl⟩
    rw [hzero, ← hrat, hp, FVal.rat, signed_cast, Nat.cast_zero, mul_zero, zero_mul]
  · exact ⟨t, p, k, by rw [blockDot, hsum]; exact if_neg hp, hrat, hlo, hhi⟩

/-- A NaN operand gives the canonical NaN and no record. -/
theorem accFloat_nan {acc : Nat} {sa sb d : FVal} {nanIn : Bool} (hd : nanIn = true → d = .nan)
    (h : (nanIn || sa.isNan || sb.isNan || (fval .f32 acc).isNan) = true) :
    accFloat acc sa sb d nanIn = ⟨0x7FC00000, none⟩ := by
  have hflag : (nanIn || (fval .f32 acc).isNan || sa.isNan || sb.isNan) = true := by
    simp only [Bool.or_eq_true] at h ⊢
    tauto
  have hval : faddExact .rne (fval .f32 acc) (fmulExact (fmulExact sa sb) d) = .nan := by
    simp only [Bool.or_eq_true] at h
    rcases h with ((hn | hs) | hs) | hc
    · simp [hd hn]
    · simp [eq_nan_of_isNan hs]
    · simp [eq_nan_of_isNan hs]
    · simp [eq_nan_of_isNan hc]
  simp only [accFloat, hval, hflag]
  rfl

/-- Numbers give the exact accumulator plus scaled sum, rounded once. -/
theorem accFloat_num {acc p q m : Nat} {t : Bool} {k : Int} {z u v : ℚ} (hz : number .f32 acc = some z)
    (hu : number .bf16 p = some u) (hv : number .bf16 q = some v) (hlo : -298 ≤ k) (hhi : k ≤ 0)
    (hne : z + u * v * (FVal.num t m k).rat ≠ 0) (nanIn : Bool) :
    accFloat acc (fval .bf16 p) (fval .bf16 q) (.num t m k) nanIn =
      convertExact .f32 .rne false false (z + u * v * (FVal.num t m k).rat) := by
  obtain ⟨mc, ec, hc, rfl, -, hcl, hch⟩ := fval_of_number hz
  obtain ⟨mp, ep, hp, rfl, -, hpl, hph⟩ := fval_of_number hu
  obtain ⟨mq, eq, hq, rfl, -, hql, hqh⟩ := fval_of_number hv
  have hf := FFmt.f32.qmin_ge
  have hb := FFmt.bf16.qmin_ge
  simp only [← rat_mul] at hne ⊢
  simp only [accFloat, hc, hp, hq, fmulExact]
  rw [finish_faddExact (by omega) (by omega)]
  exact convertExact_zero_irrelevant hne _ _

theorem operandVal_of_flt {fa : Nat} {f : FFmt} (h : efmt fa = some (.flt f)) : operandVal fa = fval f := by
  funext c
  simp only [operandVal, h]

theorem anyNan_map_fval (f : FFmt) (a : List Nat) : anyNan (a.map (fval f)) = a.any (nanCode f) := by
  simp only [anyNan, List.any_map, Function.comp_def, isNan_fval]

/-- The integer product adds the exact sum to the accumulator modulo 2^32 (R106). -/
theorem dotUpdate_int (acc : Nat) (a y : List Nat) (sa sb : FVal) :
    let sum : Int := natSigned 32 acc + ((a.map (intElem true 8)).zipWith (· * ·) (y.map (intElem true 8))).foldl (· + ·) 0
    dotUpdate 0x04 0x04 0x08 acc a y sa sb =
      (intLow 32 sum, if sum < -2 ^ 31 ∨ 2 ^ 31 ≤ sum then some 0x45 else none) := by
  intro sum
  have hop : operandInt 0x04 = intElem true 8 := rfl
  have hout : (decide (sum < -2147483648) || decide (2147483647 < sum)) = decide (sum < -2 ^ 31 ∨ 2 ^ 31 ≤ sum) := by
    rw [← Bool.decide_or]
    refine decide_eq_decide.2 (or_congr_right ?_)
    norm_num
    omega
  simp only [dotUpdate, if_true, accInt, blockDotInt, hop]
  show (intLow 32 sum, if (decide (sum < -2147483648) || decide (2147483647 < sum)) = true then _ else _) = _
  rw [hout]
  simp only [decide_eq_true_eq]

/-- The floating product: NaN operands, and the one rounding of an exact value that is not 0 (R106). -/
theorem dotUpdate_float {fa fb : Nat} {f h : FFmt} {acc : Nat} {a y : List Nat} {p q : Nat} (hfa : efmt fa = some (.flt f))
    (hfb : efmt fb = some (.flt h)) (hlen : a.length = y.length) :
    let made := dotUpdate fa fb 0x00 acc a y (fval .bf16 p) (fval .bf16 q)
    (a.any (nanCode f) || y.any (nanCode h) || nanCode .bf16 p || nanCode .bf16 q || nanCode .f32 acc →
      made = (0x7FC00000, none)) ∧
    (∀ u v w z, number .f32 acc = some z → number .bf16 p = some u → number .bf16 q = some v →
      dotSum (a.map (number f)) (y.map (number h)) = some w → z + u * v * w ≠ 0 →
      made = (let r := convertExact .f32 .rne false false (z + u * v * w); (r.bits, r.cause))) := by
  intro made
  have hmade : made = (accFloat acc (fval .bf16 p) (fval .bf16 q) (blockDot (a.map (fval f)) (y.map (fval h)))
      (anyNan (a.map (fval f)) || anyNan (y.map (fval h)))).pair := by
    simp only [made, dotUpdate, operandVal_of_flt hfa, operandVal_of_flt hfb, if_neg (show ¬ (0x00 : Nat) = 0x08 by decide)]
  refine ⟨fun hnan => ?_, fun u v w z hz hu hv hw hne => ?_⟩
  · simp only [← anyNan_map_fval, ← isNan_fval] at hnan
    rw [hmade, accFloat_nan (blockDot_nan (by simpa using hlen)) hnan]
    rfl
  · obtain ⟨t, m, k, hdot, rfl, hlo, hhi⟩ := blockDot_num hw
    rw [hmade, hdot, accFloat_num hz hu hv hlo hhi hne]
    rfl

end Sys2Proof.Machine

/-! ## The names of overlay copies (R306, R307)

A copy's name is not given twice: what runs at the end of a load may start other loads, whose copies take new names, so a
copy that has been dropped does not come back. -/

namespace Sys2Proof.Machine

/-- No core has changed, and names are taken in order. -/
structure CoresStay (s s' : State) : Prop where
  cores : s'.cores = s.cores
  names : s.nextId ≤ s'.nextId

theorem CoresStay.refl (s : State) : CoresStay s s := ⟨rfl, le_rfl⟩

theorem CoresStay.trans {a b c : State} (h : CoresStay a b) (k : CoresStay b c) : CoresStay a c :=
  ⟨k.cores.trans h.cores, h.names.trans k.names⟩

theorem CoresStay.foldl {α : Type} (f : State → α → State) (hf : ∀ s a, CoresStay s (f s a)) (l : List α) (s : State) :
    CoresStay s (l.foldl f s) := by
  induction l generalizing s with
  | nil => exact .refl s
  | cons a l ih => exact (hf s a).trans (ih _)

/-! ### The hardware's writes and parks -/

theorem pinNear_coresStay (s : State) (pte : DWord) (line : Nat) : CoresStay s (s.pinNear pte line) := by
  unfold State.pinNear
  split
  · exact .refl s
  · refine .foldl _ (fun s d => ?_) _ s
    split
    · exact .refl s
    · split <;> exact ⟨rfl, le_rfl⟩

theorem pinLines_coresStay (s : State) (pte : DWord) (pa n : Nat) : CoresStay s (s.pinLines pte pa n) := by
  unfold State.pinLines
  split
  · exact .refl s
  · exact .foldl _ (fun s _ => pinNear_coresStay s _ _) _ s

theorem landWrite_coresStay (s : State) (pa : Nat) (bs : List Byte) : CoresStay s (s.landWrite pa bs) := by
  obtain ⟨x, e, m, p, h⟩ := ring_rung (s.physWrite pa bs) pa bs.length
  rw [State.landWrite, State.homeWrite, h]
  exact ⟨rfl, le_rfl⟩

theorem postWrite_coresStay (s : State) (c pa : Nat) (bs : List Byte) : CoresStay s (s.postWrite c pa bs) := by
  unfold State.postWrite
  split
  · exact ⟨rfl, Nat.le_succ _⟩
  · exact landWrite_coresStay s pa bs

theorem vwrite_coresStay {s s' : State} {c : Nat} {va : DWord} {bs : List Byte} (h : s.vwrite c va bs = .ok s') :
    CoresStay s s' := by
  unfold State.vwrite at h
  split at h
  · cases h
  · split at h
    · cases h
    · split at h
      · cases h
      · exact Except.ok.inj h ▸ (pinLines_coresStay s _ _ _).trans (postWrite_coresStay _ _ _ _)

theorem logRecord_coresStay (s : State) (c : Nat) (cause core : Byte) (count : Nat) (blk : Word) (hdr : DWord) (thr : Nat)
    (heat : Option (BitVec 48)) : CoresStay s (s.logRecord c cause core count blk hdr thr heat) := by
  have hcount : CoresStay s (s.modCtx c fun x => { x with log := x.log + 1 }) := ⟨rfl, le_rfl⟩
  unfold State.logRecord
  simp only
  split
  · exact hcount
  · split
    · next h => exact hcount.trans (vwrite_coresStay h)
    · split <;> exact ⟨rfl, le_rfl⟩

theorem parkWrite_coresStay (s : State) (c : Nat) (a : DWord) (bs : List Byte) : CoresStay s (s.parkWrite c a bs) := by
  unfold State.parkWrite
  split
  · exact .refl s
  · split
    · next h => exact vwrite_coresStay h
    · split <;> exact ⟨rfl, le_rfl⟩

theorem recordEvent_coresStay (s : State) (e : CtxEvent) : CoresStay s (s.recordEvent e) := by
  unfold State.recordEvent
  split <;> exact ⟨rfl, le_rfl⟩

theorem countPark_coresStay (s : State) (blk : Nat) : CoresStay s (s.countPark blk) := by
  unfold State.countPark
  split <;> exact ⟨rfl, le_rfl⟩

theorem modBlock_coresStay (s : State) (id : Nat) (f : Block → Block) : CoresStay s (s.modBlock id f) := ⟨rfl, le_rfl⟩

theorem modThread_coresStay (s : State) (blk : Nat) (w : Who) (f : Thread → Thread) : CoresStay s (s.modThread blk w f) :=
  ⟨rfl, le_rfl⟩

theorem setTaken_coresStay (s : State) (blk : Nat) (w : Who) : CoresStay s (s.setTaken blk w) := by
  unfold State.setTaken
  split
  · exact .refl s
  · split
    · exact .refl s
    · exact (modThread_coresStay s blk w _).trans (parkWrite_coresStay _ _ _ _)

theorem tellRuntime_coresStay (s : State) (b : Block) (w : Who) (cause : Cause) (hrec : DWord) (more : Nat) :
    CoresStay s (s.tellRuntime b w cause hrec more) :=
  (setTaken_coresStay s b.id w).trans (recordEvent_coresStay _ _)

theorem parkOne_coresStay (s : State) (blk : Nat) (m : Word) (taken : Bool) (x : Parked) :
    CoresStay s (s.parkOne blk m taken x) := by
  unfold State.parkOne
  split
  · exact .refl s
  · split
    · exact .refl s
    · exact (modBlock_coresStay s blk _).trans (parkWrite_coresStay _ _ _ _)

theorem parkAll_coresStay (s : State) (blk : Nat) (l : List Parked) : CoresStay s (s.parkAll blk l) :=
  (countPark_coresStay s blk).trans (.foldl _ (fun s x => parkOne_coresStay s blk _ _ x) l _)

theorem parkEvent_coresStay (s : State) (blk : Nat) (x : Parked) : CoresStay s (s.parkEvent blk x) := by
  unfold State.parkEvent
  split
  · exact .refl s
  · split
    · exact .refl s
    · simp only
      split
      · exact tellRuntime_coresStay _ _ _ _ _ _
      · exact ⟨rfl, Nat.le_succ _⟩

theorem parkGroup_coresStay (s : State) (blk : Nat) (l : List Parked) : CoresStay s (s.parkGroup blk l) := by
  unfold State.parkGroup
  split
  · exact .refl s
  · exact (parkAll_coresStay s blk _).trans (parkEvent_coresStay _ blk _)

theorem parkForRuntime_coresStay (s : State) (blk : Nat) (l : List Parked) : CoresStay s (s.parkForRuntime blk l) := by
  unfold State.parkForRuntime
  split
  · exact .refl s
  · simp only
    split
    · exact parkAll_coresStay _ _ _
    · split
      · exact parkAll_coresStay _ _ _
      · exact (parkAll_coresStay _ _ _).trans (tellRuntime_coresStay _ _ _ _ _ _)

theorem failHandler_coresStay (s : State) (b : Block) (ovl : BitVec 8) (c : Cause) : CoresStay s (s.failHandler b ovl c) := by
  unfold State.failHandler
  split
  · split
    · exact (modBlock_coresStay s b.id _).trans (tellRuntime_coresStay _ _ _ _ _ _)
    · exact .refl s
  · exact .refl s

theorem failWaiters_coresStay (s : State) (b : Block) (ovl : BitVec 8) (c : Cause) : CoresStay s (s.failWaiters b ovl c) :=
  .foldl _ (fun _ _ => parkGroup_coresStay _ _ _) _ s

theorem startLater_coresStay (s : State) (blk : Nat) (ovl : BitVec 8) (ent : Nat) (ws : List Who) (due : BitVec 8) :
    CoresStay s (s.startLater blk ovl ent ws due) :=
  .foldl _ (fun s w => modThread_coresStay s blk w _) ws s

theorem enterEntry_coresStay (s : State) (blk : Nat) (k : OvlCopy) (ovl : BitVec 8) (ent : Nat) (ws : List Who) :
    CoresStay s (s.enterEntry blk k ovl ent ws) := by
  unfold State.enterEntry
  split
  · split
    · simp only
      generalize hz : List.foldl _ s ws = z
      have henter : CoresStay s z := by
        rw [← hz]
        exact .foldl _ (fun s w => modThread_coresStay s blk w _) ws s
      split
      · exact henter
      · exact henter.trans (parkForRuntime_coresStay _ _ _)
    · exact parkGroup_coresStay _ _ _
  · exact parkGroup_coresStay _ _ _

/-! ### Copies that are changed, dropped and added -/

/-- Every overlay copy has the name of a copy that was there before, or a new name. -/
structure NamesOnce (s s' : State) : Prop where
  names  : s.nextId ≤ s'.nextId
  copies : ∀ core, ∀ x ∈ (s'.core core).copies, s.nextId ≤ x.id ∨ ∃ y ∈ (s.core core).copies, y.id = x.id

theorem CoresStay.namesOnce {s s' : State} (h : CoresStay s s') : NamesOnce s s' := by
  refine ⟨h.names, fun core x hx => .inr ⟨x, ?_, rfl⟩⟩
  rwa [State.core, h.cores] at hx

theorem NamesOnce.refl (s : State) : NamesOnce s s := (CoresStay.refl s).namesOnce

theorem NamesOnce.trans {a b c : State} (h : NamesOnce a b) (k : NamesOnce b c) : NamesOnce a c := by
  refine ⟨h.names.trans k.names, fun core x hx => ?_⟩
  rcases k.copies core x hx with hnew | ⟨y, hy, hid⟩
  · exact .inl (h.names.trans hnew)
  · exact hid ▸ h.copies core y hy

theorem NamesOnce.foldl {α : Type} (f : State → α → State) (hf : ∀ s a, NamesOnce s (f s a)) (l : List α) (s : State) :
    NamesOnce s (l.foldl f s) := by
  induction l generalizing s with
  | nil => exact .refl s
  | cons a l ih => exact (hf s a).trans (ih _)

/-- A changed core reads as changed. -/
theorem core_modCore_same (s : State) {c : Nat} (f : Core → Core) (h : c < 160) : (s.modCore c f).core c = f (s.core c) :=
  vget_vmod_same _ _ _ _ h

/-- A core is changed by a change of it alone. -/
theorem core_modCore_cases (s : State) (c k : Nat) (f : Core → Core) :
    (s.modCore c f).core k = s.core k ∨ (s.modCore c f).core k = f (s.core k) := by
  by_cases hk : c = k
  · subst hk
    by_cases hc : c < 160
    · exact .inr (core_modCore_same s f hc)
    · exact .inl (vget_vmod_out _ _ _ _ _ (by omega))
  · exact .inl (vget_vmod_other _ _ _ _ _ hk)

theorem NamesOnce.modCore (s : State) (c : Nat) {f : Core → Core}
    (hf : ∀ k, ∀ x ∈ (f k).copies, ∃ y ∈ k.copies, y.id = x.id) : NamesOnce s (s.modCore c f) := by
  refine ⟨le_rfl, fun core x hx => .inr ?_⟩
  rcases core_modCore_cases s c core f with h | h
  · exact ⟨x, h ▸ hx, rfl⟩
  · exact hf _ x (h ▸ hx)

theorem modCopy_namesOnce (s : State) (core id : Nat) {f : OvlCopy → OvlCopy} (hf : ∀ x, (f x).id = x.id) :
    NamesOnce s (s.modCopy core id f) := by
  refine .modCore s core fun k x hx => ?_
  obtain ⟨y, hy, rfl⟩ := List.mem_map.1 hx
  refine ⟨y, hy, ?_⟩
  split
  · exact (hf y).symm
  · rfl

theorem reloadCopy_namesOnce (s : State) (core id : Nat) : NamesOnce s (s.reloadCopy core id) :=
  modCopy_namesOnce s core id fun _ => rfl

theorem cancelEvict_namesOnce (s : State) (core c : Nat) (ovl : BitVec 8) : NamesOnce s (s.cancelEvict core c ovl) := by
  refine .modCore s core fun k x hx => ?_
  obtain ⟨y, hy, rfl⟩ := List.mem_map.1 hx
  exact ⟨y, hy, rfl⟩

theorem evictFor_namesOnce (s : State) (core c seq isq need : Nat) (l : List OvlCopy) :
    NamesOnce s (s.evictFor core c seq isq need l) := by
  induction l generalizing s with
  | nil => exact .refl s
  | cons k ks ih =>
    unfold State.evictFor
    split
    · exact .refl s
    · split
      · exact (NamesOnce.modCore s core fun k x hx => ⟨x, List.mem_of_mem_filter hx, rfl⟩).trans (ih _)
      · exact ih _

theorem pick_coresStay (s : State) (n : Nat) : CoresStay s (s.pick n).2 := ⟨rfl, le_rfl⟩

/-- A copy that takes the next name. -/
theorem addCopy_namesOnce (s : State) (core : Nat) {k : OvlCopy} (hk : k.id = s.nextId) :
    NamesOnce s (s.take.2.modCore core fun x => { x with copies := x.copies ++ [k] }) := by
  refine ⟨Nat.le_succ _, fun c x hx => ?_⟩
  rcases core_modCore_cases s.take.2 core c fun x => { x with copies := x.copies ++ [k] } with h | h
  · exact .inr ⟨x, h ▸ hx, rfl⟩
  · rw [h] at hx
    rcases List.mem_append.1 hx with hold | hnew
    · exact .inr ⟨x, hold, rfl⟩
    · rw [List.mem_singleton.1 hnew, hk]
      exact .inl le_rfl

theorem startLoad_namesOnce (s : State) (core c : Nat) (ovl : BitVec 8) (seq isq : Nat) (by_ : Option (Nat × Who)) :
    NamesOnce s (s.startLoad core c ovl seq isq by_).2 := by
  unfold State.startLoad
  split
  · exact .refl s
  · split
    · split
      · exact .refl s
      · exact cancelEvict_namesOnce s core c ovl
    · simp only
      split
      · exact modCopy_namesOnce s core _ fun _ => rfl
      · have hevict := evictFor_namesOnce s core c seq isq
        split
        · exact (hevict _ _).trans ((pick_coresStay _ _).namesOnce.trans (addCopy_namesOnce _ core rfl))
        · exact hevict _ _

theorem startLoad_namesOnce_of_eq {s z : State} {core c : Nat} {ovl : BitVec 8} {seq isq : Nat} {by_ : Option (Nat × Who)}
    {r : LoadStart} (h : s.startLoad core c ovl seq isq by_ = (r, z)) : NamesOnce s z := by
  have hz := startLoad_namesOnce s core c ovl seq isq by_
  rwa [h] at hz

/-! ### Starts and the end of a load -/

theorem startResident_namesOnce (s : State) (blk : Nat) (k : OvlCopy) (ovl : BitVec 8) (ent : Nat) (ws : List Who) :
    NamesOnce s (s.startResident blk k ovl ent ws) := by
  unfold State.startResident
  split
  · exact .refl s
  · split
    · exact (reloadCopy_namesOnce s _ _).trans (startLater_coresStay _ _ _ _ _ _).namesOnce
    · split
      · split
        · exact (startLater_coresStay _ _ _ _ _ _).namesOnce
        · exact (enterEntry_coresStay _ _ _ _ _ _).namesOnce
      · exact (enterEntry_coresStay _ _ _ _ _ _).namesOnce

theorem startAt_namesOnce (s : State) (blk : Nat) (ovl : BitVec 8) (ent : Nat) (ws : List Who) :
    NamesOnce s (s.startAt blk ovl ent ws) := by
  unfold State.startAt
  split
  · exact .refl s
  · split
    · exact .refl s
    · simp only
      generalize hz : List.foldl _ s ws = z
      have hwait : CoresStay s z := by
        rw [← hz]
        exact .foldl _ (fun s w => modThread_coresStay s blk w _) ws s
      refine hwait.namesOnce.trans ?_
      split
      · exact (cancelEvict_namesOnce z _ _ _).trans (startResident_namesOnce _ _ _ _ _ _)
      · split
        · next h => exact (startLoad_namesOnce_of_eq h).trans (parkForRuntime_coresStay _ _ _).namesOnce
        · next h => exact startLoad_namesOnce_of_eq h
        · next h =>
          refine (startLoad_namesOnce_of_eq h).trans ?_
          split
          · exact startResident_namesOnce _ _ _ _ _ _
          · exact .refl _

theorem startWaiters_namesOnce (s : State) (b : Block) (ovl : BitVec 8) (k : Option OvlCopy) (c : Cause) :
    NamesOnce s (s.startWaiters b ovl k c) := by
  refine .foldl _ (fun s e => ?_) _ s
  split
  · exact .refl s
  · split
    · exact startAt_namesOnce _ _ _ _ _
    · split
      · exact startResident_namesOnce _ _ _ _ _ _
      · exact (parkForRuntime_coresStay _ _ _).namesOnce

theorem endLoadRef_namesOnce (s : State) (core : Nat) (r : OvlRef) (k : Option OvlCopy) (c : Cause) :
    NamesOnce s (s.endLoadRef core r k c) := by
  refine .foldl _ (fun s b => ?_) _ s
  refine (startWaiters_namesOnce s b r.ovl k c).trans ?_
  split
  · exact ((failWaiters_coresStay _ _ _ _).trans (failHandler_coresStay _ _ _ _)).namesOnce
  · exact .refl _

end Sys2Proof.Machine

/-! ## The end of an overlay's load (R307, R311, R413) -/

namespace Sys2Proof.Machine

open Sys2Proof.Claims

/-! ### Reading the image -/

/-- Only translations and the near tier's pins have changed. -/
structure OnlyReads (s s' : State) : Prop where
  copies : KeepsCopies s s'
  mem    : s'.mem = s.mem
  blocks : s'.blocks = s.blocks
  names  : s'.nextId = s.nextId

theorem OnlyReads.refl (s : State) : OnlyReads s s := ⟨.refl s, rfl, rfl, rfl⟩

theorem OnlyReads.trans {a b c : State} (h : OnlyReads a b) (k : OnlyReads b c) : OnlyReads a c :=
  ⟨h.copies.trans k.copies, k.mem.trans h.mem, k.blocks.trans h.blocks, k.names.trans h.names⟩

theorem OnlyReads.foldl {α : Type} (f : State → α → State) (hf : ∀ s a, OnlyReads s (f s a)) (l : List α) (s : State) :
    OnlyReads s (l.foldl f s) := by
  induction l generalizing s with
  | nil => exact .refl s
  | cons a l ih => exact (hf s a).trans (ih _)

theorem OnlyReads.modCore (s : State) (c : Nat) {f : Core → Core} (hf : ∀ k, (f k).copies = k.copies) :
    OnlyReads s (s.modCore c f) := ⟨.modCore s c hf, rfl, rfl, rfl⟩

theorem OnlyReads.modDie (s : State) (d : Nat) (f : Die → Die) : OnlyReads s (s.modDie d f) :=
  ⟨.of_cores rfl, rfl, rfl, rfl⟩

theorem pinNear_onlyReads (s : State) (pte : DWord) (line : Nat) : OnlyReads s (s.pinNear pte line) := by
  unfold State.pinNear
  split
  · exact .refl s
  · refine .foldl _ (fun s d => ?_) _ s
    split
    · exact .refl s
    · split
      · exact ⟨.of_cores rfl, rfl, rfl, rfl⟩
      · exact .modDie _ _ _

theorem pinLines_onlyReads (s : State) (pte : DWord) (pa n : Nat) : OnlyReads s (s.pinLines pte pa n) := by
  unfold State.pinLines
  split
  · exact .refl s
  · exact .foldl _ (fun s _ => pinNear_onlyReads s _ _) _ s

theorem tlbDrop_onlyReads (s : State) (core c page : Nat) : OnlyReads s (s.tlbDrop core c page) :=
  (OnlyReads.modCore s core (f := fun k => { k with tlb := k.tlb.filter fun x => !x.covers c page }) fun _ => rfl).trans
    (.modDie _ _ _)

theorem tlbInstall_onlyReads (s : State) (core : Nat) (e : TlbEnt) : OnlyReads s (s.tlbInstall core e) :=
  (OnlyReads.modCore s core (f := fun k => { k with tlb := tlbAdd Config.coreTlb k.tlb e }) fun _ => rfl).trans
    (.modDie _ _ _)

theorem tlbKeep_onlyReads (s : State) (core c : Nat) (va : DWord) (wr rd : Bool) :
    OnlyReads s (s.tlbKeep core c va wr rd) := by
  have hdrop := tlbDrop_onlyReads s core c (pageOf va)
  unfold State.tlbKeep
  split
  · exact .refl s
  · simp only
    split
    · split
      · exact hdrop.trans (tlbInstall_onlyReads _ _ _)
      · exact hdrop
    · exact hdrop

theorem coreKeep_onlyReads (s : State) (core c : Nat) (va : DWord) (n : Nat) : OnlyReads s (s.coreKeep core c va n) := by
  have htlb := tlbKeep_onlyReads s core c va false true
  unfold State.coreKeep Xlat.pins
  split
  · exact htlb.trans (pinLines_onlyReads _ _ _ _)
  · exact htlb

theorem coreKeepSpan_onlyReads (s : State) (core c va n : Nat) : OnlyReads s (s.coreKeepSpan core c va n) := by
  refine .foldl _ (fun s i => ?_) _ s
  simp only
  split
  · exact coreKeep_onlyReads _ _ _ _ _
  · exact .refl s

/-! ### A good image -/

/-- A copy whose references are not being evicted stays where references are dropped. -/
theorem mem_dropRefs {l : List OvlCopy} {k : OvlCopy} {id : Nat} {p : OvlRef → Bool} (hk : k ∈ l) (hrefs : k.refs ≠ [])
    (hp : ∀ r ∈ k.refs, p r = false) : k ∈ dropRefs l id p := by
  have hkept : (if k.id == id then { k with refs := k.refs.filter fun r => !p r } else k) = k := by
    have hall : (k.refs.filter fun r => !p r) = k.refs := List.filter_eq_self.2 fun r hr => by simp [hp r hr]
    rw [hall, ite_self]
  refine List.mem_filter.2 ⟨List.mem_map.2 ⟨k, hk, hkept⟩, ?_⟩
  simpa using hrefs

/-- Evictions that are due leave a copy that no context evicts, and memory. -/
theorem settle_keepsCopy {s : State} {core : Nat} {k : OvlCopy} (hcore : core < 160) (hk : k ∈ (s.core core).copies)
    (hrefs : k.refs ≠ []) (hev : ∀ r ∈ k.refs, r.evicting = false) :
    k ∈ ((s.settle core).core core).copies ∧ (s.settle core).mem = s.mem := by
  unfold State.settle
  generalize (s.core core).copies = l
  induction l generalizing s with
  | nil => exact ⟨hk, rfl⟩
  | cons x l ih =>
    rw [List.foldl_cons]
    split
    · exact ih hk
    · obtain ⟨hmem, hkeep⟩ := ih (s := s.modCore core fun c =>
        { c with copies := dropRefs c.copies x.id fun r => r.evicting && s.unused core x r }) (by
          rw [core_modCore_same _ _ hcore]
          exact mem_dropRefs hk hrefs fun r hr => by simp [hev r hr])
      exact ⟨hmem, hkeep⟩

/-- A copy of a core, changed, is among the copies. -/
theorem mem_modCopy {s : State} {core : Nat} {k : OvlCopy} {f : OvlCopy → OvlCopy} (hcore : core < 160)
    (hk : k ∈ (s.core core).copies) : f k ∈ ((s.modCopy core k.id f).core core).copies := by
  rw [State.modCopy, core_modCore_same _ _ hcore]
  exact List.mem_map.2 ⟨k, hk, by simp⟩

/-- Without a request that waited for the load, a copy that no context evicts stays. -/
theorem endRequests_keepsCopy {s : State} {core : Nat} {k : OvlCopy} {r : OvlRef} (hcore : core < 160)
    (hk : k ∈ (s.core core).copies) (hrefs : k.refs = [r]) (hend : r.atEnd = false) (hev : r.evicting = false) :
    k ∈ ((s.endRequests core k.id).core core).copies ∧ (s.endRequests core k.id).mem = s.mem := by
  have hsame : { k with refs := k.refs.map fun r =>
      if r.atEnd then { r with atEnd := false, evicting := s.pcComing core r.ctx r.ovl == 0 } else r } = k := by
    rw [hrefs, List.map_singleton, if_neg (by simp [hend]), ← hrefs]
  have hmem := mem_modCopy (f := fun k => { k with refs := k.refs.map fun r =>
    if r.atEnd then { r with atEnd := false, evicting := s.pcComing core r.ctx r.ovl == 0 } else r }) hcore hk
  rw [hsame] at hmem
  exact settle_keepsCopy hcore hmem (by simp [hrefs]) (by simpa [hrefs] using hev)

/-- The end of a load concerns no thread of a core without a block of the context. -/
theorem endLoadRef_of_none {s : State} {core : Nat} {r : OvlRef} (h : ∀ b ∈ s.blocks, b.core = core → b.ctx ≠ r.ctx)
    (k : Option OvlCopy) (c : Cause) : s.endLoadRef core r k c = s := by
  have hnone : s.blocks.filter (fun b => b.core == core && b.ctx == r.ctx) = [] :=
    List.filter_eq_nil_iff.2 fun b hb hboth => by
      simp only [Bool.and_eq_true, beq_iff_eq] at hboth
      exact h b hb hboth.1 hboth.2
  rw [State.endLoadRef, hnone, List.foldl_nil]

/-- A copy with the words that its load has read. -/
def OvlCopy.loaded (k : OvlCopy) (ws : List DWord) : OvlCopy :=
  { k with loading := false, words := ws, bad := [], reload := false }

theorem loaded_keepsCopy {s : State} {core : Nat} {k : OvlCopy} {r : OvlRef} (ws : List DWord) (hcore : core < 160)
    (hk : k ∈ (s.core core).copies) (hrefs : k.refs = [r]) (hend : r.atEnd = false) (hev : r.evicting = false) :
    let t := ((s.modCopy core k.id fun k => k.loaded ws).endLoads core k.id 0 k.mask).endRequests core k.id
    k.loaded ws ∈ (t.core core).copies ∧ t.mem = s.mem :=
  endRequests_keepsCopy (s := (s.modCopy core k.id fun k => k.loaded ws).endLoads core k.id 0 k.mask) (k := k.loaded ws)
    hcore (mem_modCopy (f := fun k => k.loaded ws) hcore hk) hrefs hend hev

/-- The end of a load with a good image: the copy is resident with its words. -/
theorem overlayLoad_resident {s : State} {core : Nat} {k : OvlCopy} {r : OvlRef} {ws : List DWord} (hcore : core < 160)
    (hfind : (s.core core).copies.find? (fun x => x.id == k.id && (x.loading || x.reload)) = some k) (hrefs : k.refs = [r])
    (hev : r.evicting = false) (hend : r.atEnd = false) (hopen : s.imageOpen r.ctx k = true)
    (hread : s.readImage core r.ctx k = .ok ws) (hnone : ∀ b ∈ s.blocks, b.core = core → b.ctx ≠ r.ctx) :
    ∃ t, exec (.overlayLoadComplete core k.id) s = .next t ∧ k.loaded ws ∈ (t.core core).copies ∧ t.mem = s.mem := by
  obtain ⟨hcopies, hmem, hblocks, -⟩ := coreKeepSpan_onlyReads s core r.ctx k.addr (k.nslots * 256)
  have hk : k ∈ ((s.coreKeepSpan core r.ctx k.addr (k.nslots * 256)).core core).copies :=
    hcopies core ▸ List.mem_of_find?_eq_some hfind
  have hrun : exec (.overlayLoadComplete core k.id) s = .next ((((s.coreKeepSpan core r.ctx k.addr (k.nslots * 256)).modCopy
      core k.id fun k => k.loaded ws).endLoads core k.id 0 k.mask).endRequests core k.id) := by
    show execOverlayLoadComplete core k.id s = _
    simp only [execOverlayLoadComplete, hfind, hrefs, hopen, hread, Bool.not_true, Bool.false_eq_true, if_false,
      List.foldl_cons, List.foldl_nil]
    rw [endLoadRef_of_none (s := State.endLoads _ core k.id 0 k.mask)]
    · rfl
    · exact fun b hb => hnone b (hblocks ▸ hb)
  obtain ⟨hin, hsame⟩ := loaded_keepsCopy ws hcore hk hrefs hend hev
  exact ⟨_, hrun, hin, hsame.trans hmem⟩

/-! ### A load that fails -/

/-- The end of a load with a bad image: the copy is gone, and no other takes its name. -/
theorem overlayLoad_dropped {s : State} {core : Nat} {k : OvlCopy} {r : OvlRef} {rs : List OvlRef} {c : Cause}
    (hcore : core < 160)
    (hfind : (s.core core).copies.find? (fun x => x.id == k.id && (x.loading || x.reload)) = some k)
    (hrefs : k.refs = r :: rs) (hopen : s.imageOpen r.ctx k = true) (hread : s.readImage core r.ctx k = .error c)
    (hid : k.id < s.nextId) :
    ∃ t, exec (.overlayLoadComplete core k.id) s = .next t ∧ ∀ x ∈ (t.core core).copies, x.id ≠ k.id := by
  have hexec : exec (.overlayLoadComplete core k.id) s = execOverlayLoadComplete core k.id s := rfl
  simp only [hexec, execOverlayLoadComplete, hfind, hrefs, hopen, hread, Bool.not_true, Bool.false_eq_true, if_false]
  refine ⟨_, rfl, fun x hx => ?_⟩
  have hnames := (coreKeepSpan_onlyReads s core r.ctx k.addr (k.nslots * 256)).names
  revert hx
  generalize s.coreKeepSpan core r.ctx k.addr (k.nslots * 256) = z at hnames
  set gone := z.modCore core fun x => { x with copies := x.copies.filter (·.id != k.id) }
  generalize hlog : (if c == 0x13 then gone.logRecord r.ctx 0x13 (BitVec.ofNat 8 core) 1 0xFFFFFFFF 0 0xFFFF else gone) = y
  intro hx
  have hstay : CoresStay gone y := by
    rw [← hlog]
    split
    · exact logRecord_coresStay _ _ _ _ _ _ _ _ _
    · exact .refl gone
  have hends : CoresStay y (y.endLoads core k.id c 0) := ⟨rfl, le_rfl⟩
  have hall := (hstay.trans hends).namesOnce.trans
    (.foldl _ (fun s r => endLoadRef_namesOnce s core r none c) (r :: rs) _)
  rcases hall.copies core x hx with hnew | ⟨w, hw, hwid⟩
  · have hfresh : k.id < gone.nextId := hnames ▸ hid
    omega
  · rw [core_modCore_same _ _ hcore] at hw
    rw [← hwid]
    simpa using (List.mem_filter.1 hw).2

/-- Settles O42: the steps at the head of a queue, the K-block's arithmetic, the cooperative wait, and the end of a load. -/
theorem stepsAndLoads : Obligations.StepsAndLoads := by
  refine ⟨?zero, ?next, ?halts, ?count, ?int, ?float, ?fault, ?timeout, ?resident, ?dropped⟩
  case zero => exact fun s core m b p _ h hk hlast hp => step_of_zero h hk hlast hp
  case next =>
    intro s core m b _ h hstep hmore hgo
    refine (execMatrixStepComplete_of_heads h hstep).trans ?_
    rw [passStep_of_next (m := m.count _) hmore hgo]
    rfl
  case halts =>
    intro s core m b _ h hstep hmore hstop
    refine (execMatrixStepComplete_of_heads h hstep).trans ?_
    rw [passStep_of_halts (m := m.count _) hmore hstop]
    rfl
  case count =>
    intro m c n fresh
    rw [count_logs_single]
    exact ⟨fun h => if_pos h, fun h => if_neg h⟩
  case int => exact dotUpdate_int
  case float => exact fun fa fb f h acc a y p q hfa hfb hlen _ _ _ _ _ => dotUpdate_float hfa hfb hlen
  case fault =>
    intro s core m b c tile _ hhead halone hblk hf hc
    refine (execMatrixStepComplete_of_fault hhead halone hblk hf).trans ?_
    rw [logBad_of_ne hc]
  case timeout => exact fun s b w hb hw hfull halone hover => coopTimeout_of_over hb hw hfull halone hover
  case resident =>
    exact fun s core k r ws hcore hfind hrefs hev hend hopen hread hnone =>
      overlayLoad_resident hcore hfind hrefs hev hend hopen hread hnone
  case dropped =>
    exact fun s core k r rs c hcore hfind hrefs hopen hread hid =>
      overlayLoad_dropped hcore hfind hrefs hopen hread hid

end Sys2Proof.Machine
